-- ==== Sys2Proof/Word.lean ====
section
/-! DEFINITION. The word types of the engine and their plainest arithmetic.
Bit fields follow R4: bit 0 is the least significant bit, bytes are little-endian. -/

namespace Sys2Proof

/-- A byte of memory. -/
abbrev Byte := BitVec 8

/-- A CSR or a structure word of 64 bits. -/
abbrev Word64 := BitVec 64

/-- Bits `[lo + w - 1 : lo]` of a number, as a number. -/
def bits (x lo w : Nat) : Nat := (x >>> lo) % 2 ^ w

/-- Bit `i` of a number. -/
def bit (x i : Nat) : Bool := (x >>> i) % 2 == 1

/-- `x` with bits `[lo + w - 1 : lo]` replaced by the low `w` bits of `v`. -/
def setBits (x lo w v : Nat) : Nat :=
  x - (bits x lo w) * 2 ^ lo + (v % 2 ^ w) * 2 ^ lo

/-- One where the flag is set. -/
def b2n (b : Bool) : Nat := if b then 1 else 0

/-- Ceiling of the exact quotient (R7); 0 for a divisor of 0. -/
def ceilDiv (a b : Nat) : Nat := if b = 0 then 0 else (a + b - 1) / b

/-- `x` rounded up to a multiple of `k`. -/
def roundUp (x k : Nat) : Nat := ceilDiv x k * k

/-- The signed value of the low `w` bits of `x`. -/
def sext (x w : Nat) : Int :=
  if bit x (w - 1) then (Int.ofNat (x % 2 ^ w)) - Int.ofNat (2 ^ w) else Int.ofNat (x % 2 ^ w)

/-- A signed value as `w` bits of two's complement. -/
def toTwos (x : Int) (w : Nat) : Nat := (x % (Int.ofNat (2 ^ w))).toNat

/-- The little-endian number that a list of bytes spells (R4). -/
def leNat : List Byte → Nat
  | [] => 0
  | b :: bs => b.toNat + 256 * leNat bs

/-- The `n` little-endian bytes of a number (R4). -/
def leBytes : Nat → Nat → List Byte
  | 0, _ => []
  | n + 1, x => BitVec.ofNat 8 x :: leBytes n (x / 256)

/-- Element `i` of a list of numbers, 0 beyond its end. -/
def nth (l : List Nat) (i : Nat) : Nat := (l[i]?).getD 0

/-- The sum of a list of numbers. -/
def sumNat (l : List Nat) : Nat := l.foldl (· + ·) 0

end Sys2Proof
end

