-- ==== Sys2Proof/Types.lean ====
section
/-! DEFINITION. The types of the operands that commands and events carry. -/

namespace Sys2Proof

/-- The outcome of the SECDED check of the one protected record that a step reads (R207, R225).
Which words fail is the environment's; the code words themselves are not in the spec. -/
inductive Ecc where
  /-- no error -/
  | none
  /-- a single-bit error, corrected -/
  | corrected
  /-- a double-bit error; the flag says whether the word that names the use (word 0 of an item, BENTRY of a
  ticket) was readable (R207, R225) -/
  | double (readable : Bool)
  deriving DecidableEq, Repr, Inhabited

/-- A double-bit error in the SRAM words that an instruction reads (R131, R191). -/
structure Strike where
  /-- writes that the instruction makes before it reads the word -/
  after : Nat := 0
  /-- the active core whose SRAM holds the word, by its place among the instruction's cores -/
  core : Nat := 0
  /-- the word lies in a weight slot, not in the working region -/
  slot : Bool := false
  deriving DecidableEq, Repr, Inhabited

/-- The outcome of the SECDED checks of the SRAM words that an instruction reads (R131, R191): single-bit errors
corrected, and the double-bit error that it meets, if any. Which words fail is the environment's. -/
structure SramEcc where
  corrected : Nat := 0
  double : Option Strike := none
  deriving DecidableEq, Repr, Inhabited

/-- The outcome of the residue checks of the ring additions that a message causes (R286): how many additions mismatch once
and are repaired, and whether then one mismatches again, a residue fault. Which additions do is the environment's. -/
structure Residue where
  repaired : Nat := 0
  fault : Bool := false
  deriving DecidableEq, Repr, Inhabited

/-- The straps sampled at the rise of DX_RST_N (Table 02.5, R23). -/
structure Straps where
  /-- DX_MPLVL -/
  mplvl : BitVec 2
  /-- DX_MPEN -/
  mpen : BitVec 16
  /-- DX_BOOTSRC -/
  bootsrc : Bool
  /-- DX_BOOTWIN, bits [41:19] of the boot window -/
  bootwin : BitVec 23
  /-- DX_JTAG_MFR -/
  jtagMfr : BitVec 11
  /-- DX_TESTMODE -/
  testmode : Bool
  deriving DecidableEq, Repr, Inhabited

/-- A flit as it stands on the link (R303): control word, header, payload bytes, CRC-32C. -/
structure Flit where
  /-- Table 12.2 -/
  ctl : BitVec 64
  /-- Table 12.3 -/
  hdr : BitVec 160
  /-- bytes 28 to 379 -/
  payload : List Byte
  /-- bytes 380 to 383 -/
  crc : BitVec 32
  deriving DecidableEq, Repr, Inhabited

/-- The identity word exchanged in stage IDENT (Table 12.1). -/
structure Ident where
  /-- highest Skeles version offered -/
  ver : Nat
  /-- the neighbour's chip ID -/
  chip : Nat
  /-- the neighbour's DX, DY, DZ -/
  dims : Nat × Nat × Nat
  deriving DecidableEq, Repr, Inhabited

/-- Cells of the WBR on outputs of CP, MP, DP, FP, EV and MG (R40, Tables 02.6, 02.8, 02.10 to 02.13): 66 of CP, 1,249 of
each MP, 525 of each DP, 2,081 of each FP, 64 of EV, 5 of MG. -/
abbrev wbrOuts : Nat := 66 + 16 * 1249 + 4 * 525 + 6 * 2081 + 64 + 5
/-- Cells on inputs, clocks left out: 610 of CP, 1,050 of each MP, 584 of each DP, 2,113 of each FP, 16 of EV, 2 of MG. -/
abbrev wbrIns : Nat := 610 + 16 * 1050 + 4 * 584 + 6 * 2113 + 16 + 2

end Sys2Proof
end

