-- ==== Sys2Proof/Syntax.lean ====
section
/-! DEFINITION. The commands and events of the engine: one constructor per row of spec/opcode_table.json.
An instruction row names an in-flight command by its queue `q` and its TAG `tag` (R82); `ecc` is the outcome of the
SECDED checks of what the step reads; `priv` is the privilege of a CSR access (Table 02.6). -/

namespace Sys2Proof

/-- The commands and events that the engine takes. -/
inductive Instr where
  /-- POWER_OK_FALL (R41): DX_PWROK going low starts a cold reset; outputs take their reset values and all engine state is lost. -/
  | powerOkFall
  /-- COLD_RESET_ASSERT (R41): DX_RST_N going low starts a cold reset and holds every READY output at 0. -/
  | coldResetAssert
  /-- COLD_RESET_RELEASE (R41): The rise of DX_RST_N samples the straps and starts cold bring-up at stage PLL_LOCK. -/
  | coldResetRelease (straps : Straps)
  /-- PLL_LOCK (R41): PLLs A, Y and G lock, ending stage 1 of bring-up, or the engine enters STRAP_ERROR on bad straps. -/
  | pllLock
  /-- FUSE_LOAD (R390): Fuses are copied into shadow registers and their CRC is checked, failing the boot with code 0x05 on mismatch. -/
  | fuseLoad
  /-- SRAM_INIT (R41): All on-chip SRAM is written with zeros and valid check bits. -/
  | sramInit
  /-- BOOT_FETCH (R41): The boot ROM finishes reading the image from the boot window, or from staging after an MG commit. -/
  | bootFetch
  /-- BOOT_VERIFY (R380): The image's magic, length, key digest and ECDSA signature are checked in order. -/
  | bootVerify
  /-- FW_INIT (R247): The firmware sets up sensors and counters, checks the function-table CRC and reaches READY. -/
  | fwInit
  /-- WARM_RESET_PIN (R44): A fall of DX_WRST_N in READY starts a warm reset, or merges into one in progress. -/
  | warmResetPin
  /-- GLB_RESET_WARM (R44): A write of 1 to GLB_RESET.WARM starts a warm reset. -/
  | glbResetWarm (priv : Bool)
  /-- GLB_RESET_REBOOT (R47): A write of 1 to GLB_RESET.REBOOT starts a cold reset from stage 1 and keeps the sampled straps. -/
  | glbResetReboot (warm priv : Bool)
  /-- WARM_DRAIN_END (R45): When the outstanding MP responses have arrived, or after 100 µs, the drain ends and the islands are reset. -/
  | warmDrainEnd
  /-- WARM_INIT_END (R44): SRAM re-initialisation and firmware re-initialisation finish, and the engine returns to READY. -/
  | warmInitEnd
  /-- DOORBELL_LINE (R79): A doorbell line updates the submission tails or completion heads of up to eight queues after the privilege and range checks. -/
  | doorbellLine (line : Nat) (lv : BitVec 8) (data : BitVec 512) (priv : Bool)
  /-- CSR_WRITE (R26): A CSR write to a register with no behaviour of its own updates the mirror and reaches its unit, or is refused under R27. -/
  | csrWrite (idx : Nat) (v : Word64) (priv : Bool) (hw : Word64)
  /-- CLEARING_READ (R6): A read of an RC field returns its value and resets the field, keeping an event counted in the same cycle. -/
  | clearingRead (idx : Nat) (priv : Bool) (same : Nat)
  /-- GLB_IFACE_SEL_WRITE (R78): A write of LEVEL selects the command encoding level unless LOCKED is 1. -/
  | glbIfaceSelWrite (v : Word64) (priv : Bool)
  /-- QUEUE_ENABLE (R78): A write that sets CQ_CTL.EN enables admission on the queue and sets GLB_IFACE_SEL.LOCKED. -/
  | queueEnable (q : Nat) (v : Word64) (priv : Bool)
  /-- QUEUE_DISABLE (R85): A write of 0 to CQ_CTL.EN stops admission while in-flight commands continue. -/
  | queueDisable (q : Nat) (v : Word64) (priv : Bool)
  /-- QUEUE_ABORT (R84): A write of 1 to CQ_CTL.ABORT clears EN, cancels the queue's unissued commands and discards the prefetch buffer. -/
  | queueAbort (q : Nat) (v : Word64) (priv : Bool)
  /-- CQ_SBASE_WRITE (R85): An accepted write to CQ_SBASE sets the queue's ring indices and CQ_EVIDX to 0. -/
  | cqSbaseWrite (q : Nat) (v : Word64) (priv : Bool)
  /-- CQ_FLAGSET_SET (R92): A CQ_FLAGSET write with CLEAR = 0 sets an absolute flag and releases the waits on it. -/
  | cqFlagsetSet (flag : BitVec 10) (priv : Bool)
  /-- CQ_FLAGSET_CLEAR (R92): A CQ_FLAGSET write with CLEAR = 1 clears an absolute flag. -/
  | cqFlagsetClear (flag : BitVec 10) (priv : Bool)
  /-- CTX_GRANT (R105): A write to CTX_GRANT records the job allowed to open a context at its next CTXOPEN. -/
  | ctxGrant (v : Word64) (priv : Bool)
  /-- ROTA_ENTRY_WRITE (R110): A write to a rota entry fills a shadow bank, or is ignored and sets ACTWR when it targets an active bank, a pending bank or an unused instance. -/
  | rotaEntryWrite (i b j : Nat) (v : Word64) (priv : Bool)
  /-- ROTA_COMMIT (R111): A write to ROTA_COMMIT requests bank switches, refusing an MP or FP table that has no 0x38 slot. -/
  | rotaCommit (v : Word64) (priv : Bool)
  /-- ROTA_SWITCH (R110): A pending instance switches to its shadow bank when its slot pointer next returns to 0. -/
  | rotaSwitch (i : Nat)
  /-- SHED_INIT (R251): A write of 1 to SHD_CTL.INIT starts initialisation of a Shed, is ignored when USED is not 0, or sets PEND while BUSY. -/
  | shedInit (shed : Nat) (v : Word64) (priv : Bool)
  /-- SHED_INIT_DONE (R251): The free-ring and owner-array writes finish, BUSY clears and any pending initialisation starts. -/
  | shedInitDone (shed : Nat)
  /-- WQ_RESET (R208): A write of 1 to a bit of TKT_WQ_RESET.REQ resets a work queue, or sets PEND while it is BUSY. -/
  | wqReset (v : Word64) (priv : Bool)
  /-- WQ_RESET_DONE (R208): A queue reset finishes, the writer and reader resume, and any pending reset starts. -/
  | wqResetDone (w : Nat)
  /-- GROUP_ENABLE (R270): A change of COL_GRP.EN from 0 to 1 resets SEQ, clears LOST and computes MIDX, NOTIN and NOSIG. -/
  | groupEnable (g : Nat) (v : Word64) (priv : Bool)
  /-- GROUP_DISABLE (R270): A write of EN = 0 disables a group, deferred until its executing collective completes. -/
  | groupDisable (g : Nat) (v : Word64) (priv : Bool)
  /-- FAB_ID_WRITE (R295): A write to FAB_ID sets the coordinates and domain sizes, is ignored while a port is not DOWN, and re-checks group sizes. -/
  | fabIdWrite (v : Word64) (priv : Bool)
  /-- ROUTE_SNAPSHOT (R312): A write of 1 to FAB_ROUTE.SNAP records which ports are UP, for the routing view used in STRICT mode. -/
  | routeSnapshot (priv : Bool)
  /-- OWNER_TABLE_GEN_CHANGE (R323): A change of FAB_OWN_CTL.GEN invalidates the whole owner-table cache. -/
  | ownerTableGenChange (v : Word64) (priv : Bool)
  /-- PORT_ENABLE (R325): A write of 1 to FAB_PCTL.EN starts training, or sets PEND while the port is in DRAIN. -/
  | portEnable (n : Nat) (priv : Bool)
  /-- PORT_DISABLE (R324): A write of 0 to FAB_PCTL.EN moves the port to DRAIN, or to DOWN at once while it is training. -/
  | portDisable (n : Nat) (priv : Bool)
  /-- PORT_DRAIN_END (R324): After the draining messages end, or after 20 µs, the port sends a link-down flit and goes DOWN. -/
  | portDrainEnd (n : Nat)
  /-- PMC_XSEL_WRITE (R368): A write to PMC_XSEL selects the watched context and clears every expert counter. -/
  | pmcXselWrite (v : Word64) (priv : Bool)
  /-- PMC_CHAIN_READ (R363): A read of the even counter of a chained pair latches the odd counter's count. -/
  | pmcChainRead (i : Nat) (priv : Bool)
  /-- DET_TDC_COUNT_READ (R354): A read of DET_TDC_COUNT returns and clears the count and clears DET_TDC_FIRST. -/
  | detTdcCountRead (priv : Bool) (same : Nat)
  /-- BW_WINDOW_END (R365): The end of a bandwidth window writes each port's byte counts and increments SEQ. -/
  | bwWindowEnd
  /-- FW_UPDATE_LOAD (R383): A write of 1 to MGT_FWUPD.LOAD reads the update image into staging, or is ignored and sets REF while busy. -/
  | fwUpdateLoad (priv : Bool)
  /-- FW_UPDATE_LOAD_DONE (R383): The image read completes and verification starts, or an MP error sets FAILED with code 0x03. -/
  | fwUpdateLoadDone
  /-- FW_UPDATE_VERIFY_DONE (R383): Verification of the staged image ends in STAGED, or in FAILED with the code of R380. -/
  | fwUpdateVerifyDone
  /-- FW_UPDATE_GO (R384): A write of 1 to MGT_FWUPD.GO while STAGED flushes the log and starts the update reset. -/
  | fwUpdateGo (priv : Bool)
  /-- ACLK_STEP_UP (R49): After each 1,024 delivered ACLK cycles, CUR rises by one eighth toward its target. -/
  | aclkStepUp
  /-- COMMAND_ADMIT (R82): The front end admits the command at SHEAD of an enabled queue into the in-flight set once window, tag and slot conditions hold. -/
  | commandAdmit
  /-- COMPLETION_RECORD_WRITE (R94): When a unit reports a command finished, the front end writes its completion record, holding it while the ring is full. -/
  | completionRecordWrite (q : Nat)
  /-- MP_READ_BEAT (R29): A read data beat arrives on an MP port, possibly with poison or a decode error. -/
  | mpReadBeat (port tag : Nat) (poison : BitVec 2) (err last : Bool)
  /-- MP_WRITE_ACK (R30): A write acknowledgement arrives on an MP port, possibly with a decode error. -/
  | mpWriteAck (port tag : Nat) (err : Bool)
  /-- NOP (R76): NOP completes with RESULT 0. -/
  | nop (q tag : Nat)
  /-- WAIT_CONSUME (R92): WAIT with SUBOP 0 waits until its flag is 1, then clears it. -/
  | waitConsume (q tag : Nat)
  /-- WAIT_OBSERVE (R92): WAIT with SUBOP 1 waits until its flag is 1 and leaves it set. -/
  | waitObserve (q tag : Nat)
  /-- SIGNAL_SET (R91): SIGNAL with SUBOP 0 sets a flag and returns its previous value. -/
  | signalSet (q tag : Nat)
  /-- SIGNAL_CLEAR (R91): SIGNAL with SUBOP 1 clears a flag and returns its previous value. -/
  | signalClear (q tag : Nat)
  /-- CTXOPEN (R101): CTXOPEN moves the context to OPENING, reads its parameter block, zeroes its extended state and opens it. -/
  | ctxopen (q tag : Nat)
  /-- CTXCLOSE (R102): CTXCLOSE moves the context to DRAINING and ends its waiting and unissued commands. -/
  | ctxclose (q tag : Nat)
  /-- CONTEXT_DRAIN_END (R102): Once no command of the context executes, its resources are released, its state is written back and it becomes CLOSED. -/
  | contextDrainEnd (c : Nat)
  /-- CTXLOAD_LOAD (R124): CTXLOAD LOAD records the next weight source and copies it into a slot, or marks it streamed. -/
  | ctxloadLoad (q tag : Nat)
  /-- CTXLOAD_SWAP (R123): CTXLOAD SWAP makes the next weight source current. -/
  | ctxloadSwap (q tag : Nat)
  /-- CTXLOAD_RELEASE (R123): CTXLOAD RELEASE clears both weight sources and frees the context's slots. -/
  | ctxloadRelease (q tag : Nat)
  /-- SCORE (R118): SCORE computes logits on the arrays, selects top-k, writes records and statistics, and opens a batch use with its tickets. -/
  | score (q tag : Nat) (ecc : SramEcc)
  /-- SCOREV (R122): SCOREV computes the same logits on the matrix-vector path and selects as SCORE does. -/
  | scorev (q tag : Nat) (ecc : SramEcc)
  /-- HASHSEL (R148): HASHSEL selects experts by mix64 of the seed and global token index, with gates of 1/k. -/
  | hashsel (q tag : Nat)
  /-- RGRAD (R127): RGRAD recomputes logits, forms dlogit and produces the router weight gradient and the input-gradient contribution. -/
  | rgrad (q tag : Nat) (ecc : SramEcc)
  /-- TICKET_GRANT (R198): A waiting ticket reservation is granted once the ring shows enough free numbers. -/
  | ticketGrant
  /-- COUNT (R151): COUNT assigns replica slots, builds the histogram and adds to the step counters. -/
  | count (q tag : Nat)
  /-- PLAN (R155): PLAN applies the capacity rule and writes positions, receive buffers, origin entries and shape records. -/
  | plan (q tag : Nat) (ecc : Ecc)
  /-- SORT (R178): SORT writes one WQ_SEND item per kept assignment in destination order. -/
  | sort (q tag : Nat) (ecc : SramEcc)
  /-- WQ_REFILL (R205): A queue head refills from the spill ring or the tail in arrival order. -/
  | wqRefill (w cls : Nat) (ecc : Ecc)
  /-- GATHER (R182): GATHER writes source rows named by an index list to consecutive destination rows. -/
  | gather (q tag : Nat) (ecc : SramEcc)
  /-- SCATTER (R183): SCATTER writes consecutive source rows to destination rows named by an index list. -/
  | scatter (q tag : Nat) (ecc : SramEcc)
  /-- COPY (R185): COPY writes every in-bounds destination element from the source, tile by tile, converting as needed. -/
  | copy (q tag : Nat) (ecc : SramEcc)
  /-- XPOSE (R185): XPOSE is COPY with the two innermost dimensions swapped, done in place when R188 applies. -/
  | xpose (q tag : Nat) (ecc : SramEcc)
  /-- SEND_FORWARD (R209): A forward SEND allocates combine buffers and sends the kept token rows to their owners. -/
  | sendForward (q tag : Nat)
  /-- SEND_BACKWARD (R210): A backward SEND forms gate gradients and sends gate times dy rows once the forward COMBINE has completed. -/
  | sendBackward (q tag : Nat)
  /-- SEND_HOLD_RELEASE (R10): A SEND held in the Yard leaves its hold when PLAN of its use completes on the member. -/
  | sendHoldRelease (q tag : Nat)
  /-- SEND_ITEM (R209): The egress reads a WQ_SEND item and sends its converted row, with its dispatch header, to the owning member. -/
  | sendItem (item ticket : Ecc)
  /-- ROW_ARRIVAL (R211): The owner's write path matches an arriving row, writes it and its origin entry, and acknowledges it. -/
  | rowArrival (ecc : Ecc)
  /-- ROW_PLAN_TIMEOUT (R211): A row held for the owner's PLAN longer than the stall timeout is discarded and counted in TKT_NOPLAN. -/
  | rowPlanTimeout (cls : Nat)
  /-- DACK_RECEIVE (R200): An acknowledgement of a row or answer arrives; a row acknowledgement moves its ticket from KEPT to SENT. -/
  | dackReceive (ecc : Ecc)
  /-- RETURN (R213): RETURN reads origin entries and writes one WQ_RET item per valid received row. -/
  | ret (q tag : Nat)
  /-- RETURN_HOLD_RELEASE (R213): A held RETURN starts once a SEND of the use's current phase has completed and none executes. -/
  | returnHoldRelease (q tag : Nat)
  /-- RETURN_ITEM (R213): The egress reads a WQ_RET item and sends the answer row to the token's member. -/
  | returnItem (ecc : Ecc)
  /-- ANSWER_ARRIVAL (R215): The combine unit writes an arriving answer to its slot, marks its ticket ANSWERED and decrements the lead's PEND. -/
  | answerArrival (item ticket : Ecc)
  /-- COMBINE_FORWARD (R218): A forward COMBINE waits for all tokens, writes rows and applied gates and moves the use to its backward phase. -/
  | combineForward (q tag : Nat)
  /-- COMBINE_BACKWARD (R219): A backward COMBINE waits for all tokens and writes dX rows and gate gradients. -/
  | combineBackward (q tag : Nat)
  /-- CANCEL (R222): CANCEL ends the matching live use and stops its instructions with CANCELLED. -/
  | cancel (q tag : Nat)
  /-- USE_RELEASE (R194): After the use's writes are acknowledged, its tickets, buffers, origin entries, plan entry and batch entry are freed. -/
  | useRelease
  /-- STALL_TIMEOUT (R288): A stall timer reaches COL_STALL_TIMEOUT and the waiting collective, SEND, RETURN or COMBINE ends with STALLED. -/
  | stallTimeout (q tag : Nat)
  /-- ACT (R240): ACT applies pre-scale, bias, a special function and post-scale to each element. -/
  | act (q tag : Nat) (ecc : SramEcc)
  /-- NORM (R243): NORM applies layer or RMS normalisation per row and writes optional row statistics. -/
  | norm (q tag : Nat) (ecc : SramEcc)
  /-- SOFTMAX (R242): SOFTMAX computes softmax or log-softmax per row. -/
  | softmax (q tag : Nat) (ecc : SramEcc)
  /-- ALLOC (R256): ALLOC takes a buffer from the smallest fitting Shed within quota and returns its domain address. -/
  | alloc (q tag : Nat)
  /-- FREE (R263): FREE releases an ALLOC buffer whose owner word matches, or counts the request as foreign. -/
  | free (q tag : Nat)
  /-- SHED_WAIT_TIMEOUT (R261): A STRICT-mode allocation that waits beyond the stall timeout fails with SHED_EXHAUSTED, reason 0x2. -/
  | shedWaitTimeout (q tag : Nat)
  /-- SHED_CACHE_REFILL (R258): A Shed cache below 16 entries is refilled with up to 16 entries from the ring head. -/
  | shedCacheRefill (shed : Nat)
  /-- SHED_CACHE_WRITEBACK (R258): A Shed cache above 48 entries moves its 16 bottom entries to the ring tail. -/
  | shedCacheWriteback (shed : Nat)
  /-- ALLREDUCE (R277): ALLREDUCE reduces and redistributes data along the group's rings, chunk by chunk. -/
  | allreduce (q tag : Nat)
  /-- REDSCAT (R277): REDSCAT reduces data and leaves each member its own slice. -/
  | redscat (q tag : Nat)
  /-- ALLGATHER (R279): ALLGATHER copies every member's source to every member's destination. -/
  | allgather (q tag : Nat)
  /-- XSCAN (R280): XSCAN computes the LOWER and TOTAL count sums over the group. -/
  | xscan (q tag : Nat)
  /-- CAIRN (R293): CAIRN runs the signature round as its arrival phase, then member 0 sends a release marker. -/
  | cairn (q tag : Nat)
  /-- COLL_MESSAGE (R277): A COLL message arrives; its partial is combined with the own value and sent on, or written. -/
  | collMessage (res : Residue)
  /-- SIGNATURE_MESSAGE (R284): A signature message arrives in the signature round and is compared with the member's own. -/
  | signatureMessage
  /-- ABORT_NOTICE (R287): An abort notice arrives and the member aborts the collective and passes the notice on. -/
  | abortNotice
  /-- CAIRN_MARKER (R315): A CAIRN release marker arrives and starts the member's wait of H minus D, or releases at once when late. -/
  | cairnMarker (port g md : Nat)
  /-- CAIRN_RELEASE (R293): The release wait ends, the member sets its flag and completes CAIRN. -/
  | cairnRelease (g : Nat)
  /-- PHY_RDY_RISE (R35): FPn_PHY_RDY rises, island Fn leaves reset and training moves from PHYWAIT to LANE. -/
  | phyRdyRise (n : Nat)
  /-- PHY_RDY_FALL (R308): FPn_PHY_RDY falls and the link goes down with FAILCODE 0x09. -/
  | phyRdyFall (n : Nat)
  /-- LANE_REPORT (R297): The neighbour's lane report arrives in LANE and the active lanes and width are chosen. -/
  | laneReport (n : Nat) (rxok peer : BitVec 32)
  /-- IDENTITY_EXCHANGE (R299): The neighbour's identity word arrives and is checked for version, chip ID and domain sizes. -/
  | identityExchange (n : Nat) (ident : Ident)
  /-- CAL_COMPLETE (R302): The calibration echoes end, the one-way delay is recorded and the port goes UP. -/
  | calComplete (n echoes rtt : Nat)
  /-- TRAINING_TIMEOUT (R299): A training stage exceeds its limit and fails with its code. -/
  | trainingTimeout (n : Nat)
  /-- PORT_RETRAIN (R299): 100 ms after a training failure or link loss, a port with EN still 1 restarts training at PHYWAIT. -/
  | portRetrain (n : Nat)
  /-- FLIT_RECEIVE (R305): A flit arrives and its CRC, sequence number, acknowledgement and credits are processed, or a NAK is sent. -/
  | flitReceive (n : Nat) (f : Flit)
  /-- NAK_REPLAY (R305): A received NAK makes the sender replay from ACK + 1 ahead of the rota. -/
  | nakReplay (n ack : Nat)
  /-- LINK_LOSS_TIMEOUT (R305): Eight failures of one flit, or 1 µs with no good flit, declare the link lost with code 0x08. -/
  | linkLossTimeout (n : Nat)
  /-- LINK_DOWN_FLIT (R308): A LINK flit of subtype 1 arrives and takes the link down with code 0x0B. -/
  | linkDownFlit (n : Nat)
  /-- LANE_OK_FALL (R309): FPn_RXLANE_OK falls for a lane, which is retired to a spare or takes its group out of use. -/
  | laneOkFall (n lane : Nat)
  /-- LANE_ERROR_LIMIT (R309): A lane reaches ERRMAX error pulses within 1 ms and is retired. -/
  | laneErrorLimit (n lane : Nat)
  /-- LANE_RETIRE_FLIT (R309): A LINK flit of subtype 0 arrives and both ends retire the named lane. -/
  | laneRetireFlit (n lane : Nat)
  /-- MESSAGE_FORWARD (R310): A chip decides a message's next hop, taking an offset or reversal or answering UNREACH. -/
  | messageForward
  /-- DETOUR_TIMEOUT (R313): A detoured message that has waited 1 ms for a credit is discarded and UNREACH is sent. -/
  | detourTimeout
  /-- UNREACH_RECEIVE (R314): An UNREACH arrives, its original work ends by kind, and the destination is reported unreachable. -/
  | unreachReceive
  /-- DP_REQUEST (R34): The host presents a load, store, atomic or fence on a DP port, served locally or sent as a DPREQ. -/
  | dpRequest (port : Nat) (op : BitVec 3) (addr : BitVec 57) (sz : BitVec 2) (data : BitVec 512) (tag : BitVec 8)
  /-- DP_FENCE (R318): A DP fence holds later requests of its port until the earlier ones have responses, then answers OK. -/
  | dpFence (port : Nat)
  /-- DPREQ_RECEIVE (R319): At the target, the domain access service performs a DPREQ through its MP ports and returns a DPRSP. -/
  | dpreqReceive
  /-- DPRSP_RECEIVE (R34): A DPRSP arrives and its response is returned on the DP port. -/
  | dprspReceive
  /-- DP_TIMEOUT (R320): A DP or remote access without response within FAB_DP_TIMEOUT is answered UNREACHABLE. -/
  | dpTimeout (id : Nat)
  /-- PLACE_STEP (R333): PLACE STEP samples counters, exchanges records, switches due decisions and takes new ones. -/
  | placeStep (q tag : Nat)
  /-- PLACE_ENROL (R332): PLACE ENROL takes a placement slot and exchanges zero records. -/
  | placeEnrol (q tag : Nat)
  /-- PLACE_LEAVE (R332): PLACE LEAVE abandons pending decisions and releases the placement slot. -/
  | placeLeave (q tag : Nat)
  /-- MIGRATE_LIST (R343): MIGRATE LIST copies the regions that a list names as LIST messages. -/
  | migrateList (q tag : Nat)
  /-- MIGRATE_GSUM (R342): MIGRATE GSUM sums replica gradients down the replica chain and broadcasts the result. -/
  | migrateGsum (q tag : Nat)
  /-- MIGR_COPY_PIECE (R337): A MIGR COPY piece arrives, is written at its place in the run and acknowledged. -/
  | migrCopyPiece
  /-- MIGR_ACK (R338): A MIGR acknowledgement arrives at the source; the last one sets DONE for the decision. -/
  | migrAck
  /-- MIGR_GSUM_MESSAGE (R342): A GSUM_RED or GSUM_BC message arrives and is added into, or overwrites, the gradient block. -/
  | migrGsumMessage (res : Residue)
  /-- MIGR_STATE (R348): A STATE message arrives at a joining chip and loads the placed context's state and owner table. -/
  | migrState
  /-- MIGR_LIST_MESSAGE (R343): A LIST message arrives and is written at its destination address. -/
  | migrListMessage
  /-- MEMBERS (R348): MEMBERS re-forms a group, drains departing experts and installs the new box and map. -/
  | members (q tag : Nat)
  /-- PLACEMENT_TIMEOUT (R340): A placement wait beyond PLC_TIMEOUT ends PLACE, MIGRATE or MEMBERS with STALLED. -/
  | placementTimeout (q tag : Nat)
  /-- SAMPLE_ARM (R372): SAMPLE ARM loads a sampling configuration and arms selection. -/
  | sampleArm (q tag : Nat)
  /-- SAMPLE_DRAIN (R373): SAMPLE DRAIN moves buffered sample records to the drain area and writes its header. -/
  | sampleDrain (q tag : Nat)
  /-- SAMPLE_STOP (R372): SAMPLE STOP disarms sampling. -/
  | sampleStop (q tag : Nat)
  /-- SAMPLE_XDUMP (R372): SAMPLE XDUMP writes the per-expert counters of the watched context. -/
  | sampleXdump (q tag : Nat)
  /-- GO_LINE (R37): A go line held at 1 for two CCLK cycles after a rising edge sets its mapped flag. -/
  | goLine (line : Nat)
  /-- SENSOR_SAMPLE (R386): Every 10 µs all sensors are read with their trims and the alarm tests are applied. -/
  | sensorSample (temps volts : List Int)
  /-- THERMAL_STEP_DOWN (R387): Each 100 µs of a persisting alarm lowers the thermal target by one eighth, to no lower than 2. -/
  | thermalStepDown
  /-- THERMAL_STEP_UP (R387): Each 500 µs at or below CLEAR raises the thermal target by one eighth, to no higher than 8. -/
  | thermalStepUp
  /-- DROOP_ALARM (R389): A supply falling below DROOP raises the droop alarm and sets the droop target to 4. -/
  | droopAlarm (sensor : Nat)
  /-- DROOP_CLEAR (R389): After 20 µs at or above CLR the droop alarm clears and its target returns to 8. -/
  | droopClear
  /-- LOG_FLUSH (R393): The firmware copies a log entry to the host ring within 100 µs of its making. -/
  | logFlush
  /-- CE_WINDOW_CHECK (R396): Each 1 ms window of corrected errors above MGT_CE_CTL.LIMIT logs code 0x0201 and sets CERATE. -/
  | ceWindowCheck
  /-- WATCHDOG_EXPIRY (R397): A watchdog not fed for 10 ms, or a processor SRAM double-bit error, restarts the firmware after a digest check. -/
  | watchdogExpiry
  /-- READ_STATUS (R38): An MG READ_STATUS frame returns GLB_STATUS. -/
  | readStatus (n : Nat)
  /-- READ_LOG (R38): An MG READ_LOG frame returns log bytes from an offset. -/
  | readLog (off : BitVec 24) (n : Nat)
  /-- WRITE_IMAGE (R382): An MG WRITE_IMAGE frame writes image staging and discards a STAGED image. -/
  | writeImage (off : BitVec 24) (data : List Byte)
  /-- COMMIT_IMAGE (R382): An MG COMMIT_IMAGE frame starts boot verification or an update verification of staging. -/
  | commitImage (word : BitVec 24)
  /-- IDCODE (R39): The TAP IDCODE instruction shifts out the block's IDCODE. -/
  | idcode
  /-- BYPASS (R39): The TAP BYPASS instruction, or any unlisted code, selects the bypass register. -/
  | bypass (code : BitVec 8)
  /-- WS_EXTEST (R40): The IEEE 1500 WS_EXTEST instruction drives and captures the wrapper boundary. -/
  | wsExtest (drive : List Bool)
  /-- WS_INTEST_SCAN (R40): WS_INTEST_SCAN scans internal state and leaves the engine without service until a cold reset. -/
  | wsIntestScan
  /-- WS_MBIST (R40): WS_MBIST runs memory self-test over all SRAM and ends service until a cold reset. -/
  | wsMbist
  /-- WS_BYPASS (R40): WS_BYPASS, or any WIR value while DX_TESTMODE is 0, selects the wrapper bypass. -/
  | wsBypass
  /-- WARM_RESET_RELEASE (R44): When DX_WRST_N rises after the warm-reset drain has completed, the islands that warm reset clears are reset and WARM_INIT begins. -/
  | warmResetRelease
  /-- CLOCK_STOP (R21): DX_CCLK or DX_MCLK stops or leaves its range while DX_PWROK and DX_RST_N are both 1, leaving the engine indeterminate until the next cold reset. -/
  | clockStop
  /-- FIRMWARE_RESTART_DONE (R397): The boot ROM finishes the digest check after a watchdog restart and either starts the firmware again, releasing waiting PLACE, MIGRATE and MEMBERS and the thermal-target hold, or enters BOOT_FAILED. -/
  | firmwareRestartDone
  /-- TAP_RESET (R39): Assertion of TRST_N resets the IEEE 1149.1 TAP state machine and its instruction register. -/
  | tapReset
  /-- ILLEGAL_OPCODE (R76): A command whose OPC is not in Table 04.2 issues and completes with ILLEGAL_OPCODE, reason 0x01, with no other effect. -/
  | illegalOpcode (q tag : Nat)
  deriving DecidableEq, Repr

end Sys2Proof
end

