-- ==== Sys2Proof/Decode.lean ====
section
/-! DEFINITION. The command that a word spells by the opcode table's bits. The table of this hardware gives bits for no
row, so no word spells a command; the fields of the command words that the engine itself fetches are read in
Machine/Operands.lean (`decodeWord`, Tables 04.1 and 04.3). -/

namespace Sys2Proof

/-- No row of spec/opcode_table.json has bits. -/
def decodeTableWord (_nbits _w : Nat) : Option Instr := none

end Sys2Proof
end

