-- ==== Sys2Proof/Machine/Crypto.lean ====
section
/-! DEFINITION. The two algorithms that the verification of a firmware image names (R380): SHA-384 of FIPS 180-4 and the
ECDSA verification of FIPS 186-5 over curve P-384. Their constants stand in those standards, not in the spec
(PRESUMED, log entry 33). -/

namespace Sys2Proof.Machine

/-! ## SHA-384 -/

/-- Round constants 0 to 15. -/
def shaK0 : List Nat := [
    0x428A2F98D728AE22, 0x7137449123EF65CD, 0xB5C0FBCFEC4D3B2F, 0xE9B5DBA58189DBBC,
    0x3956C25BF348B538, 0x59F111F1B605D019, 0x923F82A4AF194F9B, 0xAB1C5ED5DA6D8118,
    0xD807AA98A3030242, 0x12835B0145706FBE, 0x243185BE4EE4B28C, 0x550C7DC3D5FFB4E2,
    0x72BE5D74F27B896F, 0x80DEB1FE3B1696B1, 0x9BDC06A725C71235, 0xC19BF174CF692694]
/-- Round constants 16 to 31. -/
def shaK1 : List Nat := [
    0xE49B69C19EF14AD2, 0xEFBE4786384F25E3, 0x0FC19DC68B8CD5B5, 0x240CA1CC77AC9C65,
    0x2DE92C6F592B0275, 0x4A7484AA6EA6E483, 0x5CB0A9DCBD41FBD4, 0x76F988DA831153B5,
    0x983E5152EE66DFAB, 0xA831C66D2DB43210, 0xB00327C898FB213F, 0xBF597FC7BEEF0EE4,
    0xC6E00BF33DA88FC2, 0xD5A79147930AA725, 0x06CA6351E003826F, 0x142929670A0E6E70]
/-- Round constants 32 to 47. -/
def shaK2 : List Nat := [
    0x27B70A8546D22FFC, 0x2E1B21385C26C926, 0x4D2C6DFC5AC42AED, 0x53380D139D95B3DF,
    0x650A73548BAF63DE, 0x766A0ABB3C77B2A8, 0x81C2C92E47EDAEE6, 0x92722C851482353B,
    0xA2BFE8A14CF10364, 0xA81A664BBC423001, 0xC24B8B70D0F89791, 0xC76C51A30654BE30,
    0xD192E819D6EF5218, 0xD69906245565A910, 0xF40E35855771202A, 0x106AA07032BBD1B8]
/-- Round constants 48 to 63. -/
def shaK3 : List Nat := [
    0x19A4C116B8D2D0C8, 0x1E376C085141AB53, 0x2748774CDF8EEB99, 0x34B0BCB5E19B48A8,
    0x391C0CB3C5C95A63, 0x4ED8AA4AE3418ACB, 0x5B9CCA4F7763E373, 0x682E6FF3D6B2B8A3,
    0x748F82EE5DEFB2FC, 0x78A5636F43172F60, 0x84C87814A1F0AB72, 0x8CC702081A6439EC,
    0x90BEFFFA23631E28, 0xA4506CEBDE82BDE9, 0xBEF9A3F7B2C67915, 0xC67178F2E372532B]
/-- Round constants 64 to 79. -/
def shaK4 : List Nat := [
    0xCA273ECEEA26619C, 0xD186B8C721C0C207, 0xEADA7DD6CDE0EB1E, 0xF57D4F7FEE6ED178,
    0x06F067AA72176FBA, 0x0A637DC5A2C898A6, 0x113F9804BEF90DAE, 0x1B710B35131C471B,
    0x28DB77F523047D84, 0x32CAAB7B40C72493, 0x3C9EBE0A15C9BEBC, 0x431D67C49C100D4C,
    0x4CC5D4BECB3E42B6, 0x597F299CFC657E2A, 0x5FCB6FAB3AD6FAEC, 0x6C44198C4A475817]

/-- The 80 round constants. -/
def shaK : List Nat := shaK0 ++ shaK1 ++ shaK2 ++ shaK3 ++ shaK4

/-- The initial hash value. -/
def shaInit : List Word64 := [
    0xCBBB9D5DC1059ED8, 0x629A292A367CD507, 0x9159015A3070DD17, 0x152FECD8F70E5939,
    0x67332667FFC00B31, 0x8EB44A8768581511, 0xDB0C2E0D64F98FA7, 0x47B5481DBEFA4FA4]

/-- The big-endian number that a list of bytes spells. -/
def beNat (l : List Byte) : Nat := l.foldl (fun a b => 256 * a + b.toNat) 0

/-- The message with its padding: a 1 bit, zeros, and the bit length in 16 bytes, up to a multiple of 128 bytes. -/
def shaPad (l : List Byte) : List Byte :=
  let z := (128 - (l.length + 17) % 128) % 128
  l ++ [0x80#8] ++ List.replicate z 0#8 ++ (leBytes 16 (8 * l.length)).reverse

/-- A list cut into pieces of `n` elements, `k` of them. -/
def cutList {α : Type} (n : Nat) : Nat → List α → List (List α)
  | 0, _ => []
  | k + 1, l => l.take n :: cutList n k (l.drop n)

/-- The next `k` words of the message schedule; the list holds the words so far, latest first. -/
def shaSchedule : Nat → List Word64 → List Word64
  | 0, w => w
  | k + 1, w =>
    let at_ := fun (i : Nat) => (w[i]?).getD 0#64
    let s0 := (at_ 14).rotateRight 1 ^^^ (at_ 14).rotateRight 8 ^^^ (at_ 14) >>> 7
    let s1 := (at_ 1).rotateRight 19 ^^^ (at_ 1).rotateRight 61 ^^^ (at_ 1) >>> 6
    shaSchedule k ((s1 + at_ 6 + s0 + at_ 15) :: w)

/-- One round on the eight working variables. -/
def shaRound (v : List Word64) (kw : Nat × Word64) : List Word64 :=
  match v with
  | [a, b, c, d, e, f, g, h] =>
    let s1 := e.rotateRight 14 ^^^ e.rotateRight 18 ^^^ e.rotateRight 41
    let ch := (e &&& f) ^^^ (~~~e &&& g)
    let t1 := h + s1 + ch + BitVec.ofNat 64 kw.1 + kw.2
    let s0 := a.rotateRight 28 ^^^ a.rotateRight 34 ^^^ a.rotateRight 39
    let mj := (a &&& b) ^^^ (a &&& c) ^^^ (b &&& c)
    [t1 + s0 + mj, a, b, c, d + t1, e, f, g]
  | _ => v

/-- One block of 128 bytes. -/
def shaBlock (h : List Word64) (blk : List Byte) : List Word64 :=
  let w0 := (cutList 8 16 blk).map (fun l => BitVec.ofNat 64 (beNat l))
  let w := (shaSchedule 64 w0.reverse).reverse
  (h.zip ((shaK.zip w).foldl shaRound h)).map (fun p => p.1 + p.2)

/-- The SHA-384 digest of bytes, as the big-endian number of its 48 bytes. -/
def sha384 (l : List Byte) : Nat :=
  let m := shaPad l
  let h := (cutList 128 (m.length / 128) m).foldl shaBlock shaInit
  (h.take 6).foldl (fun a w => 2 ^ 64 * a + w.toNat) 0

/-! ## P-384 -/

/-- The field prime. -/
def ecP : Nat := 2 ^ 384 - 2 ^ 128 - 2 ^ 96 + 2 ^ 32 - 1
/-- The order of the base point. -/
def ecN : Nat := 0xFFFFFFFFFFFFFFFFFFFFFFFFFFFFFFFFFFFFFFFFFFFFFFFFC7634D81F4372DDF581A0DB248B0A77AECEC196ACCC52973
/-- The coefficient b. -/
def ecB : Nat := 0xB3312FA7E23EE7E4988E056BE3F82D19181D9C6EFE8141120314088F5013875AC656398D8A2ED19D2A85C8EDD3EC2AEF
/-- The base point. -/
def ecG : Nat × Nat := (
  0xAA87CA22BE8B05378EB1C71EF320AD746E1D3B628BA79B9859F741E082542A385502F25DBF55296C3A545E3872760AB7,
  0x3617DE4A96262C6F5D9E98BF9292DC29F8F41DBD289A147CE9DA3113B5F0B8C00A60B1CE1D7E819D7A431D7C90EA0E5F)

/-- `b ^ x` modulo `m`, for the low `k` bits of `x`. -/
def powMod (m : Nat) : Nat → Nat → Nat → Nat
  | 0, _, _ => 1 % m
  | k + 1, b, x =>
    let r := powMod m k (b * b % m) (x / 2)
    if x % 2 = 1 then r * b % m else r

/-- The inverse modulo a prime. -/
def invMod (m a : Nat) : Nat := powMod m 384 (a % m) (m - 2)

/-- The difference modulo the field prime. -/
def subP (a b : Nat) : Nat := (a + ecP - b % ecP) % ecP

/-- The double of a point in Jacobian coordinates: (X, Y, Z) stands for (X / Z^2, Y / Z^3), and Z = 0 for the point at
infinity. -/
def ecDouble (u : Nat × Nat × Nat) : Nat × Nat × Nat :=
  let (x, y, z) := u
  let d := z * z % ecP
  let g := y * y % ecP
  let b := x * g % ecP
  let a := 3 * subP x d * (x + d) % ecP
  let x3 := subP (a * a) (8 * b)
  (x3, subP (a * subP (4 * b) x3) (8 * g * g), 2 * y * z % ecP)

/-- The sum of two points in Jacobian coordinates. -/
def ecAdd (u v : Nat × Nat × Nat) : Nat × Nat × Nat :=
  let (x1, y1, z1) := u
  let (x2, y2, z2) := v
  if z1 = 0 then v
  else if z2 = 0 then u
  else
    let a := z1 * z1 % ecP
    let b := z2 * z2 % ecP
    let u1 := x1 * b % ecP
    let s1 := y1 * z2 * b % ecP
    let h := subP (x2 * a) u1
    let r := subP (y2 * z1 * a) s1
    if h = 0 then (if r = 0 then ecDouble u else (1, 1, 0))
    else
      let hh := h * h % ecP
      let hhh := h * hh % ecP
      let w := u1 * hh % ecP
      let x3 := subP (r * r) (hhh + 2 * w)
      (x3, subP (r * subP w x3) (s1 * hhh), z1 * z2 * h % ecP)

/-- The multiple of a point by the low `k` bits of `x`. -/
def ecMul : Nat → Nat → Nat × Nat × Nat → Nat × Nat × Nat
  | 0, _, _ => (1, 1, 0)
  | k + 1, x, q =>
    let r := ecMul k (x / 2) (ecDouble q)
    if x % 2 = 1 then ecAdd r q else r

/-- The point satisfies the curve equation. -/
def ecOn (q : Nat × Nat) : Bool :=
  q.1 < ecP && q.2 < ecP && (q.2 * q.2 + 3 * q.1) % ecP == (q.1 * q.1 * q.1 + ecB) % ecP

/-- ECDSA verification of the signature (r, s) over a digest, under the public point. -/
def ecdsaOk (q : Nat × Nat) (digest r s : Nat) : Bool :=
  let inRange := fun x => decide (0 < x ∧ x < ecN)
  if ecOn q && inRange r && inRange s then
    let w := invMod ecN s
    let (x, _, z) := ecAdd (ecMul 384 (digest * w % ecN) (ecG.1, ecG.2, 1)) (ecMul 384 (r * w % ecN) (q.1, q.2, 1))
    z != 0 && x * invMod ecP (z * z % ecP) % ecP % ecN == r
  else false

end Sys2Proof.Machine
end

