-- ==== Sys2Proof/Config.lean ====
section
/-! DEFINITION. What the spec leaves open and no proof may see: free values, as opaque constants.
Each is named in a row of notes/assumptions. -/

namespace Sys2Proof.Config

/-- A byte that the spec calls indeterminate (R33, R289, R349), by a running number (log entry 5). -/
opaque freeByte : Nat → BitVec 8

/-- A 64-bit value that the spec leaves open, by a running number (log entry 5). -/
opaque freeWord : Nat → BitVec 64

/-- Byte of another chip's memory as a remote read returns it (R171): running number and domain address
(log entry 6). -/
opaque remoteByte : Nat → Nat → BitVec 8

/-- Whether a remote element access whose first hop is usable is answered rather than returned as UNREACH or timed out
(R171, R314, R320): running number and domain address (log entry 6). -/
opaque remoteAnswered : Nat → Nat → Bool

/-- Whether a remote element access that is not answered has timed out, rather than come back as UNREACH (R314, R320):
running number and domain address (log entry 6). -/
opaque remoteLate : Nat → Nat → Bool

/-- The 128 function-table words of each primitive (R246): the coefficients that the manual does not list
(log entry 7). -/
opaque tableWord : Nat → Nat → BitVec 46

/-- The CRC-32C over the fuse block (R390), whose byte layout the manual does not give (log entry 8). The argument is
the block's fields as one list of numbers. -/
opaque fuseCrc : List Nat → BitVec 32

/-- The result that the wrapper data register shows after memory self-test (R40, log entry 9). -/
opaque mbistResult : Nat → BitVec 64

/-- The bytes of the resident firmware image that its SRAM has lost when the processor is reset, by a running number (R397,
log entry 153). -/
opaque imageUpset : Nat → List (Nat × BitVec 8)

/-- What WS_EXTEST captures on the engine's inputs, by a running number: the integrator drives them (log entry 144). -/
opaque wbrCapture : Nat → BitVec wbrIns

end Sys2Proof.Config
end

