-- ==== Sys2Proof/Machine/Sparse.lean ====
section
/-! DEFINITION. Sparse stores: sorted lists of (key, value) pairs that list no key at its default value.
Host memory, the CSR store, the ticket store and every large table of the engine are held this way. -/

namespace Sys2Proof

/-- The value at key `a`; the default of `a` where the store lists none. -/
def slook {α : Type} (d : Nat → α) : List (Nat × α) → Nat → α
  | [], a => d a
  | (k, v) :: r, a => if a = k then v else slook d r a

/-- The store with `v` at key `a`, in canonical form. -/
def sput {α : Type} [DecidableEq α] (d : Nat → α) : List (Nat × α) → Nat → α → List (Nat × α)
  | [], a, v => if v = d a then [] else [(a, v)]
  | (k, w) :: r, a, v =>
    if a < k then (if v = d a then (k, w) :: r else (a, v) :: (k, w) :: r)
    else if a = k then (if v = d a then r else (a, v) :: r)
    else (k, w) :: sput d r a v

/-- The canonical form: keys strictly rising, no entry at its default. -/
def swf {α : Type} [DecidableEq α] (d : Nat → α) : List (Nat × α) → Bool
  | [] => true
  | [(k, v)] => decide (v ≠ d k)
  | (k, v) :: (k2, v2) :: r => decide (v ≠ d k) && decide (k < k2) && swf d ((k2, v2) :: r)

end Sys2Proof
end

