-- ==== Sys2Proof/Machine/State.lean ====
section
/-! DEFINITION. The state of the engine: plain data, one component per unit, with the value of each field at reset
as its default. Registers of the CSR space are held by offset in `State.csr` (their stored fields) or computed from the
typed fields (their read-only fields) in Machine/Csr.lean. -/

namespace Sys2Proof.Machine

/-! ## Host memory -/

/-- What the host's memory system answers for a 64-byte granule (R32, R33): poison, a decode error on reads, a decode
error on writes. -/
structure Mark where
  /-- the granule is poisoned (R32) -/
  poison : Bool := false
  /-- a read of the granule returns MPn_RD_ERR (R32) -/
  rdErr : Bool := false
  /-- a write of the granule is acknowledged with MPn_WA_ERR (R33) -/
  wrErr : Bool := false
  deriving DecidableEq, Repr, Inhabited

/-- Local host memory as the MP ports reach it (R4, R28 to R33). -/
structure HostMem where
  /-- bytes by 42-bit local address, canonical; an unlisted byte reads 0 (log entry 4) -/
  cells : List Host.Cell := []
  /-- marks by granule number (address / 64), canonical -/
  marks : List (Nat × Mark) := []
  /-- the model's own counter of free values drawn so far (log entry 5) -/
  draws : Nat := 0
  /-- remote element writes that left over the fabric (R171): domain address and byte, latest first -/
  remote : List (Nat × Byte) := []
  deriving DecidableEq, Repr, Inhabited

/-! ## GLB: boot, resets, straps, time -/

/-- GLB_STATUS.STATE (Table 02.16, R42, R44). -/
inductive BootState where
  | coldReset | pllLock | fuseLoad | sramInit | bootFetch | bootVerify | fwInit | ready
  | warmDrain | warmInit | strapError | bootFailed
  deriving DecidableEq, Repr, Inhabited

/-- The factory fuse block (R390). -/
structure Fuses where
  /-- factory trims of T0 to T15, signed, 0.125 °C -/
  trimT : List Int := []
  /-- factory trims of V0 to V31, signed, mV -/
  trimV : List Int := []
  /-- scoring cores fused off -/
  cores : Nat := 0
  /-- skipped rows and columns per core, in the layout of SC_REPAIR[i] -/
  repair : List Nat := [0xFFFFFFFF, 0xFFFFFFFF, 0xFFFFFFFF, 0xFFFFFFFF, 0xFFFFFFFF]
  /-- fabric ports fused off -/
  ports : Nat := 0
  /-- lanes fused bad, per port -/
  lanes : List Nat := []
  /-- SHA-384 digest of the firmware key, as the six words of MGT_KEYDIG -/
  keyDig : List Nat := []
  /-- function-table checksum (R247) -/
  tblSum : Nat := 0
  /-- the CRC-32C stored in the block -/
  crc : Nat := 0
  deriving DecidableEq, Repr, Inhabited

/-- The running firmware image, as the fields that the spec gives meaning to (R379, R397). -/
structure Image where
  /-- FWVER of the running image (R381) -/
  fwver : Nat := 0
  /-- PLEVEL of the running image -/
  plevel : Nat := 0
  /-- the SHA-384 digest recorded at BOOT_VERIFY (R397) -/
  digest : Nat := 0
  /-- the resident image: its signed bytes, header first, canonical; BODY of Table 16.3 stands at processor SRAM
  address 0 -/
  body : List (Nat × Byte) := []
  /-- their number -/
  len : Nat := 0
  deriving DecidableEq, Repr, Inhabited

/-- Boot, resets, straps and the time base (chapter 02). -/
structure Glb where
  /-- GLB_STATUS.STATE -/
  boot : BootState := .coldReset
  /-- GLB_STATUS.BOOT_CODE (R42) -/
  bootCode : Nat := 0
  /-- GLB_STATUS.WARM_COUNT -/
  warmCount : Nat := 0
  /-- GLB_TIME.COUNT, GCLK cycles since the end of PLL_LOCK, 64 bits -/
  time : Nat := 0
  /-- straps as sampled (R23); reset value DESIGN CHOICE all 0, replaced at COLD_RESET_RELEASE (log entry 3) -/
  straps : Straps := default
  /-- DX_WRST_N is low (R44) -/
  wrstLow : Bool := false
  /-- the drain of the warm reset in progress is complete (R44) -/
  drained : Bool := false
  /-- the cold reset in progress is an update reset, which boots from staging (R384) -/
  fromStaging : Bool := false
  /-- the image under verification was committed over MG, with this length (R382) -/
  committed : Option Nat := none
  /-- image under boot verification, canonical bytes -/
  fetched : List (Nat × Byte) := []
  /-- the running image -/
  image : Image := {}
  /-- MG_ALERT_N[3] is low: a boot stage failed (R42) -/
  alertBoot : Bool := false
  /-- a clock stopped: the state is indeterminate until the next cold reset (R21) -/
  indeterminate : Bool := false
  /-- the factory fuse block of this chip (R390); its value is the part's (log entry 8) -/
  fuseBlock : Fuses := {}
  /-- the fuse shadow registers (R390) -/
  fuses : Fuses := {}
  deriving DecidableEq, Repr, Inhabited

/-! ## Pins that a step drives -/

/-- Outputs that hold the answer of the last access. -/
structure Pins where
  /-- CP_CSR_RDATA (Table 02.6) -/
  csrRdata : Nat := 0
  /-- CP_CSR_ERR -/
  csrErr : Bool := false
  /-- every READY output: 0 in cold reset (R41) -/
  ready : Bool := false
  /-- FPn_PHY_EN, bit n (Table 02.11) -/
  phyEn : Nat := 0
  /-- bytes driven on MG_SDO by the last read frame (R38) -/
  mgSdo : List Byte := []
  deriving DecidableEq, Repr, Inhabited

/-! ## Command queues and commands -/

/-- What a unit reports when a command has finished (R94, Table 04.5). -/
structure Report where
  /-- status code, Table 04.6 -/
  status : Nat := 0
  /-- detail word -/
  detail : Nat := 0
  /-- result word -/
  result : Nat := 0
  /-- batch epoch -/
  epoch : Nat := 0
  /-- GLB_TIME at the report, full width (R370) -/
  tcomp : Nat := 0
  deriving DecidableEq, Repr, Inhabited

/-- Where an in-flight command stands (R82, R84, R87, R102). -/
inductive CmdSt where
  /-- admitted, not issued -/
  | admitted
  /-- at issue, waiting for its context to leave OPENING (Table 04.8) -/
  | waitCtx
  /-- a CTXOPEN or CTXCLOSE waiting for a drain or for an OPENING context (R103) -/
  | waitDrain
  /-- a WAIT waiting for its flag (R91) -/
  | waitFlag (flag : Nat)
  /-- a SEND held under R10 or R210, a RETURN held under R213 -/
  | held
  /-- a COMBINE waiting for its tokens (R218, R219) -/
  | waitTokens
  /-- a ticket reservation of `n` waiting under R198 -/
  | waitTicket (n : Nat)
  /-- a Shed request waiting at a bank (R256, R261): the Shed and its quota class -/
  | waitShed (shed cls : Nat)
  /-- executing in its unit -/
  | exec
  /-- issued, and stopped in its unit while an owner that it works under has no rota slot (R107, R112) -/
  | stopped
  /-- finished; its record is not yet acknowledged -/
  | finished (r : Report)
  deriving DecidableEq, Repr, Inhabited

/-- A command in flight (R82), with the fields of its word (Table 04.1). -/
structure Cmd where
  /-- queue -/
  q : Nat := 0
  /-- submission index: SHEAD at admission (R370) -/
  sub : Nat := 0
  /-- OPC -/
  opc : Nat := 0
  /-- SUBOP -/
  subop : Nat := 0
  /-- FENCE -/
  fence : Bool := false
  /-- EVENT -/
  event : Bool := false
  /-- WTAG_V -/
  wtagV : Bool := false
  /-- CTX, after the masking of Table 04.3 -/
  ctx : Nat := 0
  /-- TAG -/
  tag : Nat := 0
  /-- WTAG -/
  wtag : Nat := 0
  /-- BATCH -/
  batch : Nat := 0
  /-- operand A -/
  a : Nat := 0
  /-- operand B -/
  b : Nat := 0
  /-- operand C -/
  c : Nat := 0
  /-- command encoding level at admission: 2 or 3 (R77, R78) -/
  level : Nat := 3
  /-- where the command stands -/
  st : CmdSt := .admitted
  /-- GLB_TIME at admission -/
  tadm : Nat := 0
  /-- GLB_TIME at issue -/
  tiss : Nat := 0
  /-- class under which it issued (R89) -/
  cls : Nat := 0
  /-- it waited at issue for a context that was not OPEN (R103) -/
  waited : Bool := false
  /-- selected for sampling at admission (R369) -/
  selected : Bool := false
  /-- structures read once at issue (R133, R165): a descriptor or header as one number each -/
  saved : List Nat := []
  /-- what its SRAM reads meet once its tickets are granted: the operand of its row (R131, R191, log entry 24) -/
  ecc : SramEcc := {}
  /-- RMODE sampled at issue (R58) -/
  rmode : Nat := 0
  /-- OVF sampled at issue (R58) -/
  ovf : Bool := false
  /-- DET_MODE.STRICT sampled at issue (R261, R340) -/
  strict : Bool := false
  /-- quota class sampled at issue (R255, Table 04.9) -/
  qcls : Nat := 0
  /-- active cores at issue (R114) -/
  cores : List Nat := []
  /-- SFU_COMPAT.DX2 sampled at issue (R245) -/
  dx2 : Bool := false
  /-- local bytes that a layout instruction has read and written: address, length, written (R175) -/
  foot : List (Nat × Nat × Bool) := []
  deriving DecidableEq, Repr, Inhabited

/-- A command queue (R79 to R86). -/
structure Queue where
  /-- STAIL -/
  stail : Nat := 0
  /-- SHEAD -/
  shead : Nat := 0
  /-- CTAIL -/
  ctail : Nat := 0
  /-- CHEAD -/
  chead : Nat := 0
  /-- CQ_EVIDX (R96) -/
  evidx : Nat := 0
  /-- prefetched command words, oldest first, 16 entries (R82) -/
  prefetch : List Nat := []
  /-- commands that the outstanding fetch read will bring; 0 where none is outstanding -/
  fetching : Nat := 0
  /-- tags of finished commands in reporting order (R94) -/
  done : List Nat := []
  /-- the record at CTAIL has been written and awaits its acknowledgement -/
  writing : Bool := false
  deriving DecidableEq, Repr, Inhabited

/-- What an outstanding MP read is for. -/
inductive RdFor where
  /-- command fetch of a queue (R82, R86) -/
  | fetch (q : Nat)
  /-- parameter block of a CTXOPEN (R101) -/
  | ctxParam (c q tag : Nat)
  /-- none any more: its requester was discarded -/
  | dropped
  deriving DecidableEq, Repr, Inhabited

/-- What an outstanding MP write is for. -/
inductive WrFor where
  /-- completion record of a queue (R94) -/
  | record (q : Nat)
  /-- zeroing of a context's extended state (R101) -/
  | ctxZero (c q tag : Nat)
  /-- none any more: the CTXOPEN that wrote has failed -/
  | dropped
  deriving DecidableEq, Repr, Inhabited

/-- An outstanding MP read request (R28, R29). -/
structure MpRead where
  /-- port -/
  port : Nat
  /-- read tag -/
  tag : Nat
  /-- first byte address -/
  addr : Nat
  /-- bytes asked for -/
  len : Nat
  /-- a beat carried poison -/
  poison : Bool := false
  /-- a beat carried MPn_RD_ERR -/
  err : Bool := false
  /-- requester -/
  use : RdFor
  deriving DecidableEq, Repr, Inhabited

/-- An outstanding MP write (R28, R30). -/
structure MpWrite where
  /-- port -/
  port : Nat
  /-- write tag -/
  tag : Nat
  /-- first byte address -/
  addr : Nat
  /-- bytes written -/
  data : List Byte
  /-- requester -/
  use : WrFor
  deriving DecidableEq, Repr, Inhabited

/-- The front end (chapter 04). -/
structure Front where
  /-- the 64 queues that are not at their reset state, by number -/
  queues : List (Nat × Queue) := []
  /-- commands in flight, in admission order (R83) -/
  inflight : List Cmd := []
  /-- the queue that admitted last (R83); 63 at reset so that queue 0 is visited first (log entry 3) -/
  lastAdmit : Nat := 63
  /-- the 1,024 flags (R91) -/
  flags : BitVec 1024 := 0#1024
  /-- outstanding MP reads -/
  reads : List MpRead := []
  /-- outstanding MP writes -/
  writes : List MpWrite := []
  /-- requests that a warm drain left unanswered: write or read, port, tag (R45) -/
  late : List (Bool × Nat × Nat) := []
  deriving DecidableEq, Repr, Inhabited

/-! ## Contexts and weight slots -/

/-- Context states (Table 04.8). -/
inductive CtxState where
  | closed | opening | open | draining
  deriving DecidableEq, Repr, Inhabited

/-- A weight source of a context (R123 to R125). -/
structure WSource where
  /-- the tensor descriptor, 512 bits -/
  desc : Nat := 0
  /-- the expansion header, 512 bits; none where absent (R116) -/
  hdr : Option Nat := none
  /-- the slot that holds the resident copy; none when streamed -/
  slot : Option Nat := none
  deriving DecidableEq, Repr, Inhabited

/-- A routing context (R99 to R106). -/
structure Ctx where
  /-- Table 04.8 -/
  st : CtxState := .closed
  /-- context epoch, 16 bits -/
  epoch : Nat := 0
  /-- job recorded at CTXOPEN -/
  job : Nat := 0
  /-- opened by a supervisor queue -/
  supv : Bool := false
  /-- job granted by CTX_GRANT (R105) -/
  grant : Nat := 0xFFFF
  /-- words 0 to 3 of the parameter block in force (Table 04.9) -/
  pb : List Nat := []
  /-- extended-state area (operand B of CTXOPEN) -/
  ext : Nat := 0
  /-- while OPENING: writes of zeros that have no tag yet, address and bytes, and those not acknowledged (R101) -/
  zeroTodo : List (Nat × Nat) := []
  zeroOut : Nat := 0
  /-- batch-epoch counter (R192) -/
  bepoch : Nat := 0
  /-- the six counters of Table 15.3 -/
  cnt : List Nat := [0, 0, 0, 0, 0, 0]
  /-- current weight source (R123) -/
  cur : Option WSource := none
  /-- next weight source -/
  next : Option WSource := none
  /-- allocated buffers per Shed (R264) -/
  bufs : List Nat := [0, 0, 0, 0, 0, 0, 0, 0]
  deriving DecidableEq, Repr, Inhabited

/-- A weight slot (SC_SLOT, Table 05.4): the copy is one per core, the same on every core (R115). -/
structure Slot where
  /-- 0 FREE; 1 LOADING; 2 NEXT; 3 CURRENT -/
  st : Nat := 0
  /-- context bound to the slot -/
  ctx : Nat := 0
  /-- stored element type -/
  etype : Nat := 0
  /-- packed size in 64-byte lines -/
  lines : Nat := 0
  /-- the rows of the tensor as they were copied, one element code each -/
  rows : List (List Nat) := []
  deriving DecidableEq, Repr, Inhabited

/-! ## Dispatch: batch table, plan table, tickets, work queues -/

/-- A replica slot of an expert map (R149): expert, replica number, owning member. -/
structure RSlot where
  expert : Nat := 0
  replica : Nat := 0
  owner : Nat := 0
  deriving DecidableEq, Repr, Inhabited

/-- A buffer taken from a Shed (R256), with the quota class charged. -/
structure Buf where
  shed : Nat := 0
  index : Nat := 0
  cls : Nat := 0
  deriving DecidableEq, Repr, Inhabited

/-- A shape record as PLAN wrote it (Table 06.7). -/
structure Shape where
  /-- replica slot of the map -/
  slot : Nat := 0
  /-- rows of the receive buffer -/
  rows : Nat := 0
  /-- receive buffer; none where ROWS = 0 -/
  buf : Option Buf := none
  deriving DecidableEq, Repr, Inhabited

/-- A plan entry (R177). -/
structure Plan where
  /-- capacity C -/
  cap : Nat := 0
  /-- scanned area (operand A) -/
  scan : Nat := 0
  /-- position area (operand C); none when PLAN wrote no positions (R160) -/
  pos : Option Nat := none
  /-- the positions that it wrote -/
  posw : List Nat := []
  /-- the expert map that COUNT recorded (R149) -/
  map : List RSlot := []
  /-- replica slot of each assignment, from its ticket (R150); none for one that COUNT did not count -/
  slots : List (Option Nat) := []
  /-- LAYER_SEED and EXPERTS as COUNT had them (R150) -/
  lseed : Nat := 0
  experts : Nat := 0
  /-- the selection records as they stood when PLAN issued (R179) -/
  recs : List Nat := []
  /-- member index -/
  midx : Nat := 0
  /-- group size -/
  p : Nat := 1
  /-- row format of the SUBOP in force: 0 B16, 1 BX8, 2 F32 (R158) -/
  fmt : Nat := 0
  /-- shape records, in ascending slot order -/
  shapes : List Shape := []
  /-- first index of the origin range (R212) -/
  origBase : Nat := 0
  /-- entries of the origin range -/
  origLen : Nat := 0
  deriving DecidableEq, Repr, Inhabited

/-- How a use ended (Table 08.8). -/
inductive EndWay where
  | cancel | reuse | wqReset | members | wqError | ticketError | combineEnd | ctxClosed
  deriving DecidableEq, Repr, Inhabited

/-- A batch-table entry: one use of a batch ID in one context (R192). -/
structure Use where
  /-- batch-table entry number (BENTRY) -/
  slot : Nat := 0
  ctx : Nat := 0
  batch : Nat := 0
  /-- batch epoch -/
  epoch : Nat := 0
  /-- context epoch -/
  cepoch : Nat := 0
  /-- priority class -/
  cls : Nat := 0
  /-- choices per token -/
  k : Nat := 1
  /-- model width -/
  d : Nat := 1
  /-- local rows -/
  t : Nat := 0
  /-- TBASE of the selection header -/
  tbase : Nat := 0
  /-- the use is in its backward phase (R218) -/
  backward : Bool := false
  /-- first ticket of the forward range -/
  base : Nat := 0
  /-- first ticket of the backward range, once reserved (R197) -/
  bbase : Option Nat := none
  /-- a COUNT of the use has completed (R177) -/
  counted : Bool := false
  /-- the map that COUNT sampled (R149), the LAYER_SEED and EXPERTS that it used, and its selection area -/
  map : List RSlot := []
  lseed : Nat := 0
  experts : Nat := 0
  area : Nat := 0
  /-- its placement epoch (R328) -/
  pepoch : Nat := 0
  /-- assignments that COUNT did not count: their EXPERT is at or above EXPERTS (R151) -/
  uncounted : List Nat := []
  /-- gates of the assignments as selected, t × k -/
  gates : List Nat := []
  /-- keep decisions of the plan in force, t × k -/
  kept : List Bool := []
  /-- plan entry (R177) -/
  plan : Option Plan := none
  /-- what each executing PLAN has sampled at its issue, by queue and tag -/
  drafts : List (Nat × Nat × Plan) := []
  /-- status and detail of a PLAN that failed, which its SENDs take (R163, log entry 131) -/
  planFail : Option (Nat × Nat) := none
  /-- status and detail of a SEND that found no combine buffer, which later SENDs take (R163, R209) -/
  sendFail : Option (Nat × Nat) := none
  /-- a forward SEND of the use has left its hold (R177, log entry 20) -/
  sendIssued : Bool := false
  /-- combine buffers (R216) -/
  cbufs : List Buf := []
  /-- source descriptor of the last SEND -/
  src : Nat := 0
  /-- rows sent, acknowledged, and received, in both phases together (log entry 132) -/
  sent : Nat := 0
  acked : Nat := 0
  received : Nat := 0
  /-- a SEND of the current phase has completed (R213) -/
  sendDone : Bool := false
  /-- tokens combined or abandoned in the current phase -/
  combined : List Nat := []
  /-- first combine error of the use (R217) -/
  cerr : Option Nat := none
  /-- the use has ended and waits for its writes to be acknowledged (R194) -/
  ended : Option EndWay := none
  /-- buffers that a stopped PLAN had taken, released with the use (R194, R260) -/
  loose : List Buf := []
  /-- the CANCEL that waits for the end to take effect: queue and tag (R222) -/
  canceller : Option (Nat × Nat) := none
  deriving DecidableEq, Repr, Inhabited

/-- A ticket (Table 08.1). STATE: 0 FREE, 1 SELECTED, 2 KEPT, 3 DROPPED, 4 SENT, 5 ANSWERED. -/
structure Ticket where
  st : Nat := 0
  bentry : Nat := 0
  gate : Nat := 0
  lrow : Nat := 0
  choice : Nat := 0
  slot : Nat := 0
  pend : Nat := 0
  deriving DecidableEq, Repr, Inhabited

/-- The ingress buffers that hold a message or the payload of an item (R203, R307): port, virtual channel, number of flit
buffers, and the link-up of the port in which they were filled; no port for a message of this chip. -/
structure Hold where
  port : Option Nat := none
  vc : Nat := 0
  bufs : Nat := 0
  gen : Nat := 0
  deriving DecidableEq, Repr, Inhabited

/-- A work item: three words (R203), and for an arriving row or answer its payload in the ingress buffer, that buffer, and
the chip it came from. -/
structure Item where
  w0 : Nat := 0
  w1 : Nat := 0
  w2 : Nat := 0
  payload : List Byte := []
  src : Nat := 0
  hold : Hold := {}
  /-- RMODE and OVF sampled by the RETURN that carried it, known for an answer of this chip alone (R215) -/
  rmode : Nat := 0
  ovf : Bool := false
  deriving DecidableEq, Repr, Inhabited

/-- The entries of one class of a work queue (R205). -/
structure WqClass where
  /-- up to 16 head entries, oldest first -/
  head : List Item := []
  /-- entries in the spill ring, oldest first -/
  spill : List Item := []
  /-- up to 16 tail entries, oldest first -/
  tail : List Item := []
  deriving DecidableEq, Repr, Inhabited

/-- A work queue: classes 0 to 3, and its reset state (R204 to R208). -/
structure WorkQ where
  cls : List WqClass := [{}, {}, {}, {}]
  /-- TKT_WQ_RESET.BUSY -/
  busy : Bool := false
  /-- TKT_WQ_RESET.PEND -/
  pend : Bool := false
  /-- free-running write index of the spill ring of each class -/
  spillWr : List Nat := [0, 0, 0, 0]
  /-- items that the reader has read and holds, by class (R204) -/
  held : List (Nat × Item) := []
  deriving DecidableEq, Repr, Inhabited

/-- The dispatch unit (chapter 08). -/
structure Disp where
  /-- live and ending batch-table entries, in order of opening (R192) -/
  uses : List Use := []
  /-- tickets that are not FREE and blank, by number (R196) -/
  tickets : List (Nat × Ticket) := []
  /-- reserved ranges, oldest first: first number and length (R199) -/
  ranges : List (Nat × Nat) := []
  /-- next number to hand out -/
  nextTicket : Nat := 0
  /-- WQ_SEND, WQ_RECV, WQ_RET, WQ_CMB -/
  wqs : List WorkQ := [{}, {}, {}, {}]
  /-- origin ranges reserved, oldest first: first index, length, released (R212) -/
  orig : List (Nat × Nat × Bool) := []
  /-- next origin index -/
  nextOrig : Nat := 0
  /-- TKT_ORIG_USED.HWM -/
  origHwm : Nat := 0
  deriving DecidableEq, Repr, Inhabited

/-! ## Sheds -/

/-- A Shed (chapter 10); its free ring and owner array are in host memory (R250). -/
structure Shed where
  /-- ring head and tail, free-running 32-bit indices -/
  head : Nat := 0
  tail : Nat := 0
  /-- on-chip cache, top first (R258) -/
  cache : List Nat := []
  /-- SHD_STAT.BUSY, SHD_CTL.PEND -/
  busy : Bool := false
  pend : Bool := false
  /-- failed until its next initialisation (R406) -/
  failed : Bool := false
  /-- SHD_STAT.USED, FREE -/
  used : Nat := 0
  free : Nat := 0
  deriving DecidableEq, Repr, Inhabited

/-- The Sheds and the quota classes. -/
structure Sheds where
  /-- Sheds not at their reset state, by number -/
  sheds : List (Nat × Shed) := []
  /-- SHD_QUSE[c].USE, by class -/
  quse : List (Nat × Nat) := []
  deriving DecidableEq, Repr, Inhabited

/-! ## Collectives -/

/-- A chunk of a collective that is in flight (R276): where it stands while another is at hand. -/
structure ChunkRun where
  chunk : Nat := 0
  phase : Nat := 0
  step : Nat := 0
  work : List (Nat × Nat) := []
  lower : List Nat := []
  /-- its destination bytes are final here; it waits for those before it to be signalled (R282) -/
  done : Bool := false
  deriving DecidableEq, Repr, Inhabited

/-- A collective that executes on a group (chapter 11). -/
structure CollOp where
  /-- chunks in flight, ascending, and the next one to start (R276) -/
  flight : List ChunkRun := []
  next : Nat := 0
  /-- progress words written (R282) -/
  prog : Nat := 0
  /-- its command -/
  q : Nat := 0
  tag : Nat := 0
  ctx : Nat := 0
  opc : Nat := 0
  subop : Nat := 0
  etype : Nat := 0
  n : Nat := 0
  /-- source and destination addresses -/
  src : Nat := 0
  dst : Nat := 0
  /-- sequence number (R271) -/
  seq : Nat := 0
  /-- signature (R283) -/
  sig : Nat := 0
  /-- OK of the signature round (R284) -/
  ok : Bool := true
  /-- steps of the signature round received on the current axis -/
  sigStep : Nat := 0
  /-- position in the list of axis phases; the signature round's axes come first -/
  phase : Nat := 0
  /-- the signature round has ended -/
  sigDone : Bool := false
  /-- the chunk at hand -/
  chunk : Nat := 0
  /-- ring steps received in its current phase -/
  step : Nat := 0
  /-- working values: 64-byte lines by line number for reductions and by member × 2^32 + line for gathers; for XSCAN
  elements by coordinate × 2^32 + element of the chunk -/
  work : List (Nat × Nat) := []
  /-- XSCAN: sums over lower coordinates so far, by element of the chunk (R280) -/
  lower : List Nat := []
  /-- chunks signalled (R282) -/
  signalled : Nat := 0
  /-- NOSIG hides that signatures differed: the destination bytes are indeterminate (R285) -/
  loose : Bool := false
  /-- CAIRN: the wait for the release runs (R293) -/
  waiting : Bool := false
  /-- CAIRN: accumulated delay of the first mark that arrived (R293, R315) -/
  mark : Option Nat := none
  /-- CAIRN: flag to set at release -/
  flag : Option Nat := none
  deriving DecidableEq, Repr, Inhabited

/-- A group (COL_GSTAT, COL_LAST; R268 to R270, R290). -/
structure Grp where
  seq : Nat := 0
  lost : Bool := false
  /-- member index recorded as lost (R290) -/
  lostIdx : Nat := 0
  notin : Bool := false
  midx : Nat := 0
  /-- EN in force -/
  en : Bool := false
  /-- a clearing of EN waits for the executing collective (R270) -/
  offPend : Bool := false
  /-- a write of EN = 1 waits for that clearing (R270) -/
  onPend : Bool := false
  active : Option CollOp := none
  lastStatus : Nat := 0
  lastOpc : Nat := 0
  lastChunks : Nat := 0
  deriving DecidableEq, Repr, Inhabited

/-- The collective unit. -/
structure ColUnit where
  /-- groups not at their reset state, by number -/
  grps : List (Nat × Grp) := []
  deriving DecidableEq, Repr, Inhabited

/-! ## Fabric -/

/-- A message of the fabric: the 160-bit header of its head flit and its payload (R303, R304). -/
structure Msg where
  hdr : Nat := 0
  data : List Byte := []
  /-- the port it arrived on, none for a message of this chip, with the ingress buffers that it holds (R307) -/
  hold : Hold := {}
  /-- the link it arrived on ran Skeles version 1 (R301) -/
  v1 : Bool := false
  /-- RMODE and OVF sampled by the RETURN that sends it, for an answer on the local path (R215) -/
  rmode : Nat := 0
  ovf : Bool := false
  deriving DecidableEq, Repr, Inhabited

/-- A message on its way over a link: what arrived here, and the header and the bytes that leave. -/
structure TxMsg where
  /-- the message before its hop was decided here -/
  orig : Msg := {}
  /-- its header with the routing fields and the virtual channel of the hop -/
  hdr : Nat := 0
  /-- payload bytes not sent yet -/
  left : List Byte := []
  /-- its head flit has been sent -/
  started : Bool := false
  deriving DecidableEq, Repr, Inhabited

/-- A fabric port (R297 to R309, R324, R325). -/
structure Port where
  /-- FAB_PSTAT.STATE: 0 DOWN; 1 PHYWAIT; 2 LANE; 3 IDENT; 4 CAL; 5 UP; 6 DRAIN -/
  st : Nat := 0
  failcode : Nat := 0
  delay : Nat := 0
  ver : Nat := 0
  /-- FAB_PSTAT.PEND -/
  pend : Bool := false
  /-- FPn_PHY_RDY -/
  phyRdy : Bool := false
  /-- the port waits 100 ms before it trains again (R299, R308) -/
  retrain : Bool := false
  /-- lanes with a good report at both ends -/
  good : Nat := 0
  /-- FAB_LANES.RETIRED, ACTIVE -/
  retired : Nat := 0
  active : Nat := 0
  /-- lane groups in use -/
  groups : Nat := 0
  /-- next sequence number to send, last one received in order -/
  txSeq : Nat := 0
  rxSeq : Nat := 4095
  /-- unacknowledged flits, oldest first (R305) -/
  retry : List Flit := []
  /-- failures in a row of the sequence numbers that have not passed their check since, by number (R305) -/
  fails : List (Nat × Nat) := []
  /-- flits sent per virtual channel since link-up, modulo 256, and CTOT received (R307) -/
  sentVc : List Nat := [0, 0, 0, 0]
  ctot : List Nat := [0, 0, 0, 0]
  /-- buffers freed per virtual channel since link-up, modulo 256, and the number of that link-up -/
  freedVc : List Nat := [0, 0, 0, 0]
  gen : Nat := 0
  /-- CAIRN marks sent since the last good control word that came in: group, MD, GLB_TIME (R315) -/
  marks : List (Nat × Nat × Nat) := []
  /-- messages whose next hop is this link and that have flits to send, oldest first -/
  txq : List TxMsg := []
  /-- messages in reassembly, by virtual channel -/
  rx : List (Nat × Msg) := []
  deriving DecidableEq, Repr, Inhabited

/-- A DP request that has no response yet (R34, R317, R318). -/
structure DpReq where
  /-- request ID of its DPREQ message -/
  id : Nat := 0
  port : Nat := 0
  tag : Nat := 0
  op : Nat := 0
  addr : Nat := 0
  size : Nat := 8
  data : Nat := 0
  /-- it has left as a DPREQ -/
  sent : Bool := false
  deriving DecidableEq, Repr, Inhabited

/-- A DP response (Table 02.10): port, tag, status, data. -/
structure DpRsp where
  port : Nat := 0
  tag : Nat := 0
  status : Nat := 0
  data : Nat := 0
  deriving DecidableEq, Repr, Inhabited

/-- What a chip remembers of the marks of a group's CAIRN that it forwards (R315). -/
structure MarkRec where
  /-- sequence number of the CAIRN, once its release has come -/
  seq : Option Nat := none
  /-- MD received, once a mark has come -/
  md : Option Nat := none
  /-- ports on which the release left before the mark was known -/
  due : List Nat := []
  /-- ports on which the mark has been sent -/
  sent : List Nat := []
  deriving DecidableEq, Repr, Inhabited

/-- The fabric endpoint (chapter 12). -/
structure Fab where
  /-- ports not at their reset state, by number -/
  ports : List (Nat × Port) := []
  /-- FAB_ROUTE.SNAPUP, and the widths taken at the snapshot (R312, R330) -/
  snapUp : Nat := 0
  snapW : List Nat := [0, 0, 0, 0, 0, 0]
  /-- messages for this chip that wait for their unit, oldest first -/
  inbox : List Msg := []
  /-- messages that wait for their next hop, oldest first -/
  outbox : List Msg := []
  /-- flits put on the links, latest first: port and flit -/
  wire : List (Nat × Flit) := []
  /-- DP requests without response, in acceptance order -/
  dp : List DpReq := []
  /-- next request ID -/
  dpId : Nat := 0
  /-- IDs answered by timeout whose late response is discarded (R320) -/
  dpLate : List Nat := []
  /-- responses given on the DP ports, latest first -/
  rsp : List DpRsp := []
  /-- marks of CAIRNs, by group (R315) -/
  marks : List (Nat × MarkRec) := []
  /-- cached owner-table entries: block index, word 0, word 1 (R323) -/
  ownCache : List (Nat × Nat × Nat) := []
  deriving DecidableEq, Repr, Inhabited

/-! ## Placement -/

/-- Kinds of placement decision (R333). -/
inductive DecKind where
  | retire | replicate | move
  deriving DecidableEq, Repr, Inhabited

/-- A pending placement decision (R333 to R340). -/
structure Decision where
  /-- decision slot, 0 to 15 -/
  slot : Nat := 0
  kind : DecKind := .retire
  expert : Nat := 0
  replica : Nat := 0
  /-- source and destination members -/
  src : Nat := 0
  dst : Nat := 0
  /-- step at which it was taken -/
  step : Nat := 0
  /-- placement epoch at the decision -/
  pepoch : Nat := 0
  /-- run start at the destination, as a number of 2 MiB blocks; held at the destination -/
  run : Option Nat := none
  /-- local DONE and FAIL (R338) -/
  done : Bool := false
  fail : Bool := false
  /-- pieces to copy, sent and acknowledged at the source; received at the destination -/
  pieces : Nat := 0
  sentP : Nat := 0
  ackP : Nat := 0
  recvP : Nat := 0
  deriving DecidableEq, Repr, Inhabited

/-- A placement slot (R326 to R332). -/
structure PSlot where
  /-- 0 FREE; 1 PLACED; 2 SUSPENDED; 3 taken by an ENROL that has not completed, which PLC_SLOT shows as FREE -/
  st : Nat := 0
  ctx : Nat := 0
  step : Nat := 0
  pepoch : Nat := 0
  /-- words of the policy block in force (Table 13.2) -/
  policy : List Nat := []
  /-- step counters by expert (R329) -/
  sel : List (Nat × Nat) := []
  kept : List (Nat × Nat) := []
  drop : List (Nat × Nat) := []
  /-- counters as sampled by the executing PLACE, in expert order: SEL, KEPT, DROP -/
  sampled : List (Nat × Nat × Nat) := []
  decisions : List Decision := []
  /-- replay cursor (R345) -/
  cursor : Nat := 0
  /-- budget blocks that the slot holds: first block, length -/
  runs : List (Nat × Nat) := []
  /-- runs to free once no live use holds an earlier placement epoch: that epoch, first block, length (R336) -/
  freeing : List (Nat × Nat × Nat) := []
  /-- bytes acknowledged since the last PLACE (R339) -/
  ackBytes : Nat := 0
  deriving DecidableEq, Repr, Inhabited

/-- An executing PLACE (R332): where it is kept while it waits for a late migration or for its exchange. -/
structure PlaceRun where
  q : Nat := 0
  tag : Nat := 0
  ctx : Nat := 0
  /-- placement slot -/
  slot : Nat := 0
  /-- ENROL, not STEP -/
  enrol : Bool := false
  /-- STRICT as sampled at issue (R340) -/
  strict : Bool := false
  /-- it waits, under STRICT, for its DONE bits before it writes its record (R340) -/
  waiting : Bool := false
  /-- first 16 bytes of the record that it wrote (R331) -/
  head : List Byte := []
  deriving DecidableEq, Repr, Inhabited

/-- A replica-gradient sum in progress (R342). -/
structure Gsum where
  q : Nat := 0
  tag : Nat := 0
  ctx : Nat := 0
  /-- placement slot -/
  slot : Nat := 0
  /-- pieces that this member starts as last replica, not started yet: expert and piece of its gradient -/
  todo : List (Nat × Nat) := []
  /-- pieces that have not ended at this member -/
  left : Nat := 0
  /-- bytes sent by this member -/
  bytes : Nat := 0
  deriving DecidableEq, Repr, Inhabited

/-- An executing MIGRATE LIST (R343). -/
structure ListRun where
  q : Nat := 0
  tag : Nat := 0
  ctx : Nat := 0
  /-- placement slot -/
  slot : Nat := 0
  /-- pieces not sent yet: list entry, source, destination, length -/
  todo : List (Nat × Nat × Nat × Nat) := []
  /-- pieces sent and not acknowledged -/
  out : Nat := 0
  /-- bytes copied -/
  bytes : Nat := 0
  /-- entries skipped -/
  skipped : Nat := 0
  deriving DecidableEq, Repr, Inhabited

/-- What a chip is to a MEMBERS (R346). -/
inductive MRole where
  | staying | departing | joining
  deriving DecidableEq, Repr, Inhabited

/-- An expert that a drain plan copies or restores (R347). -/
structure Drain where
  /-- context -/
  ctx : Nat := 0
  expert : Nat := 0
  /-- chip and replica that it is copied from; none where it is RESTORED -/
  src : Option (Nat × Nat) := none
  /-- destination chip -/
  dst : Nat := 0
  /-- run start at the destination, as a number of 2 MiB blocks; held at the destination -/
  run : Option Nat := none
  deriving DecidableEq, Repr, Inhabited

/-- A MEMBERS in progress, or one that ended with STALLED and may be resumed (R346 to R348). -/
structure MembersSt where
  q : Nat := 0
  tag : Nat := 0
  ctx : Nat := 0
  g : Nat := 0
  /-- the eight words of the member list -/
  list : List Nat := []
  role : MRole := .staying
  /-- first step of R348 not completed -/
  stage : Nat := 1
  /-- experts copied or restored -/
  plan : List Drain := []
  /-- copies to push from this chip: placement slot, object block, replica, piece, destination chip -/
  push : List (Nat × Nat × Nat × Nat × Nat) := []
  /-- copies pushed and not acknowledged; copies not received yet -/
  toAck : Nat := 0
  toRecv : Nat := 0
  /-- a joining chip's STATE messages not received yet; none until the first one tells -/
  states : Option Nat := none
  /-- contexts whose exchange of step 4 is outstanding, in order -/
  exch : List Nat := []
  /-- experts RESTORED -/
  restored : Nat := 0
  /-- first 16 bytes of the record that it wrote for the exchange in progress (R348) -/
  head : List Byte := []
  deriving DecidableEq, Repr, Inhabited

/-- The placement engine (chapter 13). -/
structure Plc where
  /-- the 32 placement slots that are in use, by number -/
  slots : List (Nat × PSlot) := []
  /-- PLC_JRNL_IDX.WR -/
  jrnl : Nat := 0
  /-- executing PLACEs -/
  places : List PlaceRun := []
  gsum : Option Gsum := none
  list : Option ListRun := none
  members : Option MembersSt := none
  deriving DecidableEq, Repr, Inhabited

/-! ## Counters and sampling -/

/-- A sampling configuration (Table 15.4). -/
structure SampleCfg where
  armed : Bool := false
  /-- armed by a user queue -/
  user : Bool := false
  job : Nat := 0xFFFF
  period : Nat := 1
  clsMask : Nat := 15
  qmask : Nat := 0
  minlat : Nat := 0
  ctxen : Bool := false
  ctx : Nat := 0
  opcen : Bool := false
  opc : Nat := 0
  countdown : Nat := 1
  deriving DecidableEq, Repr, Inhabited

/-- The counter block (chapter 15); PMC_CNT and PMC_CFG are in the CSR store. -/
structure Pmc where
  /-- latched odd counters of chained pairs, by odd index (R363) -/
  latch : List (Nat × Nat) := []
  /-- bytes of the window in progress, by 2 × port + direction (R365) -/
  bwAcc : List (Nat × Nat) := []
  /-- bytes of the last complete window -/
  bwLast : List (Nat × Nat) := []
  /-- windows completed, modulo 2^16 -/
  bwSeq : Nat := 0
  /-- expert counters of the watched context (R368), by expert: SEL, KEPT, DROP -/
  xcnt : List (Nat × Nat × Nat × Nat) := []
  cfg : SampleCfg := {}
  /-- sample buffer, oldest first: four words each (R371) -/
  buf : List (Nat × Nat × Nat × Nat) := []
  /-- PMC_SMPSTAT.SKIPPED -/
  skipped : Nat := 0
  deriving DecidableEq, Repr, Inhabited

/-! ## Management -/

/-- The management subsystem (chapter 16). -/
structure Mgt where
  /-- readings of T0 to T15 (0.125 °C) and V0 to V31 (mV) (R386) -/
  temps : List Int := []
  volts : List Int := []
  /-- user offsets in force, which the last sample took (R391) -/
  ucalT : List Int := []
  ucalV : List Int := []
  /-- MGT_THERM_CTL in force, which the last sample took (R386) -/
  thCtl : Nat := 0x000003E802F80348
  /-- MGT_ALARM bits -/
  thermal : Bool := false
  droop : Bool := false
  sramv : Bool := false
  trip : Bool := false
  /-- thermal trip has lowered MG_ALERT_N[2] (R388), or a corrupt image has (Table 16.7) -/
  alertFatal : Bool := false
  /-- firmware thermal target and hardware droop target (R49) -/
  tTarget : Nat := 8
  dTarget : Nat := 8
  /-- MGT_ACLK_STEP.CUR -/
  cur : Nat := 8
  /-- on-chip log entries by SEQ mod 2,048: four words (R392) -/
  log : List (Nat × Nat × Nat × Nat × Nat) := []
  /-- MGT_LOG_IDX.NEXT, FLUSHED -/
  next : Nat := 0
  flushed : Nat := 0
  /-- MGT_FWUPD: STATE, CODE, SVER -/
  upd : Nat := 0
  updCode : Nat := 0
  sver : Nat := 0
  /-- image staging, canonical bytes -/
  staging : List (Nat × Byte) := []
  /-- the staged image was committed over MG, with this length (R382) -/
  committed : Option Nat := none
  /-- a COMMIT_IMAGE with FORCE is under verification (R384) -/
  force : Bool := false
  /-- the firmware is restarting (R397) -/
  restarting : Bool := false
  /-- corrected errors in the 1 ms window (R396) -/
  ceAcc : Nat := 0
  deriving DecidableEq, Repr, Inhabited

/-- States of the TAP controller in which a row of the command table leaves it (R39): after TRST_N, and after a scan. -/
inductive Tap where
  | testLogicReset | runTestIdle
  deriving DecidableEq, Repr, Inhabited

/-- The test port (R39, R40). -/
structure Test where
  /-- TAP controller state -/
  tap : Tap := .testLogicReset
  /-- TDO and TDO_EN as they stand after a row (Table 02.15) -/
  tdo : Bool := false
  tdoEn : Bool := false
  /-- the bits that TDO carried, with TDO_EN at 1, in Shift-DR of the last IDCODE or BYPASS, first one first -/
  shifted : List Bool := []
  /-- TAP instruction register; IDCODE after a TAP reset, as IEEE 1149.1 has it (log entry 34) -/
  ir : Nat := 0x01
  /-- wrapper instruction: 0 WS_BYPASS, 1 WS_EXTEST, 2 WS_INTEST_SCAN, 3 WS_MBIST -/
  wir : Nat := 0
  /-- the register between TDI and TDO: 32-bit IDCODE, wrapper data, or one bypass bit -/
  dr : Nat := 0
  /-- the WBR (R40): the values that WS_EXTEST drives on the outputs of CP, MP, DP, FP, EV and MG, and those that it
  captured on their inputs -/
  wbrOut : BitVec wbrOuts := 0#wbrOuts
  wbrIn : BitVec wbrIns := 0#wbrIns
  /-- WS_INTEST_SCAN or WS_MBIST has run: no service until a cold reset (R40) -/
  noService : Bool := false
  deriving DecidableEq, Repr, Inhabited

/-! ## The whole state -/

/-- The engine, the host memory it reaches, and the commands that wait. -/
structure State where
  /-- commands and events that wait, first in first out -/
  pending : List Instr := []
  mem : HostMem := {}
  glb : Glb := {}
  pins : Pins := {}
  /-- stored fields of the CSR space by byte offset, canonical against their reset values (R402) -/
  csr : List (Nat × Nat) := []
  front : Front := {}
  /-- contexts not at their reset state, by ID -/
  ctxs : List (Nat × Ctx) := []
  /-- weight slots 0 and 1 -/
  slots : List Slot := [{}, {}]
  disp : Disp := {}
  shd : Sheds := {}
  col : ColUnit := {}
  fab : Fab := {}
  plc : Plc := {}
  pmc : Pmc := {}
  mgt : Mgt := {}
  test : Test := {}
  /-- ROTA_ACTIVE and ROTA_PEND (R110) -/
  rotaActive : Nat := 0
  rotaPend : Nat := 0
  /-- the model's own counter of free values drawn outside host memory (log entry 5) -/
  draws : Nat := 0
  deriving DecidableEq, Repr, Inhabited

/-- Why the model stops. The hardware's own faults (Table 16.7) are next states. -/
inductive Fault where
  /-- An MP response came for a tag that is not outstanding and that no warm drain left unanswered (R45). R19, R28 and R30
  let the host send none, and the spec says nothing of one. Raised by MP_READ_BEAT and MP_WRITE_ACK. Safe: the model stops
  where the hardware goes on. -/
  | strayResponse
  deriving DecidableEq, Repr

/-- Why the model refuses. -/
inductive Refusal where
  /-- A constructor of `Instr` that has no meaning yet. Raised by `exec` alone. Safe. -/
  | notModelled (mnemonic : String)
  deriving DecidableEq, Repr

/-- The engine right after reset: DX_RST_N low, every field at its reset value (R18, R41, R51, R402). -/
def State.reset : State := {}

/-- What the state is after a clock stopped (R21) or a scan or self-test ran through it (R40), by a running number: the
spec calls it indeterminate (log entry 10). -/
opaque Config.anyState : Nat → State

end Sys2Proof.Machine
end

