-- ==== Sys2Proof/Machine/Regs.lean ====
section
/-! DEFINITION. The register map (chapter 17): which offsets are mapped, their privilege, and for the stored fields of
each register which bits software writes, which it clears by writing 1, which a read clears, and what survives a warm
reset. Fields that show typed state (their access code is RO) are computed in Machine/Csr.lean. -/

namespace Sys2Proof.Machine

/-- The bits `[hi : lo]` as a mask. -/
def span (hi lo : Nat) : Nat := 2 ^ (hi + 1) - 2 ^ lo

/-- A register of the map (R400 to R402, Table 00.4). -/
structure Reg where
  /-- Priv column: true for S, false for B (R401) -/
  sup : Bool := true
  /-- RW bits -/
  rw : Nat := 0
  /-- RW1C bits -/
  w1c : Nat := 0
  /-- RC bits -/
  rc : Nat := 0
  /-- reset value of the stored bits -/
  rst : Nat := 0
  /-- stored bits that keep their value through warm reset (R402) -/
  kept : Nat := 0
  deriving DecidableEq, Repr, Inhabited

/-- A 48-bit clearing counter, readable at both privilege levels and kept through warm reset. -/
def ctrReg : Reg := { sup := false, rc := span 47 0, kept := span 47 0 }

/-- A read-only register readable at both levels. -/
def roB : Reg := { sup := false }

/-- A read-only register of the supervisor. -/
def roS : Reg := {}

/-- A stored RW register of the supervisor. -/
def rwS (m rst : Nat) : Reg := { rw := m, rst := rst }

/-- A stored RW register that survives a warm reset. -/
def rwK (m rst : Nat) : Reg := { rw := m, rst := rst, kept := m }

/-- A register array: first offset, stride in bytes, number of elements, element. -/
structure RegRow where
  base : Nat
  stride : Nat
  count : Nat
  reg : Reg
  deriving DecidableEq, Repr, Inhabited

/-- A single register. -/
def one (off : Nat) (r : Reg) : RegRow := ⟨off, 8, 1, r⟩

/-- Table 17.2 and Table 17.3. -/
def regsFront : List RegRow := [
  one 0x00000 roB, one 0x00008 roB,
  one 0x00010 (rwS 3 3),
  one 0x00020 { sup := false, w1c := span 16 16, kept := span 17 17 },
  one 0x00028 roS, one 0x00030 roB,
  ⟨0x10000, 0x100, 64, rwS (span 63 48 + span 44 40 + span 36 32 + span 28 24 + span 16 8 + span 1 0)
    0xFFFF040400000800⟩,
  ⟨0x10008, 0x100, 64, rwS (span 41 6) 0⟩,
  ⟨0x10010, 0x100, 64, rwS (span 41 6) 0⟩,
  ⟨0x10018, 0x100, 64, rwS (span 19 16 + span 9 0) 0xA0000⟩,
  ⟨0x10040, 0x100, 64, roB⟩, ⟨0x10048, 0x100, 64, roB⟩, ⟨0x10050, 0x100, 64, roB⟩, ⟨0x10058, 0x100, 64, roB⟩,
  ⟨0x10060, 0x100, 64, { sup := false, w1c := span 17 16 }⟩,
  ⟨0x10068, 0x100, 64, roB⟩,
  ⟨0x14000, 8, 16, roS⟩, one 0x14080 roS,
  one 0x14088 { rc := span 31 0 }, one 0x14090 roS,
  ⟨0x14200, 8, 16, rwS (span 10 0) 0⟩,
  one 0x20000 roS, one 0x20008 (rwS (span 13 0) 0), one 0x20010 roS, one 0x20018 roS, one 0x20020 roS,
  ⟨0x30000, 8, 4096, rwS (span 63 0) 0xFFFFFFFFFFFFFFFF⟩,
  one 0x3F000 roS, one 0x3F008 roS, one 0x3F010 roS,
  one 0x3F018 { w1c := span 1 0 } ]

/-- Table 17.4. -/
def regsCompute : List RegRow := [
  one 0x40000 roS, one 0x40008 (rwK (span 4 0) 0), one 0x40010 (rwK (span 41 6) 0), one 0x40018 ctrReg,
  ⟨0x40020, 8, 2, roS⟩, ⟨0x40040, 8, 5, roS⟩,
  ⟨0x40080, 8, 3, ctrReg⟩, ⟨0x400A0, 8, 3, ctrReg⟩,
  one 0x50000 (rwK (span 4 4 + span 1 0) 0),
  ⟨0x50008, 8, 3, { sup := false, rc := span 31 0, kept := span 31 0 }⟩,
  one 0x50020 (rwK 1 0), one 0x50028 (rwK (span 10 8 + span 6 0) 0), one 0x50030 roS,
  one 0x50038 { kept := span 63 63 + span 31 0 },
  ⟨0x50040, 8, 3, ctrReg⟩,
  one 0x60000 roS, ⟨0x60040, 8, 12, ctrReg⟩, ⟨0x60100, 8, 3, ctrReg⟩, one 0x60118 roS ]

/-- Table 17.5. -/
def regsBuffers : List RegRow := [
  ⟨0x70000, 0x40, 8, rwS (span 41 6) 0⟩, ⟨0x70008, 0x40, 8, rwS (span 41 12) 0⟩,
  ⟨0x70010, 0x40, 8, rwS (span 55 32 + 1) 0⟩, ⟨0x70018, 0x40, 8, { w1c := span 62 61 }⟩,
  ⟨0x70400, 8, 6, ctrReg⟩,
  ⟨0x71000, 0x10, 256, rwS (span 31 0) 0xFFFFFFFF⟩, ⟨0x71008, 0x10, 256, roS⟩,
  one 0x80000 roS, one 0x80008 roS, one 0x80010 (rwS (span 41 6) 0), one 0x80018 (rwS (span 4 0) 0x14),
  one 0x80020 roS,
  ⟨0x80100, 0x20, 4, rwS (span 41 6) 0⟩, ⟨0x80108, 0x20, 4, rwS (span 4 0) 0xC⟩, ⟨0x80110, 0x20, 4, roS⟩,
  ⟨0x80118, 0x20, 4, { rc := span 63 0 }⟩,
  one 0x80180 roS, ⟨0x80200, 8, 8, ctrReg⟩ ]

/-- Table 17.6. -/
def regsDomain : List RegRow := [
  ⟨0x90000, 0x40, 64, rwS (span 63 63 + span 52 48 + span 45 40 + span 37 32 + span 29 24 + span 20 16 + span 12 8 +
    span 4 0) 0x0010010101000000⟩,
  ⟨0x90008, 0x40, 64, rwS (span 19 0) 0x7D0⟩, ⟨0x90010, 0x40, 64, rwS (span 41 6) 0⟩,
  ⟨0x90018, 0x40, 64, rwS (span 31 0) 0x1000⟩, ⟨0x90020, 0x40, 64, roB⟩, ⟨0x90028, 0x40, 64, roB⟩,
  one 0x91000 { w1c := 1 }, ⟨0x91100, 8, 9, ctrReg⟩,
  one 0xA0000 (rwK (span 49 48 + span 41 36 + span 35 30 + span 29 24 + span 14 0) 0x0002001041000000),
  one 0xA0008 roS, one 0xA0010 (rwK (span 19 0) 0x64), one 0xA0018 (rwK (span 41 6) 0),
  one 0xA0020 (rwK (span 47 32 + span 4 0) 0x14), one 0xA0028 (rwK (span 15 0) 0x40),
  ⟨0xA0100, 0x40, 6, rwS 1 0⟩, ⟨0xA0108, 0x40, 6, { w1c := span 11 11 }⟩, ⟨0xA0110, 0x40, 6, roS⟩,
  ⟨0xA0118, 0x40, 6, { rc := span 63 0 }⟩, ⟨0xA0400, 8, 6, ctrReg⟩,
  one 0xB0000 roS, one 0xB0008 (rwK (span 6 0) 0x40), one 0xB0010 (rwK (span 15 0) 0x3E8),
  one 0xB0018 (rwK (span 41 21) 0), one 0xB0020 (rwK (span 20 0) 0), one 0xB0028 (rwK (span 7 0) 0x10),
  one 0xB0030 (rwK (span 41 6) 0), one 0xB0038 (rwK (span 4 0) 0x10), one 0xB0040 roS,
  one 0xB0048 (rwS (span 4 0) 0), one 0xB0050 roS, one 0xB0058 roS, one 0xB0060 roS,
  one 0xB0068 { w1c := span 4 0 }, ⟨0xB0100, 8, 7, ctrReg⟩ ]

/-- Table 17.7, but for the PMC_ mirror (R374). -/
def regsSystem : List RegRow := [
  ⟨0xC0000, 8, 256, { rw := span 47 0, w1c := span 63 63, kept := span 63 63 + span 47 0 }⟩,
  ⟨0xC0800, 8, 256, rwK (span 63 61 + span 45 32 + span 27 24 + span 22 16 + span 9 0) 0x0F000000⟩,
  one 0xC1000 { rw := span 2 0 }, one 0xC1008 (rwS 3 0),
  one 0xC1100 (rwS (span 63 63 + span 19 0) 0x3E8),
  ⟨0xC1200, 8, 54, roS⟩, one 0xC1400 (rwK (span 63 63 + span 13 0) 0),
  ⟨0xC1500, 8, 6, roS⟩, one 0xC1600 roS, one 0xC1608 ctrReg, ⟨0xC1610, 8, 4, roS⟩,
  one 0xD0000 roS, one 0xD0008 (rwK (span 41 6) 0),
  one 0xD0010 { w1c := span 16 16 + span 7 7, kept := span 16 16 + span 7 7 },
  one 0xD0018 (rwK (span 41 6) 0), one 0xD0020 (rwK (span 4 0) 0xC), one 0xD0028 roS,
  one 0xD0030 (rwK (span 47 0) 0x000003E802F80348), one 0xD0038 (rwK (span 25 16 + span 9 0) 0x02C602B2),
  one 0xD0040 { rw := span 11 8, rc := span 47 32, rst := 0x800, kept := span 47 32 + span 11 8 },
  one 0xD0048 roS, one 0xD0050 { w1c := span 15 0, kept := span 15 0 }, one 0xD0058 (rwK (span 15 0) 0xFFFF),
  one 0xD0060 roS, one 0xD0068 (rwK (span 31 0) 0x40), one 0xD0070 roS,
  ⟨0xD0078, 8, 6, roS⟩, ⟨0xD00B0, 8, 6, roS⟩, one 0xD00E0 roS,
  ⟨0xD0100, 8, 16, roS⟩, ⟨0xD0200, 8, 32, roS⟩,
  ⟨0xD0300, 8, 16, rwK (span 7 0) 0⟩, ⟨0xD0400, 8, 32, rwK (span 7 0) 0⟩,
  ⟨0xD0E00, 8, 3, ctrReg⟩,
  one 0xE0000 (rwK 1 0), one 0xE0008 ctrReg,
  one 0xE0010 { sup := false, rc := span 47 0, kept := span 47 0 },
  one 0xE0018 { sup := false, kept := span 63 0 } ]

/-- The rows of a unit range (Table 17.1). -/
def regRows (off : Nat) : List RegRow :=
  if off < 0x40000 then regsFront
  else if off < 0x70000 then regsCompute
  else if off < 0x90000 then regsBuffers
  else if off < 0xC0000 then regsDomain
  else regsSystem

/-- Row `r` holds offset `off`. -/
def RegRow.holds (r : RegRow) (off : Nat) : Bool :=
  r.base ≤ off && (off - r.base) % r.stride == 0 && (off - r.base) / r.stride < r.count

/-- The register at an offset; none where the offset is unmapped (R400). -/
def regInfo (off : Nat) : Option Reg := ((regRows off).find? (·.holds off)).map (·.reg)

/-- The reset value of the stored bits of an offset (R112, R402). -/
def csrReset (off : Nat) : Nat :=
  if 0x30000 ≤ off ∧ off < 0x38000 then
    (if 16 ≤ (off - 0x30000) / 0x200 ∧ (off - 0x30000) / 0x200 ≤ 31 ∧ (off - 0x30000) / 0x100 % 2 = 0 then
      0x3C3C3C3C3C3C3C3C else 0xFFFFFFFFFFFFFFFF)
  else match regInfo off with
    | some r => r.rst
    | none => 0

/-- The stored bits at an offset. -/
def csrGet (s : State) (off : Nat) : Nat := slook csrReset s.csr off

/-- The state with the stored bits at an offset replaced. -/
def csrPut (s : State) (off v : Nat) : State := { s with csr := sput csrReset s.csr off v }

/-- A stored field: bits `[lo + w - 1 : lo]`. -/
def csrField (s : State) (off lo w : Nat) : Nat := bits (csrGet s off) lo w

/-- Sets stored bits by mask, as hardware does. -/
def csrSet (s : State) (off mask : Nat) : State := csrPut s off (csrGet s off ||| mask)

/-- Clears stored bits by mask. -/
def csrClr (s : State) (off mask : Nat) : State := csrPut s off (csrGet s off &&& (span 63 0 ^^^ mask))

/-- Adds to a counting field, which stops at its maximum. -/
def countF (s : State) (off lo w n : Nat) : State :=
  if n = 0 then s
  else csrPut s off (setBits (csrGet s off) lo w (min (csrField s off lo w + n) (2 ^ w - 1)))

/-- Adds to a 48-bit counter register, which stops at its maximum. -/
def countC (s : State) (off n : Nat) : State := countF s off 0 48 n

/-! Offsets that the meanings name. -/

/-- CQ_CTL[q] -/
def oCqCtl (q : Nat) : Nat := 0x10000 + 0x100 * q
/-- CQ_SBASE[q] -/
def oCqSbase (q : Nat) : Nat := 0x10008 + 0x100 * q
/-- CQ_CBASE[q] -/
def oCqCbase (q : Nat) : Nat := 0x10010 + 0x100 * q
/-- CQ_FLAGWIN[q] -/
def oCqFlagwin (q : Nat) : Nat := 0x10018 + 0x100 * q
/-- CQ_STATUS[q] -/
def oCqStatus (q : Nat) : Nat := 0x10060 + 0x100 * q
/-- rota entry register j of bank b of instance i -/
def oRota (i b j : Nat) : Nat := 0x30000 + 0x200 * i + 0x100 * b + 8 * j
/-- SHD_CTL[s] -/
def oShdCtl (i : Nat) : Nat := 0x70010 + 0x40 * i
/-- SHD_STAT[s] -/
def oShdStat (i : Nat) : Nat := 0x70018 + 0x40 * i
/-- SHD_AREA[s] -/
def oShdArea (i : Nat) : Nat := 0x70000 + 0x40 * i
/-- SHD_BASE[s] -/
def oShdBase (i : Nat) : Nat := 0x70008 + 0x40 * i
/-- SHD_QLIM[c] -/
def oShdQlim (c : Nat) : Nat := 0x71000 + 0x10 * c
/-- COL_GRP[g] -/
def oColGrp (g : Nat) : Nat := 0x90000 + 0x40 * g
/-- COL_PROG[g] -/
def oColProg (g : Nat) : Nat := 0x90010 + 0x40 * g
/-- COL_CAIRN[g] -/
def oColCairn (g : Nat) : Nat := 0x90018 + 0x40 * g
/-- FAB_PCTL[n] -/
def oFabPctl (n : Nat) : Nat := 0xA0100 + 0x40 * n
/-- FAB_PSTAT[n] -/
def oFabPstat (n : Nat) : Nat := 0xA0108 + 0x40 * n
/-- FAB_PERR[n] -/
def oFabPerr (n : Nat) : Nat := 0xA0118 + 0x40 * n
/-- PMC_CNT[i] -/
def oPmcCnt (i : Nat) : Nat := 0xC0000 + 8 * i
/-- PMC_CFG[i] -/
def oPmcCfg (i : Nat) : Nat := 0xC0800 + 8 * i

end Sys2Proof.Machine
end

