-- ==== Sys2Proof/Machine/Ops.lean ====
section
/-! DEFINITION. The named operations that the meanings share: tables of the engine, host memory with the errors that
its answers carry, the log, the fault bits, the counters and the rota. -/

namespace Sys2Proof.Machine

/-! ## Tables: an entry not listed is at its reset state -/

/-- Queue `q`. -/
def queue (s : State) (q : Nat) : Queue := slook (fun _ => {}) s.front.queues q
/-- Replaces queue `q`. -/
def setQueue (s : State) (q : Nat) (x : Queue) : State :=
  { s with front := { s.front with queues := sput (fun _ => {}) s.front.queues q x } }
/-- Context `c`. -/
def ctx (s : State) (c : Nat) : Ctx := slook (fun _ => {}) s.ctxs c
/-- Replaces context `c`. -/
def setCtx (s : State) (c : Nat) (x : Ctx) : State := { s with ctxs := sput (fun _ => {}) s.ctxs c x }
/-- Shed `i`. -/
def shed (s : State) (i : Nat) : Shed := slook (fun _ => {}) s.shd.sheds i
/-- Replaces Shed `i`. -/
def setShed (s : State) (i : Nat) (x : Shed) : State :=
  { s with shd := { s.shd with sheds := sput (fun _ => {}) s.shd.sheds i x } }
/-- Group `g`. -/
def grp (s : State) (g : Nat) : Grp := slook (fun _ => {}) s.col.grps g
/-- Replaces group `g`. -/
def setGrp (s : State) (g : Nat) (x : Grp) : State :=
  { s with col := { s.col with grps := sput (fun _ => {}) s.col.grps g x } }
/-- Fabric port `n`. -/
def port (s : State) (n : Nat) : Port := slook (fun _ => {}) s.fab.ports n
/-- Replaces port `n`. -/
def setPort (s : State) (n : Nat) (x : Port) : State :=
  { s with fab := { s.fab with ports := sput (fun _ => {}) s.fab.ports n x } }
/-- Placement slot `i`. -/
def pslot (s : State) (i : Nat) : PSlot := slook (fun _ => {}) s.plc.slots i
/-- Replaces placement slot `i`. -/
def setPslot (s : State) (i : Nat) (x : PSlot) : State :=
  { s with plc := { s.plc with slots := sput (fun _ => {}) s.plc.slots i x } }
/-- Ticket `n`. -/
def ticket (s : State) (n : Nat) : Ticket := slook (fun _ => {}) s.disp.tickets n
/-- Replaces ticket `n`. -/
def setTicket (s : State) (n : Nat) (x : Ticket) : State :=
  { s with disp := { s.disp with tickets := sput (fun _ => {}) s.disp.tickets n x } }

/-! ## Host memory (R4, R32, R33) -/

/-- What an unlisted byte of host memory reads as (log entry 4). -/
def memDefault (_ : Nat) : Byte := 0#8

/-- One byte at a 42-bit local address. -/
def rdByte (m : HostMem) (a : Nat) : Byte := slook memDefault m.cells (a % 2 ^ 42)

/-- Writes one byte. -/
def wrByte (m : HostMem) (a : Nat) (v : Byte) : HostMem := { m with cells := sput memDefault m.cells (a % 2 ^ 42) v }

/-- `n` bytes from address `a`. -/
def rdBytes (m : HostMem) : Nat → Nat → List Byte
  | _, 0 => []
  | a, n + 1 => rdByte m a :: rdBytes m (a + 1) n

/-- Writes bytes from address `a` upward. -/
def wrBytes (m : HostMem) : Nat → List Byte → HostMem
  | _, [] => m
  | a, b :: bs => wrBytes (wrByte m a b) (a + 1) bs

/-- The little-endian number of `n` bytes at `a`. -/
def rdNum (m : HostMem) (a n : Nat) : Nat := leNat (rdBytes m a n)

/-- Writes a number as `n` little-endian bytes at `a`. -/
def wrNum (m : HostMem) (a n v : Nat) : HostMem := wrBytes m a (leBytes n v)

/-- What the host answers for a granule. -/
def markAt (m : HostMem) (g : Nat) : Mark := slook (fun _ => {}) m.marks g

/-- The granules that `n` bytes at `a` touch. -/
def granules (a n : Nat) : List Nat :=
  if n = 0 then [] else (List.range ((a + n - 1) / 64 - a / 64 + 1)).map (fun i => (a / 64 + i) % 2 ^ 36)

/-- The error code of a read of `n` bytes at `a` (R32): 0 none, 1 poison (level 2 only), 2 decode error, which takes
precedence. -/
def rdCode (lvl2 : Bool) (m : HostMem) (a n : Nat) : Nat :=
  if (granules a n).any (fun g => (markAt m g).rdErr) then 2
  else if lvl2 && (granules a n).any (fun g => (markAt m g).poison) then 1 else 0

/-- A write of `n` bytes at `a` is acknowledged with MPn_WA_ERR (R33). -/
def wrBad (m : HostMem) (a n : Nat) : Bool := (granules a n).any (fun g => (markAt m g).wrErr)

/-- `n` indeterminate bytes at `a`: free values, each drawn anew (R33, log entry 5). -/
def wrFree (m : HostMem) : Nat → Nat → HostMem
  | _, 0 => m
  | a, n + 1 => wrFree { wrByte m a (Config.freeByte m.draws) with draws := m.draws + 1 } (a + 1) n

/-- A write with its acknowledgement: the bytes, or free bytes and `true` where it is refused (R33). -/
def wrTry (m : HostMem) (a : Nat) (bs : List Byte) : HostMem × Bool :=
  if wrBad m a bs.length then (wrFree m a bs.length, true) else (wrBytes m a bs, false)

/-- MP protocol level 2 (DX_MPLVL, R32). -/
def mpLvl2 (s : State) : Bool := s.glb.straps.mplvl == 2#2

/-- Replaces host memory. -/
def setMem (s : State) (m : HostMem) : State := { s with mem := m }

/-! ## Time, log, faults -/

/-- GLB_TIME, 64 bits. -/
def now (s : State) : Nat := s.glb.time % 2 ^ 64

/-- Makes a log entry (R392, R393): an unflushed entry that it overwrites counts in MGT_LOGLOST. -/
def logEntry (s : State) (code sev cx detail unit : Nat) : State :=
  let seq := s.mgt.next
  let full := decide ((seq + 2 ^ 32 - s.mgt.flushed) % 2 ^ 32 ≥ 2048)
  let e := (seq * 2 ^ 32 + (code % 2 ^ 16) * 2 ^ 16 + (sev % 4) * 2 ^ 14, now s,
    (cx % 2 ^ 14) * 2 ^ 32 + detail % 2 ^ 32, unit % 2 ^ 16)
  let s1 := { s with mgt := { s.mgt with
    log := sput (fun _ => (0, 0, 0, 0)) s.mgt.log (seq % 2048) e,
    next := (seq + 1) % 2 ^ 32,
    flushed := if full then (s.mgt.flushed + 1) % 2 ^ 32 else s.mgt.flushed } }
  if full then countC s1 0xD0E00 1 else s1

/-- Sets a bit of MGT_FAULT (R396). -/
def faultBit (s : State) (n : Nat) : State := csrSet s 0xD0050 (2 ^ n)

/-- Logs a fault of Table 16.7 and sets its bit. -/
def raiseFault (s : State) (code sev bitNo cx detail unit : Nat) : State :=
  faultBit (logEntry s code sev cx detail unit) bitNo

/-- Changes GLB_STATUS.STATE; every change sets STCHG (R399). -/
def setBoot (s : State) (b : BootState) : State :=
  if s.glb.boot = b then s else csrSet { s with glb := { s.glb with boot := b } } 0x20 (2 ^ 16)

/-! ## Event counters (R360 to R364) -/

/-- The filters of counter configuration `cfg` pass an event (R361). -/
def pmcPass (cfg ev : Nat) (inst cx cls : Option Nat) : Bool :=
  bit cfg 63 && bits cfg 0 10 == ev &&
  (match inst with
    | none => true
    | some i => bit cfg 22 || bits cfg 16 6 == i) &&
  (!bit cfg 61 || cx == some (bits cfg 32 14)) &&
  (match cls with
    | none => bits cfg 24 4 == 15
    | some c => bit (bits cfg 24 4) c)

/-- Adds to counter `i`: COUNT wraps modulo 2^48; a wrap of the even counter of a chained pair goes to the odd one,
any other sets OVF (R360, R363). -/
def pmcBump (s : State) (i n : Nat) : State :=
  let t := csrField s (oPmcCnt i) 0 48 + n
  let s1 := csrPut s (oPmcCnt i) (setBits (csrGet s (oPmcCnt i)) 0 48 t)
  if t < 2 ^ 48 then s1
  else if i % 2 = 0 ∧ bit (csrGet s (oPmcCfg i)) 62 then
    let u := csrField s1 (oPmcCnt (i + 1)) 0 48 + t / 2 ^ 48
    let s2 := csrPut s1 (oPmcCnt (i + 1)) (setBits (csrGet s1 (oPmcCnt (i + 1))) 0 48 u)
    if u < 2 ^ 48 then s2 else csrSet s2 (oPmcCnt (i + 1)) (2 ^ 63)
  else csrSet s1 (oPmcCnt i) (2 ^ 63)

/-- Counter `i` is the odd half of a chained pair. -/
def pmcOddChained (s : State) (i : Nat) : Bool := i % 2 == 1 && bit (csrGet s (oPmcCfg (i - 1))) 62

/-- Adding `n` to counter `i` sets an OVF bit (R360, R363). -/
def pmcWraps (s : State) (i n : Nat) : Bool :=
  let t := csrField s (oPmcCnt i) 0 48 + n
  if i % 2 = 0 ∧ bit (csrGet s (oPmcCfg i)) 62 then decide (2 ^ 48 ≤ csrField s (oPmcCnt (i + 1)) 0 48 + t / 2 ^ 48)
  else decide (2 ^ 48 ≤ t)

/-- Reports an amount of an event of Table 15.1 to every counter (R360 to R364). -/
def pmcEvent (s : State) (ev : Nat) (inst cx cls : Option Nat) (n : Nat) : State :=
  if n = 0 ∨ csrField s 0xC1000 0 1 = 0 ∨ csrField s 0xC1000 2 1 = 1 then s
  else
    let hit := fun i => !pmcOddChained s i && pmcPass (csrGet s (oPmcCfg i)) ev inst cx cls
    let t := (List.range 256).foldl (fun u i => if hit i then pmcBump u i n else u) s
    if csrField s 0xC1000 1 1 = 1 ∧ (List.range 256).any (fun i => hit i && pmcWraps s i n) then csrSet t 0xC1000 4 else t

/-- Credits bytes to the bandwidth window of port `j`, direction `d` (R365, Table 15.2). -/
def bwAdd (s : State) (j d n : Nat) : State :=
  if bit (csrGet s 0xC1100) 63 then
    { s with pmc := { s.pmc with
      bwAcc := sput (fun _ => 0) s.pmc.bwAcc (2 * j + d) (slook (fun _ => 0) s.pmc.bwAcc (2 * j + d) + n) } }
  else s

/-- Counts a timing-dependent choice of source `src` (R354). -/
def tdcCount (s : State) (src : Nat) : State :=
  let s1 := countC s 0xE0008 1
  let s2 := countF s1 0xE0010 (16 * src) 16 1
  let s3 := if bit (csrGet s2 0xE0018) 0 then s2
    else csrPut s2 0xE0018 ((now s % 2 ^ 32) * 2 ^ 32 + src * 2 + 1)
  pmcEvent s3 0x071 (some src) none none 1

/-- Adds to context counter `n` of Table 15.3, which wraps silently (R367). -/
def ctxCount (s : State) (c n k : Nat) : State :=
  if k = 0 then s else
  setCtx s c { ctx s c with cnt := (ctx s c).cnt.set n ((nth (ctx s c).cnt n + k) % 2 ^ 48) }

/-- Adds to the expert counters of the watched context (R368): SEL, KEPT or DROP by `which` 0, 1, 2. -/
def xcntAdd (s : State) (c expert which k : Nat) : State :=
  let r := csrGet s 0xC1400
  if bit r 63 && bits r 0 14 == c && (ctx s c).st == .open then
    let (a, b, d) := slook (fun _ => (0, 0, 0)) s.pmc.xcnt expert
    let v := match which with
      | 0 => ((a + k) % 2 ^ 48, b, d)
      | 1 => (a, (b + k) % 2 ^ 48, d)
      | _ => (a, b, (d + k) % 2 ^ 48)
    { s with pmc := { s.pmc with xcnt := sput (fun _ => (0, 0, 0)) s.pmc.xcnt expert v } }
  else s

/-! ## Rota (R107 to R112) -/

/-- The owner code in slot `k` of the active table of instance `i`. -/
def rotaSlot (s : State) (i k : Nat) : Nat :=
  bits (csrGet s (oRota i (b2n (bit s.rotaActive i)) (k / 8))) (8 * (k % 8)) 8

/-- The active table of instance `i` holds a slot of owner `code`. -/
def rotaHolds (s : State) (i code : Nat) : Bool :=
  (List.range 32).any (fun j =>
    let w := csrGet s (oRota i (b2n (bit s.rotaActive i)) j)
    (List.range 8).any (fun m => bits w (8 * m) 8 == code))

/-- The pending switch of instance `i` takes effect (R110). -/
def rotaToggle (s : State) (i : Nat) : State :=
  { s with rotaActive := s.rotaActive ^^^ 2 ^ i, rotaPend := setBits s.rotaPend i 1 0 }

/-- Some enabled memory port gives owner `code` a slot (R31, R107). -/
def holdsMp (s : State) (code : Nat) : Bool :=
  (List.range 16).any (fun n => s.glb.straps.mpen.getLsbD n && rotaHolds s (16 + n) code)

/-- The egress of fabric port `n` gives owner `code` a slot. -/
def holdsFp (s : State) (n code : Nat) : Bool := rotaHolds s (32 + n) code

/-! ## Service -/

/-- The engine is in READY. -/
def isReady (s : State) : Bool := s.glb.boot == .ready

/-- The contents of the engine are indeterminate (R21, R40, log entry 10). What is not the engine's stays: the queue of
commands, host memory, the pins that the host and the PHYs drive, the fuses in the block; and the test port. -/
def loseState (s : State) : State :=
  let w := Config.anyState s.draws
  { w with pending := s.pending, mem := s.mem, draws := s.draws + 1, test := s.test,
           glb := { w.glb with indeterminate := true, wrstLow := s.glb.wrstLow, fuseBlock := s.glb.fuseBlock,
                               straps := s.glb.straps },
           fab := { w.fab with ports := (List.range 6).map (fun n => (n, { port w n with phyRdy := (port s n).phyRdy })) } }

/-- A command reaches the engine: after WS_INTEST_SCAN or WS_MBIST it gives no service (R40), and after a clock stop
its state is indeterminate (R21, log entry 10); only a cold reset leaves either. -/
def served (f : State → State) (s : State) : State :=
  if s.test.noService then s else if s.glb.indeterminate then loseState s else f s

/-- Work of the engine's units: they work in READY alone, for before it they are not served (R43) and a warm reset stops
them and discards what they hold (R44, Table 02.17). -/
def working (f : State → State) (s : State) : State := served (fun u => if isReady u then f u else u) s

end Sys2Proof.Machine
end

