-- ==== Sys2Proof/Machine/Operands.lean ====
section
/-! DEFINITION. Operand forms: the command word (Tables 04.1 to 04.3), the context parameter block (Table 04.9) and
operands that name structures in memory (R74). -/

namespace Sys2Proof.Machine

/-- The opcodes of Table 04.2. -/
def opcodes : List Nat := [0x00, 0x04, 0x05, 0x08, 0x09, 0x0A, 0x10, 0x11, 0x12, 0x13, 0x18, 0x19, 0x20, 0x21, 0x22,
  0x23, 0x24, 0x28, 0x29, 0x2A, 0x2B, 0x30, 0x31, 0x32, 0x38, 0x39, 0x40, 0x41, 0x42, 0x43, 0x44, 0x48, 0x49, 0x4A,
  0x50]

/-- Opcodes that Table 04.2 marks supervisor, SAMPLE apart (R375). -/
def opSupervisor (opc : Nat) : Bool := [0x48, 0x49, 0x4A].contains opc

/-- Opcodes that level 2 lacks (Table 04.3). -/
def opLevel3 (opc : Nat) : Bool := [0x11, 0x24, 0x48, 0x49, 0x4A, 0x50].contains opc

/-- Opcodes of the pipe and scoring instructions that R395 leaves to R114. -/
def opPipe (opc : Nat) : Bool := [0x10, 0x11, 0x13, 0x30, 0x31, 0x32].contains opc

/-- Opcodes that act normally while the service level is NONE (R395). -/
def opBasic (opc : Nat) : Bool := [0x00, 0x04, 0x05, 0x08, 0x09].contains opc

/-- The fields of a command word of 256 bits, under the level in force (R73, R77, Tables 04.1 and 04.3). -/
def decodeWord (lvl q sub w : Nat) : Cmd :=
  { q := q, sub := sub,
    opc := bits w 0 8, subop := bits w 8 4, fence := bit w 12, event := bit w 13, wtagV := bit w 14,
    ctx := if lvl = 2 then bits w 16 12 else bits w 16 14,
    tag := if lvl = 2 then bits w 30 8 else bits w 30 9,
    wtag := if lvl = 2 then bits w 39 8 else bits w 39 9,
    batch := bits w 48 16,
    a := bits w 64 64, b := bits w 128 64, c := bits w 192 64,
    level := lvl }

/-- The level in force: GLB_IFACE_SEL.LEVEL, where 0b00 and 0b01 act as 0b11. -/
def cmdLevel (s : State) : Nat := if csrField s 0x10 0 2 = 2 then 2 else 3

/-- The local address of a structure in an operand (R74). -/
def opAddr (x : Nat) : Nat := bits x 6 36 * 64

/-- An optional structure is absent (R74). -/
def absent (x : Nat) : Bool := x == 0

/-! Queue registers. -/

/-- CQ_CTL.SUPV -/
def qSupv (s : State) (q : Nat) : Bool := bit (csrGet s (oCqCtl q)) 1
/-- CQ_CTL.EN -/
def qEn (s : State) (q : Nat) : Bool := bit (csrGet s (oCqCtl q)) 0
/-- CQ_CTL.JOB -/
def qJob (s : State) (q : Nat) : Nat := csrField s (oCqCtl q) 48 16
/-- A size field that acts as a value between `lo` and `hi`. -/
def clampN (lo hi x : Nat) : Nat := max lo (min hi x)
/-- log2 of the submission ring's length -/
def qSlog2 (s : State) (q : Nat) : Nat := clampN 4 16 (csrField s (oCqCtl q) 32 5)
/-- log2 of the completion ring's length -/
def qClog2 (s : State) (q : Nat) : Nat := clampN 4 16 (csrField s (oCqCtl q) 40 5)
/-- CQ_CTL.WINDOW; 0 means 512 -/
def qWindow (s : State) (q : Nat) : Nat :=
  if csrField s (oCqCtl q) 8 9 = 0 then 512 else csrField s (oCqCtl q) 8 9
/-- The absolute flag that flag number `n` of a command of queue `q` names (R90). -/
def absFlag (s : State) (q n : Nat) : Nat :=
  let n := n % 1024
  if qSupv s q then n
  else
    let w := csrGet s (oCqFlagwin q)
    (bits w 0 10 + n % 2 ^ (min 10 (bits w 16 4))) % 1024

/-! The context parameter block (Table 04.9). -/

/-- word `i` of the block in force -/
def pbWord (k : Ctx) (i : Nat) : Nat := nth k.pb i
/-- GROUP -/
def pbGroup (k : Ctx) : Nat := bits (pbWord k 0) 52 6
/-- CLASS -/
def pbClass (k : Ctx) : Nat := bits (pbWord k 0) 50 2
/-- ROUTE -/
def pbRoute (k : Ctx) : Nat := bits (pbWord k 0) 48 2
/-- D -/
def pbD (k : Ctx) : Nat := bits (pbWord k 0) 32 16
/-- K -/
def pbK (k : Ctx) : Nat := bits (pbWord k 0) 16 5
/-- EXPERTS -/
def pbE (k : Ctx) : Nat := bits (pbWord k 0) 0 13
/-- QCLASS -/
def pbQclass (k : Ctx) : Nat := bits (pbWord k 1) 48 8
/-- CAP_MAX -/
def pbCapMax (k : Ctx) : Nat := bits (pbWord k 1) 16 32
/-- CAP_FACTOR -/
def pbCapFactor (k : Ctx) : Nat := bits (pbWord k 1) 0 16
/-- SEED -/
def pbSeed (k : Ctx) : Nat := pbWord k 2
/-- LAYER_SEED -/
def pbLayerSeed (k : Ctx) : Nat := pbWord k 3

/-- The block that a CTXLOAD puts in force: GROUP, CLASS, D, K and EXPERTS stay those of CTXOPEN (R101). -/
def pbReload (old new : List Nat) : List Nat :=
  let o := nth old 0
  [bits (nth new 0) 48 2 * 2 ^ 48 + (o - bits o 48 2 * 2 ^ 48), nth new 1, nth new 2, nth new 3]

/-- The first `n` 64-bit words at a structure's address. -/
def rdWords (m : HostMem) (a : Nat) : Nat → List Nat
  | 0 => []
  | n + 1 => rdNum m a 8 :: rdWords m (a + 8) n

end Sys2Proof.Machine
end

