-- ==== Sys2Proof/Machine/Issue.lean ====
section
/-! DEFINITION. Issue and completion of commands (R84 to R104): which in-flight command may issue, the checks made at
issue, and what a unit's report does. -/

namespace Sys2Proof.Machine

/-! ## The in-flight set -/

/-- The in-flight command of queue `q` with TAG `tag` (R82). -/
def findCmd (s : State) (q tag : Nat) : Option Cmd := s.front.inflight.find? (fun c => c.q == q && c.tag == tag)

/-- Replaces the command with the queue and tag of `x`. -/
def setCmd (s : State) (x : Cmd) : State :=
  { s with front := { s.front with
    inflight := s.front.inflight.map (fun c => if c.q == x.q && c.tag == x.tag then x else c) } }

/-- The command has reported that it finished (R94). -/
def Cmd.isFinished (c : Cmd) : Bool := match c.st with | .finished _ => true | _ => false

/-- The command executes in its unit or has issued and waits there: it counts as issued under R84. -/
def Cmd.inUnit (c : Cmd) : Bool :=
  match c.st with
  | .exec | .stopped | .held | .waitTokens | .waitTicket _ | .waitShed _ _ => true
  | _ => false

/-- The command executes: it has issued and waits for no event of R102's list. One that stands for want of rota slots
(R107) executes all the same. -/
def Cmd.executing (c : Cmd) : Bool := c.st == .exec || c.st == .stopped

/-- Commands of queue `q` in flight. -/
def qInflight (s : State) (q : Nat) : Nat := (s.front.inflight.filter (fun c => c.q == q)).length

/-- The report of a unit: the command is finished and its queue's record list gains it (R94). -/
def report (s : State) (q tag : Nat) (r : Report) : State :=
  match findCmd s q tag with
  | none => s
  | some c =>
    if c.isFinished then s else
    let s1 := setCmd s { c with st := .finished { r with tcomp := now s } }
    setQueue s1 q { queue s1 q with done := (queue s1 q).done ++ [tag] }

/-- A report with a status, a detail word, a result and a batch epoch. -/
def finish (s : State) (q tag status detail result epoch : Nat) : State :=
  report s q tag { status := status, detail := detail, result := result, epoch := epoch }

/-- A report with status OK. -/
def finishOk (s : State) (q tag result : Nat) : State := finish s q tag 0x00 0 result 0

/-! ## Status codes (Table 04.6) -/

/-- OK_DROPS -/
def stOkDrops : Nat := 0x01
/-- OK_WAITED -/
def stOkWaited : Nat := 0x02
/-- CANCELLED -/
def stCancelled : Nat := 0x10
/-- SIGNATURE_MISMATCH -/
def stSigMis : Nat := 0x11
/-- STALLED -/
def stStalled : Nat := 0x12
/-- MEMBER_LOST -/
def stMemberLost : Nat := 0x13
/-- SHED_EXHAUSTED -/
def stExhausted : Nat := 0x20
/-- QUOTA_EXCEEDED -/
def stQuota : Nat := 0x21
/-- ECC_UNCORRECTABLE -/
def stEcc : Nat := 0x30
/-- RESIDUE_FAULT -/
def stResidue : Nat := 0x31
/-- CONTEXT_CLOSED -/
def stClosed : Nat := 0x3E
/-- ILLEGAL_OPCODE -/
def stIllegal : Nat := 0x3F
/-- FABRIC_UNREACHABLE -/
def stUnreach : Nat := 0x40

/-! ## Service level (R394) -/

/-- The active cores as a bit mask of physical cores: neither fused off nor disabled, the four of lowest number
(R113, R114). -/
def coreActive (s : State) : List Nat :=
  ((List.range 5).filter (fun i => !bit s.glb.fuses.cores i && !bit (csrGet s 0x40008) i)).take 4

/-- The number N of active cores. -/
def coreCount (s : State) : Nat := (coreActive s).length

/-! ## Issue (R87 to R89) -/

/-- The input crossings to which commands issue: the Executing unit column of Table 04.2, with the one crossing of the
scoring cores that R132 and R227 give to SCORE, SCOREV, HASHSEL, RGRAD, ACT, NORM and SOFTMAX. -/
inductive Unit4 where
  | front | loader | scoring | selection | yard | combine | coll | placement | counters
  deriving DecidableEq, Repr

/-- The crossing of an opcode (Table 04.2, R124, R132, R173, R221, R271). -/
def unitOf (opc : Nat) : Unit4 :=
  if opc = 0x0A then .loader
  else if [0x10, 0x11, 0x12, 0x13, 0x30, 0x31, 0x32].contains opc then .scoring
  else if opc = 0x18 then .selection
  else if [0x19, 0x20, 0x21, 0x22, 0x23, 0x24, 0x28, 0x29].contains opc then .yard
  else if opc = 0x2A then .combine
  else if [0x40, 0x41, 0x42, 0x43, 0x44].contains opc then .coll
  else if [0x48, 0x49, 0x4A].contains opc then .placement
  else if opc = 0x50 then .counters
  else .front

/-- The in-flight commands admitted before `c`; the list is in admission order (R83). -/
def admittedBefore (s : State) (c : Cmd) : List Cmd :=
  s.front.inflight.takeWhile (fun x => !(x.q == c.q && x.tag == c.tag))

/-- The WTAG condition (R87, R88): WTAG refers to an earlier command of the queue. -/
def wtagOk (s : State) (c : Cmd) : Bool :=
  !c.wtagV ||
  (match (admittedBefore s c).find? (fun x => x.q == c.q && x.tag == c.wtag) with
    | none => true
    | some w => c.opc == 0x28 && w.opc == 0x20 && w.ctx == c.ctx && w.batch == c.batch)

/-- The FENCE condition (R87): no command admitted earlier from the same queue is in flight. -/
def fenceOk (s : State) (c : Cmd) : Bool := !c.fence || (admittedBefore s c).all (fun x => x.q != c.q)

/-- Instructions that hold one of the 16 places of the Yard (R173). -/
def yardBusy (s : State) : Nat :=
  (s.front.inflight.filter (fun c => unitOf c.opc == .yard && c.inUnit)).length

/-- Places of the Yard held by SEND and RETURN (R173). -/
def yardHeld (s : State) : Nat :=
  (s.front.inflight.filter (fun c => (c.opc == 0x28 || c.opc == 0x29) && c.inUnit)).length

/-- Instructions that hold the scoring cores (R132). -/
def coresBusy (s : State) : Bool := s.front.inflight.any (fun c => unitOf c.opc == .scoring && c.inUnit)

/-- COMBINEs in the combine unit (R221). -/
def combineBusy (s : State) : Nat := (s.front.inflight.filter (fun c => c.opc == 0x2A && c.inUnit)).length

/-- The group that a collective names (R272): in operand A for CAIRN, in operand C for the others. -/
def groupOf (c : Cmd) : Nat := if c.opc = 0x44 then bits c.a 50 6 else bits c.c 50 6

/-- Another MIGRATE or MEMBERS executes: the placement engine runs one of each (log entry 13). -/
def placementBusy (s : State) (opc : Nat) : Bool := s.front.inflight.any (fun x => x.opc == opc && x.inUnit)

/-- A collective has issued on group `g`, or a PLACE whose exchange takes the group's place (R271, R330). -/
def groupTaken (s : State) (g : Nat) : Bool :=
  (grp s g).active.isSome ||
  s.front.inflight.any (fun x => x.inUnit &&
    ((unitOf x.opc == .coll && groupOf x == g) || (x.opc == 0x48 && x.subop != 2 && pbGroup (ctx s x.ctx) == g)))

/-- The credit condition (R87): of the Yard's 16 credits SEND and RETURN may hold 12, and the other four are those of PLAN
and the layout instructions (R173, R261); the combine unit has 16 (R221); the scoring cores have one, COUNT's crossing and the slot loader's one each (R124, R132); the
collective unit has one per group (R271), which the exchange of a PLACE takes too (R330); PLACE, MIGRATE and MEMBERS wait
while the firmware restarts (R397); the units that the spec gives no number of credits always have one (log entry 13). -/
def creditOk (s : State) (c : Cmd) : Bool :=
  match unitOf c.opc with
  | .yard => if c.opc == 0x28 || c.opc == 0x29 then yardHeld s < 12 else yardBusy s - yardHeld s < 4
  | .combine => combineBusy s < 16
  | .loader => !s.front.inflight.any (fun x => unitOf x.opc == .loader && x.inUnit)
  | .selection => !s.front.inflight.any (fun x => unitOf x.opc == .selection && x.inUnit)
  | .scoring => !coresBusy s
  | .coll => !groupTaken s (groupOf c)
  | .placement => !s.mgt.restarting &&
    (if c.opc = 0x48 then
      !s.front.inflight.any (fun x => x.opc == 0x48 && x.inUnit && x.ctx == c.ctx) &&
      (c.subop == 2 || !groupTaken s (pbGroup (ctx s c.ctx)))
    else !placementBusy s c.opc)
  | _ => true

/-- An executing MEMBERS re-forms the group of the command's context: the command waits (R346). -/
def membersHold (s : State) (c : Cmd) : Bool :=
  s.front.inflight.any (fun x => x.opc == 0x4A && x.inUnit && pbGroup (ctx s x.ctx) == pbGroup (ctx s c.ctx) &&
    !(x.q == c.q && x.tag == c.tag))

/-- The class by which R89 orders commands: that of an OPEN context, and 0 otherwise. -/
def issueClass (s : State) (c : Cmd) : Nat :=
  let k := ctx s c.ctx
  if k.st == .open then pbClass k else 0

/-- The verdict of the checks made at issue. -/
inductive Verdict where
  /-- the command proceeds -/
  | go
  /-- it completes at once with a status and a detail word -/
  | refuse (status detail : Nat)
  /-- it waits -/
  | wait (st : CmdSt)
  deriving DecidableEq, Repr

/-- Stage 1, the opcode (R76, R375, Table 04.3, Table 04.7). -/
def opcodeCheck (s : State) (c : Cmd) : Verdict :=
  if !opcodes.contains c.opc then .refuse stIllegal 0x01
  else if !qSupv s c.q && (opSupervisor c.opc || (c.opc == 0x50 && csrField s 0xC1008 1 1 == 0)) then
    .refuse stIllegal 0x02
  else if c.level = 2 ∧ opLevel3 c.opc then .refuse stIllegal 0x03
  else .go

/-- Stage 2, the context (R99, R100, R103, Table 04.8). A CTXOPEN that waited on a drain has passed the test of its grant at
issue (R103: it waits without failing). -/
def contextCheck (s : State) (c : Cmd) : Verdict :=
  let k := ctx s c.ctx
  let user := !qSupv s c.q
  if c.opc = 0x08 then
    if user && !c.waited && (k.grant != qJob s c.q || qJob s c.q == 0xFFFF) then .refuse stClosed 0x05
    else match k.st with
      | .closed => .go
      | .draining => .wait .waitDrain
      | _ => .refuse stClosed 0x04
  else if user && k.st != .closed && k.job != qJob s c.q then .refuse stClosed 0x03
  else match k.st with
    | .closed => .refuse stClosed 0x01
    | .opening => .wait (if c.opc = 0x09 then .waitDrain else .waitCtx)
    | .open => .go
    | .draining => if c.opc = 0x09 then .wait .waitDrain else .refuse stClosed 0x02

/-- Stage 3, service level (R114, R395): with no active core a pipe or scoring instruction completes with reason 0x10,
every other but the basic ones with reason 0x19. -/
def serviceCheck (s : State) (c : Cmd) : Verdict :=
  if coreCount s = 0 then
    if opPipe c.opc then .refuse stIllegal 0x10
    else if opBasic c.opc then .go
    else .refuse stIllegal 0x19
  else .go

/-- The first check that does not let the command go on. -/
def Verdict.andThen (v : Verdict) (w : Verdict) : Verdict := match v with | .go => w | x => x

/-- The checks of R97 that do not depend on the unit's own rules. -/
def issueCheck (s : State) (c : Cmd) : Verdict :=
  ((opcodeCheck s c).andThen (contextCheck s c)).andThen (serviceCheck s c)

/-- Every core of `l` holds a slot of some memory port. -/
def coresHoldMp (s : State) (l : List Nat) : Bool := l.all (fun i => holdsMp s i)

/-- Every core of `l` gives every lane group a slot of its special-function pipes (R228). -/
def coresHoldSfu (s : State) (l : List Nat) : Bool := l.all (fun i => (List.range 8).all (fun g => rotaHolds s i g))

/-- A Shed serves requests (R253, R406). -/
def shedServes (s : State) (i : Nat) : Bool := bit (csrGet s (oShdCtl i)) 0 && !(shed s i).busy && !(shed s i).failed

/-- The bank at which a command's allocation waits. -/
def Cmd.bank (c : Cmd) : Option Nat := match c.st with | .waitShed i _ => some i | _ => none

/-- The owner code under which a command uses Shed banks: the front end's, or the Yard's of its class (R107). -/
def shedCode (c : Cmd) : Nat := if unitOf c.opc = .front then 0x08 else 0x10 + c.cls

/-- The Yard holds the port slots and memory-port slots of class `k`. -/
def yardHolds (s : State) (k : Nat) : Bool :=
  rotaHolds s 8 (0x10 + k) && rotaHolds s 9 (0x14 + k) && holdsMp s (0x10 + k) && holdsMp s (0x14 + k)

/-- The lowest enabled memory port that gives owner `code` a slot (R31: the engine chooses; log entry 14). -/
def mpPortFor (s : State) (code : Nat) : Option Nat :=
  (List.range 16).find? (fun n => s.glb.straps.mpen.getLsbD n && rotaHolds s (16 + n) code)

/-- The lowest read tag of port `p` that is not outstanding (R28). -/
def freeReadTag (s : State) (p : Nat) : Option Nat :=
  (List.range 256).find? (fun t => !s.front.reads.any (fun r => r.port == p && r.tag == t))

/-- A read of owner `code` can start: some port gives it a slot, and has a tag. -/
def canRead (s : State) (code : Nat) : Bool :=
  match mpPortFor s code with
  | none => false
  | some p => (freeReadTag s p).isSome

/-- The ticket banks of `n` tickets from number `b` give owner `code` a slot (R196: ticket n lies in bank n mod 16). -/
def holdsBanks (s : State) (b n code : Nat) : Bool :=
  (List.range (min n 16)).all (fun i => rotaHolds s (48 + (b + i) % 16) code)

/-- The ticket banks of `n` tickets from number `b` give some core of `l` a slot. -/
def coresHoldBanks (s : State) (l : List Nat) (b n : Nat) : Bool :=
  (List.range (min n 16)).all (fun i => l.any (fun j => rotaHolds s (48 + (b + i) % 16) j))

/-- The owners that the command's unit works under hold slots (R107, R112). An issued command without them stands in its
unit with no error until they have some (log entry 12). -/
def slotsOk (s : State) (c : Cmd) : Bool :=
  match unitOf c.opc with
  | .front => if c.opc = 0x38 ∨ c.opc = 0x39 then holdsMp s 0x08 else true
  | .loader => coresHoldMp s c.cores
  | .scoring =>
    let pipes := !(c.opc == 0x12 || (c.opc == 0x30 && [0, 1, 12, 13, 14, 15].contains c.subop))
    coresHoldMp s c.cores && (!pipes || coresHoldSfu s c.cores)
  | .selection => coresHoldMp s c.cores
  | .yard => yardHolds s c.cls
  | .combine => holdsMp s 0x18
  | .coll => holdsMp s (0x40 + groupOf c)
  | .placement => holdsMp s 0x38
  | .counters => holdsMp s 0x08

/-- Earlier commands of the same context of which `f` holds. -/
def earlierWaits (s : State) (c : Cmd) (f : Cmd → Bool) : Bool :=
  (admittedBefore s c).any (fun x => x.ctx == c.ctx && f x)

/-- The checks at issue refuse the command, which then completes at once (R89, R102), or it has its credit (R87). -/
def goesOn (s : State) (c : Cmd) : Bool := issueCheck s c != .go || creditOk s c

/-- The command is ready to issue: admitted with its WTAG and FENCE conditions met and its credit free (R87), or waiting at
issue for its context, which has moved (R103, R104). -/
def cmdReady (s : State) (c : Cmd) : Bool :=
  match c.st with
  | .admitted => wtagOk s c && fenceOk s c && !membersHold s c && goesOn s c
  | .waitCtx =>
    (ctx s c.ctx).st != .opening && !membersHold s c && goesOn s c &&
    !earlierWaits s c (fun x => x.opc == 0x09 && x.st == .waitDrain)
  | .waitDrain =>
    if c.opc = 0x08 then
      (ctx s c.ctx).st != .draining && !earlierWaits s c (fun x => x.opc == 0x08 && x.st == .waitDrain)
    else
      ((ctx s c.ctx).st == .open || (ctx s c.ctx).st == .closed) && !earlierWaits s c (fun x => x.st == .waitCtx)
  | _ => false

/-- Of the commands ready for the same unit, none has a lower class, or the same class and an earlier admission (R89). -/
def firstReady (s : State) (c : Cmd) : Bool :=
  s.front.inflight.all (fun x =>
    !(unitOf x.opc == unitOf c.opc && cmdReady s x) || issueClass s x ≥ issueClass s c) &&
  (admittedBefore s c).all (fun x =>
    !(unitOf x.opc == unitOf c.opc && cmdReady s x) || issueClass s x > issueClass s c)

/-- The command changes the state of its context. -/
def Cmd.movesCtx (c : Cmd) : Bool := c.opc == 0x08 || c.opc == 0x09

/-- Changes of a context's state and the checks against it are applied in admission order (R104): of two ready commands of
one context, one of which changes its state, the earlier goes first, whatever their units. -/
def ctxFirst (s : State) (c : Cmd) : Bool :=
  !earlierWaits s c (fun x => (x.movesCtx || c.movesCtx) && cmdReady s x)

/-- The quota class that an allocation of the command charges (R255), as it stands when the command issues. -/
def quotaClass (s : State) (c : Cmd) : Nat :=
  if c.opc = 0x38 ∧ qSupv s c.q then bits c.a 48 8 else pbQclass (ctx s c.ctx)

/-- The command as stamped at issue: time, class, the settings sampled at issue (R58, R89, R255, R340, R370), and the cores
that are active (R114). -/
def stampIssue (s : State) (c : Cmd) : Cmd :=
  { c with tiss := now s, cls := issueClass s c, rmode := csrField s 0x50000 0 2, ovf := bit (csrGet s 0x50000) 4,
           strict := bit (csrGet s 0xE0000) 0, qcls := quotaClass s c, cores := coreActive s,
           dx2 := bit (csrGet s 0x50020) 0 }

/-- The bank at which command `x` waits has what it waits for, a slot apart: a STRICT allocation needs a free buffer of a
Shed that serves (R261). -/
def bankReady (s : State) (sh : Nat) (x : Cmd) : Bool :=
  !x.strict || x.opc == 0x39 || (decide ((shed s sh).free ≠ 0) && shedServes s sh)

/-- Of the commands that wait at Shed bank `sh` under the same owner code and could go on there, none stands before `c` by
class and then by admission (R16, R174). -/
def firstAtBank (s : State) (sh : Nat) (c : Cmd) : Bool :=
  let rival := fun (x : Cmd) => x.bank == some sh && shedCode x == shedCode c && bankReady s sh x
  s.front.inflight.all (fun x => !rival x || x.cls ≥ c.cls) &&
  (admittedBefore s c).all (fun x => !rival x || x.cls > c.cls)

/-- The command may take the issue step now: it is ready and first under R89 and R104, or it has issued and its Shed bank
or its slots let it go on (R107, R261). -/
def mayIssue (s : State) (c : Cmd) : Bool :=
  match c.st with
  | .admitted | .waitCtx | .waitDrain => cmdReady s c && firstReady s c && ctxFirst s c
  | .stopped => slotsOk s c
  | .waitShed sh _ =>
    rotaHolds s (40 + sh) (shedCode c) && firstAtBank s sh c && bankReady s sh c
  | _ => false

/-- What an instruction's work leaves: the state, and where its command then stands. -/
structure Work where
  st : State
  cmd : CmdSt

/-- Puts the command where its work left it; a report that the work itself made stands. -/
def settle (w : Work) (q tag : Nat) : State :=
  match w.cmd with
  | .finished r => report w.st q tag r
  | x => match findCmd w.st q tag with
    | none => w.st
    | some c => if c.isFinished then w.st else setCmd w.st { c with st := x }

/-- Work that is finished with a status, a detail word, a result and a batch epoch. -/
def doneWith (s : State) (status detail result epoch : Nat) : Work :=
  ⟨s, .finished { status := status, detail := detail, result := result, epoch := epoch }⟩

/-- Where an issued command stands that lacks rota slots: at the Shed bank where it waits, or in its unit. -/
def Cmd.standing (c : Cmd) : CmdSt := match c.st with | .waitShed i k => .waitShed i k | _ => .stopped

/-- Work that needs rota slots of its owner: without them the command stands (R107, R112). -/
def withSlots (ok : Bool) (c : Cmd) (s : State) (w : Unit → Work) : Work := if ok then w () else ⟨s, c.standing⟩

/-- The command has issued and goes on with its work: an allocation or a FREE that waited at a Shed bank (R256, R261), or
work that stood for want of slots. -/
def Cmd.resumes (c : Cmd) : Bool := match c.st with | .waitShed _ _ | .stopped => true | _ => false

/-- The issue step of the in-flight command `tag` of queue `q`, where it is of kind `k`: the checks of R97, then the
unit's work. Where no such command may issue, nothing changes (log entry 11). -/
def issueRow (k : Cmd → Bool) (q tag : Nat) (work : Cmd → State → Work) (s : State) : State :=
  match findCmd s q tag with
  | none => s
  | some c =>
    if k c && mayIssue s c then
      if c.resumes then settle (work c s) q tag
      else
      let c1 := if c.st == .waitDrain then c else stampIssue s c
      match issueCheck s c1 with
      | .refuse status detail => finish (setCmd s c1) q tag status detail 0 0
      | .wait st => setCmd s { c1 with st := st, waited := true }
      | .go => settle (work c1 (setCmd s { c1 with st := .exec })) q tag
    else s

/-- The command's opcode. -/
def isOp (opc : Nat) (c : Cmd) : Bool := c.opc == opc

/-- Opcode and SUBOP, where `dflt` says that the undefined values of SUBOP act as this one (R73). -/
def isSub (opc sub : Nat) (defined : List Nat) (c : Cmd) : Bool :=
  c.opc == opc && (c.subop == sub || (sub == 0 && !defined.contains c.subop))

end Sys2Proof.Machine
end

