-- ==== Sys2Proof/Machine/Flags.lean ====
section
/-! DEFINITION. The 1,024 flags (R90 to R93): every set and clear of a flag goes through here, with the waits that it
releases and the count of sets on a flag already at 1. -/

namespace Sys2Proof.Machine

/-- Flag `f` as it stands. -/
def flagOf (s : State) (f : Nat) : Bool := s.front.flags.getLsbD f

/-- The flags with flag `f` set or cleared. -/
def flagPut (v : BitVec 1024) (f : Nat) (b : Bool) : BitVec 1024 :=
  if b then v ||| (1#1024 <<< f) else v &&& ~~~(1#1024 <<< f)

/-- Stores a flag. -/
def putFlag (s : State) (f : Nat) (b : Bool) : State :=
  { s with front := { s.front with flags := flagPut s.front.flags f b } }

/-- Clears a flag. -/
def clearFlag (s : State) (f : Nat) : State := putFlag s f false

/-- The command is a WAIT on flag `f`, consuming or observing. -/
def waitsOn (f : Nat) (consume : Bool) (c : Cmd) : Bool :=
  c.st == .waitFlag f && (c.subop != 1) == consume

/-- Finishes a WAIT: its result is the GCLK cycles that it waited (Table 04.2). -/
def endWait (s : State) (c : Cmd) : State := finishOk s c.q c.tag ((now s + 2 ^ 64 - c.tiss) % 2 ^ 64)

/-- The earliest consuming WAIT on flag `f`. -/
def firstConsumer (s : State) (f : Nat) : Option Cmd := s.front.inflight.find? (waitsOn f true)

/-- The waits that flag `f`, which is 1, releases, in admission order (R92, R94): every observing one, and the earliest
consuming one. -/
def releasedBy (s : State) (f : Nat) : List Cmd :=
  s.front.inflight.filter (fun c => waitsOn f false c || firstConsumer s f == some c)

/-- Releases the waits on a flag that is 1 (R92); the consuming one clears the flag. -/
def releaseWaits (s : State) (f : Nat) : State :=
  (releasedBy s f).foldl endWait (if (firstConsumer s f).isSome then clearFlag s f else s)

/-- Sets a flag, whatever the source (R91, R92). -/
def setFlag (s : State) (f : Nat) : State :=
  if flagOf s f then countF s 0x14088 0 32 1
  else releaseWaits (putFlag s f true) f

end Sys2Proof.Machine
end

