-- ==== Sys2Proof/Machine/Front.lean ====
section
/-! DEFINITION. The command front end (chapter 04): doorbells, command fetch, admission, completion records, queue
abort, WAIT, SIGNAL, NOP, CTXOPEN and CTXCLOSE. -/

namespace Sys2Proof.Machine

/-! ## Memory-port requests of the front end (R28, R31) -/

/-- The lowest write tag of port `p` that is not outstanding (R28). -/
def freeWriteTag (s : State) (p : Nat) : Option Nat :=
  (List.range 128).find? (fun t => !s.front.writes.any (fun w => w.port == p && w.tag == t))

/-- Starts a read for owner `code`; unchanged where no port gives it a slot and a tag. -/
def startRead (s : State) (code addr len : Nat) (use : RdFor) : State :=
  match mpPortFor s code with
  | none => s
  | some p =>
    match freeReadTag s p with
    | none => s
    | some t => { s with front := { s.front with
        reads := s.front.reads ++ [{ port := p, tag := t, addr := addr, len := len, use := use }] } }

/-- Starts a write for owner `code`; unchanged where no port gives it a slot and a tag. -/
def startWrite (s : State) (code addr : Nat) (data : List Byte) (use : WrFor) : State :=
  match mpPortFor s code with
  | none => s
  | some p =>
    match freeWriteTag s p with
    | none => s
    | some t => { s with front := { s.front with
        writes := s.front.writes ++ [{ port := p, tag := t, addr := addr, data := data, use := use }] } }

/-! ## Command fetch (R79 to R86) -/

/-- Address of the ring slot of submission index `i`. -/
def slotAddr (s : State) (q i : Nat) : Nat :=
  csrField s (oCqSbase q) 6 36 * 64 + 32 * (i % 2 ^ qSlog2 s q)

/-- Commands written and not yet prefetched. -/
def toFetch (s : State) (q : Nat) : Nat :=
  let x := queue s q
  (x.stail + 2 ^ 32 - (x.shead + x.prefetch.length) % 2 ^ 32) % 2 ^ 32

/-- Starts the next command fetch of queue `q` where one is due: the commands of one granule, while the prefetch buffer
of 16 has room (R82, log entry 15). -/
def fetchPump (s : State) (q : Nat) : State :=
  let x := queue s q
  let i := (x.shead + x.prefetch.length) % 2 ^ 32
  let n := if i % 2 = 0 then min 2 (toFetch s q) else min 1 (toFetch s q)
  if isReady s && qEn s q && x.fetching == 0 && n != 0 && decide (x.prefetch.length + n ≤ 16) && holdsMp s 0x08 then
    let s1 := startRead s 0x08 (slotAddr s q i) (32 * n) (.fetch q)
    if s1.front.reads.length = s.front.reads.length then s
    else setQueue s1 q { queue s1 q with fetching := n }
  else s

/-- Fetch of every queue. -/
def fetchPumpAll (s : State) : State := (List.range 64).foldl fetchPump s

/-- Discards the prefetch buffer of a queue and what its outstanding fetch brings (R84, R86). -/
def dropPrefetch (s : State) (q : Nat) : State :=
  let s1 := setQueue s q { queue s q with prefetch := [], fetching := 0 }
  { s1 with front := { s1.front with
    reads := s1.front.reads.map (fun r => if r.use = .fetch q then { r with use := .dropped } else r) } }

/-- Discards what queue `q` has read ahead beyond its tail: a tail update that lowers STAIL takes back commands that the
doorbells had covered (log entry 123). -/
def trimPrefetch (s : State) (q : Nat) : State :=
  let x := queue s q
  let m := (x.stail + 2 ^ 32 - x.shead) % 2 ^ 32
  if x.prefetch.length + x.fetching ≤ m then s
  else
    let t := dropPrefetch s q
    setQueue t q { queue t q with prefetch := x.prefetch.take m }

/-- A command fetch or completion-record error: the queue is disabled and the fault reported (R33, R86, Table 16.7). -/
def fetchFault (s : State) (q : Nat) : State :=
  raiseFault (csrSet (csrClr s (oCqCtl q) 1) (oCqStatus q) (2 ^ 17)) 0x0101 2 0 0 0 q

/-- The 256-bit words of `n` commands at `a`. -/
def rdCmds (m : HostMem) (a : Nat) : Nat → List Nat
  | 0 => []
  | n + 1 => rdNum m a 32 :: rdCmds m (a + 32) n

/-- A command fetch has arrived, with the error code of R32. -/
def fetchArrived (s : State) (q : Nat) (r : MpRead) (code : Nat) : State :=
  if code ≠ 0 then fetchFault (dropPrefetch s q) q
  else
    let x := queue s q
    fetchPump (setQueue s q { x with prefetch := x.prefetch ++ rdCmds s.mem r.addr (r.len / 32), fetching := 0 }) q

/-! ## Doorbells (R24, R79, Table 04.4) -/

/-- The lane update of queue `q` is accepted (Table 04.4). -/
def laneOk (s : State) (q new : Nat) (head priv : Bool) : Bool :=
  let x := queue s q
  (priv || !qSupv s q) &&
  (if head then decide ((x.ctail + 2 ^ 32 - new) % 2 ^ 32 ≤ (x.ctail + 2 ^ 32 - x.chead) % 2 ^ 32)
   else decide ((new + 2 ^ 32 - x.shead) % 2 ^ 32 ≤ 2 ^ qSlog2 s q))

/-- One lane of a doorbell line. -/
def laneUpdate (s : State) (q new : Nat) (head priv : Bool) : State :=
  if laneOk s q new head priv then
    if head then setQueue s q { queue s q with chead := new }
    else trimPrefetch (setQueue s q { queue s q with stail := new }) q
  else csrSet s (oCqStatus q) (2 ^ 16)

/-- The lanes of a line, in lane order; lanes act on different queues and so take effect together (R79). -/
def lanes (s : State) (line : Nat) (lv : BitVec 8) (data : BitVec 512) (priv : Bool) : State :=
  (List.range 8).foldl (fun u j =>
    if lv.getLsbD j then
      laneUpdate u (8 * (line % 8) + j) (bits data.toNat (64 * j) 32) (decide (8 ≤ line % 16)) priv
    else u) s

/-- DOORBELL_LINE (R24, R43, R79). -/
def doorbell (line : Nat) (lv : BitVec 8) (data : BitVec 512) (priv : Bool) (s : State) : State :=
  if s.glb.boot = .coldReset then s
  else if !isReady s then csrSet s 0x20 (2 ^ 17)
  else
    let s1 := bwAdd (pmcEvent s 0x057 none none none 1) 26 0 64
    let s2 := lanes s1 line lv data priv
    (List.range 8).foldl (fun u j => fetchPump u (8 * (line % 8) + j)) s2

/-! ## Admission (R82, R83, R369) -/

/-- Queue `q` is able to take in the command at its SHEAD (R82). -/
def canAdmit (s : State) (q : Nat) : Bool :=
  isReady s && qEn s q && decide (s.front.inflight.length < 512) && decide (qInflight s q < qWindow s q) &&
  holdsMp s 0x08 &&
  (match (queue s q).prefetch with
    | [] => false
    | w :: _ =>
      let c := decodeWord (cmdLevel s) q 0 w
      (findCmd s q c.tag).isNone)

/-- The first queue able to take in, in cyclic order after the one that admitted last (R83). -/
def nextQueue (s : State) : Option Nat :=
  ((List.range 64).map (fun i => (s.front.lastAdmit + 1 + i) % 64)).find? (canAdmit s)

/-- A command of queue `q` is eligible for sampling (R369). -/
def sampleEligible (s : State) (c : Cmd) : Bool :=
  let g := s.pmc.cfg
  g.armed && bit g.qmask c.q && (!g.opcen || g.opc == c.opc) && (!g.ctxen || g.ctx == c.ctx) &&
  (!g.user || g.job == qJob s c.q)

/-- The countdown of R369: the command as selected or not, and the configuration after it. -/
def sampleCount (s : State) (c : Cmd) : Cmd × SampleCfg :=
  let g := s.pmc.cfg
  if sampleEligible s c then
    if g.countdown ≤ 1 then ({ c with selected := true }, { g with countdown := max 1 g.period })
    else (c, { g with countdown := g.countdown - 1 })
  else (c, g)

/-- Admits the command at SHEAD of queue `q`. -/
def admitFrom (s : State) (q : Nat) : State :=
  let x := queue s q
  match x.prefetch with
  | [] => s
  | w :: rest =>
    let c0 := { decodeWord (cmdLevel s) q x.shead w with tadm := now s }
    let (c, g) := sampleCount s c0
    let s1 := setQueue s q { x with prefetch := rest, shead := (x.shead + 1) % 2 ^ 32 }
    let s2 := { s1 with
      front := { s1.front with inflight := s1.front.inflight ++ [c], lastAdmit := q },
      pmc := { s1.pmc with cfg := g } }
    fetchPump (pmcEvent s2 0x010 (some q) (some c.ctx) none 1) q

/-- COMMAND_ADMIT (R82, R83). -/
def admitNext (s : State) : State :=
  match nextQueue s with
  | none => s
  | some q => admitFrom s q

/-! ## Completion (R94 to R96) -/

/-- The completion ring of queue `q` is full (R95). -/
def ringFull (s : State) (q : Nat) : Bool :=
  (((queue s q).ctail + 2 ^ 32 - (queue s q).chead) % 2 ^ 32) == 2 ^ qClog2 s q

/-- The completion record of a command (Table 04.5), as a 256-bit number. -/
def recordOf (s : State) (c : Cmd) (r : Report) : Nat :=
  let phase := b2n (!bit (queue s c.q).ctail (qClog2 s c.q))
  let w0 := c.opc + r.status * 2 ^ 8 + c.tag * 2 ^ 16 + phase * 2 ^ 25 + c.q * 2 ^ 26 + c.ctx * 2 ^ 32 +
    c.cls * 2 ^ 46 + c.batch * 2 ^ 48
  let w1 := r.detail % 2 ^ 32 + (r.epoch % 2 ^ 16) * 2 ^ 32
  let w2 := c.tiss % 2 ^ 32 + (r.tcomp % 2 ^ 32) * 2 ^ 32
  w0 + w1 * 2 ^ 64 + w2 * 2 ^ 128 + (r.result % 2 ^ 64) * 2 ^ 192

/-- The finished command whose record is next in queue `q`, with its report. -/
def nextRecord (s : State) (q : Nat) : Option (Cmd × Report) :=
  match (queue s q).done with
  | [] => none
  | t :: _ =>
    match findCmd s q t with
    | none => none
    | some c => match c.st with
      | .finished r => some (c, r)
      | _ => none

/-- COMPLETION_RECORD_WRITE (R94, R95): the record of the command that reported first, held while the ring is full. -/
def writeRecord (q : Nat) (s : State) : State :=
  if (queue s q).writing || ringFull s q || !isReady s then s
  else match nextRecord s q with
    | none => s
    | some (c, r) =>
      let a := csrField s (oCqCbase q) 6 36 * 64 + 32 * ((queue s q).ctail % 2 ^ qClog2 s q)
      let s1 := startWrite s 0x08 a (leBytes 32 (recordOf s c r)) (.record q)
      if s1.front.writes.length = s.front.writes.length then s
      else setQueue s1 q { queue s1 q with writing := true }

/-- The sample record of a command (Table 15.5). -/
def sampleRecord (c : Cmd) (r : Report) : Nat × Nat × Nat × Nat :=
  (c.opc * 2 ^ 8 + r.status * 2 ^ 16 + c.cls * 2 ^ 24 + c.q * 2 ^ 26 + c.sub * 2 ^ 32,
   c.tag * 2 ^ 23 + c.ctx * 2 ^ 32 + c.batch * 2 ^ 48,
   c.tiss,
   min (c.tiss - c.tadm) 0xFFFFFFFF + min (r.tcomp - c.tiss) 0xFFFFFFFF * 2 ^ 32)

/-- Sampling of a completed command (R369, R371). -/
def sampleDone (s : State) (c : Cmd) (r : Report) : State :=
  if !c.selected then s
  else if bit s.pmc.cfg.clsMask c.cls && decide (s.pmc.cfg.minlat ≤ r.tcomp - c.tiss) then
    if s.pmc.buf.length < 4096 then { s with pmc := { s.pmc with buf := s.pmc.buf ++ [sampleRecord c r] } }
    else countC s 0xC1608 1
  else { s with pmc := { s.pmc with skipped := min 0xFFFF (s.pmc.skipped + 1) } }

/-- The record at CTAIL of queue `q` has been acknowledged: its command completes (R94, R96). A record whose write
failed is lost and disables the queue (R33). -/
def recordAcked (s : State) (q : Nat) (err : Bool) : State :=
  match nextRecord s q with
  | none => s
  | some (c, r) =>
    let x := queue s q
    let s1 := { s with front := { s.front with
      inflight := s.front.inflight.filter (fun y => !(y.q == q && y.tag == c.tag)) } }
    let ev := c.event || decide (0x10 ≤ r.status)
    let s2 := setQueue s1 q { x with
      ctail := (x.ctail + 1) % 2 ^ 32, done := x.done.drop 1, writing := false,
      evidx := if ev then (x.ctail + 1) % 2 ^ 32 else x.evidx }
    let s3 := pmcEvent s2 0x011 (some q) (some c.ctx) (some c.cls) 1
    let s4 := if 0x10 ≤ r.status then pmcEvent s3 0x012 (some q) (some c.ctx) (some c.cls) 1 else s3
    let s5 := sampleDone s4 c r
    if err then fetchFault (dropPrefetch s5 q) q else s5

/-! ## Queue control (R78, R84, R85) -/

/-- A command that counts as not issued under R84. A CTXCLOSE that itself drains its context has changed the context's
state; it waits for no drain of another, and runs to its end (log entry 124). -/
def Cmd.notIssued (c : Cmd) : Bool :=
  match c.st with
  | .admitted | .waitCtx | .waitDrain | .waitFlag _ => true
  | _ => false

/-- Cancels one unissued command by queue abort (R84, Table 04.5). -/
def abortCmd (s : State) (c : Cmd) : State :=
  finish (setCmd s { c with tiss := now s, cls := issueClass s c }) c.q c.tag stCancelled 0x01 0 0

/-- Queue abort (R84). -/
def abortQueue (s : State) (q : Nat) : State :=
  let s1 := csrClr s (oCqCtl q) 1
  let s2 := (s1.front.inflight.filter (fun c => c.q == q && c.notIssued)).foldl abortCmd s1
  dropPrefetch s2 q

/-- Fields of CQ_CTL that a write changes while the queue is enabled or has commands in flight (R85). -/
def qBusy (s : State) (q : Nat) : Bool := qEn s q || decide (qInflight s q ≠ 0)

/-- A write to CQ_CTL (R78, R84, R85): SUPV, SLOG2, CLOG2 and JOB keep their values while the queue is busy; ABORT
clears EN; LOCKED is set by the first write after which some EN is 1. -/
def writeCqCtl (s : State) (q v : Nat) : State :=
  let free := span 28 24 + span 16 8 + span 0 0
  let mask := if qBusy s q then free else free + span 63 48 + span 44 40 + span 36 32 + span 1 1
  let old := csrGet s (oCqCtl q)
  let s1 := csrPut s (oCqCtl q) ((old &&& (span 63 0 ^^^ mask)) ||| (v &&& mask))
  let s2 := if bit v 2 then abortQueue s1 q else s1
  let s3 := if qEn s2 q then csrSet s2 0x10 (2 ^ 8) else s2
  fetchPump s3 q

/-- A write to CQ_SBASE (R85): the indices and CQ_EVIDX become 0; commands prefetched from the old ring are dropped
(log entry 16). -/
def writeCqSbase (s : State) (q v : Nat) : State :=
  if qBusy s q then s
  else
    let s1 := csrPut (dropPrefetch s q) (oCqSbase q) (v &&& span 41 6)
    setQueue s1 q { queue s1 q with stail := 0, shead := 0, ctail := 0, chead := 0, evidx := 0 }

/-! ## NOP, WAIT, SIGNAL, illegal opcodes -/

/-- NOP (Table 04.2). -/
def nopWork (_ : Cmd) (s : State) : Work := doneWith s 0 0 0 0

/-- WAIT (R91, R92): where its flag is 1 it completes at once, consuming it if it is the consuming form. -/
def waitWork (c : Cmd) (s : State) : Work :=
  let f := absFlag s c.q c.a
  if flagOf s f then doneWith (if c.subop = 1 then s else clearFlag s f) 0 0 0 0
  else ⟨s, .waitFlag f⟩

/-- SIGNAL (R91): the result is the previous value of the flag. -/
def signalWork (c : Cmd) (s : State) : Work :=
  let f := absFlag s c.q c.a
  doneWith (if c.subop = 1 then clearFlag s f else setFlag s f) 0 0 (b2n (flagOf s f)) 0

/-! ## CTXOPEN and CTXCLOSE (R99 to R104) -/

/-- The 4 KiB of a context's extended state from address `a`, as the writes that zero it: no write tag crosses a
4 KiB boundary, and 32 beats of 128 bytes reach from one to the next (R28). -/
def zeroParts (a : Nat) : Nat → Nat → List (Nat × Nat)
  | 0, _ => []
  | _ + 1, 0 => []
  | fuel + 1, n =>
    let m := min n (4096 - a % 4096)
    (a, m) :: zeroParts ((a + m) % 2 ^ 42) fuel (n - m)

/-- CTXOPEN (R101): at its issue the context becomes OPENING; its parameter block is requested as soon as the front end
has a memory-port slot and a read tag (R28, R112). -/
def ctxopenStart (c : Cmd) (s : State) : Work :=
  withSlots (canRead s 0x08) c s (fun _ => ⟨startRead s 0x08 (opAddr c.a) 64 (.ctxParam c.ctx c.q c.tag), .exec⟩)

/-- Starts the writes that zero the extended state of context `k`, as many as have a slot and a tag (R101, step 3). -/
def ctxZeroPump (s : State) (k q tag : Nat) : List (Nat × Nat) → State
  | [] => setCtx s k { ctx s k with zeroTodo := [] }
  | (a, n) :: l =>
    let s1 := startWrite s 0x08 a (List.replicate n 0#8) (.ctxZero k q tag)
    if s1.front.writes.length = s.front.writes.length then setCtx s k { ctx s k with zeroTodo := (a, n) :: l }
    else ctxZeroPump (setCtx s1 k { ctx s1 k with zeroOut := (ctx s1 k).zeroOut + 1 }) k q tag l

/-- The CTXOPEN stands until the next write of step 3 has a slot and a tag, or waits for their acknowledgements. -/
def ctxZeroSt (s : State) (k : Nat) : CmdSt := if (ctx s k).zeroTodo.isEmpty then .exec else .stopped

/-- Puts the executing CTXOPEN of context `k` where its zero writes leave it. -/
def ctxZeroSettle (s : State) (k q tag : Nat) : State :=
  match findCmd s q tag with
  | none => s
  | some c => setCmd s { c with st := ctxZeroSt s k }

/-- CTXOPEN: at issue, and again where it stood for want of slots or tags. -/
def ctxopenWork (c : Cmd) (s : State) : Work :=
  let k := ctx s c.ctx
  if k.st = .opening then
    if k.zeroTodo.isEmpty then ctxopenStart c s
    else
      let s1 := ctxZeroPump s c.ctx c.q c.tag k.zeroTodo
      ⟨s1, ctxZeroSt s1 c.ctx⟩
  else
    ctxopenStart c (setCtx s c.ctx { k with st := .opening, job := qJob s c.q, supv := qSupv s c.q, ext := opAddr c.b,
                                            zeroTodo := [], zeroOut := 0 })

/-- CTXOPEN fails (R101): the context is CLOSED again, holds no job, and keeps its epoch. -/
def ctxopenFail (s : State) (k q tag code : Nat) : State :=
  let s0 := { s with front := { s.front with
    writes := s.front.writes.map (fun w => if w.use = .ctxZero k q tag then { w with use := .dropped } else w) } }
  let s1 := setCtx s0 k { ctx s0 k with st := .closed, job := 0, supv := false, zeroTodo := [], zeroOut := 0 }
  finish (raiseFault s1 0x0102 2 1 k code q) q tag stEcc code 0 0

/-- The parameter block has arrived (R101, steps 2 and 3). -/
def ctxParamArrived (s : State) (k q tag : Nat) (r : MpRead) (code : Nat) : State :=
  if code ≠ 0 then ctxopenFail s k q tag code
  else
    let s1 := setCtx s k { ctx s k with pb := rdWords s.mem r.addr 4 }
    ctxZeroSettle (ctxZeroPump s1 k q tag (zeroParts (ctx s k).ext 4 4096)) k q tag

/-- The context is OPEN and its CTXOPEN completes (R101, steps 4 to 6; R103 for a CTXOPEN that waited). -/
def ctxopenDone (s : State) (k q tag : Nat) : State :=
  let x := ctx s k
  let s1 := setCtx s k { x with st := .open, epoch := (x.epoch + 1) % 2 ^ 16, cnt := [0, 0, 0, 0, 0, 0], bepoch := 0 }
  match findCmd s1 q tag with
  | none => s1
  | some c =>
    if c.waited then finish s1 q tag stOkWaited 0 (nth c.saved 0 - c.tiss) 0
    else finishOk s1 q tag 0

/-- A write of step 3 is acknowledged; after an error the rest of the zeros are not written. -/
def ctxZeroAcked (s : State) (k q tag : Nat) (err : Bool) : State :=
  let s1 := setCtx s k { ctx s k with zeroOut := (ctx s k).zeroOut - 1 }
  if err then ctxopenFail s1 k q tag 0x03
  else if (ctx s1 k).zeroTodo.isEmpty && (ctx s1 k).zeroOut == 0 then ctxopenDone s1 k q tag
  else s1

/-- The command has issued and does not proceed until an event occurs (R102). A Shed request that stands for want of a slot
alone waits for none (R261). -/
def Cmd.waiting (c : Cmd) : Bool :=
  match c.st with
  | .waitFlag _ | .held | .waitTokens | .waitTicket _ | .waitCtx => true
  | .waitShed _ _ => c.strict && c.opc != 0x39
  | _ => false

/-- Ends a waiting command of a draining context (R102). -/
def drainWaiting (s : State) (c : Cmd) : State := finish s c.q c.tag stClosed 0x02 0 0

/-- Ends an admitted command of a draining context whose WTAG and FENCE conditions are met (R102): it fails its checks
at issue. CTXOPEN and CTXCLOSE wait instead (Table 04.8). -/
def drainAdmitted (s : State) (c : Cmd) : State :=
  if c.opc = 0x08 ∨ c.opc = 0x09 then s
  else if c.st = .admitted ∧ wtagOk s c ∧ fenceOk s c then
    match issueCheck s c with
    | .refuse status detail => finish (setCmd s (stampIssue s c)) c.q c.tag status detail 0 0
    | _ => s
  else s

/-- What the beginning of a drain does to a command of the context. -/
def drainOne (s : State) (c : Cmd) : State := if c.waiting then drainWaiting s c else drainAdmitted s c

/-- The context begins to drain (R102); the commands that complete at once report in admission order (R94). -/
def beginDrain (s : State) (k : Nat) : State :=
  let s1 := setCtx s k { ctx s k with st := .draining }
  (s1.front.inflight.filter (fun c => c.ctx == k)).foldl drainOne s1

/-- CTXCLOSE of an OPEN context (R102). -/
def ctxcloseWork (c : Cmd) (s : State) : Work := ⟨beginDrain s c.ctx, .exec⟩

/-- A CTXOPEN that waited on a drain notes when the context became CLOSED; CTXCLOSEs that waited on it complete
(R103). -/
def drainFollow (s : State) (k : Nat) : State :=
  (s.front.inflight.filter (fun c => c.ctx == k && c.st == .waitDrain)).foldl (fun u c =>
    if c.opc = 0x08 then setCmd u { c with saved := [now s] }
    else finish u c.q c.tag stOkWaited 0 (now s - c.tiss) 0) s

/-! ## Meanings -/

/-- DOORBELL_LINE -/
def execDoorbellLine (line : Nat) (lv : BitVec 8) (data : BitVec 512) (priv : Bool) (s : State) :
    Host.Outcome State Fault Refusal := .next (served (doorbell line lv data priv) s)

/-- COMMAND_ADMIT -/
def execCommandAdmit (s : State) : Host.Outcome State Fault Refusal := .next (working admitNext s)

/-- COMPLETION_RECORD_WRITE -/
def execCompletionRecordWrite (q : Nat) (s : State) : Host.Outcome State Fault Refusal :=
  .next (working (writeRecord q) s)

/-- NOP -/
def execNop (q tag : Nat) (s : State) : Host.Outcome State Fault Refusal :=
  .next (working (issueRow (isOp 0x00) q tag nopWork) s)

/-- WAIT_CONSUME -/
def execWaitConsume (q tag : Nat) (s : State) : Host.Outcome State Fault Refusal :=
  .next (working (issueRow (isSub 0x04 0 [0, 1]) q tag waitWork) s)

/-- WAIT_OBSERVE -/
def execWaitObserve (q tag : Nat) (s : State) : Host.Outcome State Fault Refusal :=
  .next (working (issueRow (isSub 0x04 1 [0, 1]) q tag waitWork) s)

/-- SIGNAL_SET -/
def execSignalSet (q tag : Nat) (s : State) : Host.Outcome State Fault Refusal :=
  .next (working (issueRow (isSub 0x05 0 [0, 1]) q tag signalWork) s)

/-- SIGNAL_CLEAR -/
def execSignalClear (q tag : Nat) (s : State) : Host.Outcome State Fault Refusal :=
  .next (working (issueRow (isSub 0x05 1 [0, 1]) q tag signalWork) s)

/-- CTXOPEN -/
def execCtxopen (q tag : Nat) (s : State) : Host.Outcome State Fault Refusal :=
  .next (working (issueRow (isOp 0x08) q tag ctxopenWork) s)

/-- CTXCLOSE -/
def execCtxclose (q tag : Nat) (s : State) : Host.Outcome State Fault Refusal :=
  .next (working (issueRow (isOp 0x09) q tag ctxcloseWork) s)

/-- ILLEGAL_OPCODE: a code outside Table 04.2; the checks of `issueRow` refuse it with reason 0x01. -/
def execIllegalOpcode (q tag : Nat) (s : State) : Host.Outcome State Fault Refusal :=
  .next (working (issueRow (fun c => !opcodes.contains c.opc) q tag nopWork) s)

end Sys2Proof.Machine
end

