-- ==== Sys2Proof/Machine/Num.lean ====
section
/-! DEFINITION. Number formats, rounding and conversion (chapter 03). A value is held exactly, as a sign, a natural
number and a power of two, and is rounded only where a rule rounds it. The counters that conversions move are collected
in a `Tally` and added to the registers when the instruction's work is done (R72). -/

namespace Sys2Proof.Machine

/-- A floating-point value, exact. -/
inductive FVal where
  /-- any NaN (R54) -/
  | nan
  /-- an infinity -/
  | inf (neg : Bool)
  /-- (−1)^neg × m × 2^e -/
  | fin (neg : Bool) (m : Nat) (e : Int)
  deriving DecidableEq, Repr, Inhabited

/-- What an instruction's arithmetic adds to the conversion and function counters. -/
structure Tally where
  /-- out-of-range conversions (R64) -/
  oor : Nat := 0
  /-- infinite sources converted to E4M3 (R65) and infinite BX8 source elements (R70) -/
  infs : Nat := 0
  /-- non-zero BX8 elements encoded as zero (R70) -/
  van : Nat := 0
  /-- NaNs created by invalid operations (R54, R62) -/
  nan : Nat := 0
  /-- results flushed (R237) -/
  flush : Nat := 0
  /-- pipe evaluations -/
  evals : Nat := 0
  /-- variance clamps (R245) -/
  clamp : Nat := 0
  deriving DecidableEq, Repr, Inhabited

/-- Arithmetic that counts. -/
abbrev Num (α : Type) := StateM Tally α

/-- +0 -/
def fzero : FVal := .fin false 0 0
/-- 1 -/
def fone : FVal := .fin false 1 0
/-- An integer as a value. -/
def ofInt (x : Int) : FVal := .fin (decide (x < 0)) x.natAbs 0
/-- A natural number as a value. -/
def ofNatF (x : Nat) : FVal := .fin false x 0

/-- The value is a NaN. -/
def FVal.isNan : FVal → Bool | .nan => true | _ => false
/-- The value is an infinity. -/
def FVal.isInf : FVal → Bool | .inf _ => true | _ => false
/-- The value is ±0. -/
def FVal.isZero : FVal → Bool | .fin _ 0 _ => true | _ => false
/-- The sign bit. -/
def FVal.sign : FVal → Bool | .nan => false | .inf n => n | .fin n _ _ => n
/-- Sign inverted. -/
def FVal.neg : FVal → FVal | .nan => .nan | .inf n => .inf (!n) | .fin n m e => .fin (!n) m e
/-- Magnitude. -/
def FVal.abs : FVal → FVal | .nan => .nan | .inf _ => .inf false | .fin _ m e => .fin false m e

/-- Number of bits of `m`; 0 for 0. -/
def bitLen (m : Nat) : Nat := if m = 0 then 0 else Nat.log2 m + 1

/-- `m × 2^e` as an integer multiple of `2^q`, for `q ≤ e`. -/
def scaleTo (m : Nat) (e q : Int) : Nat := m * 2 ^ (e - q).toNat

/-- The signed integer of a finite value at exponent `q`. -/
def signedAt (neg : Bool) (m : Nat) (e q : Int) : Int :=
  if neg then - Int.ofNat (scaleTo m e q) else Int.ofNat (scaleTo m e q)

/-- The order of two values that are not NaN: −1, 0 or 1; zeros compare equal. -/
def cmpF (a b : FVal) : Int :=
  match a, b with
  | .inf n, .inf k => if n = k then 0 else if n then -1 else 1
  | .inf n, _ => if n then -1 else 1
  | _, .inf n => if n then 1 else -1
  | .fin na ma ea, .fin nb mb eb =>
    let q := min ea eb
    let x := signedAt na ma ea q
    let y := signedAt nb mb eb q
    if x < y then -1 else if x = y then 0 else 1
  | _, _ => 0

/-- `a ≤ b`; false where either is a NaN. -/
def leF (a b : FVal) : Bool := !a.isNan && !b.isNan && decide (cmpF a b ≤ 0)
/-- `a < b`; false where either is a NaN. -/
def ltF (a b : FVal) : Bool := !a.isNan && !b.isNan && decide (cmpF a b < 0)

/-! ## Formats (Table 03.1) -/

/-- The floating-point formats. -/
inductive Flt where
  | f32 | b16 | f16 | e4m3 | e5m2
  deriving DecidableEq, Repr, Inhabited

/-- fraction bits -/
def Flt.fb : Flt → Nat | .f32 => 23 | .b16 => 7 | .f16 => 10 | .e4m3 => 3 | .e5m2 => 2
/-- exponent bits -/
def Flt.eb : Flt → Nat | .f32 => 8 | .b16 => 8 | .f16 => 5 | .e4m3 => 4 | .e5m2 => 5
/-- bias -/
def Flt.bias : Flt → Int | .f32 => 127 | .b16 => 127 | .f16 => 15 | .e4m3 => 7 | .e5m2 => 15
/-- bytes of an element -/
def Flt.size : Flt → Nat | .f32 => 4 | .b16 => 2 | .f16 => 2 | .e4m3 => 1 | .e5m2 => 1
/-- largest finite code without the sign -/
def Flt.maxCode : Flt → Nat | .f32 => 0x7F7FFFFF | .b16 => 0x7F7F | .f16 => 0x7BFF | .e4m3 => 0x7E | .e5m2 => 0x7B
/-- canonical NaN; F16 is never a target (R56) -/
def Flt.nanCode : Flt → Nat | .f32 => 0x7FC00000 | .b16 => 0x7FC0 | .f16 => 0x7E00 | .e4m3 => 0x7F | .e5m2 => 0x7E
/-- weight of the sign bit -/
def Flt.signBit (f : Flt) : Nat := 2 ^ (f.eb + f.fb)

/-- The value of a code (R52). -/
def decodeF (f : Flt) (x : Nat) : FVal :=
  let neg := bit x (f.eb + f.fb)
  let ex := bits x f.fb f.eb
  let fr := bits x 0 f.fb
  if f = .e4m3 ∧ ex = 15 ∧ fr = 7 then .nan
  else if f ≠ .e4m3 ∧ ex = 2 ^ f.eb - 1 then (if fr = 0 then .inf neg else .nan)
  else if ex = 0 then .fin neg fr (1 - f.bias - Int.ofNat f.fb)
  else .fin neg (2 ^ f.fb + fr) (Int.ofNat ex - f.bias - Int.ofNat f.fb)

/-- The largest finite value. -/
def maxFin (f : Flt) : FVal := decodeF f f.maxCode

/-! ## Rounding (R57) -/

/-- Rounds `m × 2^e` to a multiple of `2^q` under RMODE; the result is a multiple and its exponent. -/
def roundAt (mode : Nat) (m : Nat) (e q : Int) : Nat × Int :=
  if q ≤ e then (scaleTo m e q, q)
  else
    let k := (q - e).toNat
    let base := m / 2 ^ k
    let rest := m % 2 ^ k
    if rest = 0 then (base, q)
    else if mode = 1 then (base, q)
    else if mode = 2 then (base ||| 1, q)
    else
      let half := 2 ^ (k - 1)
      if rest > half ∨ (rest = half ∧ base % 2 = 1) then (base + 1, q) else (base, q)

/-- Rounds to a fraction of `fb` bits, with exponents from `emin` upward and no upper bound (R53, R57). -/
def roundFrac (mode fb : Nat) (emin : Int) (m : Nat) (e : Int) : Nat × Int :=
  roundAt mode m e (max (e + Int.ofNat (bitLen m) - 1 - Int.ofNat fb) (emin - Int.ofNat fb))

/-- Rounds to a format with an unbounded upper exponent. -/
def roundTo (f : Flt) (mode : Nat) (m : Nat) (e : Int) : Nat × Int := roundFrac mode f.fb (1 - f.bias) m e

/-- The code of a finite value that the format holds exactly. -/
def encodeFin (f : Flt) (neg : Bool) (m : Nat) (e : Int) : Nat :=
  let q := max (e + Int.ofNat (bitLen m) - 1 - Int.ofNat f.fb) (1 - f.bias - Int.ofNat f.fb)
  let k := if q ≤ e then scaleTo m e q else m / 2 ^ (q - e).toNat
  let sgn := b2n neg * f.signBit
  if k < 2 ^ f.fb then sgn + k
  else sgn + (q + Int.ofNat f.fb + f.bias).toNat * 2 ^ f.fb + (k - 2 ^ f.fb)

/-- The code of a value of the format. -/
def encodeF (f : Flt) (v : FVal) : Nat :=
  match v with
  | .nan => f.nanCode
  | .inf n => b2n n * f.signBit + (2 ^ f.eb - 1) * 2 ^ f.fb
  | .fin n m e => encodeFin f n m e

/-- One more out-of-range conversion. -/
def tallyOor : Num Unit := modify (fun t => { t with oor := t.oor + 1 })
/-- One more infinite source. -/
def tallyInf : Num Unit := modify (fun t => { t with infs := t.infs + 1 })
/-- One more NaN created. -/
def tallyNan : Num Unit := modify (fun t => { t with nan := t.nan + 1 })
/-- One more vanished element. -/
def tallyVan : Num Unit := modify (fun t => { t with van := t.van + 1 })
/-- One more flushed result. -/
def tallyFlush : Num Unit := modify (fun t => { t with flush := t.flush + 1 })
/-- More pipe evaluations. -/
def tallyEvals (n : Nat) : Num Unit := modify (fun t => { t with evals := t.evals + n })

/-- The rounding settings sampled at issue (R58). -/
structure Cvt where
  rmode : Nat := 0
  ovf : Bool := false
  deriving DecidableEq, Repr, Inhabited

/-- Conversion of a value to a format with its code as the result (R63 to R65). -/
def convert (k : Cvt) (f : Flt) (v : FVal) : Num Nat :=
  match v with
  | .nan => pure f.nanCode
  | .inf n =>
    if f = .e4m3 then do
      tallyInf
      pure (b2n n * f.signBit + f.maxCode)
    else pure (encodeF f (.inf n))
  | .fin n m e =>
    let (m1, e1) := roundTo f k.rmode m e
    if leF (.fin false m1 e1) (maxFin f) then pure (encodeFin f n m1 e1)
    else do
      tallyOor
      if f ≠ .e4m3 ∧ k.ovf ∧ k.rmode ≠ 1 ∧ k.rmode ≠ 2 then pure (encodeF f (.inf n))
      else pure (b2n n * f.signBit + f.maxCode)

/-! ## F32 arithmetic, rounded RNE (R59) -/

/-- The F32 value nearest to a value; beyond the range it is an infinity. -/
def f32 (v : FVal) : FVal :=
  match v with
  | .fin n m e =>
    let (m1, e1) := roundTo .f32 0 m e
    if leF (.fin false m1 e1) (maxFin .f32) then .fin n m1 e1 else .inf n
  | x => x

/-- The exact sum of two values; ∞ − ∞ is an invalid operation (R54), and an exact zero is +0 unless both are −0. -/
def exactAdd (a b : FVal) : Num FVal :=
  match a, b with
  | .nan, _ => pure .nan
  | _, .nan => pure .nan
  | .inf n, .inf k => if n = k then pure (.inf n) else do
      tallyNan
      pure .nan
  | .inf n, _ => pure (.inf n)
  | _, .inf n => pure (.inf n)
  | .fin na ma ea, .fin nb mb eb =>
    let q := min ea eb
    let x := signedAt na ma ea q + signedAt nb mb eb q
    if x = 0 then pure (.fin (na && nb) 0 q) else pure (.fin (decide (x < 0)) x.natAbs q)

/-- The exact product; 0 × ∞ is invalid. -/
def exactMul (a b : FVal) : Num FVal :=
  match a, b with
  | .nan, _ => pure .nan
  | _, .nan => pure .nan
  | .inf n, y => if y.isZero then do
        tallyNan
        pure .nan
      else pure (.inf (n != y.sign))
  | x, .inf n => if x.isZero then do
        tallyNan
        pure .nan
      else pure (.inf (n != x.sign))
  | .fin na ma ea, .fin nb mb eb => pure (.fin (na != nb) (ma * mb) (ea + eb))

/-- The quotient to 64 more bits than the divisor with a sticky bit, enough for one correct rounding to at most 40 bits;
0 / 0 and ∞ / ∞ are invalid. -/
def longDiv (a b : FVal) : Num FVal :=
  match a, b with
  | .nan, _ => pure .nan
  | _, .nan => pure .nan
  | .inf _, .inf _ => do
      tallyNan
      pure .nan
  | .inf n, y => pure (.inf (n != y.sign))
  | x, .inf n => pure (.fin (x.sign != n) 0 0)
  | .fin na ma ea, .fin nb mb eb =>
    if mb = 0 then
      if ma = 0 then do
        tallyNan
        pure .nan
      else pure (.inf (na != nb))
    else if ma = 0 then pure (.fin (na != nb) 0 0)
    else
      let k := bitLen mb + 64
      let x := ma * 2 ^ k
      pure (.fin (na != nb) (2 * (x / mb) + (if x % mb = 0 then 0 else 1)) (ea - eb - Int.ofNat k - 1))

/-- F32 addition. -/
def fadd (a b : FVal) : Num FVal := do
  let r ← exactAdd a b
  pure (f32 r)
/-- F32 subtraction. -/
def fsub (a b : FVal) : Num FVal := fadd a b.neg
/-- F32 multiplication. -/
def fmul (a b : FVal) : Num FVal := do
  let r ← exactMul a b
  pure (f32 r)
/-- F32 division. -/
def fdiv (a b : FVal) : Num FVal := do
  let r ← longDiv a b
  pure (f32 r)

/-- Runs arithmetic whose events are not counted. -/
def quiet {α : Type} (x : Num α) : α := (x {}).1

/-! ## The compensated pair (R60 to R62) -/

/-- An F32x2 pair. -/
structure Pair where
  hi : FVal := .fin false 0 0
  lo : FVal := .fin false 0 0
  deriving DecidableEq, Repr, Inhabited

/-- An infinity or a NaN. -/
def FVal.notFin : FVal → Bool | .fin _ _ _ => false | _ => true

/-- `pair_add` (R61, R62); every invalid operation of its steps is counted (R54). -/
def pairAdd (p : Pair) (x : FVal) : Num Pair := do
  let s ← fadd p.hi x
  if s.notFin then pure ⟨s, fzero⟩
  else
    let bv ← fsub s p.hi
    let av ← fsub s bv
    let ea ← fsub p.hi av
    let eb ← fsub x bv
    let t ← fadd ea eb
    let t1 ← fadd t p.lo
    let h ← fadd s t1
    if h.notFin then pure ⟨h, fzero⟩
    else do
      let d ← fsub h s
      let l ← fsub t1 d
      pure ⟨h, l⟩

/-- Merges pair `b` into pair `a` (R62). -/
def pairMerge (a b : Pair) : Num Pair := do
  let p ← pairAdd a b.hi
  pairAdd p b.lo

/-- The exact sum of a pair; opposite infinities in it are an invalid operation (R54). -/
def pairVal (p : Pair) : Num FVal := exactAdd p.hi p.lo

/-- A pair narrowed to F32 by one rounding of `hi + lo` (R60). -/
def narrowF32 (k : Cvt) (p : Pair) : Num Nat := do
  let v ← pairVal p
  convert k .f32 v

/-- A pair rounded to F32 with RNE inside a unit (R59). -/
def pairF32 (p : Pair) : Num FVal := do
  let v ← pairVal p
  pure (f32 v)

/-- A value rounded to F32 precision with RTO, its exponent unbounded. -/
def rtoVal (v : FVal) : FVal :=
  match v with
  | .fin n m e =>
    let (m1, e1) := roundTo .f32 2 m e
    .fin n m1 e1
  | x => x

/-- The first step of a two-step narrowing (R60): `hi + lo` rounded to F32 precision with RTO, its exponent unbounded. -/
def rtoF32 (p : Pair) : Num FVal := do
  let v ← pairVal p
  pure (rtoVal v)

/-- A pair narrowed to a format (R60); a value beyond F32 is out of range against the target itself. -/
def narrowPair (k : Cvt) (f : Flt) (p : Pair) : Num Nat :=
  if f = .f32 then narrowF32 k p
  else do
    let v ← rtoF32 p
    convert k f v

/-- A value as it enters a BX8 encoder: a finite one beyond the F32 range is the largest finite F32 of its sign, and is
counted (R60, R238). -/
def clampForBx8 (v : FVal) : Num FVal :=
  match v with
  | .fin n m e =>
    if leF (.fin false m e) (maxFin .f32) then pure (.fin n m e)
    else do
      tallyOor
      pure (if n then (maxFin .f32).neg else maxFin .f32)
  | x => pure x

/-- A pair as it enters a BX8 encoder (R60). -/
def narrowForBx8 (p : Pair) : Num FVal := do
  let v ← rtoF32 p
  clampForBx8 v

/-! ## BX8 blocks (R69 to R71) -/

/-- The larger magnitude. -/
def maxMag (a b : FVal) : FVal := if leF a.abs b.abs then b.abs else a.abs

/-- floor(log2) of a finite non-zero magnitude. -/
def floorLog2 (m : Nat) (e : Int) : Int := e + Int.ofNat (bitLen m) - 1

/-- An element with an infinity replaced by the largest finite value of the source format (R70). -/
def clipInf (src : Flt) (v : FVal) : Num FVal :=
  match v with
  | .inf n => do
    tallyInf
    pure (if n then (maxFin src).neg else maxFin src)
  | x => pure x

/-- One scaled element of a block (R70). -/
def bx8Elem (mode : Nat) (sc : Int) (v : FVal) : Num Nat :=
  match v with
  | .fin n m e =>
    let (m1, e1) := roundTo .e4m3 mode m (e - sc)
    let c := encodeFin .e4m3 n m1 e1
    if m ≠ 0 ∧ c % 128 = 0 then do
      tallyVan
      pure c
    else pure c
  | _ => pure 0x7F

/-- Encodes a block of 32 elements of a source format: the scale code and the element codes (R70). -/
def bx8Encode (mode : Nat) (src : Flt) (xs : List FVal) : Num (List Nat) :=
  if xs.any FVal.isNan then pure (0xFF :: xs.map (fun _ => 0x7F))
  else do
    let ys ← xs.mapM (clipInf src)
    match ys.foldl maxMag fzero with
    | .fin _ 0 _ => pure (0x00 :: ys.map (fun y => if y.sign then 0x80 else 0x00))
    | .fin _ m e =>
      let l := floorLog2 m e
      let s0 := if leF (.fin false m e) (.fin false 7 (l - 2)) then l - 8 else l - 7
      let sc := max s0 (-126)
      let qs ← ys.mapM (bx8Elem mode sc)
      pure ((sc + 127).toNat :: qs)
    | _ => pure (0xFF :: xs.map (fun _ => 0x7F))

/-- Splits a list into runs of `n`. -/
def runs {α : Type} (n : Nat) : Nat → List α → List (List α)
  | 0, _ => []
  | k + 1, l => l.take n :: runs n k (l.drop n)

/-- A list filled up to `n` with a value. -/
def padTo {α : Type} (n : Nat) (x : α) (l : List α) : List α := l ++ List.replicate (n - l.length) x

/-- The exact value of element code `c` under a scale code (R71). -/
def bx8Value (scale c : Nat) : FVal :=
  if scale = 0 then .fin (bit c 7) 0 0
  else if scale = 0xFF then .nan
  else match decodeF .e4m3 c with
    | .fin n m e => .fin n m (e + Int.ofNat scale - 127)
    | _ => .nan

/-- Element `j` of a BX8 row. -/
def bx8At (row : List Byte) (j : Nat) : FVal :=
  let b := j / 32 * 33
  bx8Value ((row.getD b 0#8).toNat) ((row.getD (b + 1 + j % 32) 0#8).toNat)

/-! ## Element types (Table 03.2) -/

/-- A type code as it acts: a reserved code is B16 (R55). -/
def etypeOf (c : Nat) : Nat := if c % 16 ≤ 9 then c % 16 else 0

/-- The floating-point format of a type code, where it is one. -/
def fltOf (c : Nat) : Option Flt :=
  match etypeOf c with
  | 0 => some .b16
  | 1 => some .f32
  | 2 => some .f16
  | 3 => some .e4m3
  | 4 => some .e5m2
  | _ => none

/-- The exact value of an element of a type other than BX8 and F32x2, from its code. -/
def elemVal (etype code : Nat) : FVal :=
  match etypeOf etype with
  | 6 => ofInt (sext code 4)
  | 7 => ofInt (sext code 8)
  | 9 => ofInt (sext code 32)
  | t => match fltOf t with
    | some f => decodeF f code
    | none => .nan

/-- A weight element expanded to B16 (R66 to R68): the header as a 512-bit number, the element's code. The descriptor's
ETYPE places the element, and the header's says how many bits its sign extension takes, also where the two differ (log
entry 125). -/
def expandWeight (hdr code : Nat) : Num Nat :=
  let i4 := bits hdr 0 4 == 6
  if !bit hdr 8 then
    let w := bits hdr (256 + 16 * (code % 16)) 16
    pure (if (decodeF .b16 w).isNan then 0x7FC0 else w)
  else
    let q := if i4 then sext code 4 else sext code 8
    let d := q - sext (bits hdr 32 8) 8
    match decodeF .b16 (bits hdr 16 16) with
    | .fin n m e =>
      if d = 0 then pure (b2n n * 0x8000)
      else convert {} .b16 (.fin (n != decide (d < 0)) (m * d.natAbs) e)
    | x => do
      let r ← exactMul x (ofInt d)
      pure (encodeF .b16 r)

/-- Adds an instruction's tally to the registers and reports its conversion events (R72, Table 15.1). -/
def addTally (s : State) (t : Tally) : State :=
  let s1 := countF s 0x50008 0 32 (t.oor + t.infs)
  let s2 := countF s1 0x50010 0 32 t.van
  let s3 := countF s2 0x50018 0 32 t.nan
  let s4 := countC (countC (countC s3 0x50040 t.evals) 0x50048 t.flush) 0x50050 t.clamp
  pmcEvent (pmcEvent s4 0x07A none none none t.van) 0x07B none none none t.oor

end Sys2Proof.Machine
end

