-- ==== Sys2Proof/Machine/Pipe.lean ====
section
/-! DEFINITION. The special-function pipes (R229 to R238, R246): the pipe format, range reduction, segment polynomials
with the coefficients of the function tables as free values (log entry 7), and the functions of Table 09.3. -/

namespace Sys2Proof.Machine

/-! ## The pipe format (R229) -/

/-- A value rounded RNE to the pipe format. A magnitude below the smallest normal value becomes a zero of its sign. -/
def pipe (v : FVal) : FVal :=
  match v with
  | .fin n m e =>
    if m = 0 then .fin n 0 0
    else
      let (m1, e1) := roundAt 0 m e (e + Int.ofNat (bitLen m) - 36)
      let top := e1 + Int.ofNat (bitLen m1) - 1
      if top > 511 then .inf n else if top < -510 then .fin n 0 0 else .fin n m1 e1
  | x => x

/-- The value of a 46-bit pipe word. -/
def pipeDecode (w : Nat) : FVal :=
  let neg := bit w 45
  let ex := bits w 35 10
  let fr := bits w 0 35
  if ex = 0 then .fin neg 0 0
  else if ex = 0x3FF then (if fr = 0 then .inf neg else .nan)
  else .fin neg (2 ^ 35 + fr) (Int.ofNat ex - 546)

/-- The 46-bit word of a value of the pipe format. -/
def pipeEncode (v : FVal) : Nat :=
  match v with
  | .nan => 0x3FF * 2 ^ 35 + 1
  | .inf n => b2n n * 2 ^ 45 + 0x3FF * 2 ^ 35
  | .fin n m e =>
    if m = 0 then b2n n * 2 ^ 45
    else
      let l := bitLen m
      let fr := if l ≤ 36 then m * 2 ^ (36 - l) else m / 2 ^ (l - 36)
      b2n n * 2 ^ 45 + (e + Int.ofNat l - 1 + 511).toNat * 2 ^ 35 + (fr - 2 ^ 35)

/-- Pipe addition. -/
def padd (a b : FVal) : FVal := pipe (quiet (exactAdd a b))
/-- Pipe multiplication. -/
def pmul (a b : FVal) : FVal := pipe (quiet (exactMul a b))

/-! ## Tables (R230 to R232, R246) -/

/-- The primitives, numbered as SFU_TBL_SEL.PRIM. -/
inductive Prim where
  | exp2 | log2 | recip | rsqrt | tanhS
  deriving DecidableEq, Repr

/-- SFU_TBL_SEL.PRIM -/
def Prim.code : Prim → Nat | .exp2 => 0 | .log2 => 1 | .recip => 2 | .rsqrt => 3 | .tanhS => 4

/-- Magnitudes of the stored knot values (Table 09.2, R231, R232): the exact values rounded RNE to the pipe format. -/
def knotTable : Prim → List (Nat × Int)
  | .exp2 => [(1, 0), (37469560383, -35), (40860845337, -35), (44559067803, -35), (759250125, -29),
      (52989960469, -35), (57785961645, -35), (31508019007, -34), (1, 1)]
  | .log2 => [(891286243, -31), (5146406455, -34), (1654808619, -33), (6398429549, -36), (0, 0), (48083205477, -39),
      (23354314367, -37), (68149795969, -38), (44245460455, -37), (3369981001, -33), (63143800857, -37),
      (35978903659, -36), (1256197405, -31)]
  | .recip => [(1, 0), (61083979321, -36), (54975581389, -36), (49977801263, -36), (45812984491, -36),
      (42288908761, -36), (39268272421, -36), (36650387593, -36), (1, -1)]
  | .rsqrt => [(1, 0), (1920767767, -31), (28054608899, -35), (12986760405, -34), (759250125, -30),
      (45812984491, -36), (10865503305, -34), (41439403659, -36), (4959401049, -33), (19059353615, -35),
      (2295756587, -32), (17743292597, -35), (1, -1)]
  | .tanhS => [(0, 0), (34181892849, -38), (67322729293, -38), (24626132899, -36), (63512898475, -37)]

/-- The stored knot value number `i`; LOG2 is negative below 1. -/
def knotVal (p : Prim) (i : Nat) : FVal :=
  match (knotTable p)[i]? with
  | some (m, e) => .fin (p == .log2 && decide (i < 4)) m e
  | none => fzero

/-- The knot number `i`. -/
def knotAt (p : Prim) (i : Nat) : FVal :=
  match p with
  | .exp2 => .fin false i (-3)
  | .log2 => .fin false (12 + i) (-4)
  | .recip => .fin false (8 + i) (-3)
  | .rsqrt => .fin false (4 + i) (-2)
  | .tanhS => .fin false i (-3)

/-- Segments of a primitive. -/
def segCount (p : Prim) : Nat := (knotTable p).length - 1

/-- The degree of the polynomials of a primitive (Table 09.2). -/
def polyDegree : Prim → Nat | .log2 => 6 | _ => 5

/-- The segments whose polynomial has c0 = 0 and another variable (R230). -/
def zeroSeg (p : Prim) (sg : Nat) : Bool :=
  (p == .log2 && (sg == 3 || sg == 4)) || (p == .tanhS && sg == 0)

/-- Coefficient `k` of segment `sg`: c0 is the knot value, the others are table words (R230, R246). -/
def coeff (p : Prim) (sg k : Nat) : FVal :=
  if k = 0 then (if zeroSeg p sg then fzero else knotVal p sg)
  else if k ≤ polyDegree p then pipeDecode (Config.tableWord p.code (8 * sg + k)).toNat
  else fzero

/-- Table word `w` of a primitive as SFU_TBL_DATA shows it (R246). -/
def tableData (p : Prim) (w : Nat) : Nat :=
  let sg := w / 8
  if segCount p ≤ sg then 0
  else if w % 8 = 7 then pipeEncode (knotVal p (sg + 1))
  else if w % 8 = 0 then pipeEncode (coeff p sg 0)
  else if w % 8 ≤ polyDegree p then (Config.tableWord p.code w).toNat
  else 0

/-- The primitive of a PRIM code. -/
def primOf : Nat → Option Prim
  | 0 => some .exp2 | 1 => some .log2 | 2 => some .recip | 3 => some .rsqrt | 4 => some .tanhS | _ => none

/-- The variable u of a segment's polynomial (R230). -/
def segVar (p : Prim) (sg : Nat) (m : FVal) : FVal :=
  if zeroSeg p sg then (if p = .log2 then padd m fone.neg else m)
  else padd m (knotAt p sg).neg

/-- Horner's rule from c6 down, each step rounded (R230). -/
def horner (p : Prim) (sg : Nat) (u : FVal) : FVal :=
  (List.range 6).foldl (fun acc j => padd (pmul acc u) (coeff p sg (5 - j))) (coeff p sg 6)

/-- A value clamped to the interval between two values. -/
def clampF (lo hi x : FVal) : FVal := if ltF x lo then lo else if ltF hi x then hi else x

/-- The segment polynomial with the clamp of R230, which the DX2 forms leave out (R245). -/
def segPoly (dx2 : Bool) (p : Prim) (sg : Nat) (m : FVal) : FVal :=
  let y := horner p sg (segVar p sg m)
  if dx2 then y
  else
    let a := knotVal p sg
    let b := knotVal p (sg + 1)
    if leF a b then clampF a b y else clampF b a y

/-! ## Primitives (Table 09.1) -/

/-- floor of a finite value. -/
def floorVal (neg : Bool) (m : Nat) (e : Int) : Int :=
  if 0 ≤ e then signedAt neg m e 0
  else
    let k := (-e).toNat
    if neg then - Int.ofNat ((m + 2 ^ k - 1) / 2 ^ k) else Int.ofNat (m / 2 ^ k)

/-- floor(k × x) for a natural k and a finite x ≥ 0. -/
def floorMul (k : Nat) (x : FVal) : Nat :=
  match x with
  | .fin false m e => if 0 ≤ e then k * m * 2 ^ e.toNat else k * m / 2 ^ (-e).toNat
  | _ => 0

/-- A value times 2^n; out of the pipe range it is an infinity or +0 (Table 09.1). -/
def scale2 (v : FVal) (n : Int) : FVal :=
  match v with
  | .fin s m e => pipe (.fin s m (e + n))
  | x => x

/-- EXP2 of a finite value. A magnitude of the exponent beyond the pipe range needs no polynomial. -/
def exp2Fin (dx2 : Bool) (neg : Bool) (m : Nat) (e : Int) : FVal :=
  let n := floorVal neg m e
  if n > 2000 then .inf false
  else if n < -2000 then fzero
  else
    let fr := quiet (exactAdd (.fin neg m e) (ofInt (-n)))
    let sg := floorMul 8 fr
    scale2 (segPoly dx2 .exp2 sg fr) n

/-- LOG2 of a finite positive value. -/
def log2Fin (dx2 : Bool) (m : Nat) (e : Int) : FVal :=
  let l := floorLog2 m e
  let n := if leF (.fin false 3 (l - 1)) (.fin false m e) then l + 1 else l
  let r := FVal.fin false m (e - n)
  let sg := floorMul 16 (quiet (exactAdd r (.fin true 3 (-2))))
  padd (ofInt n) (segPoly dx2 .log2 sg r)

/-- RECIP of a finite value other than zero. -/
def recipFin (dx2 neg : Bool) (m : Nat) (e : Int) : FVal :=
  let n := floorLog2 m e
  let r := FVal.fin false m (e - n)
  let sg := floorMul 8 (quiet (exactAdd r fone.neg))
  let y := scale2 (segPoly dx2 .recip sg r) (-n)
  if neg then y.neg else y

/-- RSQRT of a finite positive value. -/
def rsqrtFin (dx2 : Bool) (m : Nat) (e : Int) : FVal :=
  let l := floorLog2 m e
  let n := l / 2
  let r := FVal.fin false m (e - 2 * n)
  let sg := floorMul 4 (quiet (exactAdd r fone.neg))
  scale2 (segPoly dx2 .rsqrt sg r) (-n)

/-- EXP2 with its special arguments (Table 09.4), unflushed. -/
def primExp2 (dx2 : Bool) (v : FVal) : FVal :=
  match v with
  | .nan => .nan
  | .inf n => if n then fzero else .inf false
  | .fin n m e => if m = 0 then fone else exp2Fin dx2 n m e

/-- RECIP with its special arguments. -/
def primRecip (dx2 : Bool) (v : FVal) : FVal :=
  match v with
  | .nan => .nan
  | .inf n => .fin n 0 0
  | .fin n m e => if m = 0 then .inf n else recipFin dx2 n m e

/-- LOG2 with its special arguments; a negative argument is an invalid operation. -/
def primLog2 (dx2 : Bool) (v : FVal) : Num FVal :=
  match v with
  | .nan => pure .nan
  | .inf n => if n then do
        tallyNan
        pure .nan
      else pure (.inf false)
  | .fin n m e =>
    if m = 0 then pure (.inf true)
    else if n then do
      tallyNan
      pure .nan
    else pure (log2Fin dx2 m e)

/-- RSQRT with its special arguments. -/
def primRsqrt (dx2 : Bool) (v : FVal) : Num FVal :=
  match v with
  | .nan => pure .nan
  | .inf n => if n then do
        tallyNan
        pure .nan
      else pure fzero
  | .fin n m e =>
    if m = 0 then pure (.inf n)
    else if n then do
      tallyNan
      pure .nan
    else pure (rsqrtFin dx2 m e)

/-! ## Functions (Tables 09.3 to 09.5) -/

/-- log2 e -/
def cL2E : FVal := .fin false 24785312075 (-34)
/-- ln 2 -/
def cLN2 : FVal := .fin false 47632711549 (-36)
/-- 2 √(2/π) -/
def cK : FVal := .fin false 27415104757 (-34)
/-- 0.044715 -/
def cG : FVal := .fin false 12291165609 (-38)
/-- 1.702 -/
def c1702 : FVal := .fin false 29240137351 (-34)

/-- EXP in the pipe, unflushed. -/
def pExp (dx2 : Bool) (v : FVal) : FVal := primExp2 dx2 (pmul v cL2E)

/-- SIGMOID in the pipe, unflushed. -/
def pSigmoid (dx2 : Bool) (v : FVal) : FVal :=
  match v with
  | .nan => .nan
  | .inf n => if n then fzero else fone
  | x =>
    let t := pExp dx2 x.abs.neg
    if x.sign && !x.isZero then primRecip dx2 (padd fone (primRecip dx2 t))
    else primRecip dx2 (padd fone t)

/-- TANH in the pipe. -/
def pTanh (dx2 : Bool) (v : FVal) : FVal :=
  match v with
  | .nan => .nan
  | .inf n => .fin n 1 0
  | x =>
    if ltF x.abs (.fin false 1 (-1)) then
      let y := segPoly dx2 .tanhS (floorMul 8 x.abs) x.abs
      if x.isZero then x else if x.sign then y.neg else y
    else
      let r := primRecip dx2 (padd fone (pExp dx2 (pmul x.abs (.fin false 1 1))))
      let y := padd fone (pmul r (.fin false 1 1)).neg
      let z := if ltF y (knotVal .tanhS 4) then knotVal .tanhS 4 else y
      if x.sign then z.neg else z

/-- `x` is at or below a threshold and finite (R237; log entry 21). -/
def atOrBelow (x : FVal) (t : Int) : Bool := !x.notFin && leF x (ofInt t)

/-- A flushed result. -/
def flushed (v : FVal) : Num FVal := do
  tallyFlush
  pure v

/-- A result of EXP, EXP2 or RECIP that the pipe holds as an infinity although its argument is finite and not zero: its
exact value is finite and beyond every output format (R238). -/
def beyond (arg y : FVal) : FVal :=
  match arg, y with
  | .fin _ m _, .inf n => if m = 0 then .inf n else .fin n 1 1000
  | _, y => y

/-- EXP as a function: flushed at or below −104. -/
def fnExp (dx2 : Bool) (v : FVal) : Num FVal :=
  if atOrBelow v (-104) then flushed fzero else pure (beyond v (pExp dx2 v))

/-- LN -/
def fnLn (dx2 : Bool) (v : FVal) : Num FVal := do
  let y ← primLog2 dx2 v
  pure (pmul y cLN2)

/-- SIGMOID as a function: flushed at or below −104. -/
def fnSigmoid (dx2 : Bool) (v : FVal) : Num FVal :=
  if atOrBelow v (-104) then flushed fzero else pure (pSigmoid dx2 v)

/-- The argument u of GELU (Table 09.3). -/
def geluArg (v : FVal) : FVal := pmul cK (padd v (pmul cG (pmul (pmul v v) v)))

/-- GELU: the form of Table 09.3, or the DX2 form of R245. -/
def fnGelu (dx2 : Bool) (v : FVal) : Num FVal :=
  match v with
  | .nan => pure .nan
  | .inf n => pure (if n then .fin true 0 0 else .inf false)
  | x =>
    if x.isZero then pure x
    else if dx2 then
      if atOrBelow x (-64) then flushed (.fin true 0 0) else pure (pmul x (pSigmoid dx2 (pmul c1702 x)))
    else
      let u := geluArg x
      if leF u (ofInt (-108)) then flushed (.fin true 0 0) else pure (pmul x (pSigmoid dx2 u))

/-- SILU: flushed at or below −112. -/
def fnSilu (dx2 : Bool) (v : FVal) : Num FVal :=
  match v with
  | .nan => pure .nan
  | .inf n => pure (if n then .fin true 0 0 else .inf false)
  | x => if x.isZero then pure x else if atOrBelow x (-112) then flushed (.fin true 0 0)
    else pure (pmul x (pSigmoid dx2 x))

/-- Passes of a function code (Table 09.3). -/
def fnPasses (code : Nat) : Nat := nth [0, 0, 3, 3, 3, 2, 1, 1, 1, 1, 1, 1] code

/-- A function of Table 09.3 by its code. -/
def fnApply (dx2 : Bool) (code : Nat) (v : FVal) : Num FVal :=
  match code with
  | 1 => pure (match v with
    | .nan => .nan
    | x => if ltF fzero x then x else fzero)
  | 2 => fnGelu dx2 v
  | 3 => fnSilu dx2 v
  | 4 => fnSigmoid dx2 v
  | 5 => pure (pTanh dx2 v)
  | 6 => fnExp dx2 v
  | 7 => fnLn dx2 v
  | 8 => pure (beyond v (primRecip dx2 v))
  | 9 => primRsqrt dx2 v
  | 10 => if atOrBelow v (-150) then flushed fzero else pure (beyond v (primExp2 dx2 v))
  | 11 => primLog2 dx2 v
  | _ => pure v

/-! ## Functions as selection, SOFTMAX and NORM use them: rounded RNE to F32 (R229) -/

/-- EXP, one pass. -/
def expF (dx2 : Bool) (v : FVal) : Num FVal := do
  tallyEvals 1
  let y ← fnExp dx2 v
  pure (f32 y)

/-- LN, one pass. -/
def lnF (dx2 : Bool) (v : FVal) : Num FVal := do
  tallyEvals 1
  let y ← fnLn dx2 v
  pure (f32 y)

/-- SIGMOID, three passes. -/
def sigmoidF (dx2 : Bool) (v : FVal) : Num FVal := do
  tallyEvals 3
  let y ← fnSigmoid dx2 v
  pure (f32 y)

/-- RSQRT, one pass. -/
def rsqrtF (dx2 : Bool) (v : FVal) : Num FVal := do
  tallyEvals 1
  let y ← primRsqrt dx2 v
  pure (f32 y)

/-- SFU_TBL_CHK.MATCH is 1 (R247). -/
def tablesOk (s : State) : Bool := bit (csrGet s 0x50038) 63

end Sys2Proof.Machine
end

