-- ==== Sys2Proof/Machine/Route.lean ====
section
/-! DEFINITION. Where chips and members lie: coordinates, groups (R268, R269), routing (R310 to R312) and the report
of an unreachable chip (R290, R314). -/

namespace Sys2Proof.Machine

/-! ## Coordinates -/

/-- FAB_ID -/
def oFabId : Nat := 0xA0000

/-- This chip's ID (R295). -/
def ownChip (s : State) : Nat := csrField s oFabId 0 15

/-- A domain size as it acts: 0 as 1, above 32 as 32. -/
def sizeField (x : Nat) : Nat := clampN 1 32 x

/-- The domain size of axis `a` (0 X, 1 Y, 2 Z). -/
def domSize (s : State) (a : Nat) : Nat := sizeField (csrField s oFabId (24 + 6 * a) 6)

/-- Coordinate `a` of a chip ID. -/
def coordOf (chip a : Nat) : Nat := bits chip (5 * a) 5

/-- The chip ID of three coordinates. -/
def chipAt (x y z : Nat) : Nat := x + 32 * y + 1024 * z

/-- A chip lies in the domain (R296). -/
def inDomain (s : State) (chip : Nat) : Bool := [0, 1, 2].all (fun a => coordOf chip a < domSize s a)

/-- FAB_ID.MINVER is 0b01 (R300). -/
def minVer1 (s : State) : Bool := csrField s oFabId 48 2 == 1

/-- The port of axis `a` and direction (0 +, 1 −): FP0 to FP5 are +X, −X, +Y, −Y, +Z, −Z. -/
def portOf (a dir : Nat) : Nat := 2 * a + dir

/-- The neighbour of a chip over a port. -/
def neighbour (s : State) (chip n : Nat) : Nat :=
  let a := n / 2
  let d := domSize s a
  let x := (coordOf chip a + (if n % 2 = 0 then 1 else d - 1)) % d
  setBits chip (5 * a) 5 x

/-! ## Groups (R268 to R270) -/

/-- Size of group `g` along axis `a`, from the low 53 bits of a box. -/
def boxSize (box a : Nat) : Nat := sizeField (bits box (24 + 8 * a) 6)
/-- Origin of a box along axis `a`. -/
def boxOrg (box a : Nat) : Nat := bits box (8 * a) 5
/-- CLOG2 of a box as it acts. -/
def boxClog2 (box : Nat) : Nat := clampN 12 24 (bits box 48 5)
/-- The members of a box. -/
def boxCount (box : Nat) : Nat := boxSize box 0 * boxSize box 1 * boxSize box 2

/-- COL_GRP[g] -/
def grpBox (s : State) (g : Nat) : Nat := csrGet s (oColGrp g)

/-- The group's sizes exceed the domain (R269). -/
def boxTooBig (s : State) (box : Nat) : Bool := [0, 1, 2].any (fun a => domSize s a < boxSize box a)

/-- Relative coordinate `a` of a chip in a box. -/
def relOf (s : State) (box chip a : Nat) : Nat := (coordOf chip a + domSize s a - boxOrg box a % domSize s a) % domSize s a

/-- A chip is a member of a box (R268, R269). -/
def inBox (s : State) (box chip : Nat) : Bool :=
  !boxTooBig s box && [0, 1, 2].all (fun a => relOf s box chip a < boxSize box a)

/-- The member index of a chip in a box. -/
def idxIn (s : State) (box chip : Nat) : Nat :=
  relOf s box chip 0 + boxSize box 0 * (relOf s box chip 1 + boxSize box 1 * relOf s box chip 2)

/-- Relative coordinate `a` of a member index. -/
def relIdx (box m a : Nat) : Nat :=
  if a = 0 then m % boxSize box 0
  else if a = 1 then m / boxSize box 0 % boxSize box 1
  else m / (boxSize box 0 * boxSize box 1) % boxSize box 2

/-- The chip of member `m` of a box. -/
def memberChip (s : State) (box m : Nat) : Nat :=
  let c := fun a => (boxOrg box a + relIdx box m a) % domSize s a
  chipAt (c 0) (c 1) (c 2)

/-- A group is enabled and this chip is one of its members. -/
def inGroup (s : State) (g : Nat) : Bool := (grp s g).en && !(grp s g).notin

/-- NOSIG (R285, R300): a ring's links run version 1 only while MINVER is 0b01, and it is 1 in every group then. -/
def noSig (s : State) : Bool := minVer1 s

/-- Computes NOTIN and MIDX of a group (R268 to R270). -/
def placeGroup (s : State) (g : Nat) : State :=
  let box := grpBox s g
  let isIn := inBox s box (ownChip s)
  setGrp s g { grp s g with notin := !isIn, midx := if isIn then idxIn s box (ownChip s) else 0 }

/-! ## Unreachable chips (R290, R314) -/

/-- Marks a group as having lost a chip; the index first recorded is kept (R290). -/
def loseIn (s : State) (chip g : Nat) : State :=
  if (grp s g).en && inBox s (grpBox s g) chip && !(grp s g).lost then
    setGrp s g { grp s g with lost := true, lostIdx := idxIn s (grpBox s g) chip }
  else s

/-! ## Next hop (R310 to R312) -/

/-- Port `n` is UP. -/
def portUp (s : State) (n : Nat) : Bool := (port s n).st == 5

/-- The header fields that routing reads and writes (Table 12.3). -/
structure RouteHdr where
  dst : Nat
  revd : Bool := false
  offax : Nat := 0
  retn : Bool := false
  fixd : Bool := false
  fdir : Nat := 0
  fax : Nat := 0
  deriving DecidableEq, Repr

/-- The routing fields of a header. -/
def routeHdr (h : Nat) : RouteHdr :=
  { dst := bits h 16 15, revd := bit h 46, offax := bits h 47 2, retn := bit h 49, fixd := bit h 50,
    fdir := bits h 51 1, fax := bits h 61 2 }

/-- A header with its routing fields replaced. -/
def putRoute (h : Nat) (r : RouteHdr) : Nat :=
  setBits (setBits h 46 6 (b2n r.revd + 2 * r.offax + 8 * b2n r.retn + 16 * b2n r.fixd + 32 * r.fdir)) 61 2 r.fax

/-- What a chip decides for a message. -/
inductive Hop where
  | deliver
  /-- send on a port with these routing fields; the flag says that an offset or a reversal was taken -/
  | send (n : Nat) (r : RouteHdr) (detour : Bool)
  | blocked
  deriving DecidableEq, Repr

/-- The axes in the order in which they are routed. -/
def axisOrder (r : RouteHdr) : List Nat :=
  let l := [0, 1, 2]
  if r.retn && r.offax != 0 then l.filter (fun a => a + 1 != r.offax) ++ [r.offax - 1] else l

/-- A port can carry the message in a routing view: it is UP there, and a message with REVD or OFFAX set does not cross
a version-1 link (R301). -/
def canCross (s : State) (up : Nat → Bool) (r : RouteHdr) (n : Nat) : Bool :=
  up n && !((r.revd || r.offax != 0) && (port s n).ver == 1)

/-- The procedure of R310 at this chip, for a routing view. -/
def nextHop (s : State) (up : Nat → Bool) (r0 : RouteHdr) : Hop :=
  let here := ownChip s
  match (axisOrder r0).find? (fun a => coordOf r0.dst a != coordOf here a) with
  | none => .deliver
  | some a =>
    let r := if r0.fixd && r0.fax != a + 1 then { r0 with fixd := false, fax := 0 } else r0
    let size := domSize s a
    let d := (coordOf r.dst a + size - coordOf here a) % size
    let dir := if r.fixd then r.fdir else if d ≤ size - d then 0 else 1
    if canCross s up r (portOf a dir) then .send (portOf a dir) r false
    else if (r.revd || r.offax != 0) && up (portOf a dir) then .blocked
    else
      let b := [(a + 1) % 3, (a + 2) % 3].find? (fun x => decide (1 < domSize s x))
      let off := match b with
        | none => none
        | some x =>
          let q := { r with offax := x + 1, retn := decide (x < a), fixd := true, fax := a + 1, fdir := dir }
          if r.offax == 0 && canCross s up q (portOf x 0) then some (Hop.send (portOf x 0) q true) else none
      match off with
      | some h => h
      | none =>
        let q := { r with revd := true, fixd := true, fax := a + 1, fdir := 1 - dir }
        if !r.revd && canCross s up q (portOf a (1 - dir)) then .send (portOf a (1 - dir)) q true else .blocked

/-- DET_MODE.STRICT -/
def strictMode (s : State) : Bool := bit (csrGet s 0xE0000) 0

/-- A port is UP in the snapshot (R312). -/
def snapUp (s : State) (n : Nat) : Bool := bit s.fab.snapUp n

/-- The decision under the routing view in force; in STRICT mode a port that is not actually UP blocks (R312). -/
def decideHop (s : State) (r : RouteHdr) : Hop :=
  if strictMode s then
    match nextHop s (snapUp s) r with
    | .send n q d => if portUp s n then .send n q d else .blocked
    | h => h
  else nextHop s (portUp s) r

/-- In COUNTED mode a decision that differs from the snapshot's counts as a timing-dependent choice (R312, R354). -/
def countHop (s : State) (r : RouteHdr) : State :=
  if !strictMode s && nextHop s (portUp s) r != nextHop s (snapUp s) r then tdcCount s 1 else s

/-- A message of this chip to `chip` can leave: the chip is its own, or lies in the domain and has a next hop
(R296, R310, R311). -/
def reaches (s : State) (chip : Nat) : Bool :=
  chip == ownChip s || (inDomain s chip && decideHop s { dst := chip } != .blocked)

end Sys2Proof.Machine
end

