-- ==== Sys2Proof/Machine/Shards.lean ====
section
/-! DEFINITION. Row bytes (Table 07.2), slices and chunks of collectives (R273, R275, R276), and CRC-32C. -/

namespace Sys2Proof.Machine

/-! ## Row bytes -/

/-- Bits of an element of a type other than BX8. -/
def etyBits (ety : Nat) : Nat :=
  match ety with
  | 1 => 32 | 9 => 32 | 3 => 8 | 4 => 8 | 7 => 8 | 6 => 4 | 8 => 64 | _ => 16

/-- Row bytes before rounding of `n` elements (Table 07.2). -/
def rowBytes (ety n : Nat) : Nat := if ety = 5 then ceilDiv n 32 * 33 else ceilDiv (n * etyBits ety) 8

/-! ## CRC-32C (R283, R303) -/

/-- One bit of the reflected polynomial (log entry 32). -/
def crcBit (c : Nat) : Nat := if c % 2 = 1 then (c / 2) ^^^ 0x82F63B78 else c / 2

/-- One byte. -/
def crcByte (c : Nat) (b : Byte) : Nat := crcBit (crcBit (crcBit (crcBit (crcBit (crcBit (crcBit (crcBit (c ^^^ b.toNat))))))))

/-- CRC-32C, the iSCSI variant, of a list of bytes. -/
def crc32c (l : List Byte) : Nat := (l.foldl crcByte 0xFFFFFFFF) ^^^ 0xFFFFFFFF

/-! ## Slices (R275) -/

/-- First line of part `p` of `n` lines in `q` parts. -/
def partLo (n q p : Nat) : Nat := p * n / q
/-- Lines of part `p`. -/
def partLen (n q p : Nat) : Nat := (p + 1) * n / q - p * n / q

/-- Slice (x, y, z) of `L` lines: first line and line count. -/
def sliceLines (L box x y z : Nat) : Nat × Nat :=
  let nx := partLen L (boxSize box 0) x
  let ny := partLen nx (boxSize box 1) y
  (partLo L (boxSize box 0) x + partLo nx (boxSize box 1) y + partLo ny (boxSize box 2) z, partLen ny (boxSize box 2) z)

/-- Lines of the largest slice. -/
def largestSlice (L box : Nat) : Nat := ceilDiv (ceilDiv (ceilDiv L (boxSize box 0)) (boxSize box 1)) (boxSize box 2)

/-- The lines of chunk `c` of a run of `n` lines from `lo`. -/
def chunkOf (cl c lo n : Nat) : List Nat := (List.range (min cl (n - c * cl))).map (fun i => lo + c * cl + i)

/-- CL: lines of a chunk (R276). -/
def chunkLines (box : Nat) : Nat := 2 ^ boxClog2 box / 64

/-! ## Geometry of an executing collective -/

/-- ALLREDUCE and REDSCAT reduce. -/
def CollOp.reduces (o : CollOp) : Bool := o.opc == 0x40 || o.opc == 0x41
/-- XSCAN. -/
def CollOp.scans (o : CollOp) : Bool := o.opc == 0x43
/-- CAIRN. -/
def CollOp.cairn (o : CollOp) : Bool := o.opc == 0x44

/-- bytes(n) of the source. -/
def CollOp.bytes (o : CollOp) : Nat := if o.cairn then 0 else rowBytes o.etype o.n
/-- L: lines of the source. -/
def CollOp.lines (o : CollOp) : Nat := ceilDiv o.bytes 64
/-- Number of chunks (R276). -/
def CollOp.chunks (o : CollOp) (box : Nat) : Nat :=
  if o.reduces then ceilDiv (largestSlice o.lines box) (chunkLines box) else ceilDiv o.lines (chunkLines box)

/-- The coordinates, axis by axis, of the pieces that belong to coordinate `u` of axis `a` in a reduction: the member's own
before `a`, any after it (R277). -/
def shardCoords (box m a u b : Nat) : List Nat :=
  if b < a then [relIdx box m b] else if b = a then [u] else List.range (boxSize box b)

/-- The lines of chunk `c` of the slices with the given coordinates, ascending. -/
def slicesLines (L box c : Nat) (xs ys zs : List Nat) : List Nat :=
  xs.flatMap (fun x => ys.flatMap (fun y => zs.flatMap (fun z =>
    let p := sliceLines L box x y z
    chunkOf (chunkLines box) c p.1 p.2)))

/-- The lines of sub-shard `u` of axis `a` in chunk `c` (R275 to R277). -/
def shardLines (o : CollOp) (box m a u : Nat) : List Nat :=
  slicesLines o.lines box o.chunk (shardCoords box m a u 0) (shardCoords box m a u 1) (shardCoords box m a u 2)

/-- The members whose blocks coordinate `u` of axis `a` holds in a gather: any coordinate before `a`, the member's own after
it (R279), ascending. -/
def blockMembers (box m a u : Nat) : List Nat :=
  let at_ := fun b => if b < a then List.range (boxSize box b) else if b = a then [u] else [relIdx box m b]
  (at_ 2).flatMap (fun z => (at_ 1).flatMap (fun y => (at_ 0).map (fun x =>
    x + boxSize box 0 * (y + boxSize box 1 * z))))

/-- The member's own slice in chunk `c`: its lines. -/
def ownLines (o : CollOp) (box m c : Nat) : List Nat :=
  slicesLines o.lines box c [relIdx box m 0] [relIdx box m 1] [relIdx box m 2]

/-- The elements of chunk `c` of an XSCAN: first element and count. -/
def scanRange (o : CollOp) (box c : Nat) : Nat × Nat :=
  let per := chunkLines box * 16
  (c * per, min per (o.n - c * per))

/-- The bytes of line `l` that an operation writes: those of bytes(n), and a BX8 row to its extent with padding (R169,
R273). -/
def CollOp.lineBytes (o : CollOp) (l : Nat) : Nat := if o.etype = 5 then 64 else min 64 (o.bytes - 64 * l)

/-- Lines of the destination region on member `m` (R273, R277, R279, R280). -/
def CollOp.destLines (o : CollOp) (box m : Nat) : Nat :=
  if o.opc = 0x41 then (sliceLines o.lines box (relIdx box m 0) (relIdx box m 1) (relIdx box m 2)).2
  else if o.opc = 0x42 then boxCount box * o.lines
  else if o.scans then ceilDiv (8 * o.n) 64
  else o.lines

/-- A line at address `a` lies in the overlap of a source and a destination that are not the same region: its bytes and what
depends on them are indeterminate (R273). The exchanges of the placement engine are none of these operations. -/
def CollOp.clash (o : CollOp) (box m a : Nat) : Bool :=
  let within := fun lo n => decide (lo ≤ a) && decide (a < lo + 64 * n)
  decide (o.opc ≤ 0x43) && !(o.src == o.dst && o.lines == o.destLines box m) &&
  within o.src o.lines && within o.dst (o.destLines box m)

/-- The destination bytes, as address and length, that chunk `c` defines on member `m`, by line (R277, R279, R280). -/
def chunkDest (o : CollOp) (box m c : Nat) : List (Nat × Nat) :=
  let clip := o.lineBytes
  if o.scans then
    let r := scanRange o box c
    [(o.dst + 8 * r.1, 8 * r.2)]
  else if o.opc = 0x40 then
    (slicesLines o.lines box c (List.range (boxSize box 0)) (List.range (boxSize box 1)) (List.range (boxSize box 2))).map
      (fun l => (o.dst + 64 * l, clip l))
  else if o.opc = 0x41 then
    (ownLines o box m c).map (fun l =>
      (o.dst + 64 * (l - (sliceLines o.lines box (relIdx box m 0) (relIdx box m 1) (relIdx box m 2)).1), clip l))
  else
    (List.range (boxCount box)).flatMap (fun k =>
      (chunkOf (chunkLines box) c 0 o.lines).map (fun l => (o.dst + k * roundUp o.bytes 64 + 64 * l, clip l)))

/-- The destination bytes of the chunks that are not signalled become indeterminate (R289). -/
def freeDest (m : HostMem) (o : CollOp) (box k : Nat) : HostMem :=
  ((List.range (o.chunks box - o.signalled)).flatMap (fun i => chunkDest o box k (o.signalled + i))).foldl
    (fun m1 p => wrFree m1 (p.1 % 2 ^ 42) p.2) m

end Sys2Proof.Machine
end

