-- ==== Sys2Proof/Machine/Ring.lean ====
section
/-! DEFINITION. Messages of this chip (Table 12.4), the rings of a group (R274), and the end of a collective, by its
completion or by an abort (R287, R290). -/

namespace Sys2Proof.Machine

/-! ## Headers -/

/-- Bit `i` and above of the header, shifted into place. -/
def ext (lo v : Nat) : Nat := v * 2 ^ lo

/-- The header of a message of this chip before its first hop: owner code, KIND, destination, source, and the bits of
its KIND (Table 12.3). -/
def mkHdr (s : State) (owner kind dst : Nat) (rest : Nat) : Nat :=
  owner % 256 + ext 8 (kind % 16) + ext 16 (dst % 2 ^ 15) + ext 31 (ownChip s) + rest

/-- KIND of a message. -/
def Msg.kind (m : Msg) : Nat := bits m.hdr 8 4
/-- Destination of a message. -/
def Msg.dst (m : Msg) : Nat := bits m.hdr 16 15
/-- Source of a message. -/
def Msg.src (m : Msg) : Nat := bits m.hdr 31 15
/-- Owner code of a message. -/
def Msg.owner (m : Msg) : Nat := bits m.hdr 0 8

/-- Group of a COLL or COLLCTL message. -/
def Msg.grp (m : Msg) : Nat := bits m.hdr 64 6
/-- Its sequence number. -/
def Msg.seq (m : Msg) : Nat := bits m.hdr 70 32
/-- Its chunk. -/
def Msg.chunk (m : Msg) : Nat := bits m.hdr 102 24
/-- Its phase: 1 X, 2 Y, 3 Z. -/
def Msg.phase (m : Msg) : Nat := bits m.hdr 126 2
/-- Its step. -/
def Msg.step (m : Msg) : Nat := bits m.hdr 128 8
/-- Subtype of a COLLCTL message. -/
def Msg.sub (m : Msg) : Nat := bits m.hdr 136 4

/-! ## Flits that carry a control word only (R303) -/

/-- Bytes 0 to 379 of a flit. -/
def flitBytes (ctl hdr : Nat) (payload : List Byte) : List Byte := leBytes 8 ctl ++ leBytes 20 hdr ++ payload

/-- The flit of a control word, a header and up to 352 payload bytes, with its CRC. -/
def mkFlit (ctl hdr : Nat) (payload : List Byte) : Flit :=
  let p := payload ++ List.replicate (352 - payload.length) 0#8
  { ctl := BitVec.ofNat 64 ctl, hdr := BitVec.ofNat 160 hdr, payload := p,
    crc := BitVec.ofNat 32 (crc32c (flitBytes ctl hdr p)) }

/-- The CRC of a flit is right. -/
def flitOk (f : Flit) : Bool := crc32c (flitBytes f.ctl.toNat f.hdr.toNat f.payload) == f.crc.toNat

/-- The part of a control word that a port always sends: ACK, and the credit count of a channel (Table 12.2). -/
def ctlBase (p : Port) (vc : Nat) : Nat := p.rxSeq * 2 ^ 40 + vc * 2 ^ 36 + (nth p.freedVc vc % 256) * 2 ^ 28

/-- Puts a flit on the link of port `n`. -/
def putWire (s : State) (n : Nat) (f : Flit) : State := { s with fab := { s.fab with wire := (n, f) :: s.fab.wire } }

/-- Sends an idle flit that carries only its control word (R303): the credit count of channel `vc`, and a NAK or not. -/
def sendIdle (s : State) (n vc : Nat) (nak : Bool) : State :=
  putWire s n (mkFlit (ctlBase (port s n) vc + b2n nak * 2 ^ 39) 0 [])

/-! ## Ingress buffers (R203, R307) -/

/-- The link of a port carries flits. -/
def carries (s : State) (n : Nat) : Bool := (port s n).st == 5 || (port s n).st == 6

/-- `k` of the ingress buffers of a hold fall free, and the port's next control word says so (R307). Those of an earlier
link-up are no credits of this one (log entry 136). -/
def freeBufs (s : State) (h : Hold) (k : Nat) : State :=
  match h.port with
  | none => s
  | some n =>
    let p := port s n
    if k = 0 ∨ p.gen ≠ h.gen then s
    else
      let s1 := setPort s n { p with freedVc := p.freedVc.set h.vc ((nth p.freedVc h.vc + k) % 256) }
      if carries s1 n then sendIdle s1 n h.vc false else s1

/-- A message or an item leaves its ingress buffers. -/
def freeHold (s : State) (h : Hold) : State := freeBufs s h h.bufs

/-! ## Messages of this chip -/

/-- The UNREACH that answers a message (Table 12.4), sent from this chip to the message's source under the owner code of
the message (log entry 22). -/
def unreachOf (s : State) (m : Msg) : Msg :=
  { hdr := mkHdr s m.owner 9 m.src
      (ext 64 m.kind + ext 68 (ownChip s) + ext 83 m.dst + ext 98 (bits m.hdr 64 62)), data := [] }

/-- Puts a message on its way: to this chip's own units (R311), back as unreachable where its destination lies outside
the domain (R296), or to its next hop. -/
def post (s : State) (m : Msg) : State :=
  if m.dst = ownChip s then { s with fab := { s.fab with inbox := s.fab.inbox ++ [m] } }
  else if inDomain s m.dst then { s with fab := { s.fab with outbox := s.fab.outbox ++ [m] } }
  else { s with fab := { s.fab with inbox := s.fab.inbox ++ [unreachOf s m] } }

/-- Sends a message: owner code, KIND, destination, bits of the KIND, payload. -/
def send (s : State) (owner kind dst rest : Nat) (data : List Byte) : State :=
  post s { hdr := mkHdr s owner kind dst rest, data := data }

/-- A row or an answer, which must enter a work queue. -/
def Msg.toQueue (m : Msg) : Bool := m.kind == 1 || m.kind == 2

/-- The first message of a list that meets a condition, and the list without it. A row or an answer that its queue could
not take stops the ingress of its port: what came by that port after it waits (R205). -/
def pickMsg (f : Msg → Bool) : List (Option Nat) → List Msg → Option (Msg × List Msg)
  | _, [] => none
  | stuck, m :: rest =>
    if f m && !stuck.contains m.hold.port then some (m, rest)
    else
      let more := if m.toQueue && m.hold.port.isSome then m.hold.port :: stuck else stuck
      (pickMsg f more rest).map (fun x => (x.1, m :: x.2))

/-- Takes the first message that meets a condition from the inbox; its ingress buffers fall free. -/
def takeMsg (s : State) (f : Msg → Bool) : Option (Msg × State) :=
  (pickMsg f [] s.fab.inbox).map (fun x => (x.1, freeHold { s with fab := { s.fab with inbox := x.2 } } x.1.hold))

/-! ## Rings (R274) -/

/-- The line index of a member on axis `a`. -/
def lineIdx (box m a : Nat) : Nat :=
  match a with
  | 0 => relIdx box m 1 + boxSize box 1 * relIdx box m 2
  | 1 => relIdx box m 0 + boxSize box 0 * relIdx box m 2
  | _ => relIdx box m 0 + boxSize box 0 * relIdx box m 1

/-- The box spans the whole domain axis: the ring is full. -/
def fullRing (s : State) (box a : Nat) : Bool := boxSize box a == domSize s a

/-- The ring order of axis `a` through member `m`: relative coordinates by position. -/
def ringOrder (s : State) (box m a : Nat) : List Nat :=
  let p := boxSize box a
  if fullRing s box a then
    (if lineIdx box m a % 2 = 0 then List.range p else (List.range p).reverse)
  else (List.range p).filter (· % 2 == 0) ++ ((List.range p).filter (· % 2 == 1)).reverse

/-- The position of a relative coordinate on a ring. -/
def ringPos (order : List Nat) (x : Nat) : Nat := order.idxOf x

/-- The relative coordinate at a position of a ring. -/
def ringAt (order : List Nat) (p : Nat) : Nat := nth order (p % order.length)

/-- A member index with relative coordinate `a` replaced. -/
def withRel (box m a x : Nat) : Nat :=
  let r := fun b => if b = a then x else relIdx box m b
  r 0 + boxSize box 0 * (r 1 + boxSize box 1 * r 2)

/-- The member `k` positions after member `m` on its ring of axis `a`. -/
def ringNext (s : State) (box m a k : Nat) : Nat :=
  let o := ringOrder s box m a
  withRel box m a (ringAt o (ringPos o (relIdx box m a) + k))

/-- The direction of the hop from member `m` to member `n` on the ring of axis `a`: 0 +, 1 −. A hop to the successor of
a full ring goes the way of its line, one to the predecessor the other way; a folded ring stays inside the box. -/
def ringDir (s : State) (box m n a : Nat) (forward : Bool) : Nat :=
  if fullRing s box a then (if (lineIdx box m a % 2 == 0) == forward then 0 else 1)
  else if relIdx box m a < relIdx box n a then 0 else 1

/-- Axes of a box that have a ring. -/
def ringAxes (box : Nat) : List Nat := [0, 1, 2].filter (fun a => decide (1 < boxSize box a))

/-- Sends a COLL or COLLCTL message of group `g` along the ring of axis `a`: KIND, sequence number, chunk, phase, step,
subtype, payload (R274, R310). A COLLCTL message counts as no payload: the signature round sends none (R284). -/
def sendRing (s : State) (g : Nat) (dst a : Nat) (forward : Bool) (kind seq chunk phase step sub : Nat)
    (data : List Byte) : State :=
  let box := grpBox s g
  let m := (grp s g).midx
  let h := mkHdr s (0x40 + g) kind (memberChip s box dst)
    (ext 64 g + ext 70 (seq % 2 ^ 32) + ext 102 (chunk % 2 ^ 24) + ext 126 phase + ext 128 (step % 256) + ext 136 sub)
  let h1 := putRoute h { dst := 0, fixd := true, fdir := ringDir s box m dst a forward, fax := a + 1 }
  let n := if kind = 6 then data.length else 0
  let s1 := countC s 0x91110 n
  pmcEvent (post s1 { hdr := h1, data := data }) 0x069 (some g) none none n

/-! ## The end of a collective -/

/-- Enables group `g` (R270). -/
def enableGroup (s : State) (g : Nat) : State :=
  let s1 := setGrp s g { grp s g with seq := 0, lost := false, lostIdx := 0, en := true, offPend := false, onPend := false }
  placeGroup s1 g

/-- Disables group `g`: EN becomes 0. -/
def disableGroup (s : State) (g : Nat) : State :=
  csrClr (setGrp s g { grp s g with en := false, offPend := false }) (oColGrp g) (2 ^ 63)

/-- A collective that waits at issue for group `g` alone (R271). -/
def waitsGroup (s : State) (g : Nat) (c : Cmd) : Bool :=
  unitOf c.opc == .coll && groupOf c == g && (c.st == .admitted || c.st == .waitCtx) &&
  wtagOk s c && fenceOk s c && !membersHold s c && issueCheck s c == .go

/-- The collectives that wait for a group that is now disabled complete at issue (R270, R272). -/
def endWaiting (s : State) (g : Nat) : State :=
  (s.front.inflight.filter (waitsGroup s g)).foldl
    (fun u c => finish (setCmd u (stampIssue u c)) c.q c.tag stIllegal 0x15 0 0) s

/-- The collective of a group has completed with a status, a detail and a result: its command finishes, COL_LAST holds
it, and a pending disable, then a pending enable, takes effect; collectives that wait for the group end in between
(R270). -/
def endColl (s : State) (g status detail result : Nat) : State :=
  match (grp s g).active with
  | none => s
  | some o =>
    let s1 := setGrp s g { grp s g with active := none, lastStatus := status, lastOpc := o.opc,
                                        lastChunks := o.signalled }
    let s2 := finish s1 o.q o.tag status detail result 0
    if (grp s2 g).offPend then
      let again := (grp s2 g).onPend
      let s3 := endWaiting (disableGroup s2 g) g
      if again then enableGroup (csrSet s3 (oColGrp g) (2 ^ 63)) g else s3
    else s2

/-- The run of chunk `c` in flight. -/
def CollOp.run (o : CollOp) (c : Nat) : Option ChunkRun := o.flight.find? (fun r => r.chunk == c)

/-- The phase code of an executing collective for DETAIL (R287): 0 while the signature round runs, then that of the lowest
chunk that is not signalled. -/
def phaseAxis (o : CollOp) (axisOfPhase : Nat → Nat) : Nat :=
  if o.sigDone then axisOfPhase (((o.run o.signalled).map (·.phase)).getD 0) + 1 else 0

/-- A data or signature message of this chip for a collective, which has not begun to leave. -/
def isQueued (g seq : Nat) (m : Msg) : Bool :=
  m.hold.port.isNone && m.grp == g && m.seq == seq && (m.kind == 6 || (m.kind == 7 && m.sub == 0))

/-- A member that aborts stops sending data of the collective: what has not begun to leave is discarded (R287). -/
def dropQueued (s : State) (g seq : Nat) : State :=
  let s1 := { s with fab := { s.fab with outbox := s.fab.outbox.filter (fun m => !isQueued g seq m) } }
  (List.range 6).foldl (fun u n =>
    if (port u n).txq.isEmpty then u
    else setPort u n { port u n with txq := (port u n).txq.filter (fun x => x.started || !isQueued g seq x.orig) }) s1

/-- The axis of phase `p` of a collective's data phases: reduce-scatter X, Y, Z, all-gather Z, Y, X, each only where the
axis has a ring (R277, R279, R280). -/
def phaseAxes (box opc : Nat) : List Nat :=
  let r := ringAxes box
  if opc = 0x40 then r ++ r.reverse else r

/-- Sends the abort notice to predecessor and successor on every ring of the group (R287); on a ring of two both are the
same member and one notice is sent. -/
def sendNotices (s : State) (g seq status idx : Nat) : State :=
  let box := grpBox s g
  let m := (grp s g).midx
  let body := leBytes 8 status ++ leBytes 8 idx
  (ringAxes box).foldl (fun u a =>
    let n := ringNext u box m a 1
    let p := ringNext u box m a (boxSize box a - 1)
    let u1 := sendRing u g n a true 7 seq 0 0 0 1 body
    if p = n then u1 else sendRing u1 g p a false 7 seq 0 0 0 1 body) s

/-- The member index in the DETAIL of an abort: the detecting member's, and for MEMBER_LOST the one that the group has
recorded as lost, where it has recorded one (R287, R290, log entry 137). -/
def abortIdx (s : State) (g status idx : Nat) : Nat :=
  if status = stMemberLost ∧ (grp s g).lost then (grp s g).lostIdx else idx

/-- Aborts the executing collective of group `g` (R287, R289): status, index of the detecting member, and a DETAIL of its
own where the member met the cause itself with one. -/
def abortColl (s : State) (g status idx : Nat) (own : Option Nat) : State :=
  match (grp s g).active with
  | none => s
  | some o =>
    let box := grpBox s g
    let phase := phaseAxis o (fun p => nth (phaseAxes box o.opc) p)
    let detail := match own with
      | some d => d
      | none => abortIdx s g status idx % 2 ^ 15 + 2 ^ 16 * phase
    let open_ := status = stStalled ∨ status = stResidue ∨ status = stMemberLost
    let s0 := dropQueued s g o.seq
    let s1 := if open_ then setMem s0 (freeDest s0.mem o box (grp s0 g).midx) else s0
    endColl (sendNotices s1 g o.seq status idx) g status detail o.signalled

/-! ## Unreachable chips (R290, R314) -/

/-- DETAIL of a MEMBER_LOST of group `g` in phase 0 (R287, R350). -/
def lostDetail (s : State) (g : Nat) : Nat := (grp s g).lostIdx % 2 ^ 15

/-- A SEND, RETURN or COMBINE of a context of group `g` that waits (R350). -/
def waitsInGroup (s : State) (g : Nat) (c : Cmd) : Bool :=
  (c.opc == 0x28 || c.opc == 0x29 || c.opc == 0x2A) && c.inUnit && pbGroup (ctx s c.ctx) == g

/-- A SEND of the current phase of its use has completed on this member (R213): when its unit reports it (log entry 131). -/
def sentOnce (s : State) (c : Cmd) : State :=
  { s with disp := { s.disp with uses := s.disp.uses.map (fun u =>
    if u.ctx == c.ctx && u.batch == c.batch && u.ended.isNone && bit c.subop 0 == u.backward then { u with sendDone := true }
    else u) } }

/-- The batch epoch of the live use of a command, for its record (Table 04.5). -/
def useEpoch (s : State) (c : Cmd) : Nat :=
  ((s.disp.uses.find? (fun u => u.ctx == c.ctx && u.batch == c.batch && u.ended.isNone)).map (·.epoch)).getD 0

/-- The waiting SENDs, RETURNs and COMBINEs of a group that lost a chip complete with MEMBER_LOST (R350). -/
def loseWaiters (s : State) (g : Nat) : State :=
  (s.front.inflight.filter (waitsInGroup s g)).foldl
    (fun u c => finish (if c.opc = 0x28 then sentOnce u c else u) c.q c.tag stMemberLost (lostDetail s g) 0 (useEpoch u c)) s

/-- Reports a chip as unreachable: LOST in every enabled group that contains it, whose executing collective aborts with
MEMBER_LOST; FAB_UNREACH; the log (R290, R314, Table 16.7). -/
def reportUnreach (s : State) (chip : Nat) : State :=
  let s1 := (List.range 64).foldl (fun u g =>
    let v := loseIn u chip g
    if (grp v g).lost && inBox v (grpBox v g) chip then loseWaiters (abortColl v g stMemberLost (grp v g).midx none) g
    else v) s
  raiseFault (countC s1 0xA0410 1) 0x0404 2 9 0 0 chip

end Sys2Proof.Machine
end

