-- ==== Sys2Proof/Machine/Layout.lean ====
section
/-! DEFINITION. Tensor descriptors (R165 to R172) and the accesses that an instruction makes to memory: each read and
write of a row segment, with the error that ends the instruction (R32, R33, R171, R191). -/

namespace Sys2Proof.Machine

/-! ## Accesses of an instruction -/

/-- Why an instruction's accesses stopped. -/
inductive Stop where
  /-- an MP error: 0x01 poison, 0x02 decode, 0x03 write (R32, R33) -/
  | mp (code : Nat)
  /-- a double-bit error of a memory of the engine, with its DETAIL code -/
  | sram (code : Nat)
  /-- an unreachable chip (R171) -/
  | unreach (chip : Nat)
  /-- an access to a chip that no response answered within FAB_DP_TIMEOUT (R171, R320) -/
  | late (chip : Nat)
  deriving DecidableEq, Repr

/-- What an instruction works on while it accesses memory. -/
structure Io where
  mem : HostMem
  /-- MP protocol level 2 -/
  lvl2 : Bool
  own : Nat
  reach : Nat → Bool
  /-- the first error: nothing is written after it -/
  stop : Option Stop := none
  /-- a double-bit error of the unit's SRAM that the instruction meets after so many more writes (R131, R191) -/
  strike : Option (Nat × Stop) := none
  tally : Tally := {}
  /-- MP bytes read and written (R366) -/
  rd : Nat := 0
  wr : Nat := 0
  /-- element bytes read and written -/
  inB : Nat := 0
  outB : Nat := 0
  /-- segments of up to 128 bytes read and written -/
  slotR : Nat := 0
  slotW : Nat := 0
  /-- MP bytes of streamed weights and dlogit read (R126) -/
  wb : Nat := 0
  /-- parts of the work of an instruction of the cores, latest first: the core that did the part, and MP bytes read and
  written and pipe evaluations so far at its end (R118, R126, R227) -/
  marks : List (Nat × Nat × Nat × Nat) := []
  /-- remote accesses in order: the chip, and whether the access timed out (R171, R320) -/
  hops : List (Nat × Bool) := []
  /-- local accesses, latest first, kept for an instruction of the Yard: address, length, written (R175) -/
  foot : Option (List (Nat × Nat × Bool)) := none

/-- Accesses to memory. -/
abbrev Mio (α : Type) := StateM Io α

/-- Arithmetic inside an access sequence. -/
def num {α : Type} (x : Num α) : Mio α := fun io =>
  let (a, t) := x io.tally
  (a, { io with tally := t })

/-- Stops at an error; the first one stands. -/
def ioStop (e : Stop) : Mio Unit := modify (fun io => if io.stop.isSome then io else { io with stop := some e })

/-- Some access has failed. -/
def ioStopped : Mio Bool := do
  let io ← get
  pure io.stop.isSome

/-- The accesses of an instruction begin. -/
def ioStart (s : State) : Io := { mem := s.mem, lvl2 := mpLvl2 s, own := ownChip s, reach := reaches s }

/-- The bytes of a remote read, each a free value (log entry 6). -/
def remoteBytes (draw a : Nat) : Nat → List Byte
  | 0 => []
  | n + 1 => Config.remoteByte draw a :: remoteBytes (draw + 1) (a + 1) n

/-- The address names another chip (R171). -/
def isRemote (io : Io) (dom : Bool) (a : Nat) : Bool := dom && bits a 42 15 != io.own

/-- The outcome of a remote access to address `a`: answered, or why not; the access is remembered (R171, R314, R320). -/
def remoteTry (io : Io) (a : Nat) : Option Stop × Io :=
  let chip := bits a 42 15
  if !io.reach chip then (some (.unreach chip), { io with hops := io.hops ++ [(chip, false)] })
  else if Config.remoteAnswered io.mem.draws a then (none, { io with hops := io.hops ++ [(chip, false)] })
  else if Config.remoteLate io.mem.draws a then (some (.late chip), { io with hops := io.hops ++ [(chip, true)] })
  else (some (.unreach chip), { io with hops := io.hops ++ [(chip, false)] })

/-- An instruction of the Yard remembers a local access (R175). -/
def ioFoot (a n : Nat) (w : Bool) (io : Io) : Io := { io with foot := io.foot.map (fun l => (a, n, w) :: l) }

/-- Reads bytes that lie on one chip. -/
def ioReadOn (dom : Bool) (a n : Nat) : Mio (List Byte) := fun io =>
  if n = 0 then ([], io)
  else if io.stop.isSome then (List.replicate n 0#8, io)
  else if isRemote io dom a then
    match remoteTry io a with
    | (some e, io1) => (List.replicate n 0#8, { io1 with stop := some e })
    | (none, io1) =>
      (remoteBytes io1.mem.draws a n, { io1 with
        mem := { io1.mem with draws := io1.mem.draws + n }, inB := io1.inB + n, slotR := io1.slotR + ceilDiv n 128 })
  else
    let l := a % 2 ^ 42
    let code := rdCode io.lvl2 io.mem l n
    if code = 0 then
      (rdBytes io.mem l n, ioFoot l n false { io with
        rd := io.rd + 64 * (granules l n).length, inB := io.inB + n, slotR := io.slotR + ceilDiv n 128 })
    else (List.replicate n 0#8, { io with stop := some (.mp code) })

/-- Bytes from address `a` to the end of the memory of its chip. -/
def toChipEnd (a : Nat) : Nat := 2 ^ 42 - a % 2 ^ 42

/-- Reads `n` bytes at a local or domain address, chip by chip (R171); after an error it reads zeros. -/
def ioRead (dom : Bool) (a n : Nat) : Mio (List Byte) :=
  if dom && decide (toChipEnd a < n) then do
    let x ← ioReadOn dom a (toChipEnd a)
    let y ← ioReadOn dom ((a + toChipEnd a) % 2 ^ 57) (n - toChipEnd a)
    pure (x ++ y)
  else ioReadOn dom a n

/-- Writes local bytes granule by granule; at a granule whose write is refused, its bytes become free values and nothing
later is written (R33). -/
def wrGranules (io : Io) : Nat → Nat → List Byte → Io
  | 0, _, _ => io
  | fuel + 1, a, bs =>
    if bs.isEmpty || io.stop.isSome then io
    else
      let k := 64 - a % 64
      let (m, bad) := wrTry io.mem a (bs.take k)
      let io1 := { io with mem := m, wr := io.wr + (bs.take k).length,
                           stop := if bad then some (.mp 0x03) else none }
      wrGranules io1 fuel ((a + k) % 2 ^ 42) (bs.drop k)

/-- Remote bytes leave over the fabric (R171). -/
def pushRemote (m : HostMem) : Nat → List Byte → HostMem
  | _, [] => m
  | a, b :: bs => pushRemote { m with remote := (a, b) :: m.remote } (a + 1) bs

/-- One write less before the instruction meets its double-bit error; the error stops it once none is left. -/
def strikeTick (io : Io) : Io :=
  match io.strike with
  | none => io
  | some (0, e) => { io with stop := some e, strike := none }
  | some (n + 1, e) => { io with strike := some (n, e) }

/-- Why an instruction stopped, its work being over: an error that it has not met by its last write strikes then. -/
def Io.ended (io : Io) : Option Stop := io.stop.orElse (fun _ => io.strike.map (·.2))

/-- Writes bytes that lie on one chip. -/
def ioWriteOn (dom : Bool) (a : Nat) (bs : List Byte) (io : Io) : Io :=
  if bs.isEmpty || io.stop.isSome then io
  else if isRemote io dom a then
    match remoteTry io a with
    | (some e, io1) => { io1 with stop := some e }
    | (none, io1) => { io1 with
        mem := pushRemote { io1.mem with draws := io1.mem.draws + 1 } a bs,
        outB := io1.outB + bs.length, slotW := io1.slotW + ceilDiv bs.length 128 }
  else
    ioFoot (a % 2 ^ 42) bs.length true { wrGranules io (bs.length / 64 + 2) (a % 2 ^ 42) bs with
      outB := io.outB + bs.length, slotW := io.slotW + ceilDiv bs.length 128 }

/-- Writes bytes at a local or domain address, chip by chip (R171); nothing after an error. -/
def ioWrite (dom : Bool) (a : Nat) (bs : List Byte) : Mio Unit := fun io0 =>
  if bs.isEmpty || io0.stop.isSome then ((), io0)
  else
    let io := strikeTick io0
    if dom && decide (toChipEnd a < bs.length) then
      ((), ioWriteOn dom ((a + toChipEnd a) % 2 ^ 57) (bs.drop (toChipEnd a)) (ioWriteOn dom a (bs.take (toChipEnd a)) io))
    else ((), ioWriteOn dom a bs io)

/-- Counts MP bytes of owner `code` on the port that carries them (Table 15.1, R365, R366, log entry 14). -/
def mpCount (s : State) (code rd wr : Nat) : State :=
  match mpPortFor s code with
  | none => s
  | some p =>
    let s1 := pmcEvent (pmcEvent s 0x050 (some p) none none rd) 0x051 (some p) none none wr
    bwAdd (bwAdd s1 p 0 rd) p 1 wr

/-- What the first hop of a remote access does to the counters (R310, R312), and what a timeout does (R320): it is counted,
and a response that comes later under the access's request ID is discarded. -/
def remoteHop (s : State) (x : Nat × Bool) : State :=
  if !inDomain s x.1 then s
  else
    let r : RouteHdr := { dst := x.1 }
    let s1 := countHop s r
    let s2 := match decideHop s1 r with
      | .send _ _ detour => if detour then countC s1 0xA0408 1 else s1
      | .blocked => countC s1 0xA0410 1
      | .deliver => s1
    if x.2 then
      countC { s2 with fab := { s2.fab with
        dpLate := s2.fab.dpLate ++ [s2.fab.dpId], dpId := (s2.fab.dpId + 1) % 2 ^ 16 } } 0xA0418 1
    else s2

/-- The state when an instruction's accesses are over: memory, conversion counters, remote accesses, port counters; reads of
owner `rcode`, writes of owner `wcode`. -/
def ioClose (s : State) (rcode wcode : Nat) (io : Io) : State :=
  mpCount (mpCount (io.hops.foldl remoteHop (addTally (setMem s io.mem) io.tally)) rcode io.rd 0) wcode 0 io.wr

/-- Starts the counts of staged bytes anew: structures are not staged. -/
def ioStage : Mio Unit := modify (fun io => { io with inB := 0, outB := 0, slotR := 0, slotW := 0 })

/-- An MP error on data of context `cx`, logged for queue `q` (R32, R33, Table 16.7). -/
def mpFault (s : State) (cx q detail : Nat) : State := raiseFault s 0x0102 2 1 cx detail q

/-- Two local ranges share a byte. -/
def overlaps (x y : Nat × Nat × Bool) : Bool := decide (x.1 < y.1 + y.2.1) && decide (y.1 < x.1 + x.2.1)

/-- One access of `mine` or of `other` writes a byte that the other accesses (R175). -/
def footRace (mine other : List (Nat × Nat × Bool)) : Bool :=
  mine.any (fun x => other.any (fun y => (x.2.2 || y.2.2) && overlaps x y))

/-- An access of `mine` writes a byte that `other` reads. -/
def spoils (mine other : List (Nat × Nat × Bool)) : Bool :=
  mine.any (fun x => x.2.2 && other.any (fun y => !y.2.2 && overlaps x y))

/-- The Yard instructions that may execute at the same time as command `c`: those in flight (R175, log entry 140). -/
def yardOthers (s : State) (c : Cmd) : List Cmd :=
  s.front.inflight.filter (fun x => unitOf x.opc == .yard && !(x.q == c.q && x.tag == c.tag) && !x.foot.isEmpty)

/-- The bytes written by accesses become free values. -/
def freeWrites (foot : List (Nat × Nat × Bool)) (s : State) : State :=
  foot.foldl (fun u x => if x.2.2 then setMem u (wrFree u.mem x.1 x.2.1) else u) s

/-- The accesses of a layout instruction are over: it remembers them, and what it and another Yard instruction that may
execute at the same time conflict on is indeterminate: all bytes that this one has written where the two conflict, and all
that the other has written where this one wrote over what the other read (R175, log entry 140). -/
def yardRace (s : State) (c : Cmd) (foot : List (Nat × Nat × Bool)) : State :=
  let s1 := match findCmd s c.q c.tag with
    | none => s
    | some x => setCmd s { x with foot := foot }
  let rivals := (yardOthers s1 c).filter (fun x => footRace foot x.foot)
  let s2 := if rivals.isEmpty then s1 else freeWrites foot s1
  rivals.foldl (fun u x => if spoils foot x.foot then freeWrites x.foot u else u) s2

/-- Ends an instruction that stopped: status and DETAIL of R191, with the faults logged; `sram` gives code and fault bit of
a double-bit error of its unit (Table 16.7). -/
def stopWork (s : State) (c : Cmd) (e : Stop) (sramCode sramBit : Nat) : Work :=
  match e with
  | .mp code => doneWith (mpFault s c.ctx c.q code) stEcc code 0 0
  | .sram code => doneWith (raiseFault s sramCode 2 sramBit c.ctx code c.q) stEcc code 0 0
  | .unreach chip => doneWith (reportUnreach s chip) stUnreach (chip * 2 ^ 8) 0 0
  | .late chip => doneWith s stUnreach (chip * 2 ^ 8) 0 0

/-- More corrected errors in the 1 ms window (R396). -/
def ceMany (s : State) (n : Nat) : State := { s with mgt := { s.mgt with ceAcc := s.mgt.ceAcc + n } }

/-- One more corrected error in the 1 ms window. -/
def ceOne (s : State) : State := ceMany s 1

/-! ## Descriptors (R165 to R170) -/

/-- A tensor descriptor, as its fields act. -/
structure Desc where
  dom : Bool := false
  base : Nat := 0
  ety : Nat := 0
  ndim : Nat := 1
  xpi : Bool := false
  fill : Nat := 0
  /-- SIZE0 to SIZE5, 1 beyond NDIM -/
  sizes : List Nat := [0, 1, 1, 1, 1, 1]
  /-- STRIDE1 to STRIDE5 in units of 64 bytes, 0 beyond NDIM -/
  strides : List Int := [0, 0, 0, 0, 0]
  deriving DecidableEq, Repr

/-- The descriptor that a 512-bit structure holds, under the command encoding level (Table 07.1, R190). -/
def descOf (lvl raw : Nat) : Desc :=
  let nd := clampN 1 6 (bits raw 68 3)
  let dom := bit raw 63
  let base := bits raw 6 51 * 64
  { dom := dom, base := if dom then base else base % 2 ^ 42, ety := etypeOf (bits raw 64 4), ndim := nd,
    xpi := bit raw 71 && lvl != 2, fill := bits raw 96 32,
    sizes := (List.range 6).map (fun n => if n < nd then bits raw (128 + 32 * n) 32 else 1),
    strides := (List.range 5).map (fun n => if n + 1 < nd then sext (bits raw (320 + 38 * n) 38) 38 else 0) }

/-- SIZEn. -/
def Desc.size (d : Desc) (n : Nat) : Nat := nth d.sizes n

/-- The number of rows. -/
def Desc.rows (d : Desc) : Nat := (d.sizes.drop 1).foldl (· * ·) 1

/-- Coordinates (i1, …, i5) of a row number. -/
def Desc.coords (d : Desc) (r : Nat) : List Nat :=
  let n1 := max 1 (d.size 1)
  let n2 := max 1 (d.size 2)
  let n3 := max 1 (d.size 3)
  let n4 := max 1 (d.size 4)
  [r % n1, r / n1 % n2, r / n1 / n2 % n3, r / n1 / n2 / n3 % n4, r / n1 / n2 / n3 / n4]

/-- The address of the row at coordinates (i1, …, i5) (R167). -/
def Desc.rowAddr (d : Desc) (cs : List Nat) : Nat :=
  let off := (d.strides.zip cs).foldl (fun acc p => acc + p.1 * Int.ofNat p.2) (0 : Int)
  let m : Int := if d.dom then 2 ^ 57 else 2 ^ 42
  ((Int.ofNat d.base + 64 * off) % m).toNat

/-- The row at coordinates (i1, …, i5) is in bounds (R168). -/
def Desc.rowIn (d : Desc) (cs : List Nat) : Bool := (cs.zip (d.sizes.drop 1)).all (fun p => decide (p.1 < p.2))

/-- The code of the fill element (Table 07.2); a BX8 element's code is its scale code × 256 + its element code, an F32x2
element's code has hi in its low half. -/
def Desc.fillCode (d : Desc) : Nat :=
  match d.ety with
  | 5 => bits d.fill 0 8 * 256 + bits d.fill 8 8
  | 8 => d.fill
  | t => d.fill % 2 ^ etyBits t

/-- Elements of a row that are stored, from `i0` on, out of `n` (R168). -/
def Desc.stored (d : Desc) (i0 n : Nat) : Nat :=
  if d.ety = 5 then min n (roundUp (d.size 0) 32 - i0) else min n (d.size 0 - i0)

/-- Codes of `n` elements of a type other than BX8, from bit `o` of the bytes. -/
def codesOf (ety : Nat) (bytes : List Byte) (o n : Nat) : List Nat :=
  let x := leNat bytes
  (List.range n).map (fun j => bits x (o + etyBits ety * j) (etyBits ety))

/-- The bytes that codes of a type other than BX8 and I4 spell. -/
def bytesOf (ety : Nat) (codes : List Nat) : List Byte := (codes.map (fun c => leBytes (etyBits ety / 8) c)).flatten

/-- Reads elements `i0` to `i0 + n - 1` of a row as codes: those in bounds in one access, the others as fill (R168). -/
def Desc.readSeg (d : Desc) (cs : List Nat) (i0 n : Nat) : Mio (List Nat) := do
  let k := if d.rowIn cs then d.stored i0 n else 0
  let fill := List.replicate (n - k) d.fillCode
  if k = 0 then pure fill
  else
    let a := d.rowAddr cs
    if d.ety = 5 then
      let b0 := i0 / 32
      let nb := (i0 + k - 1) / 32 + 1 - b0
      let bytes ← ioRead d.dom (a + 33 * b0) (33 * nb)
      let at8 := fun i => (bytes.getD i 0#8).toNat
      pure ((List.range k).map (fun j =>
        let e := i0 % 32 + j
        at8 (e / 32 * 33) * 256 + at8 (e / 32 * 33 + 1 + e % 32)) ++ fill)
    else
      let w := etyBits d.ety
      let lo := i0 * w / 8
      let bytes ← ioRead d.dom (a + lo) (ceilDiv ((i0 + k) * w) 8 - lo)
      pure (codesOf d.ety bytes (i0 * w % 8) k ++ fill)

/-- The scale code that the codes of a block share; where they carry different ones (GATHER through XPI brings elements of
different source blocks into one) the block's scale code is a free value (log entry 126). -/
def blockScale (codes : List Nat) : Mio Byte := fun io =>
  if codes.all (fun c => c / 256 == codes.headD 0 / 256) then (BitVec.ofNat 8 (codes.headD 0 / 256), io)
  else (Config.freeByte io.mem.draws, { io with mem := { io.mem with draws := io.mem.draws + 1 } })

/-- One BX8 block from codes: the scale code, then the element codes. The padding of a row's last block is 0x00 (R69),
also where the block holds a NaN and R70's loop runs over every i (log entry 127). -/
def blockBytes (codes : List Nat) : Mio (List Byte) := do
  let sc ← blockScale codes
  pure (sc :: (padTo 32 0 codes).map (fun c => BitVec.ofNat 8 (c % 256)))

/-- The bytes of I4 elements from element `i0` on; a nibble of a touched byte that is no written element keeps its value
(log entry 23). -/
def nibbleBytes (old : List Byte) (i0 : Nat) (codes : List Nat) : List Byte :=
  let x := (List.range codes.length).foldl (fun acc j => setBits acc (4 * (i0 % 2 + j)) 4 (nth codes j)) (leNat old)
  leBytes old.length x

/-- Writes one element of a BX8 row alone, as SCATTER through XPI does (R166, R184): its code at its place in the block. The
other element codes stay, and the scale code of the block is a free value (log entry 128). -/
def writeBx8Elem (dom : Bool) (a i code : Nat) : Mio Unit := do
  let io ← get
  set { io with mem := { io.mem with draws := io.mem.draws + 1 } }
  ioWrite dom (a + 33 * (i / 32)) [Config.freeByte io.mem.draws]
  ioWrite dom (a + 33 * (i / 32) + 1 + i % 32) [BitVec.ofNat 8 (code % 256)]

/-- `n` element codes from `i0` of a row of BX8 make whole blocks, or reach the end of the row. -/
def wholeBlocks (size0 i0 n : Nat) : Bool := i0 % 32 == 0 && (n % 32 == 0 || decide (size0 ≤ i0 + n))

/-- Writes element codes from `i0` of a row: those in bounds, and for BX8 the padding of the row after its last block
(R168, R169). -/
def Desc.writeSeg (d : Desc) (cs : List Nat) (i0 : Nat) (codes : List Nat) : Mio Unit := do
  let k := if d.rowIn cs then d.stored i0 codes.length else 0
  if k = 0 then pure ()
  else
    let a := d.rowAddr cs
    if d.ety = 5 && !wholeBlocks (d.size 0) i0 codes.length then
      (List.range k).forM (fun j => writeBx8Elem d.dom a (i0 + j) (nth codes j))
    else if d.ety = 5 then
      let nb := ceilDiv k 32
      let parts ← (runs 32 nb (codes.take k)).mapM blockBytes
      let blocks := parts.flatten
      let last := i0 / 32 + nb
      let total := ceilDiv (d.size 0) 32
      let pad := if last = total then roundUp (33 * total) 64 - 33 * total else 0
      ioWrite d.dom (a + 33 * (i0 / 32)) (blocks ++ List.replicate pad 0#8)
    else if d.ety = 6 then
      let lo := i0 / 2
      let n := (i0 + k + 1) / 2 - lo
      let io ← get
      ioWrite d.dom (a + lo) (nibbleBytes (rdBytes io.mem (a + lo) n) i0 (codes.take k))
    else
      ioWrite d.dom (a + i0 * etyBits d.ety / 8) (bytesOf d.ety (codes.take k))

/-! ## Rows seen through XPI (R184) -/

/-- Elements per row of the view. -/
def Desc.viewSize0 (d : Desc) (t : Bool) : Nat := if t then d.size 1 else d.size 0

/-- Rows of the view. -/
def Desc.viewRows (d : Desc) (t : Bool) : Nat :=
  if t then (d.sizes.drop 2).foldl (· * ·) (d.size 0) else d.rows

/-- Stored coordinates of element `e` of row `r` of the transposed view: i0, and (i1, …, i5). -/
def Desc.viewAt (d : Desc) (r e : Nat) : Nat × List Nat :=
  let n0 := max 1 (d.size 0)
  let n2 := max 1 (d.size 2)
  let n3 := max 1 (d.size 3)
  let n4 := max 1 (d.size 4)
  (r % n0, [e, r / n0 % n2, r / n0 / n2 % n3, r / n0 / n2 / n3 % n4, r / n0 / n2 / n3 / n4])

/-- Reads `n` elements of row `r` of the view. -/
def Desc.readRow (d : Desc) (t : Bool) (r n : Nat) : Mio (List Nat) := do
  if t then
    let parts ← (List.range n).mapM (fun e => d.readSeg (d.viewAt r e).2 (d.viewAt r e).1 1)
    pure parts.flatten
  else d.readSeg (d.coords r) 0 n

/-- Writes codes to row `r` of the view. -/
def Desc.writeRow (d : Desc) (t : Bool) (r : Nat) (codes : List Nat) : Mio Unit := do
  if t then
    (List.range codes.length).forM (fun e =>
      d.writeSeg (d.viewAt r e).2 (d.viewAt r e).1 [nth codes e])
  else d.writeSeg (d.coords r) 0 codes

/-! ## Conversion on the way (R172) -/

/-- Table 03.5 has a row for the pair of types. -/
def hasConv (src dst : Nat) : Bool :=
  match src, dst with
  | 2, 1 => true | 0, 1 => true | 3, 1 => true | 4, 1 => true
  | 2, 0 => true | 3, 0 => true | 4, 0 => true | 1, 0 => true
  | 1, 3 => true | 0, 3 => true | 1, 4 => true | 0, 4 => true
  | 4, 3 => true | 3, 4 => true
  | 1, 5 => true | 0, 5 => true | 5, 1 => true | 5, 0 => true
  | 8, 1 => true | 8, 0 => true | 8, 3 => true | 8, 4 => true | 8, 5 => true
  | _, _ => false

/-- The type that a destination is written in (R56, R172). -/
def destType (src dst : Nat) : Nat :=
  let d := if dst = 2 ∧ src ≠ 2 then 0 else dst
  if src = d then d else if hasConv src d then d else src

/-- The value of an element code; a pair for F32x2. -/
def codeVal (ety code : Nat) : FVal :=
  if ety = 5 then bx8Value (code / 256) (code % 256) else elemVal ety code

/-- The pair of an F32x2 code. -/
def codePair (code : Nat) : Pair := ⟨decodeF .f32 (bits code 0 32), decodeF .f32 (bits code 32 32)⟩

/-- The code of an F32x2 pair. -/
def pairCode (p : Pair) : Nat := encodeF .f32 p.hi + 2 ^ 32 * encodeF .f32 p.lo

/-- A value as it enters a BX8 encoder. -/
def bx8Input (ety code : Nat) : Num FVal :=
  if ety = 8 then narrowForBx8 (codePair code) else pure (codeVal ety code)

/-- Encodes codes block by block to BX8 codes. -/
def toBx8 (k : Cvt) (ety : Nat) (codes : List Nat) : Num (List Nat) := do
  let src := if ety = 0 then Flt.b16 else Flt.f32
  let blocks ← (runs 32 (ceilDiv codes.length 32) codes).mapM (fun b => do
    let vs ← b.mapM (bx8Input ety)
    let q ← bx8Encode k.rmode src (padTo 32 fzero vs)
    pure (((q.drop 1).map (fun c => nth q 0 * 256 + c)).take b.length))
  pure blocks.flatten

/-- Converts one element to a type other than BX8. -/
def convCode (k : Cvt) (src dst code : Nat) : Num Nat :=
  match fltOf dst with
  | none => pure code
  | some f => if src = 8 then narrowPair k f (codePair code) else convert k f (codeVal src code)

/-- Converts a run of element codes that starts at a multiple of 32 (R172). -/
def convSeg (k : Cvt) (src dst : Nat) (codes : List Nat) : Num (List Nat) :=
  if src = dst then pure codes
  else if dst = 5 then toBx8 k src codes
  else codes.mapM (convCode k src dst)

/-- The rounding settings of a command. -/
def Cmd.cvt (c : Cmd) : Cvt := ⟨c.rmode, c.ovf⟩

/-- Reads the 64-byte structure that an operand names, as a number (R74). -/
def readStruct (x : Nat) : Mio Nat := do
  let b ← ioRead false (opAddr x) 64
  pure (leNat b)

/-- Reads the descriptor that an operand names (R165). -/
def readDesc (c : Cmd) (x : Nat) : Mio Desc := do
  let raw ← readStruct x
  pure (descOf c.level raw)

/-- The floating-point values of row `r`, `n` elements. -/
def Desc.readVals (d : Desc) (r n : Nat) : Mio (List FVal) := do
  let codes ← d.readRow false r n
  pure (codes.map (codeVal d.ety))

end Sys2Proof.Machine
end

