-- ==== Sys2Proof/Machine/Pool.lean ====
section
/-! DEFINITION. The Sheds (chapter 10): initialisation, allocation with fallback and quotas, release, cache moves, ALLOC
and FREE. -/

namespace Sys2Proof.Machine

/-! ## Geometry (Table 10.1, R249, R250) -/

/-- Bytes of a buffer of Shed `i`. -/
def shdSize (i : Nat) : Nat := 4096 * 4 ^ i
/-- Quota units of a buffer of Shed `i`. -/
def shdUnits (i : Nat) : Nat := 4 ^ i
/-- SHD_CTL[i].NBUF -/
def shdNbuf (s : State) (i : Nat) : Nat := csrField s (oShdCtl i) 32 24
/-- The Shed area. -/
def shdArea (s : State) (i : Nat) : Nat := csrField s (oShdArea i) 6 36 * 64
/-- Address of free-ring entry `n`. -/
def shdRingAt (s : State) (i n : Nat) : Nat := (shdArea s i + 4 * (n % max 1 (shdNbuf s i))) % 2 ^ 42
/-- Address of owner word `b`. -/
def shdOwnerAt (s : State) (i b : Nat) : Nat := (shdArea s i + roundUp (4 * shdNbuf s i) 64 + 8 * b) % 2 ^ 42
/-- Local address of buffer `b`. -/
def bufAddr (s : State) (b : Buf) : Nat := (csrField s (oShdBase b.shed) 12 30 * 4096 + b.index * shdSize b.shed) % 2 ^ 42
/-- Domain address of a buffer. -/
def bufDomain (s : State) (b : Buf) : Nat := ownChip s * 2 ^ 42 + bufAddr s b

/-- The owner word of Table 10.2. -/
def ownerWord (engine : Bool) (cepoch cx cls : Nat) : Nat :=
  2 ^ 63 + b2n engine * 2 ^ 62 + cepoch % 2 ^ 16 * 2 ^ 46 + cx * 2 ^ 32 + cls * 2 ^ 24

/-! ## Quotas (R254) -/

/-- SHD_QUSE[c].USE -/
def quse (s : State) (c : Nat) : Nat := slook (fun _ => 0) s.shd.quse c
/-- SHD_QLIM[c].LIMIT -/
def qlim (s : State) (c : Nat) : Nat := csrField s (oShdQlim c) 0 32
/-- Replaces the use of a class. -/
def setQuse (s : State) (c v : Nat) : State :=
  { s with shd := { s.shd with quse := sput (fun _ => 0) s.shd.quse c v } }

/-! ## A failed Shed (R406) -/

/-- An MP error on the area of Shed `i`. -/
def shdFail (s : State) (i cx code : Nat) : State :=
  let s1 := csrSet (csrClr s (oShdCtl i) 1) (oShdStat i) (2 ^ 61)
  raiseFault (setShed s1 i { shed s1 i with failed := true }) 0x0107 2 6 cx code i

/-! ## Cache moves (R258) -/

/-- Reads `n` ring entries from index `h`; the error code of the first read that fails. -/
def readRing (s : State) (i h : Nat) : Nat → List Nat × Nat
  | 0 => ([], 0)
  | n + 1 =>
    let a := shdRingAt s i h
    let code := rdCode (mpLvl2 s) s.mem a 4
    if code ≠ 0 then ([], code)
    else
      let (l, c) := readRing s i ((h + 1) % 2 ^ 32) n
      (rdNum s.mem a 4 % 2 ^ 24 :: l, c)

/-- The owner of cache moves has its slots of bank `i` and of some memory port (R107, R258). -/
def moveSlots (s : State) (i : Nat) : Bool := rotaHolds s (40 + i) 0x1C && holdsMp s 0x1C

/-- Moves up to 16 entries from the ring head to the bottom of the cache; the error code of a read that fails. -/
def shdRefill (s : State) (i : Nat) : State × Nat :=
  let x := shed s i
  let have_ := (x.tail + 2 ^ 32 - x.head) % 2 ^ 32
  let n := min 16 have_
  if x.cache.length < 16 ∧ n ≠ 0 then
    let (l, code) := readRing s i x.head n
    if code ≠ 0 then (shdFail s i 0 code, code)
    else (mpCount (setShed s i { x with cache := x.cache ++ l, head := (x.head + n) % 2 ^ 32 }) 0x1C
      (64 * (granules (shdRingAt s i x.head) (4 * n)).length) 0, 0)
  else (s, 0)

/-- Writes entries at the ring tail; `true` where a write is refused. -/
def writeRing (s : State) (i t : Nat) : List Nat → HostMem → HostMem × Bool
  | [], m => (m, false)
  | b :: l, m =>
    let (m1, bad) := wrTry m (shdRingAt s i t) (leBytes 4 b)
    if bad then (m1, true) else writeRing s i ((t + 1) % 2 ^ 32) l m1

/-- Moves the 16 bottom entries of the cache to the ring tail. -/
def shdWriteback (s : State) (i : Nat) : State :=
  let x := shed s i
  if 48 < x.cache.length then
    let keep := x.cache.length - 16
    let (m, bad) := writeRing s i x.tail (x.cache.drop keep) s.mem
    if bad then shdFail (setMem s m) i 0 3
    else mpCount (setShed (setMem s m) i { x with cache := x.cache.take keep, tail := (x.tail + 16) % 2 ^ 32 }) 0x1C 0 64
  else s

/-! ## Allocation (R256, R257, R261) -/

/-- A request for a buffer. -/
structure AllocReq where
  /-- bytes -/
  n : Nat
  /-- quota class charged -/
  cls : Nat
  /-- context of the requester -/
  cx : Nat
  /-- 1 for PLAN and SEND -/
  engine : Bool
  /-- STRICT as sampled at issue -/
  strict : Bool
  /-- owner code of the requester's Shed-bank slots -/
  code : Nat
  /-- no command that waits at a bank stands before the requester there (R16, R174) -/
  first : Nat → Bool
  /-- the bank at which the request already waits -/
  at_ : Option Nat

/-- What a request answers. -/
inductive AllocRes where
  | got (b : Buf)
  /-- SHED_EXHAUSTED or QUOTA_EXCEEDED with its DETAIL -/
  | fail (status detail : Nat)
  /-- an MP error on the Shed area -/
  | area (code : Nat)
  /-- waits at a Shed: for a release in STRICT mode (R261), or for a slot of its bank -/
  | wait (shed : Nat)
  deriving DecidableEq, Repr

/-- DETAIL of R267. -/
def shdDetail (cls reason s0 : Nat) : Nat := cls * 2 ^ 16 + reason * 2 ^ 8 + s0

/-- A request fails for want of a buffer. -/
def failExhaust (s : State) (cls reason s0 : Nat) : State × AllocRes :=
  (countC s 0x70420 1, .fail stExhausted (shdDetail cls reason s0))

/-- A request fails for its quota. -/
def failQuota (s : State) (cls reason s0 : Nat) : State × AllocRes :=
  (countC s 0x70428 1, .fail stQuota (shdDetail cls reason s0))

/-- Changes the count of a context's buffers of Shed `i` (R264). -/
def ctxBufs (s : State) (cx i : Nat) (f : Nat → Nat) : State :=
  setCtx s cx { ctx s cx with bufs := (ctx s cx).bufs.set i (f (nth (ctx s cx).bufs i)) }

/-- Releases a buffer of context `cx` (R260, R263, R264, R406). -/
def releaseBuf (s : State) (cx : Nat) (b : Buf) : State :=
  let charge := fun (t : State) => setQuse t b.cls (quse t b.cls - shdUnits b.shed)
  let dead := fun (t : State) =>
    let x := shed t b.shed
    countC (charge (setShed t b.shed { x with used := x.used - 1 })) 0x70418 1
  let s0 := ctxBufs s cx b.shed (· - 1)
  if (shed s0 b.shed).failed then dead s0
  else
    let (m, bad) := wrTry s0.mem (shdOwnerAt s0 b.shed b.index) (leBytes 8 0)
    let s1 := mpCount (setMem s0 m) 0x1C 0 8
    if bad then dead (shdFail s1 b.shed cx 3)
    else
      let s2 := if 64 ≤ (shed s1 b.shed).cache.length then shdWriteback s1 b.shed else s1
      if (shed s2 b.shed).failed then dead s2
      else
        let x := shed s2 b.shed
        countC (charge (setShed s2 b.shed { x with
          cache := b.index :: x.cache, free := x.free + 1, used := x.used - 1 })) 0x70408 1

/-- Takes the top entry of Shed `i` for a request (R257). -/
def takeBuf (r : AllocReq) (s0 i : Nat) (s : State) : State × AllocRes :=
  let x := shed s i
  match x.cache with
  | [] => (s, .area 0x02)
  | b :: rest =>
    let s1 := setShed s i { x with cache := rest, used := x.used + 1, free := x.free - 1 }
    let s2 := ctxBufs (setQuse s1 r.cls (quse s1 r.cls + shdUnits i)) r.cx i (· + 1)
    let buf : Buf := ⟨i, b, r.cls⟩
    let s3 := pmcEvent (countC s2 0x70400 1) 0x048 (some i) (some r.cx) none 1
    let s4 := if s0 < i then pmcEvent (countC s3 0x70410 1) 0x049 (some i) (some r.cx) none 1 else s3
    let s5 := if s0 < i ∧ !r.strict then tdcCount s4 0 else s4
    let (m, bad) := wrTry s5.mem (shdOwnerAt s5 i b) (leBytes 8 (ownerWord r.engine (ctx s5 r.cx).epoch r.cx r.cls))
    let s6 := mpCount (setMem s5 m) 0x1C 0 8
    if bad then (releaseBuf (shdFail s6 i r.cx 3) r.cx buf, .area 0x03) else (s6, .got buf)

/-- The visits of R256 from Shed `i` upward; `k` Sheds remain. A visit takes the requester's next slot of the bank: while
the bank gives its owner no slot, or a command before it waits there, the request waits. So it does where the cache is
empty and the refill that it needs has no slot. -/
def visitSheds (r : AllocReq) (s0 : Nat) : Nat → Nat → State → State × AllocRes
  | 0, _, s => if r.strict then (s, .wait s0) else failExhaust s r.cls 0 s0
  | k + 1, i, s =>
    if !rotaHolds s (40 + i) r.code || !r.first i then (s, .wait i)
    else if shedServes s i && decide ((shed s i).free ≠ 0) then
      if qlim s r.cls < quse s r.cls + shdUnits i then
        failQuota s r.cls (if i = s0 then 0 else 3) s0
      else
        if !(shed s i).cache.isEmpty then takeBuf r s0 i s
        else if !moveSlots s i then (s, .wait i)
        else
          let (s1, code) := shdRefill s i
          if code ≠ 0 then (s1, .area code) else takeBuf r s0 i s1
    else visitSheds r s0 k (i + 1) s

/-- The smallest Shed whose buffers hold `n` bytes. -/
def smallestShed (n : Nat) : Nat := ((List.range 8).find? (fun i => decide (max n 1 ≤ shdSize i))).getD 7

/-- An allocation (R256, R261). -/
def allocBuf (r : AllocReq) (s : State) : State × AllocRes :=
  if 67108864 < r.n then failExhaust s r.cls 1 0xF
  else
    let s0 := smallestShed r.n
    match r.at_ with
    | some i => visitSheds r s0 (if r.strict then 1 else 8 - i) i s
    | none =>
    if qlim s r.cls < quse s r.cls + shdUnits s0 then failQuota s r.cls 0 s0
    else visitSheds r s0 (if r.strict then 1 else 8 - s0) s0 s

/-! ## Initialisation (R251, R252) -/

/-- The free-ring words of an initialisation. -/
def initRing (n : Nat) : List Byte := ((List.range n).map (leBytes 4)).flatten

/-- The initialisation of Shed `i` ends: the area is written, and a pending one starts. -/
def shdInitEnd (s : State) (i : Nat) : State :=
  let n := shdNbuf s i
  let (m1, bad1) := wrTry s.mem (shdArea s i) (initRing n)
  let (m2, bad2) := if bad1 then (m1, true) else wrTry m1 (shdOwnerAt s i 0) (List.replicate (8 * n) 0#8)
  let s1 := mpCount (setMem s m2) 0x1C 0 (if bad1 then 4 * n else 12 * n)
  let again := (shed s1 i).pend
  let base : Shed := { busy := again && decide (n ≠ 0) }
  if bad2 then shdFail (setShed s1 i base) i 0 3
  else setShed s1 i { base with tail := n, free := n }

/-- INIT written 1 (R251, R252). -/
def shdInit (s : State) (i : Nat) : State :=
  let x := shed s i
  if x.used ≠ 0 then csrSet s (oShdStat i) (2 ^ 62)
  else if x.busy then setShed s i { x with pend := true }
  else if shdNbuf s i = 0 then setShed s i {}
  else setShed s i { x with busy := true }

/-- Changes to BASE, AREA and NBUF are ignored (R252). -/
def shdLocked (s : State) (i : Nat) : Bool :=
  (shed s i).busy || bit (csrGet s (oShdCtl i)) 0 || decide ((shed s i).used ≠ 0)

/-- A write to SHD_CTL[i]. -/
def writeShdCtl (s : State) (i v : Nat) : State :=
  let mask := (if shdLocked s i then 0 else span 55 32) + 1
  let s1 := csrPut s (oShdCtl i) ((csrGet s (oShdCtl i) &&& (span 63 0 ^^^ mask)) ||| (v &&& mask))
  if bit v 1 then shdInit s1 i else s1

/-! ## ALLOC and FREE (R263, R266) -/

/-- A request of command `c` for `n` bytes, in the class that it has charged since its issue (R255); `engine` tells PLAN and
SEND from ALLOC. -/
def allocReq (s : State) (c : Cmd) (n : Nat) (engine : Bool) (at_ : Option Nat) : AllocReq :=
  { n := n, cls := c.qcls, cx := c.ctx, engine := engine, strict := c.strict, code := shedCode c,
    first := fun i => firstAtBank s i c, at_ := at_ }

/-- ALLOC. -/
def allocWork (c : Cmd) (s : State) : Work := withSlots (slotsOk s c) c s fun _ =>
  let cls := c.qcls
  let (s1, r) := allocBuf (allocReq s c (bits c.a 0 40) false c.bank) s
  match r with
  | .fail st dt => doneWith s1 st dt 0 0
  | .area code => doneWith s1 stEcc code 0 0
  | .wait i => ⟨s1, .waitShed i cls⟩
  | .got b =>
    let result := bufDomain s1 b
    if absent c.b then doneWith s1 0 b.shed result 0
    else
      let (m, bad) := wrTry s1.mem (opAddr c.b) (leBytes 8 result)
      let s2 := mpCount (setMem s1 m) 0x08 0 8
      if bad then doneWith (mpFault (releaseBuf s2 c.ctx b) c.ctx c.q 3) stEcc 3 0 0
      else doneWith s2 0 b.shed result 0

/-- The buffer at a local address, if the address is that of one (R263). -/
def bufAt (s : State) (a : Nat) : Option (Nat × Nat) :=
  ((List.range 8).filterMap (fun i =>
    let off := (a + 2 ^ 42 - csrField s (oShdBase i) 12 30 * 4096) % 2 ^ 42
    if off % shdSize i = 0 ∧ off / shdSize i < shdNbuf s i then some (i, off / shdSize i) else none)).head?

/-- A release into Shed `i` can take place for owner `code`: it has a slot of the bank (R259), and where the cache is full,
the owner of the moves has its own for the write-back (R258). -/
def canRelease (s : State) (i code n : Nat) : Bool :=
  rotaHolds s (40 + i) code &&
  ((shed s i).failed || decide ((shed s i).cache.length + n ≤ 64) || moveSlots s i)

/-- Buffers of a list that lie in Shed `i`. -/
def bufsIn (l : List Buf) (i : Nat) : Nat := (l.filter (fun b => b.shed == i)).length

/-- The buffers of a list can be released for owner `code` (R259). -/
def canReleaseAll (s : State) (l : List Buf) (code : Nat) : Bool :=
  (List.range 8).all (fun i => bufsIn l i == 0 || canRelease s i code (bufsIn l i))

/-- FREE. -/
def freeWork (c : Cmd) (s : State) : Work := withSlots (slotsOk s c) c s fun _ =>
  let foreign := fun (n : Nat) => doneWith (countC s 0x70418 1) 0 n 0 0
  if bits c.a 42 15 ≠ ownChip s then foreign 1
  else match bufAt s (c.a % 2 ^ 42) with
    | none => foreign 2
    | some (i, b) =>
      if !canRelease s i 0x08 1 || !firstAtBank s i c then ⟨s, .waitShed i 0⟩ else
      let a := shdOwnerAt s i b
      let code := rdCode (mpLvl2 s) s.mem a 8
      if code ≠ 0 then doneWith (shdFail s i c.ctx code) stEcc code 0 0
      else
        let w := rdNum s.mem a 8
        if !bit w 63 || bit w 62 then foreign 3
        else if bits w 32 14 ≠ c.ctx ∨ bits w 46 16 ≠ (ctx s c.ctx).epoch then foreign 4
        else
          let was := (shed s i).failed
          let t := releaseBuf (mpCount s 0x08 64 0) c.ctx ⟨i, b, bits w 24 8⟩
          if !was && (shed t i).failed then doneWith t stEcc 3 0 0
          else doneWith t 0 (if was then 5 else 0) 0 0

/-! ## The drain scan (R264) -/

/-- The scan and the releases of a drain have their slots: those of owner 0x1C (R259, R264). -/
def drainSlotsOk (s : State) (cx : Nat) : Bool :=
  (List.range 8).all (fun i => nth (ctx s cx).bufs i == 0 || moveSlots s i)

/-- Scans owner words from index `b`, releasing the context's buffers until its count of the Shed is 0. -/
def drainScan (cx i : Nat) : Nat → Nat → State → State
  | 0, _, s => s
  | fuel + 1, b, s =>
    if nth (ctx s cx).bufs i = 0 then s
    else
      let a := shdOwnerAt s i b
      let code := rdCode (mpLvl2 s) s.mem a 8
      if code ≠ 0 then shdFail s i cx code
      else
        let w := rdNum s.mem a 8
        let mine := bit w 63 && bits w 32 14 == cx && bits w 46 16 == (ctx s cx).epoch
        drainScan cx i fuel (b + 1) (if mine then releaseBuf s cx ⟨i, b, bits w 24 8⟩ else s)

/-- Releases every buffer of a draining context. -/
def drainBufs (s : State) (cx : Nat) : State :=
  (List.range 8).foldl (fun u i => drainScan cx i (shdNbuf u i) 0 u) s

/-! ## Meanings -/

/-- ALLOC -/
def execAlloc (q tag : Nat) (s : State) : Host.Outcome State Fault Refusal :=
  .next (working (issueRow (isOp 0x38) q tag allocWork) s)

/-- FREE -/
def execFree (q tag : Nat) (s : State) : Host.Outcome State Fault Refusal :=
  .next (working (issueRow (isOp 0x39) q tag freeWork) s)

/-- A cache move of Shed `i` may take place: it serves or may serve, and its owner holds slots (R107, R258, R406). -/
def cacheMoves (s : State) (i : Nat) : Bool := isReady s && !(shed s i).busy && !(shed s i).failed && moveSlots s i

/-- SHED_CACHE_REFILL -/
def execShedCacheRefill (i : Nat) (s : State) : Host.Outcome State Fault Refusal :=
  .next (working (fun u => if cacheMoves u i then (shdRefill u i).1 else u) s)

/-- SHED_CACHE_WRITEBACK -/
def execShedCacheWriteback (i : Nat) (s : State) : Host.Outcome State Fault Refusal :=
  .next (working (fun u => if cacheMoves u i then shdWriteback u i else u) s)

/-- SHED_INIT_DONE: the initialisation of a Shed proceeds through MP slots of owner 0x1C (R251). -/
def execShedInitDone (i : Nat) (s : State) : Host.Outcome State Fault Refusal :=
  .next (working (fun u => if isReady u && (shed u i).busy && holdsMp u 0x1C then shdInitEnd u i else u) s)

end Sys2Proof.Machine
end

