-- ==== Sys2Proof/Machine/Uses.lean ====
section
/-! DEFINITION. Uses of a batch ID (R192 to R195), the ticket store and its ring (R196 to R200), the origin ring (R212),
and the end of a use: what stops when it ends, and what is released after. -/

namespace Sys2Proof.Machine

/-! ## The batch table -/

/-- The live use of a context and batch ID. -/
def liveUse (s : State) (cx batch : Nat) : Option Use :=
  s.disp.uses.find? (fun u => u.ctx == cx && u.batch == batch && u.ended.isNone)

/-- Replaces the use that holds the entry of `u`. -/
def putUse (s : State) (u : Use) : State :=
  { s with disp := { s.disp with uses := s.disp.uses.map (fun x => if x.slot == u.slot then u else x) } }

/-- The use that holds a batch-table entry. -/
def useAt (s : State) (slot : Nat) : Option Use := s.disp.uses.find? (fun u => u.slot == slot)

/-- Word 0 of a dispatch header or work item of a use (Table 08.3). -/
def headWord (u : Use) (kind : Nat) : Nat :=
  u.batch * 2 ^ 48 + u.epoch * 2 ^ 32 + u.cepoch * 2 ^ 16 + u.ctx * 4 + kind

/-- The live use that all four values of a word 0 match (R195). -/
def matchUse (s : State) (w0 : Nat) : Option Use :=
  s.disp.uses.find? (fun u => u.ended.isNone && headWord u 0 == w0 / 4 * 4)

/-- A free batch-table entry (R192). -/
def freeEntry (s : State) : Option Nat := (List.range 4096).find? (fun i => !s.disp.uses.any (fun u => u.slot == i))

/-! ## The ticket ring (R197 to R199) -/

/-- Tickets of the store. -/
def ringSize : Nat := 2 ^ 21

/-- Numbers from the oldest held range to the newest. -/
def ringHeld (s : State) : Nat := (s.disp.ranges.map (·.2)).foldl (· + ·) 0

/-- TKT_RING.FREE -/
def ringFree (s : State) : Nat := ringSize - ringHeld s

/-- TKT_RING.HEAD -/
def ringHead (s : State) : Nat := match s.disp.ranges with | [] => s.disp.nextTicket | (f, _) :: _ => f

/-- Ticket number `n` lies in the range of `len` from `f`. -/
def inRange (f len n : Nat) : Bool := (n + ringSize - f) % ringSize < len

/-- Every ticket of a range is FREE. -/
def rangeFree (s : State) (f len : Nat) : Bool := s.disp.tickets.all (fun p => p.2.st == 0 || !inRange f len p.1)

/-- The ranges left when the head has advanced (R199). -/
def dropFree (s : State) : List (Nat × Nat) → List (Nat × Nat)
  | [] => []
  | (f, n) :: r => if rangeFree s f n then dropFree s r else (f, n) :: r

/-- The head of the ring advances over wholly FREE ranges (R199). -/
def reclaim (s : State) : State := { s with disp := { s.disp with ranges := dropFree s s.disp.ranges } }

/-- Tickets that a waiting command asks for; 0 where it waits for none. -/
def waitN (c : Cmd) : Nat := match c.st with | .waitTicket n => n | _ => 0

/-- A waiting reservation stands before command `c` (R198). -/
def reserveHeld (s : State) (c : Cmd) : Bool :=
  s.front.inflight.any (fun x => waitN x != 0 && decide (x.cls < c.cls)) ||
  (admittedBefore s c).any (fun x => waitN x != 0 && x.cls == c.cls)

/-- The reservation of `n` tickets of command `c` is granted now (R198). -/
def reserveOk (s : State) (c : Cmd) (n : Nat) : Bool := n == 0 || (decide (n ≤ ringFree s) && !reserveHeld s c)

/-- The unit of command `c` has its slots, and those of the banks of the next `n` tickets (R107, R196). -/
def reserveSlots (s : State) (c : Cmd) (n : Nat) : Bool :=
  slotsOk s c &&
  (if unitOf c.opc = .scoring then coresHoldBanks s c.cores s.disp.nextTicket n
   else holdsBanks s s.disp.nextTicket n (0x10 + c.cls))

/-- Takes `n` numbers from the ring: the first number, and the state. -/
def takeRange (s : State) (n : Nat) : Nat × State :=
  let b := s.disp.nextTicket
  if n = 0 then (b, s)
  else (b, { s with disp := { s.disp with ranges := s.disp.ranges ++ [(b, n)], nextTicket := (b + n) % ringSize } })

/-- The first ticket of the use's current phase. -/
def curBase (u : Use) : Option Nat := if u.backward then u.bbase else some u.base

/-- The number of the ticket of assignment (t, j) in a range (R197). -/
def ticketNo (base k t j : Nat) : Nat := (base + t * k + j) % ringSize

/-- Sets the state of a ticket. -/
def markTicket (s : State) (n st : Nat) : State := setTicket s n { ticket s n with st := st }

/-- Releases ticket `n`: it becomes FREE. -/
def freeTicket (s : State) (n : Nat) : State := if (ticket s n).st = 0 then s else markTicket s n 0

/-- The assignment (t, j) that a ticket number names in the use's current range. -/
def ticketAt (u : Use) (n : Nat) : Option (Nat × Nat) :=
  match curBase u with
  | none => none
  | some b =>
    let i := (n + ringSize - b) % ringSize
    if i < u.t * u.k then some (i / u.k, i % u.k) else none

/-- Tickets of a use that are not FREE. -/
def heldOf (s : State) (u : Use) : Nat :=
  (s.disp.tickets.filter (fun p => p.2.bentry == u.slot && p.2.st != 0)).length

/-- Releases every ticket of a use. -/
def freeTickets (s : State) (u : Use) : State :=
  reclaim { s with disp := { s.disp with tickets := s.disp.tickets.filter (fun p => p.2.bentry != u.slot) } }

/-! ## The origin ring (R212) -/

/-- Entries of the origin ring. -/
def origSize (s : State) : Nat := 2 ^ clampN 10 24 (csrField s 0x80018 0 5)

/-- TKT_ORIG_USED.USED -/
def origUsed (s : State) : Nat := (s.disp.orig.map (·.2.1)).foldl (· + ·) 0

/-- Address of origin entry `i`. -/
def origAt (s : State) (i : Nat) : Nat := (csrField s 0x80010 6 36 * 64 + 8 * (i % origSize s)) % 2 ^ 42

/-- Reserves `n` origin entries; none where the ring lacks room or there is no ring. -/
def takeOrig (s : State) (n : Nat) : Option (Nat × State) :=
  let b := s.disp.nextOrig
  if n = 0 then some (b, s)
  else if csrField s 0x80010 6 36 = 0 ∨ origSize s < origUsed s + n then none
  else some (b, { s with disp := { s.disp with
      orig := s.disp.orig ++ [(b, n, false)], nextOrig := (b + n) % 2 ^ 24, origHwm := max s.disp.origHwm (origUsed s + n) } })

/-- The ranges with the oldest held one from `b` marked as released. -/
def markOrig (b : Nat) : List (Nat × Nat × Bool) → List (Nat × Nat × Bool)
  | [] => []
  | (f, n, r) :: l => if f = b ∧ r = false then (f, n, true) :: l else (f, n, r) :: markOrig b l

/-- Releases an origin range; ranges are reclaimed in reservation order. -/
def freeOrig (s : State) (b n : Nat) : State :=
  if n = 0 then s
  else { s with disp := { s.disp with orig := (markOrig b s.disp.orig).dropWhile (fun x => x.2.2) } }

/-! ## Buffers of a use -/

/-- A buffer as one number, for what a command has taken while it waits. -/
def bufCode (b : Buf) : Nat := b.shed + 8 * b.cls + 2 ^ 11 * b.index
/-- The buffer of a number. -/
def bufOf (x : Nat) : Buf := ⟨x % 8, x / 2 ^ 11, x / 8 % 256⟩

/-- Releases buffers in the reverse of the order in which they were taken (R260). -/
def releaseBufs (s : State) (cx : Nat) (l : List Buf) : State := l.reverse.foldl (fun u b => releaseBuf u cx b) s

/-- The receive buffers of a plan entry. -/
def planBufs (p : Plan) : List Buf := p.shapes.filterMap (·.buf)

/-- Releases the receive buffers and the origin range of a plan entry (R177). -/
def releasePlan (s : State) (cx : Nat) (p : Plan) : State := freeOrig (releaseBufs s cx (planBufs p)) p.origBase p.origLen

/-! ## The end of a use (R194) -/

/-- Opcodes of the instructions of a use. -/
def useOps : List Nat := [0x10, 0x11, 0x12, 0x18, 0x19, 0x20, 0x28, 0x29, 0x2A]

/-- Status and DETAIL of Table 08.8; of a context that became CLOSED none remain (R102). -/
def endStatus : EndWay → Nat × Nat
  | .cancel => (stCancelled, 0x02)
  | .reuse => (stCancelled, 0x07)
  | .wqReset => (stCancelled, 0x05)
  | .members => (stCancelled, 0x06)
  | .wqError => (stEcc, 0x13)
  | .ticketError => (stEcc, 0x12)
  | .combineEnd => (stCancelled, 0x02)
  | .ctxClosed => (stClosed, 0x02)

/-- Where the waiting PLAN of a use keeps the buffers that it has taken: after a count of other numbers. A SEND keeps
none. -/
def takenBufs (c : Cmd) : List Buf := (c.saved.drop (nth c.saved 0 + 1)).map bufOf

/-- A command of the use. -/
def ofUse (u : Use) (c : Cmd) : Bool := useOps.contains c.opc && c.ctx == u.ctx && c.batch == u.batch && c.inUnit

/-- Stops one instruction of a use with a status. -/
def stopCmd (status detail epoch : Nat) (s : State) (c : Cmd) : State := finish s c.q c.tag status detail 0 epoch

/-- The instructions of a use that its end stops: all but the command (queue, tag) that ended it. -/
def stopped (s : State) (u : Use) (but : Option (Nat × Nat)) : List Cmd :=
  s.front.inflight.filter (fun c => ofUse u c && but != some (c.q, c.tag))

/-- A use ends: its instructions stop, and it waits for its release, with the buffers that a stopped PLAN had taken. -/
def endUse (s : State) (u : Use) (way : EndWay) (but : Option (Nat × Nat)) : State :=
  let l := stopped s u but
  let st := endStatus way
  l.foldl (stopCmd st.1 st.2 u.epoch)
    (putUse s { u with ended := some way, drafts := [],
                       loose := u.loose ++ ((l.filter (fun c => c.opc == 0x19)).map takenBufs).flatten })

/-- The owner code whose ticket-bank slots release the tickets of an ended use: that of the unit that ended it (Table
04.12, log entry 130). -/
def endTicketCode (u : Use) : Nat :=
  match u.ended with
  | some .cancel | some .ctxClosed | none => 0x08
  | some .combineEnd => 0x18
  | _ => 0x10 + u.cls

/-- The owner code whose Shed-bank slots release its buffers (log entry 130): the drain scan's for a context that closes
(R264), the front end's for CANCEL, the Yard's for every other end. -/
def endBankCode (u : Use) : Nat :=
  match u.ended with
  | some .ctxClosed | none => 0x1C
  | some .cancel => 0x08
  | _ => 0x10 + u.cls

/-- Every buffer that a use holds. -/
def useBufs (u : Use) : List Buf := u.cbufs ++ u.loose ++ (match u.plan with | none => [] | some p => planBufs p)

/-- The releases of an ended use have their slots (R107, R259). -/
def canDrop (s : State) (u : Use) : Bool :=
  s.disp.tickets.all (fun p => !(p.2.bentry == u.slot && p.2.st != 0) || rotaHolds s (48 + p.1 % 16) (endTicketCode u)) &&
  canReleaseAll s (useBufs u) (endBankCode u)

/-- What an ended use held is released: tickets, combine buffers, the buffers of a stopped PLAN, plan entry with receive
buffers and origin range, and its batch-table entry; the CANCEL that ended it completes with the tickets released (R194,
R222). -/
def dropUse (s : State) (u : Use) : State :=
  let n := heldOf s u
  let s1 := releaseBufs (freeTickets s u) u.ctx (u.cbufs ++ u.loose)
  let s2 := match u.plan with | none => s1 | some p => releasePlan s1 u.ctx p
  let s3 := { s2 with disp := { s2.disp with uses := s2.disp.uses.filter (fun x => x.slot != u.slot) } }
  match u.canceller with
  | none => s3
  | some (q, tag) => finishOk s3 q tag n

/-- A use ends and is released at once, for its writes are all acknowledged (R194); without the slots for that it is
released later. -/
def endNow (s : State) (u : Use) (way : EndWay) (but : Option (Nat × Nat)) : State :=
  let s1 := endUse s u way but
  match useAt s1 u.slot with
  | none => s1
  | some u1 => if canDrop s1 u1 then dropUse s1 u1 else s1

/-- The uses of a context. -/
def usesOfCtx (s : State) (cx : Nat) : List Use := s.disp.uses.filter (fun u => u.ctx == cx)

/-- The uses of a context end with it (R194). -/
def dropUses (s : State) (cx : Nat) : State := (usesOfCtx s cx).foldl dropUse s

/-- USE_RELEASE: the oldest ended use whose releases have their slots is released. -/
def releaseOldest (s : State) : State :=
  match s.disp.uses.find? (fun u => u.ended.isSome && canDrop s u) with
  | none => s
  | some u => dropUse s u

/-! ## Errors of ticket records and work items (R207, R225) -/

/-- A corrected error of a ticket record. -/
def ticketCe (s : State) : State := ceOne (countC s 0x80200 1)

/-- A double-bit error in a ticket record of a use: the use ends (R225, Table 16.7). -/
def ticketUe (s : State) (u : Use) : State := endUse (raiseFault s 0x0205 2 4 u.ctx 0x12 0) u .ticketError none

/-- A double-bit error in a ticket record whose BENTRY is not readable (R225). -/
def ticketLost (s : State) : State := raiseFault s 0x0205 2 4 0 0x12 0

/-! ## CANCEL (R222) -/

/-- CANCEL. -/
def cancelWork (c : Cmd) (s : State) : Work :=
  match liveUse s c.ctx c.batch with
  | none => doneWith s 0 0 0 0
  | some u =>
    if bit c.a 16 || bits c.a 0 16 == u.epoch then
      ⟨endUse s { u with canceller := some (c.q, c.tag) } .cancel none, .exec⟩
    else doneWith s 0 0 0 0

/-! ## Meanings -/

/-- CANCEL -/
def execCancel (q tag : Nat) (s : State) : Host.Outcome State Fault Refusal :=
  .next (working (issueRow (isOp 0x2B) q tag cancelWork) s)

/-- USE_RELEASE -/
def execUseRelease (s : State) : Host.Outcome State Fault Refusal := .next (working releaseOldest s)

end Sys2Proof.Machine
end

