-- ==== Sys2Proof/Machine/Owner.lean ====
section
/-! DEFINITION. The owner table and its cache (R321 to R323), and the expert map of a context (R149, R326, R327). -/

namespace Sys2Proof.Machine

/-! ## The owner table -/

/-- FAB_OWN_BASE -/
def ownBase (s : State) : Nat := csrField s 0xA0018 6 36 * 64
/-- Entries of the owner table. -/
def ownEntries (s : State) : Nat := 2 ^ clampN 10 24 (csrField s 0xA0020 0 5)
/-- Address of the entry of block `b`. -/
def ownAddr (s : State) (b : Nat) : Nat := (ownBase s + 16 * b) % 2 ^ 42

/-- What a look-up answers. -/
inductive OwnRes (α : Type) where
  | ok (x : α)
  /-- a failed translation (R322) -/
  | unmapped
  /-- an MP error -/
  | mp (code : Nat)

/-- Entries that the owner-table cache holds (R323). -/
def ownCacheMax : Nat := 262144

/-- Adds an entry to the cache; a full cache gives up its oldest one (log entry 26). -/
def cacheOwn (s : State) (b w0 w1 : Nat) : State :=
  let l := s.fab.ownCache.filter (fun e => e.1 != b)
  let l1 := if ownCacheMax ≤ l.length then l.drop 1 else l
  { s with fab := { s.fab with ownCache := l1 ++ [(b, w0, w1)] } }

/-- The entry of block `b`: words 0 and 1, from the cache or from memory (R323). -/
def ownEntry (s : State) (b : Nat) : State × OwnRes (Nat × Nat) :=
  if ownEntries s ≤ b then (s, .unmapped)
  else match s.fab.ownCache.find? (fun e => e.1 == b) with
    | some e => (s, if bit e.2.1 63 then .ok e.2 else .unmapped)
    | none =>
      let a := ownAddr s b
      let code := rdCode (mpLvl2 s) s.mem a 16
      if code ≠ 0 then (s, .mp code)
      else
        let w0 := rdNum s.mem a 8
        let w1 := rdNum s.mem ((a + 8) % 2 ^ 42) 8
        (cacheOwn s b w0 w1, if bit w0 63 then .ok (w0, w1) else .unmapped)

/-- RM1 + 1 -/
def ownR (w0 : Nat) : Nat := bits w0 42 6 + 1
/-- The replica list. -/
def ownList (w1 : Nat) : Nat := bits w1 6 36 * 64

/-- The replicas of an entry, as (chip, LADDR) in replica order (R321). -/
def ownReplicas (s : State) (e : Nat × Nat) : OwnRes (List (Nat × Nat)) :=
  let n := ownR e.1 - 1
  let code := rdCode (mpLvl2 s) s.mem (ownList e.2) (8 * n)
  if code ≠ 0 then .mp code
  else .ok ((bits e.1 48 15, bits e.1 21 21) ::
    (rdWords s.mem (ownList e.2) n).map (fun w => (bits w 48 15, bits w 21 21)))

/-- The replicas of block `b`. -/
def blockReplicas (s : State) (b : Nat) : State × OwnRes (List (Nat × Nat)) :=
  match ownEntry s b with
  | (s1, .ok e) => (s1, ownReplicas s1 e)
  | (s1, .unmapped) => (s1, .unmapped)
  | (s1, .mp c) => (s1, .mp c)

/-! ## The policy block (Table 13.2) -/

/-- word `i` of the policy block in force -/
def polW (p : PSlot) (i : Nat) : Nat := nth p.policy i
/-- NB -/
def polNB (p : PSlot) : Nat := max 1 (bits (polW p 0) 48 8)
/-- companions -/
def polComps (p : PSlot) : Nat := bits (polW p 0) 56 2 + 1
/-- GCOMP -/
def polG (p : PSlot) : Nat := bits (polW p 0) 58 4
/-- OBJc -/
def polObj (p : PSlot) (c : Nat) : Nat :=
  match c with
  | 0 => bits (polW p 0) 0 24
  | 1 => bits (polW p 0) 24 24
  | 2 => bits (polW p 1) 0 24
  | _ => bits (polW p 1) 24 24

/-- The placement slot of a placed context, PLACED or SUSPENDED: a SUSPENDED one stays placed until LEAVE (R326, R348). -/
def placedSlot (s : State) (cx : Nat) : Option Nat :=
  (List.range 32).find? (fun i => ((pslot s i).st == 1 || (pslot s i).st == 2) && (pslot s i).ctx == cx)

/-! ## The expert map (R149) -/

/-- The static map (R326). -/
def staticMap (E P : Nat) : List RSlot := (List.range E).map (fun e => ⟨e, 0, if E = 0 then 0 else e * P / E⟩)

/-- The member of a replica's chip; where no member has the chip the routing is indeterminate (R327). -/
def memberOf (s : State) (g chip : Nat) : State × Nat :=
  let box := grpBox s g
  if inBox s box chip then (s, idxIn s box chip)
  else ({ s with draws := s.draws + 1 }, (Config.freeWord s.draws).toNat % max 1 (boxCount box))

/-- The replica slots of one expert. -/
def expertSlots (s : State) (g e : Nat) (l : List (Nat × Nat)) : State × List RSlot :=
  (List.range l.length).foldl (fun acc r =>
    let (s1, m) := memberOf acc.1 g ((l[r]?).getD (0, 0)).1
    (s1, acc.2 ++ [⟨e, r, m⟩])) (s, [])

/-- The map of a placed context, read from its owner-table entries (R327): experts `e` to `e + n - 1`. -/
def placedMap (p : PSlot) (g : Nat) : Nat → Nat → State → State × OwnRes (List RSlot)
  | 0, _, s => (s, .ok [])
  | n + 1, e, s =>
    match blockReplicas s (polObj p 0 + e * polNB p) with
    | (s1, .ok l) =>
      let (s2, here) := expertSlots s1 g e l
      match placedMap p g n (e + 1) s2 with
      | (s3, .ok rest) => (s3, .ok (here ++ rest))
      | x => x
    | (s1, .unmapped) => (s1, .unmapped)
    | (s1, .mp c) => (s1, .mp c)

/-- The map in force for a context and its placement epoch (R149, R326, R328). -/
def mapOf (s : State) (cx : Nat) : State × OwnRes (List RSlot × Nat) :=
  let k := ctx s cx
  match placedSlot s cx with
  | none => (s, .ok (staticMap (pbE k) (boxCount (grpBox s (pbGroup k))), 0))
  | some i =>
    match placedMap (pslot s i) (pbGroup k) (pbE k) 0 s with
    | (s1, .ok l) => (s1, .ok (l, (pslot s i).pepoch))
    | (s1, .unmapped) => (s1, .unmapped)
    | (s1, .mp c) => (s1, .mp c)

end Sys2Proof.Machine
end

