-- ==== Sys2Proof/Machine/Ridge.lean ====
section
/-! DEFINITION. Sums of fixed shape: Ridge trees (R117), expert sums (R143) and row sums (R241). -/

namespace Sys2Proof.Machine

/-- One level of a Ridge tree: neighbours added. -/
def pairUp : List FVal → Num (List FVal)
  | a :: b :: r => do
    let x ← fadd a b
    let y ← pairUp r
    pure (x :: y)
  | l => pure l

/-- A Ridge tree of `n` levels. -/
def ridge : Nat → List FVal → Num FVal
  | 0, l => pure (l.headD fzero)
  | n + 1, l => do
    let u ← pairUp l
    ridge n u

/-- A tree over 128 leaves, the missing ones +0 (R117). -/
def tree128 (l : List FVal) : Num FVal := ridge 7 (padTo 128 fzero l)

/-- An expert sum (R143): blocks of 128, then the 32 block sums. -/
def esum (l : List FVal) : Num FVal := do
  let blocks ← (runs 128 (ceilDiv l.length 128) l).mapM tree128
  ridge 5 (padTo 32 fzero blocks)

/-- The groups of a row sum, in a pair (R241). -/
def rowPair (l : List FVal) : Num Pair := do
  let groups ← (runs 4096 (ceilDiv l.length 4096) l).mapM esum
  groups.foldlM pairAdd {}

/-- A row sum (R241). -/
def rowSum (l : List FVal) : Num FVal := do
  let p ← rowPair l
  pairF32 p

/-- A plain F32 sum in ascending order (R143). -/
def chainSum (l : List FVal) : Num FVal :=
  match l with
  | [] => pure fzero
  | a :: r => r.foldlM fadd a

/-- The greatest value; NaN if any is NaN (R54). -/
def maxVal (l : List FVal) : FVal :=
  if l.any FVal.isNan then .nan
  else l.foldl (fun m x => if ltF m x then x else m) (.inf true)

end Sys2Proof.Machine
end

