-- ==== Sys2Proof/Machine/Sfu.lean ====
section
/-! DEFINITION. ACT, SOFTMAX and NORM (chapter 09). -/

namespace Sys2Proof.Machine

/-! ## Elements (R239) -/

/-- A source element widened to F32. -/
def widen (k : Cvt) (ety code : Nat) : Num FVal := do
  if ety = 8 then pairF32 (codePair code)
  else if ety = 9 then pure (f32 (ofInt (sext code 32)))
  else if ety = 5 then
    let x ← convert k .f32 (codeVal 5 code)
    pure (decodeF .f32 x)
  else pure (codeVal ety code)

/-- The type in which a destination is written: I4, I8, I32 and F32x2 as F32, F16 as B16 (R56, R239). -/
def sfuType (ety : Nat) : Nat :=
  if ety = 6 ∨ ety = 7 ∨ ety = 8 ∨ ety = 9 then 1 else if ety = 2 then 0 else ety

/-- A row of results narrowed to the destination's type. -/
def narrowRow (k : Cvt) (ety : Nat) (ys : List FVal) : Num (List Nat) :=
  if ety = 5 then do
    let blocks ← (runs 32 (ceilDiv ys.length 32) ys).mapM (fun b => do
      let vs ← b.mapM clampForBx8
      let q ← bx8Encode k.rmode .f32 (padTo 32 fzero vs)
      pure (((q.drop 1).map (fun c => nth q 0 * 256 + c)).take b.length))
    pure blocks.flatten
  else match fltOf ety with
    | some f => ys.mapM (convert k f)
    | none => pure []

/-- The first `n` elements of row `cs` of a source, widened. -/
def sourceRow (k : Cvt) (a : Desc) (cs : List Nat) (n : Nat) : Mio (List FVal) := do
  let codes ← a.readSeg cs 0 n
  let bad ← ioStopped
  if bad then pure (List.replicate n fzero) else num (codes.mapM (widen k a.ety))

/-- A one-row tensor named by an address field, widened; a constant where the field is 0. -/
def oneRow (k : Cvt) (c : Cmd) (field n : Nat) (dflt : FVal) : Mio (List FVal) := do
  if opAddr field = 0 then pure (List.replicate n dflt)
  else
    let d ← readDesc c field
    sourceRow k d [0, 0, 0, 0, 0] n

/-- Marks the end of a part of the work that core `k` did. -/
def coreMark (k : Nat) : Mio Unit := modify (fun io => { io with marks := (k, io.rd, io.wr, io.tally.evals) :: io.marks })

/-- The core of `l` that number `n` falls on: row i runs on the core with active index i mod N (R227), and so does tile i
(R118). -/
def coreOf (l : List Nat) (n : Nat) : Nat := nth l (n % max 1 l.length)

/-- One destination row: its values, narrowed and written; nothing after a stop. -/
def oneDestRow (k : Cvt) (dst : Desc) (cs : List Nat) (f : List Nat → Mio (List FVal)) : Mio Unit := do
  let ys ← f cs
  let bad ← ioStopped
  if bad then pure ()
  else do
    let codes ← num (narrowRow k dst.ety (ys.take (dst.size 0)))
    dst.writeSeg cs 0 codes

/-- Runs a row operation over the destination's rows in ascending order; the answer counts rows and elements written. A
destination without elements has no row to visit (R168, R239), and no later row is begun after an error (R248). -/
def overRows (cores : List Nat) (k : Cvt) (d : Desc) (f : Nat → List Nat → Mio (List FVal)) : Mio (Nat × Nat) := do
  if d.size 0 = 0 then pure (0, 0)
  else (List.range d.rows).foldlM (fun acc r => do
    let before ← ioStopped
    if before then pure acc
    else do
      oneDestRow k { d with ety := sfuType d.ety } (d.coords r) (f r)
      coreMark (coreOf cores r)
      let bad ← ioStopped
      pure (if bad then acc else (acc.1 + 1, acc.2 + d.size 0))) (0, 0)

/-! ## ACT (R240) -/

/-- A function result that is finite and beyond the F32 range, after a scale that leaves it infinite: out of range under R64
in every format (R238, log entry 63). -/
def overRange (neg : Bool) : FVal := .fin neg 1 128

/-- The value of one destination element before narrowing: the pipe's result is rounded to F32, and so is its product with
POST (R240). An infinity that only the rounding of a finite result has made stays out of range (R238). -/
def actElem (dx2 : Bool) (fn : Nat) (pre post bias x : FVal) (hasBias : Bool) : Num FVal := do
  let v0 ← fmul x pre
  let v ← if hasBias then fadd v0 bias else pure v0
  tallyEvals (fnPasses fn)
  let y ← fnApply dx2 fn v
  let z ← fmul (f32 y) post
  pure (if (f32 y).isInf && !y.notFin && z.isInf then overRange z.sign else z)

/-- ACT's rows. -/
def actRows (dx2 : Bool) (c : Cmd) : Mio (Nat × Nat) := do
  let a ← readDesc c c.a
  let d ← readDesc c c.b
  let blk ← if absent c.c then pure 0 else readStruct c.c
  let none? := absent c.c
  let pre := if none? then fone else decodeF .f32 (bits blk 64 32)
  let post := if none? then fone else decodeF .f32 (bits blk 96 32)
  let biasField := if none? then 0 else bits blk 0 64
  let bias ← oneRow c.cvt c biasField (d.size 0) fzero
  let hasBias := decide (opAddr biasField ≠ 0)
  overRows c.cores c.cvt d (fun _ cs => do
    let xs ← sourceRow c.cvt a cs (d.size 0)
    num ((xs.zip bias).mapM (fun p => actElem dx2 c.subop pre post p.2 p.1 hasBias)))

/-! ## SOFTMAX (R242) -/

/-- One row of SOFTMAX: the row is formed over `xs`; `extra` are the fill elements that the destination reads beyond
them (R239, log entry 25). -/
def softmaxRow (dx2 : Bool) (sub : Nat) (xs extra : List FVal) : Num (List FVal) := do
  let m := maxVal xs
  let term := fun x => do
    let d ← fsub x m
    let e ← expF dx2 d
    pure (d, e)
  let es ← xs.mapM term
  let z ← rowSum (es.map (·.2))
  let more ← extra.mapM term
  if sub = 1 then do
    let l ← lnF dx2 z
    (es ++ more).mapM (fun p => fsub p.1 l)
  else (es ++ more).mapM (fun p => fdiv p.2 z)

/-- SOFTMAX's rows. -/
def softmaxRows (dx2 : Bool) (c : Cmd) : Mio (Nat × Nat) := do
  let a ← readDesc c c.a
  let d ← readDesc c c.b
  overRows c.cores c.cvt d (fun _ cs => do
    let xs ← sourceRow c.cvt a cs (max (a.size 0) (d.size 0))
    num (softmaxRow dx2 c.subop (xs.take (a.size 0)) (xs.drop (a.size 0))))

/-! ## NORM (R243) -/

/-- A lane of LAYER mode: count, mean, sum of squared deviations. -/
structure Lane where
  n : Nat := 0
  mu : FVal := .fin false 0 0
  m2 : FVal := .fin false 0 0
  deriving DecidableEq, Repr

/-- A natural number rounded RNE to F32, as a number. -/
def natF32 (n : Nat) : Nat :=
  let (m, q) := roundAt 0 n 0 (max 0 (Int.ofNat (bitLen n) - 24))
  m * 2 ^ q.toNat

/-- A value held between two others; NaN passes. -/
def clampBetween (x a b : FVal) : FVal :=
  if x.isNan || a.isNan || b.isNan then x
  else if leF a b then clampF a b x else clampF b a x

/-- The lane update. -/
def laneAdd (l : Lane) (x : FVal) : Num Lane := do
  let n := natF32 (l.n + 1)
  let d1 ← fsub x l.mu
  let q ← fdiv d1 (f32 (ofNatF n))
  let mu0 ← fadd l.mu q
  let mu := clampBetween mu0 l.mu x
  let d2 ← fsub x mu
  let p ← fmul d1 d2
  let m2 ← fadd l.m2 p
  pure ⟨n, mu, m2⟩

/-- The merge of two lanes. -/
def laneMerge (a b : Lane) : Num Lane := do
  if a.n = 0 then pure b
  else if b.n = 0 then pure a
  else
    let n := natF32 (a.n + b.n)
    let fn := f32 (ofNatF n)
    let dl ← fsub b.mu a.mu
    let w ← fdiv (f32 (ofNatF b.n)) fn
    let t ← fmul dl w
    let mu0 ← fadd a.mu t
    let mu := clampBetween mu0 a.mu b.mu
    let sq ← fmul dl dl
    let nn ← fmul (f32 (ofNatF a.n)) (f32 (ofNatF b.n))
    let q ← fdiv nn fn
    let u ← fmul sq q
    let v ← fadd a.m2 b.m2
    let m2 ← fadd v u
    pure ⟨n, mu, m2⟩

/-- One level of the merge tree. -/
def lanesUp : List Lane → Num (List Lane)
  | a :: b :: r => do
    let x ← laneMerge a b
    let y ← lanesUp r
    pure (x :: y)
  | l => pure l

/-- The merge tree over 128 lanes. -/
def laneTree : Nat → List Lane → Num Lane
  | 0, l => pure (l.headD {})
  | n + 1, l => do
    let u ← lanesUp l
    laneTree n u

/-- Elements i of a row with i mod 128 = l. -/
def laneElems (xs : List FVal) (l : Nat) : List FVal :=
  (List.range (ceilDiv (xs.length - l) 128)).map (fun i => (xs[l + 128 * i]?).getD fzero)

/-- Mean and variance of LAYER mode. -/
def layerStats (xs : List FVal) : Num (FVal × FVal) := do
  let lanes ← (List.range 128).mapM (fun l => (laneElems xs l).foldlM laneAdd {})
  let t ← laneTree 7 lanes
  let v ← fdiv t.m2 (f32 (ofNatF xs.length))
  pure (t.mu, if ltF v fzero then fzero else v)

/-- Mean and variance of the DX2 form of LAYER mode (R245). -/
def layerStatsDx2 (xs : List FVal) : Num (FVal × FVal) := do
  let d := f32 (ofNatF xs.length)
  let sx ← rowSum xs
  let mu ← fdiv sx d
  let sq ← xs.mapM (fun x => fmul x x)
  let s2 ← rowSum sq
  let a ← fdiv s2 d
  let b ← fmul mu mu
  let v ← fsub a b
  if ltF v fzero then do
    modify (fun t => { t with clamp := t.clamp + 1 })
    pure (mu, fzero)
  else pure (mu, v)

/-- Variance of RMS mode. -/
def rmsStats (xs : List FVal) : Num (FVal × FVal) := do
  let sq ← xs.mapM (fun x => fmul x x)
  let s2 ← rowSum sq
  let v ← fdiv s2 (f32 (ofNatF xs.length))
  pure (fzero, v)

/-- The least EPS (R243). -/
def epsMin : FVal := .fin false 1 (-126)

/-- Mean and reciprocal deviation of a row. -/
def normStats (dx2 : Bool) (rms : Bool) (eps : FVal) (xs : List FVal) : Num (FVal × FVal) := do
  let (mu, var) ← if rms then rmsStats xs else if dx2 then layerStatsDx2 xs else layerStats xs
  let e := if eps.isNan || ltF eps epsMin then epsMin else eps
  let v ← fadd var e
  let r ← rsqrtF dx2 v
  pure (mu, r)

/-- One output element of NORM. -/
def normElem (rms : Bool) (mu r gamma beta x : FVal) : Num FVal := do
  let d ← if rms then pure x else fsub x mu
  let a ← fmul d r
  let b ← fmul a gamma
  fadd b beta

/-- NORM's rows. -/
def normRows (dx2 : Bool) (c : Cmd) : Mio (Nat × Nat) := do
  let a ← readDesc c c.a
  let d ← readDesc c c.b
  let blk ← readStruct c.c
  let n := d.size 0
  let gamma ← oneRow c.cvt c (bits blk 0 64) n fone
  let beta ← oneRow c.cvt c (bits blk 64 64) n fzero
  let stats := opAddr (bits blk 128 64)
  let eps := decodeF .f32 (bits blk 192 32)
  let rms := c.subop == 1
  if a.size 0 = 0 then pure (0, 0)
  else overRows c.cores c.cvt d (fun row cs => do
    let all ← sourceRow c.cvt a cs (max (a.size 0) n)
    let (mu, r) ← num (normStats dx2 rms eps (all.take (a.size 0)))
    let ys ← num ((all.zip (gamma.zip beta)).mapM (fun p => normElem rms mu r p.2.1 p.2.2 p.1))
    if stats = 0 then pure ()
    else ioWrite false ((stats + 8 * row) % 2 ^ 42) (leBytes 4 (encodeF .f32 mu) ++ leBytes 4 (encodeF .f32 r))
    pure ys)

/-! ## Execution and end -/

/-- DETAIL of a double-bit error in core SRAM (R131): the physical core that holds the word. -/
def strikeDetail (l : List Nat) (x : Strike) : Nat := 0x10 + coreOf l x.core * 2 ^ 8

/-- DETAIL of an error that stops an instruction of the scoring cores (R131): an MP read error names core 7. -/
def coreDetail (e : Stop) : Nat :=
  match e with
  | .mp code => if code = 3 then 3 else code + 7 * 2 ^ 8
  | .sram detail => detail
  | .unreach chip => chip * 2 ^ 8
  | .late chip => chip * 2 ^ 8

/-- Ends an instruction of the scoring cores that stopped (R131, R191, R248). -/
def coreStop (s : State) (c : Cmd) (e : Stop) : Work :=
  match e with
  | .mp _ => doneWith (mpFault s c.ctx c.q (coreDetail e)) stEcc (coreDetail e) 0 0
  | .sram _ => doneWith (raiseFault s 0x0203 2 2 c.ctx (coreDetail e) c.q) stEcc (coreDetail e) 0 0
  | .unreach chip => doneWith (reportUnreach s chip) stUnreach (chip * 2 ^ 8) 0 0
  | .late chip => doneWith s stUnreach (chip * 2 ^ 8) 0 0

/-- Corrected single-bit errors of an instruction's core SRAM words (R131). -/
def coreCe (ecc : SramEcc) (s : State) : State := ceMany (countC s 0x40018 ecc.corrected) ecc.corrected

/-- The double-bit error that an instruction meets in the SRAM of one of its cores `l` (R131, log entry 24). -/
def coreStrike (l : List Nat) (ecc : SramEcc) : Option (Nat × Stop) :=
  ecc.double.map (fun x => (x.after, .sram (strikeDetail l x)))

/-- Credits the traffic and the evaluations of a part to core `k`: MP bytes read and written on that core's port, event
0x023 (R227, Table 15.1). -/
def partCredit (c : Cmd) (k rd wr evals : Nat) (s : State) : State :=
  pmcEvent (mpCount s k rd wr) 0x023 (some k) (some c.ctx) (some c.cls) evals

/-- Credits each part of a run, in order; `rd`, `wr` and `ev` are what has been credited. -/
def partCredits (c : Cmd) : List (Nat × Nat × Nat × Nat) → Nat → Nat → Nat → State → State
  | [], _, _, _, s => s
  | (k, r, w, e) :: l, rd, wr, ev, s => partCredits c l r w e (partCredit c k (r - rd) (w - wr) (e - ev) s)

/-- The state when the accesses of an instruction of the cores are over: memory, conversion counters, and each part's
traffic on its core; what follows the last mark belongs to the core of that part's number (log entry 133). -/
def coresClose (c : Cmd) (s : State) (io : Io) : State :=
  partCredits c (((coreOf c.cores io.marks.length, io.rd, io.wr, io.tally.evals) :: io.marks).reverse) 0 0 0
    (addTally (setMem s io.mem) io.tally)

/-- Runs an instruction of the special-function pipes; `pipes` says that it needs them (R247). -/
def sfuWork (pipes : Bool) (ecc : SramEcc) (rows : Bool → Cmd → Mio (Nat × Nat)) (elems : Bool) (c : Cmd) (s : State) :
    Work :=
  if pipes && !tablesOk s then doneWith s stEcc 0x14 0 0
  else withSlots (slotsOk s c) c s fun _ =>
    let s0 := coreCe ecc s
    let (n, io) := rows c.dx2 c { ioStart s0 with strike := coreStrike c.cores ecc }
    let s1 := coresClose c s0 io
    match io.ended with
    | some x => coreStop s1 c x
    | none => doneWith s1 0 0 (if elems then n.2 else n.1) 0

/-- ACT -/
def execAct (q tag : Nat) (ecc : SramEcc) (s : State) : Host.Outcome State Fault Refusal :=
  .next (working (issueRow (isOp 0x30) q tag (fun c => sfuWork (decide (fnPasses c.subop ≠ 0)) ecc actRows true c)) s)

/-- NORM -/
def execNorm (q tag : Nat) (ecc : SramEcc) (s : State) : Host.Outcome State Fault Refusal :=
  .next (working (issueRow (isOp 0x31) q tag (sfuWork true ecc normRows false)) s)

/-- SOFTMAX -/
def execSoftmax (q tag : Nat) (ecc : SramEcc) (s : State) : Host.Outcome State Fault Refusal :=
  .next (working (issueRow (isOp 0x32) q tag (sfuWork true ecc softmaxRows false)) s)

end Sys2Proof.Machine
end

