-- ==== Sys2Proof/Machine/Select.lean ====
section
/-! DEFINITION. Selection (chapter 06): keys, streaming top-k, group limiting, gates and statistics of a token, hash
selection, and the router gradient of a token. -/

namespace Sys2Proof.Machine

/-! ## mix64 and hash selection (Table 06.5, R148) -/

/-- `x xor (x >> n)` in 64 bits. -/
def xorShift (x n : Nat) : Nat := x ^^^ (x >>> n)

/-- mix64 -/
def mix64 (x : Nat) : Nat :=
  let a := xorShift (x % 2 ^ 64) 31 * 0xA3B195E4C0D27F1B % 2 ^ 64
  let b := xorShift a 27 * 0x6F4A2C18D95EB7C3 % 2 ^ 64
  xorShift b 33

/-- The loop of R148 with a bound on its steps; `acc` holds the experts found, latest first. -/
def hashLoop (E k : Nat) : Nat → Nat → List Nat → List Nat
  | 0, _, acc => acc
  | fuel + 1, x, acc =>
    if k ≤ acc.length then acc
    else
      let y := mix64 x
      let e := y % E
      hashLoop E k fuel y (if acc.contains e then acc else e :: acc)

/-- `n` further experts, each a free choice among those not chosen yet. -/
def freeExperts (gidx E : Nat) : Nat → List Nat → List Nat
  | 0, acc => acc
  | n + 1, acc =>
    let rest := (List.range E).filter (fun e => !acc.contains e)
    freeExperts gidx E n (acc ++ [nth rest ((Config.freeWord (gidx + n)).toNat % max 1 rest.length)])

/-- The experts of a hash-routed token in order of discovery. The loop of R148 need not end: mix64(0) is 0, so with k ≥ 2 a
token whose SEED xor (TBASE + t) is 0 finds one expert for ever, and other cycles of mix64 may miss experts too. What the
loop has not found within 2^20 steps is a free choice of experts, and the instruction completes (log entry 27). -/
def hashSelect (seed gidx E k : Nat) : List Nat :=
  let l := (hashLoop E k (2 ^ 20) ((seed ^^^ gidx) % 2 ^ 64) []).reverse
  freeExperts gidx E (k - l.length) l

/-! ## Keys and top-k (R138 to R140) -/

/-- Key `a` ranks above key `b`, expert indices apart (R139). -/
def ranksAbove (a b : FVal) : Bool := !a.isNan && (b.isNan || ltF b a)

/-- A key placed among the slots, below every slot whose key is greater than or equal to it (R140). -/
def insertKey (x : FVal × Nat) : List (FVal × Nat) → List (FVal × Nat)
  | [] => [x]
  | y :: r => if ranksAbove x.1 y.1 then x :: y :: r else y :: insertKey x r

/-- The k slots after the keys of a row, in ascending expert index (R140). -/
def topSlots (k : Nat) (l : List (FVal × Nat)) : List (FVal × Nat) :=
  l.foldl (fun slots x => (insertKey x slots).take k) []

/-- Keys with their indices. -/
def indexed {α : Type} (l : List α) : List (α × Nat) := l.zip (List.range l.length)

/-- Expert group of expert `e` (R142). -/
def groupNo (G E e : Nat) : Nat := e * G / max 1 E

/-- The groups with their scores, highest first; groups without experts have none (R142). -/
def groupOrder (G : Nat) (keys : List FVal) : List Nat :=
  let E := keys.length
  let best := fun g =>
    ((indexed keys).filter (fun p => groupNo G E p.2 == g)).foldl
      (fun (m : Option FVal) p => match m with
        | none => some p.1
        | some x => if ranksAbove p.1 x then some p.1 else some x) none
  let scored := (List.range G).filterMap (fun g => (best g).map (fun v => (v, g)))
  (topSlots G scored).map (·.2)

/-- Experts of a list of groups. -/
def groupHolds (G E : Nat) (gs : List Nat) : Nat :=
  ((List.range E).filter (fun e => gs.contains (groupNo G E e))).length

/-- Groups added in order until they hold `k` experts. -/
def widenGroups (G E k : Nat) : List Nat → List Nat → List Nat
  | kept, [] => kept
  | kept, g :: r => if k ≤ groupHolds G E kept then kept else widenGroups G E k (kept ++ [g]) r

/-- The kept groups, and whether the set was widened (R142). -/
def keptGroups (G topg k : Nat) (keys : List FVal) : List Nat × Bool :=
  let order := groupOrder G keys
  let first := order.take (max 1 topg)
  let all := widenGroups G keys.length k first (order.drop (max 1 topg))
  (all, decide (first.length < all.length))

/-- What a context's header and parameters ask of selection. -/
structure SelCfg where
  route : Nat := 0
  k : Nat := 1
  renorm : Bool := false
  ngrp : Nat := 0
  topg : Nat := 0
  cvt : Cvt := {}
  deriving DecidableEq, Repr

/-- The choices of a row from its keys (R139, R140, R142), and whether the kept groups were widened. -/
def choose (g : SelCfg) (keys : List FVal) : List Nat × Bool :=
  let G := min 64 g.ngrp
  if G < 2 then ((topSlots g.k (indexed keys)).map (·.2), false)
  else
    let (kept, wide) := keptGroups G g.topg g.k keys
    let cand := (indexed keys).filter (fun p => kept.contains (groupNo G keys.length p.2))
    ((topSlots g.k cand).map (·.2), wide)

/-! ## Gates and statistics (R143, R144) -/

/-- What R144 forms over the experts of a token. -/
structure TokStat where
  m : FVal
  z : FVal
  lse : FVal
  p : List FVal

/-- M, Z, lse and p. The DX2 forms of the special functions do not reach selection (R245). -/
def tokStats (l : List FVal) : Num TokStat := do
  let m := maxVal l
  let ex ← l.mapM (fun x => do expF false (← fsub x m))
  let z ← esum ex
  let lse ← fadd m (← lnF false z)
  let p ← ex.mapM (fun x => fdiv x z)
  pure ⟨m, z, lse, p⟩

/-- A value of a list of expert values; an index at or above EXPERTS, which only a program can have written to a
selection record, names no stated value (log entry 28). -/
def atExpert (l : List FVal) (e : Nat) : FVal :=
  (l[e]?).getD (decodeF .f32 ((Config.freeWord e).toNat % 2 ^ 32))

/-- The gates before normalisation; `sig` holds σ of the logits under ROUTE 2. -/
def rawGates (route : Nat) (l p sig : List FVal) (S : List Nat) : Num (List FVal) := do
  if route = 0 then pure (S.map (atExpert p))
  else if route = 1 then do
    let ls := S.map (atExpert l)
    let m := maxVal ls
    let ex ← ls.mapM (fun x => do expF false (← fsub x m))
    let d ← chainSum ex
    ex.mapM (fun x => fdiv x d)
  else pure (S.map (atExpert sig))

/-- The gates after RENORM. -/
def renormGates (route : Nat) (renorm : Bool) (raw : List FVal) : Num (List FVal) := do
  if renorm && route != 1 then do
    let s ← chainSum raw
    raw.mapM (fun x => fdiv x s)
  else pure raw

/-- σ of the logits, under ROUTE 2 only. -/
def sigmas (g : SelCfg) (l : List FVal) : Num (List FVal) := if g.route = 2 then l.mapM (sigmoidF false) else pure []

/-- What selection answers for a token. -/
structure Chosen where
  experts : List Nat := []
  /-- B16 codes -/
  gates : List Nat := []
  lse : FVal := .nan
  /-- p, or σ under ROUTE 2 -/
  prob : List FVal := []
  nanRow : Bool := false
  wide : Bool := false

/-- Selection of one token from its logits (R138 to R144). -/
def selectToken (g : SelCfg) (bias : Option (List FVal)) (l : List FVal) : Num Chosen := do
  let sig ← sigmas g l
  let score := if g.route = 2 then sig else l
  let keys ← match bias with
    | none => pure score
    | some b => (score.zip b).mapM (fun p => fadd p.1 p.2)
  let (S, wide) := choose g keys
  let st ← tokStats l
  let raw ← rawGates g.route l st.p sig S
  let gt ← renormGates g.route g.renorm raw
  let codes ← gt.mapM (convert g.cvt .b16)
  pure { experts := S, gates := codes, lse := st.lse, prob := if g.route = 2 then sig else st.p,
         nanRow := keys.all FVal.isNan, wide := wide }

/-- The selection record of a token (R135). -/
def recordBytes (experts gates : List Nat) : List Byte :=
  ((experts.zip gates).map (fun p => leBytes 4 (p.1 % 2 ^ 12 + p.2 % 2 ^ 16 * 2 ^ 16))).flatten

/-- A token sum (R145). -/
def tokenSum (l : List FVal) : Num Pair := do
  let tiles ← (runs 128 (ceilDiv l.length 128) l).mapM tree128
  tiles.foldlM pairAdd {}

/-! ## The router gradient of a token (R147) -/

/-- A list with element `i` replaced. -/
def putAt (l : List FVal) (i : Nat) (v : FVal) : List FVal := l.set i v

/-- dl of one token from its logits, chosen set, gate gradients and PGRAD. -/
def routerGrad (g : SelCfg) (zcoef : FVal) (l : List FVal) (S : List Nat) (gg : List FVal) (pg : List FVal) :
    Num (List FVal) := do
  let sig ← sigmas g l
  let st ← tokStats l
  let raw ← rawGates g.route l st.p sig S
  let gate ← renormGates g.route g.renorm raw
  let zero := List.replicate l.length fzero
  let gs ← if g.renorm && g.route != 1 then do
      let sS ← chainSum raw
      let dot ← chainSum (← (gg.zip gate).mapM (fun p => fmul p.1 p.2))
      gg.mapM (fun x => do fdiv (← fsub x dot) sS)
    else pure gg
  let dg := (S.zip gs).foldl (fun acc p => putAt acc p.1 p.2) zero
  let dl ← if g.route = 0 then do
      let u ← (dg.zip pg).mapM (fun p => fadd p.1 p.2)
      let s ← esum (← (st.p.zip u).mapM (fun p => fmul p.1 p.2))
      (st.p.zip u).mapM (fun p => do fmul p.1 (← fsub p.2 s))
    else if g.route = 1 then do
      let gq ← chainSum (← (gg.zip gate).mapM (fun p => fmul p.1 p.2))
      let s ← esum (← (st.p.zip pg).mapM (fun p => fmul p.1 p.2))
      let base ← (st.p.zip pg).mapM (fun p => do fmul p.1 (← fsub p.2 s))
      (S.zip (gg.zip gate)).foldlM (fun acc p => do
        let d ← fmul p.2.2 (← fsub p.2.1 gq)
        let v ← fadd (atExpert acc p.1) d
        pure (putAt acc p.1 v)) base
    else (sig.zip (dg.zip pg)).mapM (fun p => do
      let a ← fmul p.1 (← fsub fone p.1)
      fmul a (← fadd p.2.1 p.2.2))
  let z2 ← fmul (.fin false 1 1) zcoef
  let zl ← fmul z2 st.lse
  (dl.zip st.p).mapM (fun p => do fadd p.1 (← fmul zl p.2))

end Sys2Proof.Machine
end

