-- ==== Sys2Proof/Machine/Score.lean ====
section
/-! DEFINITION. The scoring cores (chapter 05): weight slots and CTXLOAD, the array edge, logits, SCORE, SCOREV and
HASHSEL with the opening of their use and the reservation of its tickets. -/

namespace Sys2Proof.Machine

/-! ## Tallies that repeat (R407) -/

/-- A tally with `m` times another added. -/
def Tally.plus (t d : Tally) (m : Nat) : Tally :=
  { oor := t.oor + m * d.oor, infs := t.infs + m * d.infs, van := t.van + m * d.van, nan := t.nan + m * d.nan,
    flush := t.flush + m * d.flush, evals := t.evals + m * d.evals, clamp := t.clamp + m * d.clamp }

/-- Arithmetic whose counts are made `m` times. -/
def numTimes {α : Type} (m : Nat) (x : Num α) : Num α := fun t =>
  let (a, d) := x {}
  (a, t.plus d m)

/-- Counts `n` invalid operations. -/
def tallyNans (n : Nat) : Num Unit := modify (fun t => { t with nan := t.nan + n })

/-! ## The array edge (R116, R408) -/

/-- Byte position of element `i` of a BX8 row. -/
def bx8Pos (i : Nat) : Nat := 33 * (i / 32) + 1 + i % 32

/-- Codes of the first `n` elements of a row as the array edge takes them: the stored codes of the types that R116
converts, the 16 bits at the element's position of every other type. -/
def edgeCodes (d : Desc) (cs : List Nat) (n : Nat) : Mio (List Nat) := do
  if d.ety = 5 then
    let k := if d.rowIn cs then d.stored 0 n else 0
    let fill := List.replicate (n - k) (d.fill % 2 ^ 16)
    if k = 0 then pure fill
    else
      let bytes ← ioRead d.dom (d.rowAddr cs) (bx8Pos (k - 1) + 2)
      let at16 := fun i => (bytes.getD i 0#8).toNat + 256 * (bytes.getD (i + 1) 0#8).toNat
      pure ((List.range k).map (fun i => at16 (bx8Pos i)) ++ fill)
  else
    let codes ← d.readSeg cs 0 n
    pure (if d.ety = 8 ∨ d.ety = 9 then codes.map (· % 2 ^ 16) else codes)

/-- The expansion header of a tensor that has none (R116). -/
def plainHdr (ety : Nat) : Nat := ety + 2 ^ 8 + 0x3F80 * 2 ^ 16

/-- An element at the array edge, as a B16 value (R116). An I4 or I8 activation, which has no expansion header, is expanded
as a weight tensor without one (log entry 134). -/
def edgeVal (ety : Nat) (hdr : Option Nat) (code : Nat) : Num FVal := do
  if ety = 6 ∨ ety = 7 then
    let x ← expandWeight (hdr.getD (plainHdr ety)) code
    pure (decodeF .b16 x)
  else if ety = 1 ∨ ety = 2 then
    let x ← convert {} .b16 (elemVal ety code)
    pure (decodeF .b16 x)
  else if ety = 3 ∨ ety = 4 then pure (elemVal ety code)
  else pure (decodeF .b16 code)

/-! ## Weight sources (R123 to R126) -/

/-- Packed size of a weight tensor in 64-byte lines. -/
def packedLines (ety E D : Nat) : Nat := E * ceilDiv (rowBytes ety D * 8) 512

/-- The code of a weight source in a waiting selection instruction: 0 none, else descriptor, header and slot. -/
def sourceCode (w : Option WSource) : List Nat :=
  match w with
  | none => [0, 0, 0]
  | some x => [x.desc * 2 + 1, match x.hdr with | none => 0 | some h => h * 2 + 1,
      match x.slot with | none => 0 | some i => i + 1]

/-- The weight source of a code. -/
def sourceOf (l : List Nat) : Option WSource :=
  if nth l 0 = 0 then none
  else some { desc := nth l 0 / 2, hdr := if nth l 1 = 0 then none else some (nth l 1 / 2),
              slot := if nth l 2 = 0 then none else some (nth l 2 - 1) }

/-- A waiting selection instruction reads slot `i`: its saved numbers are descriptor, header, and its weight source. -/
def readsSlot (c : Cmd) (i : Nat) : Bool :=
  (c.opc == 0x10 || c.opc == 0x11) && c.inUnit && nth c.saved 4 == i + 1

/-- SC_SLOT[i].INUSE -/
def slotInUse (s : State) (i : Nat) : Bool := s.front.inflight.any (fun c => readsSlot c i)

/-- A slot as it stands: one that no source of its context names and no executing instruction reads is FREE (R124). -/
def slotNow (s : State) (i : Nat) : Slot :=
  let x := (s.slots[i]?).getD {}
  let k := ctx s x.ctx
  let named := (k.cur.bind (·.slot)) == some i || (k.next.bind (·.slot)) == some i
  if x.st ≠ 0 ∧ (named || slotInUse s i) then x else {}

/-- Stores a slot. -/
def putSlot (s : State) (i : Nat) (x : Slot) : State := { s with slots := s.slots.set i x }

/-- The slot that a LOAD takes (R124). -/
def loadSlot (s : State) (cx : Nat) : Option Nat :=
  match (ctx s cx).next.bind (·.slot) with
  | some i => some i
  | none => (List.range 2).find? (fun i => (slotNow s i).st == 0)

/-- Codes of a weight tensor: `e` rows of `n` features. -/
def readWeights (d : Desc) (e n : Nat) : Mio (List (List Nat)) := (List.range e).mapM (fun r => edgeCodes d (d.coords r) n)

/-- A LOAD that stopped: the next source is cleared and its slot becomes FREE (Table 05.8). -/
def loadFail (s : State) (c : Cmd) (e : Stop) : Work :=
  coreStop (setCtx s c.ctx { ctx s c.ctx with next := none }) c e

/-- The state when accesses of the first of the cores `l` are over: those of the slot loader, of COUNT, and a selection's
reads at issue (log entry 133). -/
def coreIo (l : List Nat) (s : State) (io : Io) : State := ioClose s (coreOf l 0) (coreOf l 0) io

/-- CTXLOAD's parameter block, where operand C is not 0. -/
def loadParams (c : Cmd) (s : State) : State × Option Nat :=
  if absent c.c then (s, none)
  else
    let a := opAddr c.c
    let code := rdCode (mpLvl2 s) s.mem a 64
    let s1 := mpCount s (coreOf c.cores 0) 64 0
    if code ≠ 0 then (s1, some code)
    else (setCtx s1 c.ctx { ctx s1 c.ctx with pb := pbReload (ctx s1 c.ctx).pb (rdWords s.mem a 4) }, none)

/-- The weight action LOAD (R123, R124). -/
def loadWeights (c : Cmd) (s : State) : Work :=
  if absent c.a then doneWith s 0 0 0 0
  else
    let k := ctx s c.ctx
    let E := pbE k
    let D := pbD k
    let ((raw, hdr), io) := (do
      let raw ← readStruct c.a
      let hdr ← if absent c.b then pure 0 else readStruct c.b
      pure (raw, hdr) : Mio (Nat × Nat)) (ioStart s)
    match io.stop with
    | some e => loadFail (coreIo c.cores s io) c e
    | none =>
      let d := descOf c.level raw
      let lines := packedLines d.ety E D
      let src : WSource := { desc := raw, hdr := if absent c.b then none else some hdr }
      let s1 := coreIo c.cores s io
      let streamed := doneWith (setCtx s1 c.ctx { ctx s1 c.ctx with next := some src }) 0 0 0 0
      if 2621440 < lines * 64 then streamed
      else match loadSlot s1 c.ctx with
        | none => streamed
        | some i =>
          let (rows, io2) := readWeights d E D (ioStart s1)
          let s2 := coreIo c.cores s1 io2
          match io2.stop with
          | some e => loadFail s2 c e
          | none =>
            let s3 := putSlot s2 i { st := 2, ctx := c.ctx, etype := bits raw 64 4, lines := lines, rows := rows }
            doneWith (setCtx s3 c.ctx { ctx s3 c.ctx with next := some { src with slot := some i } }) 0 0 0 0

/-- A CTXLOAD: its parameter block first, then its weight action. One that reads memory needs the slots of the cores; a
SWAP, a RELEASE and a LOAD of nothing complete at issue (Table 05.5). -/
def ctxloadWork (act : Cmd → State → Work) (c : Cmd) (s : State) : Work :=
  let reads := !absent c.c || (!(c.subop == 1 || c.subop == 2) && !absent c.a)
  withSlots (!reads || slotsOk s c) c s fun _ =>
    match loadParams c s with
    | (s1, some code) => doneWith (mpFault s1 c.ctx c.q (code + 7 * 2 ^ 8)) stEcc (code + 7 * 2 ^ 8) 0 0
    | (s1, none) => act c s1

/-- The weight action SWAP (R123). -/
def swapWeights (c : Cmd) (s : State) : Work :=
  let k := ctx s c.ctx
  match k.next with
  | none => doneWith s 0 0 0 0
  | some w =>
    let s1 := setCtx s c.ctx { k with cur := some w, next := none }
    doneWith (match w.slot with
      | none => s1
      | some i => putSlot s1 i { (s1.slots[i]?).getD {} with st := 3 }) 0 0 0 0

/-- The weight action RELEASE (R123). -/
def releaseWeights (c : Cmd) (s : State) : Work :=
  doneWith (setCtx s c.ctx { ctx s c.ctx with cur := none, next := none }) 0 0 0 0

/-! ## Logits (R117, R118, R122) -/

/-- One logit: Ridge trees of 128 products per chunk, added in a pair in ascending chunk order. -/
def logit (x w : List FVal) : Num FVal := do
  let chunks := (runs 128 (ceilDiv x.length 128) (x.zip w))
  let p ← chunks.foldlM (fun acc ch => do
    let prods ← ch.mapM (fun q => fmul q.1 q.2)
    let t ← tree128 prods
    pairAdd acc t) ({} : Pair)
  pairF32 p

/-- The logits of a row. -/
def logits (W : List (List FVal)) (x : List FVal) : Num (List FVal) := W.mapM (logit x)

/-- Weights that a masked row multiplies with +0: an infinite one is an invalid operation (R407). -/
def infWeights (W : List (List FVal)) : Nat := ((W.map (fun r => (r.filter FVal.isInf).length))).foldl (· + ·) 0

/-- The weights in force as B16 values, with what one stream of them costs: MP bytes, none for a resident copy, and the
counts of the array edge (R125, R126, R407). -/
structure WStream where
  w : List (List FVal) := []
  bytes : Nat := 0
  t : Tally := {}

/-- Reads the weights in force. The bytes count at each stream; those read before an error count at once. -/
def readStream (lvl : Nat) (src : Option WSource) (rows : List (List Nat)) (ety E D : Nat) : Mio WStream := do
  match src with
  | none => pure { w := List.replicate E (List.replicate D fzero) }
  | some x =>
    let before ← get
    let codes ← if x.slot.isSome then pure rows else readWeights (descOf lvl x.desc) E D
    let after ← get
    let n := after.rd - before.rd
    let (W, t) := (codes.mapM (fun r => r.mapM (edgeVal ety x.hdr)) : Num (List (List FVal))) {}
    if after.stop.isSome then set { after with wb := after.wb + n } else set { after with rd := before.rd }
    pure ⟨W, n, t⟩

/-- The parts of a stream of `n` bytes that the cores of `shares` read: each takes its share of the bytes, in order. -/
def shareMarks (rd wr ev n total : Nat) : List (Nat × Nat) → Nat → List (Nat × Nat × Nat × Nat)
  | [], _ => []
  | (k, x) :: l, done => (k, rd + n * (done + x) / max 1 total, wr, ev) :: shareMarks rd wr ev n total l (done + x)

/-- One stream of weights passes: its bytes, on the cores of `shares` in proportion, and its counts (R126, R407). -/
def takeStream (shares : List (Nat × Nat)) (x : WStream) : Mio Unit := modify fun io =>
  let marks := if x.bytes = 0 then [] else
    shareMarks io.rd io.wr io.tally.evals x.bytes (sumNat (shares.map (·.2))) shares 0
  { io with rd := io.rd + x.bytes, wb := io.wb + x.bytes, tally := io.tally.plus x.t 1, marks := marks.reverse ++ io.marks }

/-- Shares of the active cores in a stream that they take together: the same for each (R126, log entry 133). -/
def evenShares (cores : List Nat) : List (Nat × Nat) := cores.map (fun k => (k, 1))

/-- Shares of the active cores in a stream of SCOREV: each reads its own experts (R122, R126). -/
def expertShares (cores : List Nat) (E : Nat) : List (Nat × Nat) :=
  let ej := ceilDiv E (max 1 cores.length)
  (indexed cores).map (fun p => (p.1, min E ((p.2 + 1) * ej) - min E (p.2 * ej)))

/-- The stored rows of a source's slot, and the type of its elements. -/
def sourceRows (s : State) (lvl : Nat) (src : Option WSource) : List (List Nat) × Nat :=
  match src with
  | none => ([], 0)
  | some w => (match w.slot with
      | none => []
      | some i => ((s.slots[i]?).getD {}).rows, (descOf lvl w.desc).ety)

/-! ## Opening a use (R192, R193, R197, R198) -/

/-- A parameter of the context lies outside its range (Table 04.9, R136): its results are indeterminate. -/
def pbBad (k : Ctx) : Bool :=
  pbE k == 0 || decide (4096 < pbE k) || pbK k == 0 || decide (16 < pbK k) || pbD k == 0 || decide (32768 < pbD k) ||
  decide (pbE k < pbK k)

/-- What a selection instruction sampled at issue: descriptor of A, header of B, weight source, whether its use is open,
ROUTE and SEED. -/
def selSaved (raw hdr : Nat) (src : Option WSource) (k : Ctx) : List Nat :=
  [raw, hdr] ++ sourceCode src ++ [0, pbRoute k, pbSeed k]

/-- T of a selection instruction: the rows of its descriptor. -/
def selT (c : Cmd) : Nat := (descOf c.level (nth c.saved 0)).rows

/-- A live use of the same context and batch ID ends first (R193). -/
def reuseEnd (c : Cmd) (s : State) : State :=
  match liveUse s c.ctx c.batch with
  | none => s
  | some u => countC (endNow s u .reuse (some (c.q, c.tag))) 0x80220 1

/-- A use that the reuse of its batch ID ended has not been released yet (R194). -/
def reuseOpen (c : Cmd) (s : State) : Bool :=
  s.disp.uses.any (fun u => u.ctx == c.ctx && u.batch == c.batch && u.ended == some .reuse)

/-- Opens the use of a selection instruction in a free entry (R192); none where no entry is free. -/
def openUse (c : Cmd) (s : State) : State × Option Use :=
  match freeEntry s with
  | none => (s, none)
  | some n =>
    let k := ctx s c.ctx
    let u : Use := { slot := n, ctx := c.ctx, batch := c.batch, epoch := k.bepoch, cepoch := k.epoch, cls := c.cls,
                     k := pbK k, d := pbD k, t := selT c, tbase := bits (nth c.saved 1) 0 48 }
    let s1 := setCtx s c.ctx { k with bepoch := (k.bepoch + 1) % 2 ^ 16 }
    ({ s1 with disp := { s1.disp with uses := s1.disp.uses ++ [u] } }, some u)

/-- The tickets of a use become SELECTED, with local row and choice (R197). -/
def selectTickets (s : State) (u : Use) : State :=
  (List.range (u.t * u.k)).foldl (fun v i =>
    setTicket v ((u.base + i) % ringSize) { st := 1, bentry := u.slot, lrow := i / u.k, choice := i % u.k }) s

/-- Writes the gates that selection found into use and tickets (Table 08.2). -/
def gateTickets (s : State) (u : Use) (gates : List Nat) : State :=
  let s1 := putUse s { u with gates := gates }
  (List.range (u.t * u.k)).foldl (fun v i =>
    let n := (u.base + i) % ringSize
    setTicket v n { ticket v n with gate := nth gates i }) s1

/-! ## The run of a selection instruction -/

/-- What a run leaves. -/
structure SelOut where
  gates : List Nat := []
  nanRows : Nat := 0
  wide : Nat := 0

/-- Free values of `n` gates (R136, log entry 29). -/
def freeGates (draw n : Nat) : List Nat := (List.range n).map (fun i => (Config.freeWord (draw + i)).toNat % 2 ^ 16)

/-- The settings of a selection. -/
def selCfg (k : Ctx) (c : Cmd) : SelCfg :=
  let h := nth c.saved 1
  { route := nth c.saved 6, k := pbK k, renorm := bit h 64, ngrp := bits h 72 8, topg := bits h 80 8,
    cvt := c.cvt }

/-- The biases of the header, or none (R138). -/
def readBias (h E : Nat) : Mio (Option (List FVal)) := do
  if bits h (128 + 6) 36 = 0 then pure none
  else
    let b ← ioRead false (bits h (128 + 6) 36 * 64) (4 * E)
    pure (some ((codesOf 1 b 0 E).map (decodeF .f32)))

/-- Writes the statistics block (Table 06.4, R145, R146). -/
def writeStats (a : Nat) (acc : Bool) (T E : Nat) (l : List Chosen) : Mio Unit := do
  let lses := l.map (·.lse)
  let ls ← num (tokenSum lses)
  let sq ← num (do tokenSum (← lses.mapM (fun x => fmul x x)))
  let ps ← num ((List.range E).mapM (fun e => tokenSum (l.map (fun x => (x.prob[e]?).getD fzero))))
  let pb := fun (p : Pair) => leBytes 8 (pairCode p)
  if acc then do
    let old ← ioRead false a (64 + 8 * E)
    let op := fun o => codePair (leNat ((old.drop o).take 8))
    let n := (leNat (old.take 8) + T) % 2 ^ 64
    let ls1 ← num (pairMerge (op 8) ls)
    let sq1 ← num (pairMerge (op 16) sq)
    let ps1 ← num ((indexed ps).mapM (fun p => pairMerge (op (64 + 8 * p.2)) p.1))
    ioWrite false a (leBytes 8 n ++ pb ls1 ++ pb sq1 ++ List.replicate 40 0#8 ++ (ps1.map pb).flatten)
  else
    ioWrite false a (leBytes 8 T ++ pb ls ++ pb sq ++ List.replicate 40 0#8 ++ (ps.map pb).flatten)

/-- How a SCORE or SCOREV goes through its tokens: experts and widths, the stream of weights, biases, the dump area or 0. -/
structure ScoreRun where
  c : Cmd
  array : Bool
  g : SelCfg
  d : Desc
  D : Nat
  E : Nat
  st : WStream
  bias : Option (List FVal)
  dump : Nat

/-- Token `t` begins a new stream of weights: a round of tiles for SCORE, a group of 8 tokens for SCOREV (R126). -/
def ScoreRun.streams (r : ScoreRun) (t : Nat) : Bool :=
  t % (if r.array then 128 * max 1 r.c.cores.length else 8) == 0

/-- The cores' shares of a stream. -/
def ScoreRun.shares (r : ScoreRun) : List (Nat × Nat) :=
  if r.array then evenShares r.c.cores else expertShares r.c.cores r.E

/-- The core that does token `t`: that of its tile (R118); the first for SCOREV, whose cores share the tokens (log entry
133). -/
def ScoreRun.core (r : ScoreRun) (t : Nat) : Nat := coreOf r.c.cores (if r.array then t / 128 else 0)

/-- One token: read, scored, selected and written. -/
def ScoreRun.token (r : ScoreRun) (t : Nat) : Mio Chosen := do
  if r.streams t then takeStream r.shares r.st else pure ()
  let codes ← edgeCodes r.d (r.d.coords t) r.D
  let x ← num (numTimes (if r.array then ceilDiv r.E 2048 else 1) (codes.mapM (edgeVal r.d.ety none)))
  let l ← num (logits r.st.w x)
  let o ← num (selectToken r.g r.bias l)
  ioWrite false ((opAddr r.c.b + 64 + 64 * t) % 2 ^ 42) (recordBytes o.experts o.gates)
  if r.dump = 0 then pure ()
  else ioWrite false ((r.dump + roundUp (4 * r.E) 64 * t) % 2 ^ 42) ((l.map (fun v => leBytes 4 (encodeF .f32 v))).flatten)
  coreMark (r.core t)
  pure o

/-- The tokens of a SCORE or SCOREV in ascending local row, up to an error. -/
def ScoreRun.tokens (r : ScoreRun) (T : Nat) : Mio (List Chosen) :=
  (List.range T).mapM (fun t => do
    let bad ← ioStopped
    if bad then pure {} else r.token t)

/-- SCORE or SCOREV over its tokens. -/
def scoreRun (s : State) (c : Cmd) (array : Bool) (T : Nat) : Mio SelOut := do
  let k := ctx s c.ctx
  let E := pbE k
  let D := pbD k
  let h := nth c.saved 1
  let src := sourceOf (c.saved.drop 2)
  let (rows, ety) := sourceRows s c.level src
  let bias ← if T = 0 then pure none else readBias h E
  let st ← if T = 0 then pure {} else readStream c.level src rows ety E D
  let r : ScoreRun := { c := c, array := array, g := selCfg k c, d := descOf c.level (nth c.saved 0), D := D, E := E, st := st,
                        bias := bias, dump := if c.subop = 8 then csrField s 0x40010 6 36 * 64 else 0 }
  let l ← r.tokens T
  if array then num (tallyNans (infWeights st.w * (roundUp T 128 - T))) else pure ()
  if absent c.c then pure () else writeStats (opAddr c.c) (bit h 65) T E l
  pure { gates := (l.map (fun r => r.gates)).flatten, nanRows := (l.filter (·.nanRow)).length,
         wide := (l.filter (·.wide)).length }

/-- HASHSEL over its tokens (R148). -/
def hashRun (k : Ctx) (c : Cmd) (T : Nat) : Mio SelOut := do
  let tb := bits (nth c.saved 1) 0 48
  let gate := quiet (do convert {} .b16 (← longDiv fone (ofNatF (pbK k))))
  let gs := List.replicate (pbK k) gate
  (List.range T).forM (fun t =>
    ioWrite false ((opAddr c.b + 64 + 64 * t) % 2 ^ 42)
      (recordBytes (hashSelect (nth c.saved 7) (tb + t) (pbE k) (pbK k)) gs))
  pure { gates := List.replicate (T * pbK k) gate }

/-- A selection on a context with a parameter out of range: free records, and a free statistics block (R101, R136). -/
def badRun (k : Ctx) (c : Cmd) (hash : Bool) (T : Nat) : Mio SelOut := do
  let io ← get
  let n := T * pbK k
  let m := { io.mem with draws := io.mem.draws + n }
  let m1 := wrFree m (opAddr c.b + 64) (64 * T)
  let m2 := if hash ∨ absent c.c then m1 else wrFree m1 (opAddr c.c) (64 + 8 * pbE k)
  set { io with mem := m2 }
  pure { gates := freeGates io.mem.draws n }

/-- The counts of array fills and masked rows in passes of `ps` experts (R119, Table 15.1). -/
def fillCounts (s : State) (c : Cmd) (T D E ps : Nat) : State :=
  let nt := ceilDiv T 128
  let per := ceilDiv E ps * ceilDiv D 128
  let masked := roundUp T 128 - T
  let s1 := countC (countC s 0x40080 (nt * per)) 0x40090 (masked * per)
  (List.range nt).foldl (fun u i =>
    let core := coreOf c.cores i
    let u1 := pmcEvent u 0x020 (some core) (some c.ctx) (some c.cls) per
    if i + 1 = nt then pmcEvent u1 0x022 (some core) (some c.ctx) (some c.cls) (masked * per) else u1) s1

/-- A slot held a word with a double-bit error: it becomes FREE, and contexts whose source lay in it stream (R131). -/
def spoilSlot (s : State) (src : Option WSource) : State :=
  match src.bind (·.slot) with
  | none => s
  | some i =>
    let cx := ((s.slots[i]?).getD {}).ctx
    let k := ctx s cx
    let off := fun (w : Option WSource) => w.map (fun x => if x.slot = some i then { x with slot := none } else x)
    setCtx (putSlot s i {}) cx { k with cur := off k.cur, next := off k.next }

/-- A double-bit error that an instruction met in a weight slot frees the slot of its source (R131). -/
def spoilBy (ecc : SramEcc) (s : State) (src : Option WSource) : State :=
  if ecc.double.any (·.slot) then spoilSlot s src else s

/-- The run of a selection instruction whose use is open and whose tickets are reserved. -/
def selRun (ecc : SramEcc) (c : Cmd) (s : State) (u : Use) : Work :=
  let k := ctx s c.ctx
  let hash := c.opc == 0x12
  let array := c.opc == 0x10
  let src := sourceOf (c.saved.drop 2)
  let s0 := coreCe ecc s
  let run := if pbBad k then badRun k c hash u.t else if hash then hashRun k c u.t else scoreRun s c array u.t
  let (o, io) := run { ioStart s0 with strike := coreStrike c.cores ecc }
  let s1 := countC (spoilBy ecc (coresClose c s0 io) src) 0x40088 io.wb
  match io.ended with
  | some x =>
    let w := coreStop s1 c x
    ⟨w.st, match w.cmd with | .finished r => .finished { r with epoch := u.epoch } | y => y⟩
  | none =>
    let n := u.t * u.k
    let s2 := gateTickets s1 u o.gates
    let s3 := if array && !pbBad k then fillCounts s2 c u.t (pbD k) (pbE k) 2048 else s2
    let s4 := countC (countC (countC s3 0x400A0 n) 0x400A8 o.nanRows) 0x400B0 o.wide
    let s5 := ctxCount (pmcEvent s4 0x028 none (some c.ctx) (some c.cls) n) c.ctx 0 n
    doneWith s5 0 0 n u.epoch

/-- Reserves the tickets of an open use and runs, or waits for them (R197, R198); without the slots of its cores and of the
tickets' banks it stands. -/
def selReserve (ecc : SramEcc) (c : Cmd) (s : State) (u : Use) : Work :=
  let n := u.t * u.k
  if !reserveOk s c n then ⟨setCmd s { c with ecc := ecc }, .waitTicket n⟩
  else withSlots (reserveSlots s c n) c s fun _ =>
    let (b, s1) := takeRange s n
    let u1 := { u with base := b }
    let s2 := selectTickets (putUse s1 u1) u1
    selRun ecc c (pmcEvent s2 0x038 none (some c.ctx) (some c.cls) n) u1

/-- Opens the use of a selection instruction once an earlier use of its batch ID has ended, or waits for a batch-table entry
(R193). -/
def selOpen (ecc : SramEcc) (c : Cmd) (s : State) : Work :=
  let s0 := reuseEnd c s
  if reuseOpen c s0 then ⟨s0, .stopped⟩
  else match openUse c s0 with
    | (s1, none) => ⟨setCmd s1 { c with ecc := ecc }, .waitTicket 0⟩
    | (s1, some u) =>
      let c1 := { c with saved := c.saved.set 5 1 }
      selReserve ecc c1 (setCmd s1 c1) u

/-- The reads of a selection instruction at issue (R125, R133, R165), then its use (R192). -/
def selStart (ecc : SramEcc) (c : Cmd) (s : State) : Work := withSlots (slotsOk s c) c s fun _ =>
  let k := ctx s c.ctx
  let (p, io) := (do
    let a ← readStruct c.a
    let b ← readStruct c.b
    pure (a, b) : Mio (Nat × Nat)) (ioStart s)
  let s1 := coreIo c.cores s io
  match io.stop with
  | some e => coreStop s1 c e
  | none =>
    let c1 := { c with saved := selSaved p.1 p.2 (if c.opc = 0x12 then none else k.cur) k }
    if ringSize < selT c1 * pbK k then doneWith s1 stIllegal 0x12 0 0
    else selOpen ecc c1 (setCmd s1 c1)

/-- A selection instruction at its issue, with the checks of R137, R247 and R197, or where it stood for want of slots. -/
def selWork (ecc : SramEcc) (c : Cmd) (s : State) : Work :=
  let hash := c.opc == 0x12
  if c.resumes && !c.saved.isEmpty then
    if nth c.saved 5 = 0 then selOpen ecc c s
    else match liveUse s c.ctx c.batch with
      | none => doneWith s stCancelled 0x04 0 0
      | some u => selReserve ecc c s u
  else if hash != (pbRoute (ctx s c.ctx) == 3) then doneWith s stIllegal 0x11 0 0
  else if !hash && !tablesOk s then doneWith s stEcc 0x14 0 0
  else selStart ecc c s

/-! ## Meanings -/

/-- SCORE -/
def execScore (q tag : Nat) (ecc : SramEcc) (s : State) : Host.Outcome State Fault Refusal :=
  .next (working (issueRow (isOp 0x10) q tag (selWork ecc)) s)

/-- SCOREV -/
def execScorev (q tag : Nat) (ecc : SramEcc) (s : State) : Host.Outcome State Fault Refusal :=
  .next (working (issueRow (isOp 0x11) q tag (selWork ecc)) s)

/-- HASHSEL -/
def execHashsel (q tag : Nat) (s : State) : Host.Outcome State Fault Refusal :=
  .next (working (issueRow (isOp 0x12) q tag (selWork {})) s)

/-- CTXLOAD_LOAD -/
def execCtxloadLoad (q tag : Nat) (s : State) : Host.Outcome State Fault Refusal :=
  .next (working (issueRow (isSub 0x0A 0 [0, 1, 2]) q tag (ctxloadWork loadWeights)) s)

/-- CTXLOAD_SWAP -/
def execCtxloadSwap (q tag : Nat) (s : State) : Host.Outcome State Fault Refusal :=
  .next (working (issueRow (isSub 0x0A 1 [0, 1, 2]) q tag (ctxloadWork swapWeights)) s)

/-- CTXLOAD_RELEASE -/
def execCtxloadRelease (q tag : Nat) (s : State) : Host.Outcome State Fault Refusal :=
  .next (working (issueRow (isSub 0x0A 2 [0, 1, 2]) q tag (ctxloadWork releaseWeights)) s)

end Sys2Proof.Machine
end

