-- ==== Sys2Proof/Machine/Plan.lean ====
section
/-! DEFINITION. COUNT (R149 to R152, R409) and PLAN (R154 to R163, R177, R212). -/

namespace Sys2Proof.Machine

/-! ## Step counters of a placed context (R152, R329) -/

/-- Adds to a 32-bit step counter, which saturates. -/
def bump32 (l : List (Nat × Nat)) (e n : Nat) : List (Nat × Nat) :=
  sput (fun _ => 0) l e (min (slook (fun _ => 0) l e + n) 0xFFFFFFFF)

/-- Adds to the step counters of a context and to the watched counters: SEL, KEPT or DROP by `which` 0, 1, 2. -/
def stepAdd (s : State) (cx which e n : Nat) : State :=
  let s1 := xcntAdd s cx e which n
  match placedSlot s1 cx with
  | none => s1
  | some i =>
    let p := pslot s1 i
    setPslot s1 i (match which with
      | 0 => { p with sel := bump32 p.sel e n }
      | 1 => { p with kept := bump32 p.kept e n }
      | _ => { p with drop := bump32 p.drop e n })

/-! ## Records of the selection area -/

/-- The entries of the selection area at `a`, token by token in choice order (R135). -/
def readRecords (a T k : Nat) : Mio (List Nat) := do
  let rows ← (List.range T).mapM (fun t => do
    let b ← ioRead false ((a + 64 + 64 * t) % 2 ^ 42) (4 * k)
    pure (codesOf 1 b 0 k))
  pure rows.flatten

/-- EXPERT of a record entry. -/
def recExpert (w : Nat) : Nat := bits w 0 12

/-- The replica slot of an assignment: the replica of the expert that the member owns, else the hashed one (R150). -/
def replicaSlot (map : List RSlot) (m gidx lseed e : Nat) : Option Nat :=
  let mine := (indexed map).filter (fun p => p.1.expert == e)
  match mine.find? (fun p => p.1.owner == m) with
  | some p => some p.2
  | none => (mine[mix64 (gidx ^^^ lseed) % max 1 mine.length]?).map (·.2)

/-! ## COUNT -/

/-- The replica slots of every assignment; none for an entry whose EXPERT is at or above EXPERTS (R151). -/
def assignSlots (map : List RSlot) (m tbase lseed E k : Nat) (recs : List Nat) : List (Option Nat) :=
  (indexed recs).map (fun p =>
    if E ≤ recExpert p.1 then none else replicaSlot map m (tbase + p.2 / max 1 k) lseed (recExpert p.1))

/-- The histogram of Table 06.6. -/
def histogram (T k eLive : Nat) (slots : List (Option Nat)) : List Nat :=
  [T] ++ List.replicate 15 0 ++
  (List.range (k * eLive)).map (fun i =>
    ((indexed slots).filter (fun p => p.1 == some (i / max 1 k) && p.2 % max 1 k == i % max 1 k)).length)

/-- COUNT writes SLOT in the tickets of the use's forward range (Table 08.2). -/
def slotTickets (s : State) (u : Use) (slots : List (Option Nat)) : State :=
  if u.backward then s
  else (indexed slots).foldl (fun v p =>
    match p.1 with
    | none => v
    | some r =>
      let n := (u.base + p.2) % ringSize
      if (ticket v n).bentry = u.slot then setTicket v n { ticket v n with slot := r } else v) s

/-- The group condition of COUNT and PLAN (R409). -/
def inCtxGroup (s : State) (cx : Nat) : Bool := inGroup s (pbGroup (ctx s cx))

/-- The result of COUNT once the area is read. -/
def countDone (c : Cmd) (s : State) (u : Use) (map : List RSlot) (pepoch m : Nat) (recs : List Nat) : Work :=
  let k := ctx s c.ctx
  let slots := assignSlots map m u.tbase (pbLayerSeed k) (pbE k) u.k recs
  let bad := (indexed slots).filterMap (fun p => if p.1.isNone then some p.2 else none)
  let hist := histogram u.t u.k map.length slots
  let free := pbBad k
  let ((), io) := (if free then modify (fun io => { io with mem := wrFree io.mem (opAddr c.b) (4 * hist.length) })
    else ioWrite false (opAddr c.b) (bytesOf 1 hist) : Mio Unit) (ioStart s)
  let s1 := coreIo c.cores s io
  match io.stop with
  | some (.mp code) => doneWith (mpFault s1 c.ctx c.q code) stEcc code 0 u.epoch
  | _ =>
    let s2 := putUse s1 { u with counted := true, map := map, pepoch := pepoch, uncounted := bad, lseed := pbLayerSeed k,
                                 experts := pbE k, area := opAddr c.a }
    let s3 := slotTickets s2 u slots
    let s4 := (indexed recs).foldl (fun v p =>
      if bad.contains p.2 then v else stepAdd v c.ctx 0 (recExpert p.1) 1) s3
    doneWith s4 0 (bad.length % 2 ^ 24) (recs.length - bad.length) u.epoch

/-- The slots that COUNT needs: those of the cores at the memory ports, and at the banks of the tickets that it writes. -/
def countSlots (s : State) (c : Cmd) (u : Use) : Bool :=
  slotsOk s c && (u.backward || coresHoldBanks s c.cores u.base (u.t * u.k))

/-- COUNT (R151, R409). -/
def countWork (c : Cmd) (s : State) : Work :=
  let g := pbGroup (ctx s c.ctx)
  if !inCtxGroup s c.ctx then doneWith s stIllegal 0x15 0 0
  else match liveUse s c.ctx c.batch with
  | none => doneWith s stCancelled 0x04 0 0
  | some u => withSlots (countSlots s c u) c s fun _ =>
    match mapOf s c.ctx with
    | (s1, .unmapped) => doneWith s1 stUnreach 0x01 0 u.epoch
    | (s1, .mp code) => doneWith (mpFault s1 c.ctx c.q code) stEcc code 0 u.epoch
    | (s1, .ok (map, pe)) =>
      let (recs, io) := readRecords (opAddr c.a) u.t u.k (ioStart s1)
      let s2 := coreIo c.cores s1 io
      match io.stop with
      | some (.mp code) => doneWith (mpFault s2 c.ctx c.q code) stEcc code 0 u.epoch
      | _ => countDone c s2 u map pe (grp s g).midx recs

/-! ## PLAN: capacity and positions (R154, R155) -/

/-- What PLAN samples at its issue beside its draft: CAP_FACTOR, CAP_MAX, and the words of the scanned area. -/
structure PlanIn where
  cf : Nat
  cmax : Nat
  words : List Nat

/-- The sampled values as a command saves them while it waits for a buffer. -/
def PlanIn.save (x : PlanIn) (taken : List Buf) : List Nat :=
  let l := [x.cf, x.cmax] ++ x.words
  (l.length :: l) ++ taken.map bufCode

/-- The sampled values that a waiting command saved. -/
def planInOf (saved : List Nat) : PlanIn :=
  let l := (saved.drop 1).take (nth saved 0)
  { cf := nth l 0, cmax := nth l 1, words := l.drop 2 }

/-- LOWER of element `i` (R153). -/
def PlanIn.low (x : PlanIn) (i : Nat) : Nat := nth x.words i % 2 ^ 32
/-- TOTAL of element `i`. -/
def PlanIn.tot (x : PlanIn) (i : Nat) : Nat := nth x.words i / 2 ^ 32

/-- The capacity before CAP_MAX; without a live replica the quotient of R154 has no value (log entry 29). -/
def capOf (x : PlanIn) (k eLive draw : Nat) : Nat :=
  if x.cf = 0 then x.tot 0
  else if eLive = 0 then (Config.freeWord draw).toNat % 2 ^ 32
  else ceilDiv (x.cf * x.tot 0 * k) (16 * eLive)

/-- The capacity C (R154). -/
def capMin (x : PlanIn) (c0 : Nat) : Nat := if x.cmax = 0 then c0 else min c0 x.cmax

/-- start[r][j] (R155). -/
def startOf (x : PlanIn) (k r j : Nat) : Nat :=
  sumNat ((List.range j).map (fun i => x.tot (16 + k * r + i))) + x.low (16 + k * r + j)

/-- rows[r] (R155). -/
def rowsOf (x : PlanIn) (k C r : Nat) : Nat := min C (sumNat ((List.range k).map (fun i => x.tot (16 + k * r + i))))

/-- An assignment as PLAN orders it: its number, replica slot and gate. -/
structure Asg where
  i : Nat
  slot : Option Nat
  gate : Nat

/-- Assignment `b` precedes `a` under keys 3 and 4 of R155, with the same slot and choice. -/
def precedes (k : Nat) (b a : Asg) : Bool :=
  b.slot == a.slot && b.i % max 1 k == a.i % max 1 k && b.i != a.i &&
  (let gb := decodeF .b16 b.gate
   let ga := decodeF .b16 a.gate
   ranksAbove gb ga || (!ranksAbove ga gb && decide (b.i < a.i)))

/-- The position of every assignment; none for an entry that COUNT did not count. -/
def positions (x : PlanIn) (k : Nat) (asg : List Asg) : List (Option Nat) :=
  asg.map (fun a => match a.slot with
    | none => none
    | some r => some (startOf x k r (a.i % max 1 k) + (asg.filter (fun b => precedes k b a)).length))

/-- The fate of every assignment: its destination row when it is kept. -/
def fates (C : Nat) (pos : List (Option Nat)) : List (Option Nat) :=
  pos.map (fun p => match p with | some n => if n < C then some n else none | none => none)

/-- The replica slots of a use's assignments from its tickets (R150). -/
def slotsOf (s : State) (u : Use) : List (Option Nat) :=
  (List.range (u.t * u.k)).map (fun i =>
    if u.uncounted.contains i then none else some (ticket s ((u.base + i) % ringSize)).slot)

/-- The assignments of a use with their replica slots (R155). -/
def asgOf (u : Use) (slots : List (Option Nat)) : List Asg :=
  (indexed slots).map (fun p => { i := p.2, slot := p.1, gate := nth u.gates p.2 })

/-! ## PLAN: buffers and records (R158 to R162) -/

/-- The row stride of a row format (R158). -/
def strideOf (fmt D : Nat) : Nat :=
  match fmt with
  | 1 => roundUp (ceilDiv D 32 * 33) 64
  | 2 => roundUp (4 * D) 64
  | _ => roundUp (2 * D) 64

/-- The row format of PLAN's SUBOP (R158, R202, R300). -/
def planFmt (s : State) (c : Cmd) : Nat :=
  if c.subop = 1 then (if c.level = 2 ∨ minVer1 s then 0 else 1) else if c.subop = 2 then 2 else 0

/-- The replica slots that the member owns, ascending. -/
def ownSlots (map : List RSlot) (m : Nat) : List Nat :=
  (indexed map).filterMap (fun p => if p.1.owner = m then some p.2 else none)

/-- What the allocation of the receive buffers answers. -/
inductive BufsRes where
  | ok (l : List Buf)
  | fail (status detail : Nat) (l : List Buf)
  | wait (shed : Nat) (l : List Buf)

/-- Allocates the receive buffers that are still missing, in ascending slot order (R158, R260); the first of them may
already wait at a bank. -/
def takeBufs (r : Nat → AllocReq) (at_ : Option Nat) : List Nat → List Buf → State → State × BufsRes
  | [], l, s => (s, .ok l)
  | n :: rest, l, s =>
    match allocBuf { r n with at_ := at_ } s with
    | (s1, .got b) => takeBufs r none rest (l ++ [b]) s1
    | (s1, .fail st d) => (s1, .fail st d l)
    | (s1, .area code) => (s1, .fail stEcc code l)
    | (s1, .wait i) => (s1, .wait i l)

/-- Gives buffers to the slots that have rows, in order. -/
def placeBufs : List (Nat × Nat) → List Buf → List Shape
  | [], _ => []
  | (n, rows) :: r, l =>
    if rows = 0 then ⟨n, 0, none⟩ :: placeBufs r l
    else match l with
      | [] => ⟨n, rows, none⟩ :: placeBufs r []
      | b :: bs => ⟨n, rows, some b⟩ :: placeBufs r bs

/-- A shape record: its first three words and its last (Table 06.7). -/
def shapeBytes (s : State) (u : Use) (map : List RSlot) (C : Nat) (x : Shape) : List Byte × List Byte :=
  let e := (map[x.slot]?).getD {}
  let key := u.batch * 2 ^ 48 + u.epoch * 2 ^ 32
  let sh := match x.buf with | none => 0xF | some b => b.shed
  (leBytes 8 (key + e.replica * 2 ^ 12 + e.expert) ++ leBytes 8 (C % 2 ^ 32 * 2 ^ 32 + x.rows % 2 ^ 32) ++
     leBytes 8 (match x.buf with | none => 0 | some b => bufDomain s b),
   leBytes 8 (key + sh * 2 ^ 8 + 1))

/-- Removes the plan entry of a use (R177). -/
def evictPlan (s : State) (u : Use) : State :=
  match u.plan with
  | none => s
  | some p => putUse (releasePlan s u.ctx p) { u with plan := none }

/-- The draft of PLAN `c`. -/
def draftOf (u : Use) (c : Cmd) : Option Plan := (u.drafts.find? (fun d => d.1 == c.q && d.2.1 == c.tag)).map (·.2.2)

/-- The drafts of other PLANs of the use. -/
def otherDrafts (u : Use) (c : Cmd) : List (Nat × Nat × Plan) := u.drafts.filter (fun d => !(d.1 == c.q && d.2.1 == c.tag))

/-- Buffers of a use that an instruction gives back are released, or with the use where their banks give owner `code` no
slots (R107, R259). -/
def giveBack (s : State) (u : Use) (l : List Buf) (code : Nat) : State × Use :=
  if canReleaseAll s l code then (releaseBufs s u.ctx l, u) else (s, { u with loose := u.loose ++ l })

/-- PLAN fails: the buffers taken are released, the entry of the use is removed, and the position area holds free values
(R160, R163, R177). -/
def planFailed (s : State) (c : Cmd) (u : Use) (l : List Buf) (status detail : Nat) : Work :=
  let (s0, u0) := giveBack s u l (0x10 + c.cls)
  let s1 := evictPlan s0 u
  let s2 := putUse s1 { u0 with plan := none, drafts := otherDrafts u c, planFail := some (status, detail) }
  let s3 := if absent c.c then s2 else setMem s2 (wrFree s2.mem (opAddr c.c) (4 * (u.t * u.k)))
  doneWith s3 status detail 0 u.epoch

/-- PLAN ends with an MP error: the entry of the use is removed as for a failed one, and what it holds under R10 and R211
ends with it, for it has completed (R9, R177, log entry 131). -/
def planError (s : State) (c : Cmd) (u : Use) (code : Nat) : Work :=
  let s1 := evictPlan s u
  doneWith (mpFault (putUse s1 { u with plan := none, drafts := otherDrafts u c, planFail := some (stEcc, code) }) c.ctx c.q code)
    stEcc code 0 u.epoch

/-- The ticket marks of PLAN (Table 08.2). -/
def planTickets (s : State) (u : Use) (fate : List (Option Nat)) : State :=
  (indexed fate).foldl (fun v p =>
    let n := (u.base + p.2) % ringSize
    let lead := p.2 % max 1 u.k == 0
    let tk := { ticket v n with bentry := u.slot, lrow := p.2 / max 1 u.k, choice := p.2 % max 1 u.k }
    let tok := (fate.drop (p.2 / max 1 u.k * u.k)).take u.k
    let pend := if lead then (tok.filter Option.isSome).length else 0
    setTicket v n { tk with st := if p.1.isSome then 2 else if lead then 3 else 0, pend := pend }) s

/-- Adds the kept and dropped assignments to the counters of their experts (R152). -/
def fateCounts (s : State) (c : Cmd) (map : List RSlot) (asg : List Asg) (fate : List (Option Nat)) : State :=
  (asg.zip fate).foldl (fun v p =>
    match p.1.slot with
    | none => v
    | some r => stepAdd v c.ctx (if p.2.isSome then 1 else 2) ((map[r]?).getD {}).expert 1) s

/-- PLAN completes with OK or OK_DROPS (R162, R177). Its holds end with this report of its unit, before its completion record
is written (R9, log entry 131). -/
def planDone (c : Cmd) (s : State) (u : Use) (x : PlanIn) (lowered : Bool) (asg : List Asg)
    (fate : List (Option Nat)) (p : Plan) : Work :=
  let kept := (fate.filter Option.isSome).length
  let drops := fate.length - kept
  let s1 := match u.plan with
    | none => s
    | some old => countC (releasePlan s u.ctx old) 0x60080 1
  let u1 := { u with plan := some p, drafts := otherDrafts u c, planFail := none, kept := fate.map Option.isSome }
  let s2 := planTickets (putUse s1 u1) u1 fate
  let s3 := fateCounts s2 c p.map asg fate
  let s4 := countC (countC s3 0x60100 drops) 0x60108 kept
  let mism := decide (x.low 0 ≠ u.tbase)
  let s5 := if mism then countC s4 0x60110 1 else s4
  let s6 := csrPut s5 0x60118 (x.tot 0 % 2 ^ 32 * 2 ^ 32 + p.cap % 2 ^ 32)
  let s7 := ctxCount (ctxCount s6 c.ctx 1 kept) c.ctx 2 drops
  let s8 := pmcEvent (pmcEvent s7 0x029 none (some c.ctx) (some c.cls) kept) 0x02A none (some c.ctx) (some c.cls) drops
  let detail := p.shapes.length % 2 ^ 16 + b2n mism * 2 ^ 16 + b2n lowered * 2 ^ 17
  doneWith s8 (if drops = 0 then 0 else stOkDrops) detail drops u.epoch

/-- The position words of PLAN (R160). -/
def posWords (fate : List (Option Nat)) : List Nat := fate.map (fun p => (p.getD 0xFFFFFFFF) % 2 ^ 32)

/-- PLAN writes its position area and shape records (R160, R161). -/
def planWrites (s : State) (c : Cmd) (u : Use) (map : List RSlot) (C : Nat) (fate : List (Option Nat)) (shapes : List Shape) :
    Mio Unit := do
  if absent c.c then pure () else ioWrite false (opAddr c.c) (bytesOf 1 (posWords fate))
  let recs := indexed (shapes.map (shapeBytes s u map C))
  recs.forM (fun p => ioWrite false ((opAddr c.b + 32 * p.2) % 2 ^ 42) p.1.1)
  recs.forM (fun p => ioWrite false ((opAddr c.b + 32 * p.2 + 24) % 2 ^ 42) p.1.2)

/-- The slots that PLAN needs: those of the Yard, and those of the banks of the tickets that it marks. -/
def planSlots (s : State) (c : Cmd) (u : Use) : Bool :=
  slotsOk s c && holdsBanks s u.base (u.t * u.k) (0x10 + c.cls)

/-- PLAN from its draft, its sampled values and the buffers already taken. -/
def planGo (c : Cmd) (s : State) (u : Use) (p0 : Plan) (x : PlanIn) (taken : List Buf) : Work :=
  let eLive := p0.map.length
  let c0 := capOf x u.k eLive s.draws
  let s0 := if x.cf ≠ 0 ∧ eLive = 0 then { s with draws := s.draws + 1 } else s
  let C := capMin x c0
  let asg := asgOf u p0.slots
  let fate := fates C (positions x u.k asg)
  let own := (ownSlots p0.map p0.midx).map (fun n => (n, rowsOf x u.k C n))
  let need := ((own.filter (fun p => p.2 != 0)).map (·.2)).drop taken.length
  let S := strideOf p0.fmt u.d
  match takeBufs (fun rows => allocReq s0 c (rows * S) true none) c.bank need taken s0 with
  | (s1, .wait i l) => ⟨setCmd s1 { c with saved := x.save l }, .waitShed i c.qcls⟩
  | (s1, .fail st d l) => planFailed s1 c u l st d
  | (s1, .ok l) =>
    let shapes := placeBufs own l
    let total := sumNat (own.map (·.2))
    match takeOrig s1 total with
    | none => planFailed s1 c u l stExhausted (2 ^ 24 + c.qcls * 2 ^ 16)
    | some (ob, s2) =>
      let ((), io) := planWrites s2 c u p0.map C fate shapes (ioStart s2)
      let s3 := ioClose s2 (0x10 + c.cls) (0x14 + c.cls) io
      match io.stop with
      | some (.mp code) => planError (freeOrig (releaseBufs s3 c.ctx l) ob total) c u code
      | _ =>
        planDone c s3 u x (decide (x.cmax ≠ 0 ∧ x.cmax < c0)) asg fate
          { p0 with cap := C, pos := if absent c.c then none else some (opAddr c.c),
                    posw := if absent c.c then [] else posWords fate,
                    shapes := shapes, origBase := ob, origLen := total }

/-- What the plan entry takes at PLAN's issue (R158, R177, R409), with the selection records as they then stand. -/
def planDraft (c : Cmd) (s : State) (u : Use) : Plan :=
  let g := pbGroup (ctx s c.ctx)
  { scan := opAddr c.a, midx := (grp s g).midx, p := boxCount (grpBox s g), fmt := planFmt s c, map := u.map,
    slots := slotsOf s u, lseed := u.lseed, experts := u.experts,
    recs := ((List.range u.t).map (fun t =>
      codesOf 1 (rdBytes s.mem ((u.area + 64 + 64 * t) % 2 ^ 42) (4 * u.k)) 0 u.k)).flatten }

/-- PLAN at its issue. -/
def planStart (c : Cmd) (s : State) (u : Use) : Work :=
  let k := ctx s c.ctx
  let n := 16 + u.map.length * u.k
  let p0 := planDraft c s u
  let u1 := { u with drafts := otherDrafts u c ++ [(c.q, c.tag, p0)] }
  let (raw, io) := ioRead false (opAddr c.a) (8 * n) (ioStart s)
  let s1 := ioClose s (0x10 + c.cls) (0x14 + c.cls) io
  match io.stop with
  | some (.mp code) => planError s1 c u code
  | _ => planGo c (putUse s1 u1) u1 p0 { cf := pbCapFactor k, cmax := pbCapMax k, words := codesOf 8 raw 0 n } []

/-- The SECDED outcome of the ticket records that PLAN marks (R225): a double-bit error ends the use that the record
names. -/
def planEcc (ecc : Ecc) (s : State) (u : Use) : State :=
  match ecc with
  | .none => s
  | .corrected => ticketCe s
  | .double r => if r then ticketUe s u else ticketLost s

/-- PLAN at its issue, with its slots. -/
def planBegin (ecc : Ecc) (c : Cmd) (s : State) (u : Use) : Work :=
  match ecc with
  | .double true => doneWith (ticketUe s u) stEcc 0x12 0 u.epoch
  | e => planStart c (planEcc e s u) u

/-- PLAN goes on from where it stood for want of slots, or when its Shed serves it again (R261). -/
def planResume (ecc : Ecc) (c : Cmd) (s : State) (u : Use) : Work := withSlots (planSlots s c u) c s fun _ =>
  match draftOf u c with
  | some p0 => planGo c s u p0 (planInOf c.saved) (takenBufs c)
  | none => planBegin ecc c s u

/-- PLAN (R154 to R163, R177, R409). -/
def planWork (ecc : Ecc) (c : Cmd) (s : State) : Work :=
  if !c.resumes && !inCtxGroup s c.ctx then doneWith s stIllegal 0x15 0 0
  else match liveUse s c.ctx c.batch with
    | none => doneWith s stCancelled 0x04 0 0
    | some u =>
      if c.resumes then planResume ecc c s u
      else if !u.counted then doneWith s stIllegal 0x1A 0 0
      else if u.backward || u.sendIssued then doneWith s stIllegal 0x13 0 0
      else withSlots (planSlots s c u) c s fun _ => planBegin ecc c s u

/-! ## Meanings -/

/-- COUNT -/
def execCount (q tag : Nat) (s : State) : Host.Outcome State Fault Refusal :=
  .next (working (issueRow (isOp 0x18) q tag countWork) s)

/-- PLAN -/
def execPlan (q tag : Nat) (ecc : Ecc) (s : State) : Host.Outcome State Fault Refusal :=
  .next (working (issueRow (isOp 0x19) q tag (planWork ecc)) s)

end Sys2Proof.Machine
end

