-- ==== Sys2Proof/Machine/Wq.lean ====
section
/-! DEFINITION. The four work queues (R203 to R208): head, spill ring and tail of each class, the reader's held item,
refill and reset. -/

namespace Sys2Proof.Machine

/-! ## Queues -/

/-- Queue `w`. -/
def wq (s : State) (w : Nat) : WorkQ := (s.disp.wqs[w]?).getD {}
/-- Replaces queue `w`. -/
def setWq (s : State) (w : Nat) (x : WorkQ) : State := { s with disp := { s.disp with wqs := s.disp.wqs.set w x } }
/-- Class `c` of a queue. -/
def WorkQ.at (x : WorkQ) (c : Nat) : WqClass := (x.cls[c]?).getD {}
/-- A queue with class `c` replaced. -/
def WorkQ.put (x : WorkQ) (c : Nat) (k : WqClass) : WorkQ := { x with cls := x.cls.set c k }

/-- The queue has a spill region (R205). -/
def spillOn (s : State) (w : Nat) : Bool := csrField s (0x80100 + 0x20 * w) 6 36 != 0
/-- Entries of a class ring. -/
def spillSize (s : State) (w : Nat) : Nat := 2 ^ clampN 8 20 (csrField s (0x80108 + 0x20 * w) 0 5)
/-- Address of entry `i` of the ring of class `c`. -/
def spillAt (s : State) (w c i : Nat) : Nat :=
  (csrField s (0x80100 + 0x20 * w) 6 36 * 64 + c * 32 * spillSize s w + 32 * (i % spillSize s w)) % 2 ^ 42

/-- CLASS of an item (Table 08.3, Table 08.4). -/
def Item.cls (it : Item) : Nat := bits it.w1 12 2
/-- Context of an item. -/
def Item.ctx (it : Item) : Nat := bits it.w0 2 14

/-- With an empty spill ring, the head takes entries from the tail (R205). -/
def WqClass.flow (k : WqClass) : WqClass :=
  if k.spill.isEmpty then
    let n := 16 - k.head.length
    { k with head := k.head ++ k.tail.take n, tail := k.tail.drop n }
  else k

/-- The items of a class, oldest first. -/
def WqClass.all (k : WqClass) : List Item := k.head ++ k.spill ++ k.tail

/-- The bytes of an item in the spill ring: its three words; the check bits after them are not given (log entry 30). -/
def itemBytes (it : Item) : List Byte := leBytes 8 it.w0 ++ leBytes 8 it.w1 ++ leBytes 8 it.w2

/-- A corrected item word. -/
def itemCe (s : State) (w : Nat) : State := ceOne (countF s (0x80118 + 0x20 * w) 0 32 1)

/-- A double-bit error discards the item; where word 0 was readable its use ends (R207, Table 16.7). -/
def itemUe (s : State) (w : Nat) (it : Item) (readable : Bool) : State :=
  let s1 := raiseFault (countF s (0x80118 + 0x20 * w) 32 32 1) 0x0206 2 5 it.ctx 0x13 w
  if readable then
    match matchUse s1 it.w0 with
    | none => s1
    | some u => endUse s1 u .wqError none
  else s1

/-- Moves the oldest tail entry of class `c` to the spill ring; an entry whose write is refused is lost like one with a
double-bit error (R33). -/
def spillOne (s : State) (w c : Nat) : State :=
  let x := wq s w
  let k := x.at c
  match k.tail with
  | [] => s
  | it :: rest =>
    let i := nth x.spillWr c
    let a := spillAt s w c i
    let (m, bad) := wrTry s.mem a (itemBytes it)
    if bad then
      itemUe (mpFault (freeHold (setWq (setMem s m) w (x.put c ({ k with tail := rest } : WqClass))) it.hold) it.ctx 0 3) w it
        true
    else
    let m1 := wrFree m (a + 24) 8
    let x1 : WorkQ := { x with spillWr := x.spillWr.set c ((i + 1) % 2 ^ 32) }
    let s1 := setWq (setMem s m1) w (x1.put c { k with spill := k.spill ++ [it], tail := rest })
    mpCount (pmcEvent s1 0x041 (some w) (some it.ctx) (some c) 1) (0x20 + w) 0 32

/-- Class `c` of queue `w` can take an item (R205). -/
def wqRoom (s : State) (w c : Nat) : Bool :=
  let k := (wq s w).at c
  !(wq s w).busy &&
  (decide (k.tail.length < 16) || (spillOn s w && decide (k.spill.length < spillSize s w) && holdsMp s (0x20 + w)))

/-- Writes an item; the caller has checked `wqRoom`. -/
def wqPush (s : State) (w : Nat) (it : Item) : State :=
  let c := it.cls
  let s1 := if 16 ≤ ((wq s w).at c).tail.length then spillOne s w c else s
  let x := wq s1 w
  let k := x.at c
  let s2 := setWq s1 w (x.put c ({ k with tail := k.tail ++ [it] } : WqClass).flow)
  pmcEvent s2 0x040 (some w) (some it.ctx) (some c) 1

/-- Reads the oldest item of class `c`, whose ingress buffers fall free (R203): none where the class is empty, the item is still in the spill region, or the queue
is being reset (R204, R208). -/
def wqPop (s : State) (w c : Nat) : Option (Item × State) :=
  let x := wq s w
  let k := x.at c
  if x.busy then none
  else match k.head with
    | [] => none
    | it :: rest =>
      let s1 := setWq s w (x.put c ({ k with head := rest } : WqClass).flow)
      some (it, pmcEvent (freeHold s1 it.hold) 0x042 (some w) (some it.ctx) (some c) 1)

/-- The item that the reader of a queue holds in class `c`. -/
def wqHeld (s : State) (w c : Nat) : Option Item := ((wq s w).held.find? (fun p => p.1 == c)).map (·.2)

/-- The reader holds an item of class `c`. -/
def wqHold (s : State) (w c : Nat) (it : Item) : State :=
  setWq s w { wq s w with held := (wq s w).held.filter (fun p => p.1 != c) ++ [(c, it)] }

/-- The reader holds no item of class `c` any more. -/
def wqDrop (s : State) (w c : Nat) : State := setWq s w { wq s w with held := (wq s w).held.filter (fun p => p.1 != c) }

/-- TKT_WQ_OCC[w].ITEMS -/
def wqItems (s : State) (w : Nat) : Nat := sumNat ((wq s w).cls.map (fun k => k.all.length))

/-! ## Errors of items (R207) and discards (R195) -/

/-- The SECDED outcome of an item that is read: the state and whether the item is good. -/
def itemEcc (ecc : Ecc) (s : State) (w : Nat) (it : Item) : State × Bool :=
  match ecc with
  | .none => (s, true)
  | .corrected => (itemCe s w, true)
  | .double r => (itemUe s w it r, false)

/-- Discards a row or an item other than an answer (R195). -/
def dropStale (s : State) : State := pmcEvent (countC s 0x80208 1) 0x03B none none none 1

/-- Discards an answer (R195, R215, R223). -/
def dropAnswer (s : State) : State := pmcEvent (countC s 0x80210 1) 0x03C none none none 1

/-! ## Refill (R205) -/

/-- An item read back from the spill ring; its payload and source stayed on chip. -/
def spillRead (s : State) (w c i : Nat) (it : Item) : Item :=
  let a := spillAt s w c i
  { it with w0 := rdNum s.mem a 8, w1 := rdNum s.mem (a + 8) 8, w2 := rdNum s.mem (a + 16) 8 }

/-- WQ_REFILL: the oldest entry of the spill ring of a class moves to the head. An entry whose read meets an MP error is
lost like one whose word 0 is not readable (log entry 30). -/
def wqRefill (w c : Nat) (ecc : Ecc) (s : State) : State :=
  let x := wq s w
  let k := x.at c
  if x.busy || decide (16 ≤ k.head.length) || !holdsMp s (0x20 + w) then s
  else match k.spill with
    | [] => s
    | it :: rest =>
      let i := (nth x.spillWr c + 2 ^ 32 - k.spill.length) % 2 ^ 32
      let code := rdCode (mpLvl2 s) s.mem (spillAt s w c i) 32
      let got := spillRead s w c i it
      let s1 := mpCount (setWq s w (x.put c ({ k with spill := rest } : WqClass))) (0x20 + w) 64 0
      let (s2, ok) := if code ≠ 0 then (itemUe (mpFault (freeHold s1 it.hold) it.ctx 0 code) w it false, false)
        else itemEcc ecc s1 w got
      let s2 := if ok || code ≠ 0 then s2 else freeHold s2 it.hold
      let y := wq s2 w
      let k2 := y.at c
      setWq s2 w (y.put c ({ k2 with head := if ok then k2.head ++ [got] else k2.head } : WqClass).flow)

/-! ## Reset (R208) -/

/-- The uses that the items of a list name, live ones only. -/
def usesOf (s : State) (l : List Item) : List Use :=
  s.disp.uses.filter (fun u => u.ended.isNone && l.any (fun it => headWord u 0 == it.w0 / 4 * 4))

/-- Queue `w` is reset: its items are discarded, and their uses end. -/
def wqClear (s : State) (w : Nat) : State :=
  let x := wq s w
  let items := (x.cls.map WqClass.all).flatten
  let s1 := countC (items.foldl (fun u it => freeHold u it.hold) s) 0x80238 items.length
  let s2 := setWq s1 w { x with cls := [{}, {}, {}, {}], spillWr := [0, 0, 0, 0], busy := true, pend := false }
  (usesOf s items).foldl (fun v u => endUse v u .wqReset none) s2

/-- A write of REQ[w]. -/
def wqRequest (s : State) (w : Nat) : State :=
  if (wq s w).busy then setWq s w { wq s w with pend := true } else wqClear s w

/-- A write to TKT_WQ_RESET. -/
def writeWqReset (s : State) (v : Nat) : State :=
  (List.range 4).foldl (fun u w => if bit v w then wqRequest u w else u) s

/-- WQ_RESET_DONE: writer and reader resume, and a pending reset starts. -/
def wqResetDone (s : State) (w : Nat) : State :=
  let x := wq s w
  if !x.busy then s
  else if x.pend then wqClear s w
  else setWq s w { x with busy := false }

end Sys2Proof.Machine
end

