-- ==== Sys2Proof/Machine/Combine.lean ====
section
/-! DEFINITION. The combine unit (R216 to R221): combine buffers, the combine of a token, and COMBINE. -/

namespace Sys2Proof.Machine

/-! ## Combine buffers (R216) -/

/-- S16: bytes of an answer slot. -/
def cmbS16 (u : Use) : Nat := roundUp (2 * u.d) 64
/-- S64: bytes of a combined row. -/
def cmbS64 (u : Use) : Nat := roundUp (8 * u.d) 64
/-- Rg: bytes of a token region. -/
def cmbRg (u : Use) : Nat := u.k * cmbS16 u + cmbS64 u + 64
/-- Tb: tokens of a buffer. -/
def cmbTb (u : Use) : Nat := 67108864 / cmbRg u
/-- Buffers of the use. -/
def cmbBufs (u : Use) : Nat := ceilDiv u.t (cmbTb u)
/-- Bytes asked for buffer `i`. -/
def cmbBytes (u : Use) (i : Nat) : Nat := min (cmbTb u) (u.t - i * cmbTb u) * cmbRg u

/-- The use holds all its combine buffers. -/
def hasCbufs (u : Use) : Bool := decide (u.cbufs.length = cmbBufs u)

/-- Address of the region of token `t`. -/
def regionAt (s : State) (u : Use) (t : Nat) : Nat :=
  let b := (u.cbufs[t / max 1 (cmbTb u)]?).getD {}
  (bufAddr s b + t % max 1 (cmbTb u) * cmbRg u) % 2 ^ 42

/-- Address of answer slot `j` of token `t`. -/
def answerAt (s : State) (u : Use) (t j : Nat) : Nat := (regionAt s u t + j * cmbS16 u) % 2 ^ 42
/-- Address of the combined row of token `t`. -/
def rowAt (s : State) (u : Use) (t : Nat) : Nat := (regionAt s u t + u.k * cmbS16 u) % 2 ^ 42
/-- Address of the gate-gradient line of token `t`. -/
def gradAt (s : State) (u : Use) (t : Nat) : Nat := (regionAt s u t + u.k * cmbS16 u + cmbS64 u) % 2 ^ 42

/-! ## The combine of a token (R217) -/

/-- Assignment (t, j) is kept. -/
def isKept (u : Use) (t j : Nat) : Bool := u.kept.getD (t * u.k + j) false
/-- The kept choices of token `t`, ascending. -/
def keptOf (u : Use) (t : Nat) : List Nat := (List.range u.k).filter (isKept u t)
/-- The gate of assignment (t, j). -/
def gateOf (u : Use) (t j : Nat) : Nat := nth u.gates (t * u.k + j)

/-- One answer added to the accumulators of a token. -/
def addAnswer (fwd : Bool) (gate : FVal) (accs : List Pair) (xs : List FVal) : Num (List Pair) :=
  (accs.zip xs).mapM (fun p => do
    let x ← if fwd then fmul gate p.2 else pure p.2
    pairAdd p.1 x)

/-- The B16 values of an answer slot. -/
def readAnswer (s : State) (u : Use) (t j : Nat) : Mio (List FVal) := do
  let b ← ioRead false (answerAt s u t j) (2 * u.d)
  pure ((codesOf 0 b 0 u.d).map (decodeF .b16))

/-- The sum of a token's kept answers in ascending choice order. -/
def sumToken (s : State) (u : Use) (t : Nat) : Mio (List Pair) :=
  (keptOf u t).foldlM (fun accs j => do
    let xs ← readAnswer s u t j
    num (addAnswer (!u.backward) (decodeF .b16 (gateOf u t j)) accs xs)) (List.replicate u.d ({} : Pair))

/-- Reads the answers of a token, sums them, and writes its combined row. -/
def combineRow (s : State) (u : Use) (t : Nat) : Mio Unit := do
  let accs ← sumToken s u t
  ioWrite false (rowAt s u t) ((accs.map (fun p => leBytes 8 (pairCode p))).flatten)

/-- Releases the tickets of token `t` (Table 08.2). -/
def freeToken (s : State) (u : Use) (t : Nat) : State :=
  match curBase u with
  | none => s
  | some b => reclaim ((List.range u.k).foldl (fun v j => freeTicket v (ticketNo b u.k t j)) s)

/-- A token is combined, or abandoned where one of its accesses failed (R217). -/
def combineToken (s : State) (slot t : Nat) : State :=
  match useAt s slot with
  | none => s
  | some u =>
    let ((), io) := combineRow s u t (ioStart s)
    let s1 := ioClose s 0x18 0x18 io
    let (s2, cerr) := match io.stop with
      | some (.mp code) =>
        (mpFault (setMem s1 (wrFree s1.mem (rowAt s u t) (8 * u.d))) u.ctx 0 code, if u.cerr.isSome then u.cerr else some code)
      | _ => (s1, u.cerr)
    let s3 := putUse s2 { u with combined := u.combined ++ [t], cerr := cerr }
    pmcEvent (ctxCount (countC (freeToken s3 u t) 0x80230 1) u.ctx 5 1) 0x03A none (some u.ctx) (some u.cls) 1

/-- PEND of a token's lead ticket. -/
def leadPend (s : State) (u : Use) (t : Nat) : Nat :=
  match curBase u with
  | none => 0
  | some b => (ticket s (ticketNo b u.k t 0)).pend

/-- The combine unit has its slots for token `t`: at the memory ports, and at the banks of the token's tickets (R107). -/
def cmbSlots (s : State) (u : Use) (t : Nat) : Bool :=
  holdsMp s 0x18 && holdsBanks s (ticketNo ((curBase u).getD 0) u.k t 0) u.k 0x18

/-- Tokens of the use's phase may be combined: in the forward phase its combine buffers are allocated, in the backward phase
its first SORT has set PEND (R217). -/
def settleReady (u : Use) : Bool := u.ended.isNone && u.plan.isSome && hasCbufs u && (curBase u).isSome

/-- Combines every token whose PEND is 0 and that is not combined yet (R217); one without slots is left for later. -/
def settleTokens (s : State) (slot : Nat) : State :=
  match useAt s slot with
  | none => s
  | some u =>
    if settleReady u then (List.range u.t).foldl (fun v t =>
      if !u.combined.contains t && leadPend s u t == 0 && cmbSlots s u t then combineToken v slot t else v) s
    else s

/-! ## COMBINE (R218 to R220) -/

/-- The element type that COMBINE writes for a destination type (R218). -/
def cmbType (ety : Nat) : Nat :=
  if ety = 2 then 0 else if ety = 6 ∨ ety = 7 ∨ ety = 9 then 1 else ety

/-- Free codes, for the outputs of a context whose parameters are out of range (R101, log entry 29). -/
def freeCodes (n : Nat) : Mio (List Nat) := fun io =>
  ((List.range n).map (fun i => (Config.freeWord (io.mem.draws + i)).toNat),
   { io with mem := { io.mem with draws := io.mem.draws + n } })

/-- Writes the output rows in ascending order. -/
def combineRows (s : State) (c : Cmd) (u : Use) (d0 : Desc) : Mio Unit := do
  let d := { d0 with ety := cmbType d0.ety }
  (List.range u.t).forM (fun t => do
    let b ← ioRead false (rowAt s u t) (8 * u.d)
    let codes ← num (convSeg c.cvt 8 d.ety (codesOf 8 b 0 u.d))
    let out ← if pbBad (ctx s u.ctx) then freeCodes u.d else pure codes
    d.writeRow false t out)

/-- The applied gates of a token, or its gate gradients (R218, R219, R220). -/
def gateArea (s : State) (u : Use) (t : Nat) : Mio (List Byte) := do
  if u.backward then
    let b ← ioRead false (gradAt s u t) (4 * u.k)
    let l := codesOf 1 b 0 u.k
    pure (((List.range u.k).map (fun j => leBytes 4 (if isKept u t j then nth l j else 0))).flatten)
  else pure (((List.range u.k).map (fun j => leBytes 2 (if isKept u t j then gateOf u t j else 0))).flatten)

/-- Writes the gates or gate gradients to operand A, if it is there. -/
def combineGates (s : State) (c : Cmd) (u : Use) : Mio Unit := do
  if absent c.a then pure ()
  else
    let parts ← (List.range u.t).mapM (gateArea s u)
    let io ← get
    if pbBad (ctx s u.ctx) && io.stop.isNone then
      set { io with mem := wrFree io.mem (opAddr c.a) parts.flatten.length }
    else ioWrite false (opAddr c.a) parts.flatten

/-- The use in its backward phase (R218). Its counts of rows run on, so that a forward SEND that still executes keeps what it
waits for, and rows of members already in the phase count (R11, log entry 132). -/
def Use.toBackward (u : Use) : Use := { u with backward := true, sendDone := false, combined := [] }

/-- Dropped assignments of the use on this member. -/
def dropsOf (u : Use) : Nat := u.t * u.k - (u.kept.filter id).length

/-- END of a COMBINE that has executed (R219). -/
def combineEnd (s : State) (slot : Nat) (c : Cmd) : State :=
  if !bit c.subop 1 then s
  else match useAt s slot with
    | none => s
    | some u => if u.ended.isSome then s else endUse s u .combineEnd (some (c.q, c.tag))

/-- A COMBINE whose tokens are all combined: its writes, its phase change, its report and its END. -/
def combineGo (s : State) (u : Use) (c : Cmd) : State :=
  if bit c.subop 0 != u.backward then finish s c.q c.tag stIllegal 0x13 0 u.epoch
  else match u.cerr with
  | some code => combineEnd (finish (putUse s { u with cerr := none }) c.q c.tag stEcc code 0 u.epoch) u.slot c
  | none =>
    let d := descOf c.level (nth c.saved 1)
    let ((), io) := (do
      combineRows s c u d
      combineGates s c u : Mio Unit) (ioStart s)
    let s1 := ioClose s 0x18 0x18 io
    match io.stop with
    | some e =>
      match (stopWork s1 c e 0x0204 3) with
      | ⟨s2, .finished r⟩ => combineEnd (report s2 c.q c.tag { r with epoch := u.epoch }) u.slot c
      | ⟨s2, _⟩ => s2
    | none =>
      let s2 := if u.backward then s1 else putUse s1 u.toBackward
      let drops := dropsOf u
      combineEnd (finish s2 c.q c.tag (if drops = 0 then 0 else stOkDrops) (min drops 0xFFFFFFFF) u.t u.epoch) u.slot c

/-- A COMBINE of the use that waits for its tokens. -/
def waitsTokens (u : Use) (c : Cmd) : Bool := c.opc == 0x2A && c.st == .waitTokens && ofUse u c

/-- Every waiting COMBINE of a use whose tokens are all combined completes, in admission order. -/
def combineReady (s : State) (slot : Nat) : State :=
  match useAt s slot with
  | none => s
  | some u =>
    if u.ended.isNone && u.combined.length == u.t && holdsMp s 0x18 then
      (s.front.inflight.filter (waitsTokens u)).foldl (fun v c =>
        match useAt v slot with
        | none => v
        | some u1 => if u1.ended.isNone then combineGo v u1 c else v) s
    else s

/-- COMBINE at its issue. -/
def combineWork (c : Cmd) (s : State) : Work :=
  match liveUse s c.ctx c.batch with
  | none => doneWith s stCancelled 0x04 0 0
  | some u =>
    let g := pbGroup (ctx s c.ctx)
    if bit c.subop 0 != u.backward && !c.resumes then doneWith s stIllegal 0x13 0 0
    else if (grp s g).lost then doneWith s stMemberLost (lostDetail s g) 0 0
    else withSlots (slotsOk s c) c s fun _ =>
      let (raw, io) := readStruct c.b (ioStart s)
      let s1 := ioClose s 0x18 0x18 io
      match io.stop with
      | some (.mp code) => doneWith (mpFault s1 c.ctx c.q code) stEcc code 0 u.epoch
      | _ =>
        let c1 := { c with saved := [1, raw], st := .waitTokens }
        let s2 := setCmd s1 c1
        if u.combined.length = u.t then ⟨combineGo s2 u c1, .exec⟩ else ⟨s2, .waitTokens⟩

/-- Tokens and COMBINEs that found no slot of the combine unit go on once there are some (R107, log entry 12). -/
def settleAll (s : State) : State :=
  s.disp.uses.foldl (fun v u => if settleReady u then combineReady (settleTokens v u.slot) u.slot else v) s

/-! ## Meanings -/

/-- COMBINE_FORWARD -/
def execCombineForward (q tag : Nat) (s : State) : Host.Outcome State Fault Refusal :=
  .next (working (issueRow (fun c => c.opc == 0x2A && !bit c.subop 0) q tag combineWork) s)

/-- COMBINE_BACKWARD -/
def execCombineBackward (q tag : Nat) (s : State) : Host.Outcome State Fault Refusal :=
  .next (working (issueRow (fun c => c.opc == 0x2A && bit c.subop 0) q tag combineWork) s)

end Sys2Proof.Machine
end

