-- ==== Sys2Proof/Machine/Yard.lean ====
section
/-! DEFINITION. GATHER, SCATTER, COPY and XPOSE (chapter 07). -/

namespace Sys2Proof.Machine

/-! ## GATHER and SCATTER (R182 to R184) -/

/-- What a row-moving instruction counts: rows written, rows read as fill, rows not written. -/
structure RowCount where
  written : Nat := 0
  fills : Nat := 0
  drops : Nat := 0
  deriving DecidableEq, Repr

/-- Element `i` of an index list in order of its coordinates, as a signed 32-bit number; the list is read as I32. An index
is no staged data, and its granule counts once as memory traffic. -/
def readIndex (b : Desc) (i : Nat) : Mio Int := do
  let d := { b with ety := 9 }
  let n := max 1 (d.size 0)
  let io ← get
  let l ← d.readSeg (d.coords (i / n)) (i % n) 1
  modify (fun x => { x with inB := io.inB, slotR := io.slotR, rd := if i % n % 16 = 0 then x.rd else io.rd })
  pure (sext (nth l 0) 32)

/-- The number of elements of an index list. -/
def indexCount (b : Desc) : Nat := b.size 0 * b.rows

/-- One moved row: source row or fill, converted, of the destination's length. -/
def movedRow (k : Cvt) (a c : Desc) (t : Bool) (src : Option Nat) (n : Nat) : Mio (List Nat) := do
  let raw ← match src with
    | some r => a.readRow t r n
    | none => pure (List.replicate n a.fillCode)
  let bad ← ioStopped
  if bad then pure [] else num (convSeg k a.ety c.ety raw)

/-- One step of GATHER or SCATTER: the source row `x` or fill, to destination row `y` if it is one. The elements of a row
that has no destination are converted and counted like those of any other (R72, log entry 129). -/
def moveRow (k : Cvt) (a c : Desc) (ta tc : Bool) (x y : Option Nat) (n : RowCount) : Mio RowCount := do
  let codes ← movedRow k a c ta x (c.viewSize0 tc)
  let bad ← ioStopped
  if bad then pure n
  else
    let n1 := if x.isNone then { n with fills := n.fills + 1 } else n
    match y with
    | none => pure { n1 with drops := n1.drops + 1 }
    | some r => do
      c.writeRow tc r codes
      let bad2 ← ioStopped
      pure (if bad2 then n1 else { n1 with written := n1.written + 1 })

/-- An index as a row number below `rows`. -/
def asRow (x : Int) (rows : Nat) : Option Nat := if 0 ≤ x ∧ x < Int.ofNat rows then some x.toNat else none

/-- A list with its positions. -/
def withPos {α : Type} (l : List α) : List (Nat × α) := (List.range l.length).zip l

/-- The destination as it is written (R172). -/
def asDest (a c : Desc) : Desc := { c with ety := destType a.ety c.ety }

/-- The sequence units of GATHER and SCATTER in order (R176): index element `i` is read when its row is, and sees the
writes of the rows before it. Nothing is done after a stop (R191). -/
def overIndex (b : Desc) (f : Nat → Int → RowCount → Mio RowCount) : Mio RowCount := do
  ioStage
  (List.range (indexCount b)).foldlM (fun n i => do
    let x ← readIndex b i
    let bad ← ioStopped
    if bad then pure n else f i x n) {}

/-- GATHER's rows in sequence order (R182, R184). -/
def gatherRows (k : Cvt) (a b c0 : Desc) : Mio RowCount :=
  let c := asDest a c0
  overIndex b (fun i x => moveRow k a c a.xpi false (asRow x (a.viewRows a.xpi)) (if i < c.rows then some i else none))

/-- SCATTER's rows in sequence order (R183, R184). -/
def scatterRows (k : Cvt) (a b c0 : Desc) : Mio RowCount :=
  let c := asDest a c0
  overIndex b (fun i x => moveRow k a c false c.xpi (if i < a.rows then some i else none) (asRow x (c.viewRows c.xpi)))

/-- The end of a layout instruction's accesses, and the Yard's counts of its staging traffic. -/
def yardCounts (s : State) (c : Cmd) (io : Io) : State :=
  let s1 := yardRace (ioClose s (0x10 + c.cls) (0x14 + c.cls) io) c (io.foot.getD [])
  let s2 := countC (countC s1 0x60088 io.inB) 0x60090 io.outB
  pmcEvent (pmcEvent s2 0x030 none (some c.ctx) (some c.cls) io.slotR) 0x031 none (some c.ctx) (some c.cls) io.slotW

/-- Corrected single-bit errors of an instruction's staging words (R191). -/
def stagingCe (ecc : SramEcc) (s : State) : State := ceMany (countC s 0x60098 ecc.corrected) ecc.corrected

/-- The double-bit error that an instruction meets in staging (R191, log entry 24). -/
def stagingStrike (ecc : SramEcc) : Option (Nat × Stop) := ecc.double.map (fun x => (x.after, .sram 0x11))

/-- The end of a Yard instruction. -/
def yardEnd (c : Cmd) (s : State) (io : Io) (result : Nat) : Work :=
  match io.ended with
  | some e => stopWork s c e 0x0204 3
  | none => doneWith s 0 0 result 0

/-- GATHER. -/
def gatherWork (ecc : SramEcc) (c : Cmd) (s : State) : Work := withSlots (slotsOk s c) c s fun _ =>
  let s0 := stagingCe ecc s
  let (n, io) := (do
    let a ← readDesc c c.a
    let b ← readDesc c c.b
    let d ← readDesc c c.c
    gatherRows c.cvt a b d : Mio RowCount) { ioStart s0 with strike := stagingStrike ecc, foot := some [] }
  let s1 := yardCounts s0 c io
  let s2 := countC (countC (countC s1 0x60040 n.written) 0x60050 n.fills) 0x60058 n.drops
  yardEnd c s2 io n.written

/-- SCATTER. -/
def scatterWork (ecc : SramEcc) (c : Cmd) (s : State) : Work := withSlots (slotsOk s c) c s fun _ =>
  let s0 := stagingCe ecc s
  let (n, io) := (do
    let a ← readDesc c c.a
    let b ← readDesc c c.b
    let d ← readDesc c c.c
    scatterRows c.cvt a b d : Mio RowCount) { ioStart s0 with strike := stagingStrike ecc, foot := some [] }
  let s1 := yardCounts s0 c io
  let s2 := countC (countC (countC s1 0x60048 n.written) 0x60050 n.fills) 0x60058 n.drops
  yardEnd c s2 io n.written

/-! ## COPY and XPOSE (R185 to R189) -/

/-- A descriptor read as bytes (R189). -/
def Desc.asBytes (d : Desc) : Desc := { d with ety := 7, sizes := rowBytes d.ety (d.size 0) :: d.sizes.drop 1 }

/-- I4 or BX8. -/
def packedType (d : Desc) : Bool := d.ety == 5 || d.ety == 6

/-- The transpose of a list of rows of `n` elements. -/
def transposed (n : Nat) (m : List (List Nat)) : List (List Nat) :=
  (List.range n).map (fun j => m.map (fun r => nth r j))

/-- Outer coordinates (i2, …, i5) in ascending order, dimension 5 outermost. -/
def outerCoords (d : Desc) : List (List Nat) :=
  let n2 := d.size 2
  let n3 := d.size 3
  let n4 := d.size 4
  (List.range (n2 * n3 * n4 * d.size 5)).map (fun r => [r % n2, r / n2 % n3, r / n2 / n3 % n4, r / n2 / n3 / n4])

/-- Tile (a, b) of a descriptor: first i1, rows, first i0, columns, clipped at its sizes (R186). -/
def tileBox (d : Desc) (a b : Nat) : Nat × Nat × Nat × Nat :=
  (64 * a, min 64 (d.size 1 - 64 * a), 64 * b, min 64 (d.size 0 - 64 * b))

/-- Reads rows `r0` to `r0 + nr - 1`, elements `c0` to `c0 + nc - 1`. -/
def readTile (d : Desc) (o : List Nat) (r0 nr c0 nc : Nat) : Mio (List (List Nat)) :=
  (List.range nr).mapM (fun r => d.readSeg ((r0 + r) :: o) c0 nc)

/-- Writes a tile. -/
def writeTile (d : Desc) (o : List Nat) (r0 c0 : Nat) (m : List (List Nat)) : Mio Unit :=
  (withPos m).forM (fun p => d.writeSeg ((r0 + p.1) :: o) c0 p.2)

/-- One destination tile: read wholly, converted, then written. -/
def copyTile (k : Cvt) (t : Bool) (src dst : Desc) (o : List Nat) (a b : Nat) : Mio Unit := do
  let (r0, nr, c0, nc) := tileBox dst a b
  let m ← if t then do
      let x ← readTile src o c0 nc r0 nr
      pure (transposed nr x)
    else readTile src o r0 nr c0 nc
  let bad ← ioStopped
  if bad then pure ()
  else do
    let y ← num (m.mapM (convSeg k src.ety dst.ety))
    writeTile dst o r0 c0 y

/-- The tiles of one outer coordinate: ascending a, then ascending b. -/
def tilesOf (d : Desc) : List (Nat × Nat) :=
  let nb := ceilDiv (d.size 0) 64
  (List.range (ceilDiv (d.size 1) 64 * nb)).map (fun i => (i / nb, i % nb))

/-- The tile sequence of R186; the answer is the number of tiles. -/
def copyTiles (k : Cvt) (t : Bool) (src dst : Desc) : Mio Nat := do
  let work := (outerCoords dst).map (fun o => (tilesOf dst).map (fun p => (o, p)))
  work.flatten.foldlM (fun n w => do
    let bad ← ioStopped
    if bad then pure n
    else do
      copyTile k t src dst w.1 w.2.1 w.2.2
      pure (n + 1)) 0

/-- An in-place square transpose (R188), judged on the descriptors as the program wrote them. -/
def inPlace (t : Bool) (a c : Desc) : Bool :=
  t && a.dom == c.dom && a.base == c.base && a.ety == c.ety && a.ndim == c.ndim && a.sizes == c.sizes &&
  a.strides == c.strides && a.size 0 == a.size 1 && a.size 0 % 64 == 0 && !packedType a

/-- A diagonal tile, or a pair of tiles swapped (R188). -/
def swapTiles (d : Desc) (o : List Nat) (a b : Nat) : Mio Nat := do
  let x ← readTile d o (64 * a) 64 (64 * b) 64
  if a = b then do
    writeTile d o (64 * a) (64 * b) (transposed 64 x)
    pure 1
  else do
    let y ← readTile d o (64 * b) 64 (64 * a) 64
    writeTile d o (64 * a) (64 * b) (transposed 64 y)
    writeTile d o (64 * b) (64 * a) (transposed 64 x)
    pure 2

/-- The paired tile swap of R188. -/
def swapAll (d : Desc) : Mio Nat := do
  let nt := d.size 0 / 64
  let pairs := ((List.range (nt * nt)).map (fun i => (i / nt, i % nt))).filter (fun p => p.1 ≤ p.2)
  let work := (outerCoords d).map (fun o => pairs.map (fun p => (o, p)))
  work.flatten.foldlM (fun n w => do
    let bad ← ioStopped
    if bad then pure n
    else do
      let k ← swapTiles d w.1 w.2.1 w.2.2
      pure (n + k)) 0

/-- COPY and XPOSE; `x` inverts the transpose. -/
def layoutWork (x : Bool) (ecc : SramEcc) (c : Cmd) (s : State) : Work := withSlots (slotsOk s c) c s fun _ =>
  let s0 := stagingCe ecc s
  let (r, io) := (do
    let a0 ← readDesc c c.a
    let c0 ← readDesc c c.c
    ioStage
    let t := (a0.xpi != c0.xpi) != x
    let bytes := t && (packedType a0 || packedType c0)
    let a := if bytes then a0.asBytes else a0
    let c1 := if bytes then c0.asBytes else c0
    if inPlace t a0 c0 then do
      let n ← swapAll a0
      pure (n, true)
    else do
      let n ← copyTiles c.cvt t a (asDest a c1)
      pure (n, false) : Mio (Nat × Bool)) { ioStart s0 with strike := stagingStrike ecc, foot := some [] }
  let s1 := countC (countC (yardCounts s0 c io) 0x60060 r.1) 0x60068 (b2n r.2)
  yardEnd c s1 io io.outB

/-! ## Meanings -/

/-- GATHER -/
def execGather (q tag : Nat) (ecc : SramEcc) (s : State) : Host.Outcome State Fault Refusal :=
  .next (working (issueRow (isOp 0x21) q tag (gatherWork ecc)) s)

/-- SCATTER -/
def execScatter (q tag : Nat) (ecc : SramEcc) (s : State) : Host.Outcome State Fault Refusal :=
  .next (working (issueRow (isOp 0x22) q tag (scatterWork ecc)) s)

/-- COPY -/
def execCopy (q tag : Nat) (ecc : SramEcc) (s : State) : Host.Outcome State Fault Refusal :=
  .next (working (issueRow (isOp 0x23) q tag (layoutWork false ecc)) s)

/-- XPOSE -/
def execXpose (q tag : Nat) (ecc : SramEcc) (s : State) : Host.Outcome State Fault Refusal :=
  .next (working (issueRow (isOp 0x24) q tag (layoutWork true ecc)) s)

end Sys2Proof.Machine
end

