-- ==== Sys2Proof/Machine/Sort.lean ====
section
/-! DEFINITION. SORT (R178 to R181), the writers of work queues that stall when a queue is full (R205), and the grant of
waiting ticket reservations (R198). -/

namespace Sys2Proof.Machine

/-! ## Ordered lists -/

/-- Inserts into an ordered list. -/
def insertBy {α : Type} (le : α → α → Bool) (x : α) : List α → List α
  | [] => [x]
  | y :: r => if le x y then x :: y :: r else y :: insertBy le x r

/-- Sorts a list, stably. -/
def sortBy {α : Type} (le : α → α → Bool) : List α → List α
  | [] => []
  | x :: r => insertBy le x (sortBy le r)

/-! ## Writers -/

/-- The number by which an item names the command that wrote it. -/
def cmdCode (c : Cmd) : Nat := c.q * 512 + c.tag + 1

/-- Pairs of words as one list. -/
def flatPairs : List (Nat × Nat) → List Nat
  | [] => []
  | (a, b) :: r => a :: b :: flatPairs r

/-- The pairs of a list. -/
def pairsOf : List Nat → List (Nat × Nat)
  | a :: b :: r => (a, b) :: pairsOf r
  | _ => []

/-- The use in an entry is live. -/
def liveSlot (s : State) (slot : Nat) : Bool :=
  match useAt s slot with
  | none => false
  | some u => u.ended.isNone

/-- Writes items of a use to queue `w` while there is room and the use lives; the ones that remain (R181, R205). -/
def pushAll (w slot w0 src : Nat) : List (Nat × Nat) → State → List (Nat × Nat) × State
  | [], s => ([], s)
  | (a, b) :: l, s =>
    let it : Item := { w0 := w0, w1 := a, w2 := b, src := src }
    if liveSlot s slot && wqRoom s w it.cls then pushAll w slot w0 src l (wqPush s w it) else ((a, b) :: l, s)

/-- Queue `w` holds an item of a command. -/
def itemsLeft (s : State) (w src : Nat) : Bool :=
  (wq s w).cls.any (fun k => k.all.any (fun it => it.src == src))

/-! ## SORT (R178 to R181) -/

/-- A kept assignment as SORT orders it: segment, distance of the owner, replica slot, destination row, number. -/
structure SortKey where
  seg : Nat
  dist : Nat
  slot : Nat
  pos : Nat
  i : Nat

/-- The order of R178. -/
def SortKey.le (a b : SortKey) : Bool :=
  if a.seg ≠ b.seg then decide (a.seg < b.seg)
  else if a.dist ≠ b.dist then decide (a.dist < b.dist)
  else if a.slot ≠ b.slot then decide (a.slot < b.slot)
  else decide (a.pos ≤ b.pos)

/-- The kept assignments in the order of R178. -/
def sortKeys (u : Use) (p : Plan) (slots : List (Option Nat)) (pos : List Nat) : List SortKey :=
  let l := (indexed (slots.zip pos)).filterMap (fun x =>
    match x.1.1 with
    | none => none
    | some r =>
      if x.1.2 = 0xFFFFFFFF then none
      else
        let own := ((p.map[r]?).getD {}).owner
        some (SortKey.mk (x.2 / max 1 u.k / 8192) ((own + 2 * p.p - p.midx - 1) % max 1 p.p) r x.1.2 x.2))
  sortBy SortKey.le l

/-- Words 1 and 2 of the WQ_SEND item of an assignment (Table 08.4). -/
def sendItemWords (u : Use) (base : Nat) (a : SortKey) : Nat × Nat :=
  (a.pos % 2 ^ 32 * 2 ^ 32 + a.slot * 2 ^ 14 + u.cls * 2 ^ 12 + a.i % max 1 u.k,
   a.i / max 1 u.k * 2 ^ 32 + (base + a.i) % ringSize)

/-- The first backward SORT writes the tickets of the backward range (R197): kept assignments at KEPT with gates from the
records, lead tickets with PEND. -/
def backTickets (s : State) (u : Use) (base : Nat) (recs : List Nat) (slots : List (Option Nat)) : State :=
  (List.range (u.t * u.k)).foldl (fun v i =>
    let t := i / max 1 u.k
    let j := i % max 1 u.k
    let kept := isKept u t j
    setTicket v ((base + i) % ringSize) (
      if kept || j == 0 then
        { st := if kept then 2 else 3, bentry := u.slot, gate := bits (nth recs i) 16 16, lrow := t, choice := j,
          slot := ((slots[i]?).getD none).getD 0, pend := if j = 0 then (keptOf u t).length else 0 }
      else {})) s

/-- SORT has found no plan entry, or one without positions (R180). -/
def sortNone (s : State) (detail epoch : Nat) : Work := doneWith (countC s 0x60078 1) 0 detail 0 epoch

/-- Writes what items of a SORT remain, and completes it once they have all been read from WQ_SEND (R181). -/
def sortPump (s : State) (c : Cmd) : State :=
  match liveUse s c.ctx c.batch with
  | none => s
  | some u =>
    let (rest, s1) := pushAll 0 u.slot (headWord u 1) (cmdCode c) (pairsOf (c.saved.drop 2)) s
    let n := (pairsOf (c.saved.drop 2)).length - rest.length
    let s2 := countC s1 0x60070 n
    if rest.isEmpty && !itemsLeft s2 0 (cmdCode c) then finish s2 c.q c.tag 0 0 (nth c.saved 1) u.epoch
    else match findCmd s2 c.q c.tag with
      | none => s2
      | some c1 => if c1.isFinished then s2 else setCmd s2 { c1 with saved := [1, nth c.saved 1] ++ flatPairs rest }

/-- The replica slots and destination rows that SORT orders: those of its plan entry's map and of the areas it has read, or
free values where an area has changed since the issue of PLAN (R178, R179, log entry 135). -/
def sortInput (s : State) (u : Use) (p : Plan) (recs pos : List Nat) : List (Option Nat) × List Nat × State :=
  let n := u.t * u.k
  if recs = p.recs ∧ pos = p.posw then (assignSlots p.map p.midx u.tbase p.lseed p.experts u.k recs, pos, s)
  else
    let free := fun i => (Config.freeWord (s.draws + i)).toNat
    ((List.range n).map (fun i => some (free i % 2 ^ 18)), (List.range n).map (fun i => free (n + i) % 2 ^ 32),
     { s with draws := s.draws + 2 * n })

/-- SORT with its backward range, if it needs one, free to take (R197). -/
def sortGo (ecc : SramEcc) (c : Cmd) (s : State) (u : Use) (p : Plan) : Work :=
  let s0 := stagingCe ecc s
  let ((recs, pos), io) := (do
    let recs ← readRecords (opAddr c.a) u.t u.k
    let b ← ioRead false (p.pos.getD 0) (4 * (u.t * u.k))
    pure (recs, codesOf 1 b 0 (u.t * u.k)) : Mio (List Nat × List Nat)) { ioStart s0 with strike := stagingStrike ecc }
  let s1 := ioClose s0 (0x10 + c.cls) (0x14 + c.cls) io
  match io.ended with
  | some x =>
    let w := stopWork s1 c x 0x0204 3
    ⟨w.st, match w.cmd with | .finished r => .finished { r with epoch := u.epoch } | y => y⟩
  | none =>
    let (slots, words, s2) := sortInput s1 u p recs pos
    let keys := sortKeys u p slots words
    let go := fun (t : State) (base : Nat) =>
      let c1 := { c with saved := [1, keys.length] ++ flatPairs (keys.map (sendItemWords u base)), st := .exec }
      (⟨sortPump (setCmd t c1) c1, .exec⟩ : Work)
    if !u.backward then go s2 u.base
    else match u.bbase with
      | some b => go s2 b
      | none =>
        let (b, s2) := takeRange s2 (u.t * u.k)
        let s3 := backTickets (putUse s2 { u with bbase := some b }) u b recs slots
        let s4 := pmcEvent s3 0x038 none (some c.ctx) (some c.cls) (u.t * u.k)
        go (combineReady (settleTokens (reclaim s4) u.slot) u.slot) b

/-- SORT at its issue, or when its reservation is granted. -/
def sortWork (ecc : SramEcc) (c : Cmd) (s : State) : Work :=
  match liveUse s c.ctx c.batch with
  | none => sortNone s 1 0
  | some u =>
    match u.plan with
    | none => sortNone s 1 u.epoch
    | some p =>
      if p.pos.isNone then sortNone s 2 u.epoch
      else
        let n := if u.backward && u.bbase.isNone then u.t * u.k else 0
        if !reserveOk s c n then ⟨setCmd s { c with ecc := ecc }, .waitTicket n⟩
        else withSlots (reserveSlots s c n) c s fun _ => sortGo ecc c s u p

/-! ## TICKET_GRANT (R193, R198) -/

/-- The waiting reservations in the order in which they are granted: by class, then by admission. -/
def waitOrder (s : State) : List Cmd :=
  (List.range 4).flatMap (fun k => s.front.inflight.filter (fun c => waitN c != 0 && c.cls == k))

/-- A command whose reservation is granted goes on with its work. -/
def grantGo (s : State) (c : Cmd) : State :=
  let c1 := { c with st := .exec }
  let s1 := setCmd s c1
  if c.opc = 0x20 then settle (sortWork c.ecc c1 s1) c.q c.tag
  else match liveUse s1 c.ctx c.batch with
    | none => s
    | some u => settle (selReserve c.ecc c1 s1 u) c.q c.tag

/-- The first waiting reservation takes its numbers where they fit and its unit has its slots. -/
def grantFirst (s : State) : State :=
  match waitOrder s with
  | [] => s
  | c :: _ => if waitN c ≤ ringFree s && reserveSlots s c (waitN c) then grantGo s c else s

/-- TICKET_GRANT: a selection that waits for a batch-table entry takes one that is free; else the first waiting
reservation is granted if it fits. -/
def ticketGrant (s : State) : State :=
  match s.front.inflight.find? (fun c => c.st == .waitTicket 0) with
  | some c =>
    if (freeEntry s).isSome then
      let c1 := { c with st := .exec }
      settle (selOpen c.ecc c1 (setCmd s c1)) c.q c.tag
    else grantFirst s
  | none => grantFirst s

/-! ## Meanings -/

/-- SORT -/
def execSort (q tag : Nat) (ecc : SramEcc) (s : State) : Host.Outcome State Fault Refusal :=
  .next (working (issueRow (isOp 0x20) q tag (sortWork ecc)) s)

/-- TICKET_GRANT -/
def execTicketGrant (s : State) : Host.Outcome State Fault Refusal := .next (working ticketGrant s)

end Sys2Proof.Machine
end

