-- ==== Sys2Proof/Machine/Send.lean ====
section
/-! DEFINITION. SEND (R10, R11, R209, R210), the egress of rows (R201, R202), the owner's write path (R211, R212), and the
feeding of WQ_RECV and WQ_CMB from the ingress buffers. -/

namespace Sys2Proof.Machine

/-! ## Commands of a use -/

/-- An executing command of the use with an opcode. -/
def runsOp (u : Use) (opc : Nat) (c : Cmd) : Bool := c.opc == opc && c.st == .exec && ofUse u c

/-- A SEND of the use's current phase that is executing: allocation, and a stand for want of slots, included. -/
def isSending (u : Use) (c : Cmd) : Bool :=
  c.opc == 0x28 && ofUse u c && bit c.subop 0 == u.backward &&
  (match c.st with | .exec => true | .stopped => true | .waitShed _ _ => true | _ => false)

/-- A SEND ends with a status, a detail and a result. For R213 it has then completed: its hold ends with the report of the
unit, before the completion record is written (log entry 131). -/
def sendOver (s : State) (c : Cmd) (status detail result epoch : Nat) : State :=
  finish (sentOnce s c) c.q c.tag status detail result epoch

/-- Rows that the plan directs into the member's own receive buffers (R11). -/
def rowsIn (u : Use) : Nat := match u.plan with | none => 0 | some p => sumNat (p.shapes.map (·.rows))
/-- Kept assignments of the member. -/
def keptCount (u : Use) : Nat := (u.kept.filter id).length

/-- Phases of the use up to that of a SEND: rows carry no phase, so that a use counts the rows of both together, and a
backward SEND waits for twice the rows (R11, R209, log entry 132). -/
def phasesOf (c : Cmd) : Nat := if bit c.subop 0 then 2 else 1

/-- Acknowledgements and own rows that a SEND still awaits (R11, R224). -/
def sendLeft (u : Use) (c : Cmd) : Nat := (phasesOf c * keptCount u - u.acked) + (phasesOf c * rowsIn u - u.received)

/-- The executing SENDs of a use complete once its rows are acknowledged and its own receive buffers are filled (R11). -/
def sendCheck (s : State) (slot : Nat) : State :=
  match useAt s slot with
  | none => s
  | some u =>
    if u.ended.isNone then
      (s.front.inflight.filter (fun c => runsOp u 0x28 c && !c.saved.isEmpty && sendLeft u c == 0)).foldl
        (fun v c => sendOver v c 0 0 (nth c.saved 2) u.epoch) s
    else s

/-! ## The start of a SEND -/

/-- Allocates the combine buffers that the use still misses, in ascending token ranges (R209, R216). -/
def takeCbufs (c : Cmd) : Nat → Option Nat → State → Nat → State × AllocRes
  | 0, _, s, _ => (s, .fail 0 0)
  | fuel + 1, at_, s, slot =>
    match useAt s slot with
    | none => (s, .fail 0 0)
    | some u =>
      if hasCbufs u then (s, .fail 0 0)
      else match allocBuf (allocReq s c (cmbBytes u u.cbufs.length) true at_) s with
        | (s1, .got b) => takeCbufs c fuel none (putUse s1 { u with cbufs := u.cbufs ++ [b] }) slot
        | x => x

/-- A SEND whose allocation failed gives back what it has allocated, and later SENDs of the use end as it does (R163,
R209). -/
def sendFailed (s : State) (slot : Nat) (c : Cmd) (status detail : Nat) : State :=
  match useAt s slot with
  | none => s
  | some u =>
    let (s1, u1) := giveBack s u u.cbufs (0x10 + c.cls)
    sendOver (putUse s1 { u1 with cbufs := [], sendFail := some (status, detail) }) c status detail 0 u.epoch

/-- A forward SEND holds its buffers, or a backward SEND its phase: rows may leave. -/
def sendRuns (s : State) (slot : Nat) (c : Cmd) : State :=
  match useAt s slot with
  | none => s
  | some u =>
    let s1 := setCmd (putUse s { u with src := nth c.saved 1 }) { c with st := .exec }
    sendCheck (combineReady (settleTokens s1 slot) slot) slot

/-- A SEND meets its holds (R10, R163, R210) and takes its combine buffers (R209). -/
def sendGo (c : Cmd) (s : State) : Work :=
  match liveUse s c.ctx c.batch with
  | none => doneWith s stCancelled 0x04 0 0
  | some u =>
    match u.planFail, u.plan, u.sendFail with
    | some f, none, _ => ⟨sendOver s c f.1 f.2 0 u.epoch, .exec⟩
    | _, none, _ => ⟨s, .held⟩
    | _, some _, some f => ⟨sendOver s c f.1 f.2 0 u.epoch, .exec⟩
    | _, some _, none =>
      if bit c.subop 0 then
        if u.backward then ⟨sendRuns s u.slot c, .exec⟩ else ⟨s, .held⟩
      else
        match takeCbufs c (cmbBufs u + 1) c.bank (putUse s { u with sendIssued := true }) u.slot with
        | (s1, .wait i) => ⟨s1, .waitShed i c.qcls⟩
        | (s1, .area code) => ⟨sendFailed s1 u.slot c stEcc code, .exec⟩
        | (s1, .fail st d) =>
          if (useAt s1 u.slot).any hasCbufs then ⟨sendRuns s1 u.slot c, .exec⟩
          else ⟨sendFailed s1 u.slot c st d, .exec⟩
        | (s1, .got _) => ⟨sendRuns s1 u.slot c, .exec⟩

/-- SEND at its issue, or when its slots or its Shed let it go on (R107, R261). What it saves: operand A's descriptor and the
rows that it has sent. -/
def sendWork (c : Cmd) (s : State) : Work :=
  match liveUse s c.ctx c.batch with
  | none => doneWith s stCancelled 0x04 0 0
  | some u =>
    let g := pbGroup (ctx s c.ctx)
    if (grp s g).lost then ⟨sendOver s c stMemberLost (lostDetail s g) 0 0, .exec⟩
    else withSlots (slotsOk s c) c s fun _ =>
      if !c.saved.isEmpty then sendGo c s
      else
        let (raw, io) := readStruct c.a (ioStart s)
        let s1 := ioClose s (0x10 + c.cls) (0x14 + c.cls) io
        match io.stop with
        | some (.mp code) => ⟨sendOver (mpFault s1 c.ctx c.q code) c stEcc code 0 u.epoch, .exec⟩
        | _ =>
          let c1 := { c with saved := [2, raw, 0] }
          sendGo c1 (setCmd s1 c1)

/-- A held SEND or RETURN tries its holds again. -/
def holdRelease (opc : Nat) (go : Cmd → State → Work) (q tag : Nat) (s : State) : State :=
  match findCmd s q tag with
  | none => s
  | some c =>
    if c.opc == opc && c.st == .held then
      let c1 := { c with st := .exec }
      settle (go c1 (setCmd s c1)) q tag
    else s

/-! ## The egress of rows (R201, R202, R209, R210) -/

/-- The element type of a payload format. -/
def fmtType (fmt : Nat) : Nat := if fmt = 1 then 5 else if fmt = 2 then 1 else 0

/-- The bytes of a payload from its element codes. -/
def payloadBytes (fmt : Nat) (codes : List Nat) : Mio (List Byte) :=
  if fmt = 1 then do
    let parts ← (runs 32 (ceilDiv codes.length 32) codes).mapM blockBytes
    let b := parts.flatten
    pure (b ++ List.replicate (roundUp b.length 64 - b.length) 0#8)
  else pure (bytesOf (fmtType fmt) codes)

/-- I4, I8 and I32, from which Table 03.5 has no conversion to a payload format (R63). -/
def intType (ety : Nat) : Bool := ety == 6 || ety == 7 || ety == 9

/-- Element codes converted to a payload format (R202); the spec states no result for an integer source, which gives free
values (R63, log entry 45). -/
def sendConv (k : Cvt) (ety dst : Nat) (codes : List Nat) : Mio (List Nat) :=
  if intType ety then do
    let l ← freeCodes codes.length
    pure (l.map (· % 2 ^ 16))
  else num (convSeg k ety dst codes)

/-- A row that the egress has read and that another Yard instruction may have been writing is indeterminate (R175, log entry
140). -/
def rowRace (s : State) (c : Cmd) (bytes : List Byte) : Mio (List Byte) := fun io =>
  if (yardOthers s c).any (fun x => spoils x.foot (io.foot.getD [])) then
    ((List.range bytes.length).map (fun i => Config.freeByte (io.mem.draws + i)),
     { io with mem := { io.mem with draws := io.mem.draws + bytes.length } })
  else (bytes, io)

/-- A forward row, converted. -/
def forwardRow (c : Cmd) (u : Use) (fmt t : Nat) : Mio (List Byte) := do
  let d := descOf c.level (nth c.saved 1)
  let codes ← d.readRow false t u.d
  let out ← sendConv c.cvt d.ety (fmtType fmt) codes
  payloadBytes fmt out

/-- A backward row: its gate gradient first, then gate × dy (R210). -/
def backwardRow (s : State) (c : Cmd) (u : Use) (fmt t j gate : Nat) : Mio (List Byte) := do
  let d := descOf c.level (nth c.saved 1)
  let codes ← d.readRow false t u.d
  let dyc ← sendConv c.cvt d.ety 1 codes
  let dy := dyc.map (decodeF .f32)
  let ans ← readAnswer s u t j
  let grad ← num (do
    let prods ← (dy.zip ans).mapM (fun p => fmul p.1 p.2)
    let p ← rowPair prods
    narrowF32 c.cvt p)
  ioWrite false ((gradAt s u t + 4 * j) % 2 ^ 42) (leBytes 4 grad)
  let g := decodeF .b16 gate
  let out ← num (do
    let xs ← dy.mapM (fmul g)
    convSeg c.cvt 1 (fmtType fmt) (xs.map (encodeF .f32)))
  payloadBytes fmt out

/-- Sends a row or an answer of a command with its dispatch header (Table 08.3, R304); the command's rounding settings go
with one that takes the local path alone (R215). -/
def sendDispatch (s : State) (c : Cmd) (cls kind chip w0 w1 w2 : Nat) (payload : List Byte) : State :=
  let data := leBytes 8 w0 ++ leBytes 8 w1 ++ leBytes 8 w2 ++ payload
  post s { hdr := mkHdr s (0x30 + cls) kind chip (ext 64 data.length), data := data, rmode := c.rmode, ovf := c.ovf }

/-- Acknowledges a row or an answer to the chip that it came from (Table 12.4). -/
def sendDack (s : State) (it : Item) : State :=
  send s (0x30 + it.cls) 3 it.src (ext 64 it.w0 + ext 128 (bits it.w2 22 21)) []

/-- The chip of a member of the use's group. -/
def memberOfUse (s : State) (u : Use) (m : Nat) : Nat := memberChip s (grpBox s (pbGroup (ctx s u.ctx))) m

/-- A SEND whose accesses stopped (R191, R209). -/
def sendStop (s : State) (u : Use) (c : Cmd) (e : Stop) : State :=
  match stopWork s c e 0x0204 3 with
  | ⟨s1, .finished r⟩ => sendOver s1 c r.status r.detail 0 u.epoch
  | ⟨s1, _⟩ => s1

/-- A row has been converted: it leaves for the owner of its slot by the plan's map, and is counted. -/
def rowLeaves (s : State) (u : Use) (p : Plan) (c : Cmd) (it : Item) (payload : List Byte) : State :=
  let slot := bits it.w1 14 18
  let chip := memberOfUse s u ((p.map[slot]?).getD {}).owner
  let w2 := p.midx * 2 ^ 48 + bits it.w2 0 21 * 2 ^ 22 + p.fmt * 2 ^ 20
  let s1 := setCmd (putUse s { u with sent := u.sent + 1 }) { c with saved := [2, nth c.saved 1, nth c.saved 2 + 1] }
  let s2 := sendDispatch s1 c it.cls 1 chip (headWord u 1) (it.w1 / 2 ^ 12 * 2 ^ 12) w2 payload
  pmcEvent (ctxCount s2 u.ctx 3 1) 0x078 none (some u.ctx) (some it.cls) 1

/-- Sends the row of a WQ_SEND item under a SEND. -/
def sendRow (tk : Ecc) (s : State) (u : Use) (p : Plan) (c : Cmd) (it : Item) : State :=
  match tk with
  | .double r => if r then ticketUe s u else ticketLost s
  | e =>
    let s0 := match e with | .corrected => ticketCe s | _ => s
    let t := bits it.w2 32 31
    let j := bits it.w1 0 4
    let gate := (ticket s0 (bits it.w2 0 21)).gate
    let (payload, io) := (do
      let b ← if bit c.subop 0 then backwardRow s0 c u p.fmt t j gate else forwardRow c u p.fmt t
      rowRace s0 c b : Mio (List Byte)) { ioStart s0 with foot := some [] }
    let s1 := ioClose s0 (0x10 + c.cls) (if bit c.subop 0 then 0x18 else 0x14 + c.cls) io
    match io.stop with
    | some x => sendStop s1 u c x
    | none => rowLeaves s1 u p c it payload

/-- What a reader of WQ_SEND or WQ_RET finds in class `c`. -/
inductive Found where
  /-- nothing to read in this class -/
  | none
  /-- the item is in the spill region -/
  | spilled
  /-- an item that it holds -/
  | held (it : Item)
  /-- the oldest item -/
  | head (it : Item)

/-- What is to be read of class `c` of queue `w` (R204); while the queue is being reset its reader has stopped (R208). -/
def findItem (s : State) (w c : Nat) : Found :=
  if (wq s w).busy then .none
  else match wqHeld s w c with
    | some it => .held it
    | Option.none =>
      let k := (wq s w).at c
      match k.head with
      | it :: _ => .head it
      | [] => if k.all.isEmpty then .none else .spilled

/-- Reads the items of queue `w` class by class: `act` says what a reader does with an item of a live use, or `none` where
it must hold it (R204). One item is read, or one held item served. -/
def readQueue (w : Nat) (ecc : Ecc) (act : State → Use → Item → Option State) : List Nat → State → State
  | [], s => s
  | c :: rest, s =>
    match findItem s w c with
    | .none => readQueue w ecc act rest s
    | .spilled => s
    | .held it =>
      match matchUse s it.w0 with
      | Option.none => dropStale (wqDrop s w c)
      | some u => match act (wqDrop s w c) u it with
        | some s1 => s1
        | Option.none => readQueue w ecc act rest s
    | .head it =>
      match wqPop s w c with
      | Option.none => s
      | some (_, s1) =>
        let (s2, ok) := itemEcc ecc s1 w it
        if !ok then s2
        else match matchUse s2 it.w0 with
          | Option.none => dropStale s2
          | some u => match act s2 u it with
            | some s3 => s3
            | Option.none => wqHold s2 w c it

/-- The oldest executing SEND of the use, if the egress has its slots; a backward row also needs those of the combine unit,
which forms its gate gradient (R107, R210). -/
def senderOf (s : State) (u : Use) (it : Item) : Option Cmd :=
  if yardHolds s it.cls then
    s.front.inflight.find? (fun c => runsOp u 0x28 c && !c.saved.isEmpty && (!bit c.subop 0 || holdsMp s 0x18))
  else none

/-- What the egress does with a WQ_SEND item. -/
def sendAct (tk : Ecc) (s : State) (u : Use) (it : Item) : Option State :=
  match senderOf s u it, u.plan with
  | some c, some p => some (sendRow tk s u p c it)
  | _, _ => none

/-! ## Ingress of rows and answers (R203, R205) -/

/-- The item of an arriving row or answer: its dispatch header, its payload, and the chip that it came from. -/
def arriving (m : Msg) : Item :=
  { w0 := leNat (m.data.take 8), w1 := leNat ((m.data.drop 8).take 8), w2 := leNat ((m.data.drop 16).take 8),
    payload := m.data.drop 24, src := m.src, hold := m.hold, rmode := m.rmode, ovf := m.ovf }

/-- Moves rows to WQ_RECV and answers to WQ_CMB in order of arrival, while they have room; one that must wait holds back
those behind it that came by the same port (R205). They keep their ingress buffers (R203). -/
def feedMsgs : List Msg → List (Option Nat) → State → List Msg × State
  | [], _, s => ([], s)
  | m :: rest, stuck, s =>
    if m.kind = 1 ∨ m.kind = 2 then
      let w := if m.kind = 1 then 1 else 3
      let it := arriving m
      if !stuck.contains m.hold.port && wqRoom s w it.cls then feedMsgs rest stuck (wqPush s w it)
      else
        let (l, s1) := feedMsgs rest (m.hold.port :: stuck) s
        (m :: l, s1)
    else
      let (l, s1) := feedMsgs rest stuck s
      (m :: l, s1)

/-- Rows and answers enter their queues. -/
def feedQueues (s : State) : State :=
  let (l, s1) := feedMsgs s.fab.inbox [] s
  { s1 with fab := { s1.fab with inbox := l } }

/-! ## The owner's write path (R211, R212) -/

/-- The shape record of a replica slot, with the rows of the records before it. -/
def shapeOf (slot : Nat) : Nat → List Shape → Option (Shape × Nat)
  | _, [] => none
  | before, x :: r => if x.slot = slot then some (x, before) else shapeOf slot (before + x.rows) r

/-- The origin entry of a row (R212). -/
def originWord (u : Use) (it : Item) : Nat :=
  2 ^ 63 + bits it.w2 48 15 * 2 ^ 48 + bits it.w2 22 21 * 2 ^ 26 + u.epoch

/-- Writes an arriving row and its origin entry, and acknowledges it. -/
def writeRow (s : State) (u : Use) (p : Plan) (it : Item) : State :=
  let drow := bits it.w1 32 32
  match shapeOf (bits it.w1 14 18) 0 p.shapes with
  | none => dropStale s
  | some (x, before) =>
    match x.buf with
    | none => dropStale s
    | some b =>
      if x.rows ≤ drow then dropStale s
      else
        let ((), io) := (do
          ioWrite false ((bufAddr s b + drow * strideOf p.fmt u.d) % 2 ^ 42) it.payload
          ioWrite false (origAt s (p.origBase + before + drow)) (leBytes 8 (originWord u it)) : Mio Unit) (ioStart s)
        let s1 := ioClose s (0x14 + u.cls) (0x14 + u.cls) io
        match io.stop with
        | some (.mp code) => mpFault s1 u.ctx 0 code
        | _ => sendCheck (sendDack (putUse s1 { u with received := u.received + 1 }) it) u.slot

/-- ROW_ARRIVAL over the classes of WQ_RECV: a row whose plan is not there yet stays at the head (R211). -/
def rowArrival (ecc : Ecc) : List Nat → State → State
  | [], s => s
  | c :: rest, s =>
    match findItem s 1 c with
    | .none => rowArrival ecc rest s
    | .spilled => s
    | .held _ => s
    | .head it =>
      let wait := match matchUse s it.w0 with
        | some u => u.plan.isNone && u.planFail.isNone
        | Option.none => false
      if wait || !(holdsMp s (0x14 + c)) then rowArrival ecc rest s
      else match wqPop s 1 c with
        | Option.none => s
        | some (_, s1) =>
          let (s2, ok) := itemEcc ecc s1 1 it
          if !ok then s2
          else match matchUse s2 it.w0 with
            | Option.none => dropStale s2
            | some u => match u.plan with
              | Option.none => dropStale s2
              | some p => writeRow s2 u p it

/-- ROW_PLAN_TIMEOUT: the row at the head of a class of WQ_RECV whose plan never came is discarded (R211). -/
def rowTimeout (c : Nat) (s : State) : State :=
  match findItem s 1 c with
  | .head it =>
    match matchUse s it.w0 with
    | some u =>
      if u.plan.isNone && u.planFail.isNone then
        match wqPop s 1 c with
        | Option.none => s
        | some (_, s1) => countC s1 0x80218 1
      else s
    | Option.none => s
  | _ => s

end Sys2Proof.Machine
end

