-- ==== Sys2Proof/Machine/Carry.lean ====
section
/-! DEFINITION. RETURN (R213, R214), the arrival of answers (R215), acknowledgements (R200), and the meanings of the
commands and events of dispatch. -/

namespace Sys2Proof.Machine

/-! ## RETURN. What it saves: the number of descriptors of its table, 1 once their reads are counted, the descriptors, then
items written, answers sent, answers acknowledged, rows skipped, and the items that it has yet to write. -/

/-- Position of the counts in what a RETURN saves. -/
def retAt (c : Cmd) : Nat := nth c.saved 0 + 2
/-- Items written to WQ_RET, in all. -/
def retTotal (c : Cmd) : Nat := nth c.saved (retAt c)
/-- Answers sent. -/
def retSent (c : Cmd) : Nat := nth c.saved (retAt c + 1)
/-- Answers acknowledged. -/
def retAcked (c : Cmd) : Nat := nth c.saved (retAt c + 2)
/-- Rows skipped. -/
def retSkipped (c : Cmd) : Nat := nth c.saved (retAt c + 3)
/-- Items that remain to be written. -/
def retRest (c : Cmd) : List (Nat × Nat) := pairsOf (c.saved.drop (retAt c + 4))
/-- What is saved, from its parts. -/
def retSaved (raws : List Nat) (total sent acked skipped : Nat) (rest : List (Nat × Nat)) : List Nat :=
  (raws.length :: 1 :: raws) ++ [total, sent, acked, skipped] ++ flatPairs rest
/-- The descriptors. -/
def retRaws (c : Cmd) : List Nat := (c.saved.drop 2).take (nth c.saved 0)

/-- The answer format of a RETURN (R202, R213, R300). -/
def retFmt (s : State) (c : Cmd) : Nat := if bit c.subop 0 && c.level != 2 && !minVer1 s then 1 else 0

/-- Completes a RETURN whose answers are all sent and acknowledged (R214). -/
def returnCheck (s : State) (q tag : Nat) (epoch : Nat) : State :=
  match findCmd s q tag with
  | none => s
  | some c =>
    if c.st == .exec && (retRest c).isEmpty && decide (retTotal c ≤ retAcked c) then
      finish s q tag 0 (retSkipped c % 2 ^ 24) (retSent c) epoch
    else s

/-- Writes what items of a RETURN remain. -/
def returnPump (s : State) (c : Cmd) : State :=
  match liveUse s c.ctx c.batch with
  | none => s
  | some u =>
    let (rest, s1) := pushAll 2 u.slot (headWord u 2) (cmdCode c) (retRest c) s
    match findCmd s1 c.q c.tag with
    | none => s1
    | some c1 =>
      if c1.isFinished then s1
      else returnCheck (setCmd s1 { c1 with
        saved := retSaved (retRaws c) (retTotal c) (retSent c) (retAcked c) (retSkipped c) rest }) c.q c.tag u.epoch

/-- The items of one shape record: rows ascending, with those skipped (R213). -/
def returnRows (s : State) (u : Use) (p : Plan) (x : Shape) (before : Nat) : Mio (List (Nat × Nat) × Nat) :=
  (List.range x.rows).foldlM (fun acc r => do
    let b ← ioRead false (origAt s (p.origBase + before + r)) 8
    let w := leNat b
    if bit w 63 && bits w 0 16 == u.epoch then
      pure (acc.1 ++ [(r * 2 ^ 32 + x.slot * 2 ^ 14 + u.cls * 2 ^ 12, bits w 48 15 * 2 ^ 32 + bits w 26 21)], acc.2)
    else pure (acc.1, acc.2 + 1)) ([], 0)

/-- What stands at descriptor `i` of the return table now: the descriptor, or above 2^512 the code of the MP error that a
read of it meets. -/
def tableNow (s : State) (c : Cmd) (i : Nat) : Nat :=
  let a := (opAddr c.a + 64 * i) % 2 ^ 42
  let code := rdCode (mpLvl2 s) s.mem a 64
  if code = 0 then rdNum s.mem a 64 else 2 ^ 512 + code

/-- The return table as it stands at the issue of RETURN (R165), before its use need have a plan: one descriptor for each
expert, for a member owns no expert twice (R149, log entry 42). -/
def returnTable (s : State) (c : Cmd) : List Nat := (List.range (pbE (ctx s c.ctx))).map (tableNow s c)

/-- The read of a descriptor whose value is known: it is counted, or stops with its MP error. -/
def tableRead (raw : Nat) : Mio Unit := fun io =>
  if io.stop.isSome then ((), io)
  else if raw < 2 ^ 512 then ((), { io with rd := io.rd + 64, inB := io.inB + 64, slotR := io.slotR + 1 })
  else ((), { io with stop := some (.mp (raw - 2 ^ 512)) })

/-- The reads of the descriptors of the plan's records: one of a record without rows is not used, and not read. -/
def tableReads (raws : List Nat) (shapes : List Shape) : Mio Unit :=
  (raws.zip shapes).forM (fun x => if x.2.rows = 0 then pure () else tableRead x.1)

/-- The items, record by record. -/
def returnItems (s : State) (u : Use) (p : Plan) : Nat → List Shape → Mio (List (Nat × Nat) × Nat)
  | _, [] => pure ([], 0)
  | before, x :: rest => do
    let (items, skip) ← returnRows s u p x before
    let (l, n) ← returnItems s u p (before + x.rows) rest
    pure (items ++ l, skip + n)

/-- RETURN meets its hold (R213). Where the use had no plan at its issue, the reads of its table are counted now (log
entry 42). -/
def returnGo (c : Cmd) (s : State) : Work :=
  match liveUse s c.ctx c.batch with
  | none => doneWith s stCancelled 0x04 0 0
  | some u =>
    if !u.sendDone || s.front.inflight.any (isSending u) then ⟨setCmd s c, .held⟩
    else match u.plan with
      | none => doneWith s 0 (2 ^ 24) 0 u.epoch
      | some p =>
        withSlots (slotsOk s c) c (setCmd s c) fun _ =>
          let ((items, skip), io) := (do
            if nth c.saved 1 = 0 then tableReads (retRaws c) p.shapes
            returnItems s u p 0 p.shapes : Mio (List (Nat × Nat) × Nat)) (ioStart s)
          let s1 := ioClose s (0x10 + c.cls) (0x14 + c.cls) io
          match io.stop with
          | some (.mp code) => doneWith (mpFault s1 c.ctx c.q code) stEcc code 0 u.epoch
          | _ =>
            let c1 := { c with saved := retSaved (retRaws c) items.length 0 0 skip items, st := .exec }
            ⟨returnPump (setCmd s1 c1) c1, .exec⟩

/-- RETURN at its issue, or when its slots let it go on (R107): it reads its table (R165), and goes on if its hold is met. -/
def returnWork (c : Cmd) (s : State) : Work :=
  match liveUse s c.ctx c.batch with
  | none => doneWith s stCancelled 0x04 0 0
  | some u =>
    let g := pbGroup (ctx s c.ctx)
    if (grp s g).lost then doneWith s stMemberLost (lostDetail s g) 0 0
    else withSlots (slotsOk s c) c s fun _ =>
      if !c.saved.isEmpty then returnGo c s
      else
        let raws := returnTable s c
        let (seen, (), io) := match u.plan with
          | none => (0, (), ioStart s)
          | some p => (1, tableReads raws p.shapes (ioStart s))
        let s1 := ioClose s (0x10 + c.cls) (0x14 + c.cls) io
        match io.stop with
        | some (.mp code) => doneWith (mpFault s1 c.ctx c.q code) stEcc code 0 u.epoch
        | _ => returnGo { c with saved := (raws.length :: seen :: raws) ++ [0, 0, 0, 0] } s1

/-! ## The egress of answers (R213, R214) -/

/-- A RETURN of the use that may send: the one that wrote the item, else the oldest that executes. -/
def returnerOf (s : State) (u : Use) (it : Item) : Option Cmd :=
  if yardHolds s it.cls then
    match s.front.inflight.find? (fun c => runsOp u 0x29 c && cmdCode c == it.src) with
    | some c => some c
    | none => s.front.inflight.find? (runsOp u 0x29)
  else none

/-- Sends the answer row of a WQ_RET item. -/
def answerRow (s : State) (u : Use) (p : Plan) (c : Cmd) (it : Item) : State :=
  let i := (p.shapes.map (·.slot)).idxOf (bits it.w1 14 18)
  let d := descOf c.level (nth (retRaws c) i)
  let fmt := retFmt s c
  let (payload, io) := (do
    let codes ← d.readRow false (bits it.w1 32 32) u.d
    let out ← sendConv c.cvt d.ety (fmtType fmt) codes
    let b ← payloadBytes fmt out
    rowRace s c b : Mio (List Byte)) { ioStart s with foot := some [] }
  let s1 := ioClose s (0x10 + c.cls) (0x14 + c.cls) io
  match io.stop with
  | some e =>
    match stopWork s1 c e 0x0204 3 with
    | ⟨s2, .finished r⟩ => report s2 c.q c.tag { r with epoch := u.epoch }
    | ⟨s2, _⟩ => s2
  | none =>
    let s2 := setCmd s1 { c with
      saved := retSaved (retRaws c) (retTotal c) (retSent c + 1) (retAcked c) (retSkipped c) (retRest c) }
    let w2 := p.midx * 2 ^ 48 + bits it.w2 0 21 * 2 ^ 22 + fmt * 2 ^ 20
    let s3 := sendDispatch s2 c it.cls 2 (memberOfUse s2 u (bits it.w2 32 15)) (headWord u 2) (it.cls * 2 ^ 12) w2 payload
    pmcEvent s3 0x079 none (some u.ctx) (some it.cls) 1

/-- What the egress does with a WQ_RET item. -/
def returnAct (s : State) (u : Use) (it : Item) : Option State :=
  match returnerOf s u it, u.plan with
  | some c, some p => some (answerRow s u p c it)
  | _, _ => none

/-! ## Arriving answers (R215) -/

/-- The rounding settings for a BX8 answer: those of the RETURN that carried it, which an answer of this chip brings with
it; those of another chip's RETURN are free values, for no header carries them (log entry 31). -/
def answerCvt (s : State) (it : Item) : Cvt × State :=
  if it.src = ownChip s then ({ rmode := it.rmode, ovf := it.ovf }, s)
  else
    let w := (Config.freeWord s.draws).toNat
    ({ rmode := w % 3, ovf := bit w 2 }, { s with draws := s.draws + 1 })

/-- The payload of an answer as B16 codes. -/
def answerCodes (k : Cvt) (fmt D : Nat) (b : List Byte) : Num (List Nat) :=
  if fmt = 1 then (List.range D).mapM (fun j => convert k .b16 (bx8At b j))
  else if fmt = 2 then (codesOf 1 b 0 D).mapM (fun x => convert k .b16 (decodeF .f32 x))
  else pure (codesOf 0 b 0 D)

/-- The ticket of an answer becomes ANSWERED, and its lead's PEND decreases; the last one combines its token, at once where
the combine unit has its slots (R107, R217). -/
def answered (s : State) (u : Use) (n t : Nat) (it : Item) : State :=
  let lead := ticketNo ((curBase u).getD 0) u.k t 0
  let s1 := markTicket s n 5
  let s2 := setTicket s1 lead { ticket s1 lead with pend := (ticket s1 lead).pend - 1 }
  let s3 := sendDack (ctxCount s2 u.ctx 4 1) it
  let s4 := if (ticket s3 lead).pend = 0 ∧ !u.combined.contains t ∧ cmbSlots s3 u t then combineToken s3 u.slot t else s3
  combineReady s4 u.slot

/-- Writes an answer to its slot. -/
def writeAnswer (s : State) (u : Use) (n t j : Nat) (it : Item) : State :=
  let fmt := bits it.w2 20 2
  let (k, s0) := if fmt = 1 then answerCvt s it else ({}, s)
  let ((), io) := (do
    let codes ← num (answerCodes k fmt u.d it.payload)
    ioWrite false (answerAt s0 u t j) (bytesOf 0 codes) : Mio Unit) (ioStart s0)
  let s1 := ioClose s0 0x18 0x18 io
  match io.stop with
  | some (.mp code) => mpFault s1 u.ctx 0 code
  | _ => answered s1 u n t it

/-- An answer read from WQ_CMB (R195, R215). -/
def takeAnswer (tk : Ecc) (s : State) (it : Item) : State :=
  match matchUse s it.w0 with
  | none => dropAnswer s
  | some u =>
    let n := bits it.w2 22 21
    match ticketAt u n with
    | none => dropAnswer s
    | some (t, j) =>
      match tk with
      | .double r => if r then ticketUe s u else ticketLost s
      | e =>
        let s1 := match e with | .corrected => ticketCe s | _ => s
        if (ticket s1 n).st ≠ 4 ∨ !hasCbufs u then dropAnswer s1 else writeAnswer s1 u n t j it

/-- The combine unit has its slots for an answer: at the memory ports, and at the banks of the tickets that it changes
(R107, R196). -/
def answerSlots (s : State) (it : Item) : Bool :=
  holdsMp s 0x18 && rotaHolds s (48 + bits it.w2 22 21 % 16) 0x18 &&
  (match matchUse s it.w0 with
    | none => true
    | some u => match ticketAt u (bits it.w2 22 21) with
      | none => true
      | some (t, _) => rotaHolds s (48 + ticketNo ((curBase u).getD 0) u.k t 0 % 16) 0x18)

/-- ANSWER_ARRIVAL over the classes of WQ_CMB; an answer for which the combine unit has no slots stays at the head. -/
def answerArrival (item tk : Ecc) : List Nat → State → State
  | [], s => s
  | c :: rest, s =>
    match findItem s 3 c with
    | .none => answerArrival item tk rest s
    | .spilled => s
    | .held _ => s
    | .head it =>
      if !answerSlots s it then answerArrival item tk rest s
      else match wqPop s 3 c with
      | none => s
      | some (_, s1) =>
        let (s2, ok) := itemEcc item s1 3 it
        if ok then takeAnswer tk s2 it else s2

/-! ## Acknowledgements (R200, R214) -/

/-- A row's acknowledgement: its ticket goes from KEPT to SENT. -/
def rowAcked (tk : Ecc) (s : State) (u : Use) (n : Nat) : State :=
  match tk with
  | .double r => if r then ticketUe s u else ticketLost s
  | e =>
    let s1 := match e with | .corrected => ticketCe s | _ => s
    if (ticketAt u n).isSome && (ticket s1 n).st == 2 then
      sendCheck (putUse (markTicket s1 n 4) { u with acked := u.acked + 1 }) u.slot
    else s1

/-- An answer's acknowledgement counts for the oldest RETURN of the use that awaits one. -/
def answerAcked (s : State) (u : Use) : State :=
  match s.front.inflight.find? (fun c => runsOp u 0x29 c && decide (retAcked c < retSent c)) with
  | none => s
  | some c =>
    returnCheck (setCmd s { c with
      saved := retSaved (retRaws c) (retTotal c) (retSent c) (retAcked c + 1) (retSkipped c) (retRest c) }) c.q c.tag u.epoch

/-- The write path has its slot for the ticket of an acknowledged row (R107, R196); the acknowledgement of an answer touches
no ticket. -/
def dackSlots (s : State) (m : Msg) : Bool :=
  bits m.hdr 64 2 != 1 || rotaHolds s (48 + bits m.hdr 128 21 % 16) 0x19

/-- DACK_RECEIVE: the first acknowledgement that has its slot. -/
def dackReceive (tk : Ecc) (s : State) : State :=
  match takeMsg s (fun m => m.kind == 3 && dackSlots s m) with
  | none => s
  | some (m, s1) =>
    let w0 := bits m.hdr 64 64
    match matchUse s1 w0 with
    | none => s1
    | some u => if w0 % 4 = 1 then rowAcked tk s1 u (bits m.hdr 128 21) else answerAcked s1 u

/-! ## Writers that stalled -/

/-- SORTs and RETURNs write what items now find room (R205), and a SORT whose last item has been read completes. -/
def pumpWriters (s : State) : State :=
  s.front.inflight.foldl (fun v c =>
    match findCmd v c.q c.tag with
    | none => v
    | some c1 =>
      if c1.opc = 0x20 ∧ c1.st = .exec ∧ !c1.saved.isEmpty then sortPump v c1
      else if c1.opc = 0x29 ∧ c1.st = .exec ∧ !(retRest c1).isEmpty then returnPump v c1
      else v) s

/-- The work of a reader of a queue, with what follows it. -/
def afterRead (s : State) : State := settleAll (pumpWriters (feedQueues s))

/-! ## Stalls (R224) -/

/-- Answers of a use still outstanding. -/
def pendSum (s : State) (u : Use) : Nat :=
  sumNat ((List.range u.t).map (fun t => if u.combined.contains t then 0 else leadPend s u t))

/-- A SEND, RETURN or COMBINE whose stall timer has run out completes with STALLED (R224). -/
def stallUse (s : State) (c : Cmd) : State :=
  match liveUse s c.ctx c.batch with
  | none => s
  | some u =>
    let s1 := countC s 0x91130 1
    if c.opc = 0x28 ∧ c.st = .exec ∧ !c.saved.isEmpty then
      sendOver s1 c stStalled (sendLeft u c % 2 ^ 24) 0 u.epoch
    else if c.opc = 0x29 ∧ c.st = .exec ∧ !c.saved.isEmpty then
      finish s1 c.q c.tag stStalled ((retTotal c - retAcked c) % 2 ^ 24) 0 u.epoch
    else if c.opc = 0x2A ∧ c.st = .waitTokens then
      finish s1 c.q c.tag stStalled (pendSum s1 u % 2 ^ 24) 0 u.epoch
    else s

/-! ## Meanings -/

/-- The classes in the order in which a work queue is read. -/
def classes : List Nat := [0, 1, 2, 3]

/-- WQ_REFILL -/
def execWqRefill (w cls : Nat) (ecc : Ecc) (s : State) : Host.Outcome State Fault Refusal :=
  .next (working (fun u => afterRead (wqRefill w cls ecc u)) s)

/-- WQ_RESET_DONE -/
def execWqResetDone (w : Nat) (s : State) : Host.Outcome State Fault Refusal :=
  .next (working (fun u => afterRead (wqResetDone u w)) s)

/-- SEND_FORWARD -/
def execSendForward (q tag : Nat) (s : State) : Host.Outcome State Fault Refusal :=
  .next (working (issueRow (fun c => c.opc == 0x28 && !bit c.subop 0) q tag sendWork) s)

/-- SEND_BACKWARD -/
def execSendBackward (q tag : Nat) (s : State) : Host.Outcome State Fault Refusal :=
  .next (working (issueRow (fun c => c.opc == 0x28 && bit c.subop 0) q tag sendWork) s)

/-- SEND_HOLD_RELEASE -/
def execSendHoldRelease (q tag : Nat) (s : State) : Host.Outcome State Fault Refusal :=
  .next (working (holdRelease 0x28 sendGo q tag) s)

/-- SEND_ITEM -/
def execSendItem (item tk : Ecc) (s : State) : Host.Outcome State Fault Refusal :=
  .next (working (fun u => afterRead (readQueue 0 item (sendAct tk) classes u)) s)

/-- ROW_ARRIVAL -/
def execRowArrival (ecc : Ecc) (s : State) : Host.Outcome State Fault Refusal :=
  .next (working (fun u => afterRead (rowArrival ecc classes (feedQueues u))) s)

/-- ROW_PLAN_TIMEOUT -/
def execRowPlanTimeout (cls : Nat) (s : State) : Host.Outcome State Fault Refusal :=
  .next (working (fun u => afterRead (rowTimeout cls (feedQueues u))) s)

/-- DACK_RECEIVE -/
def execDackReceive (ecc : Ecc) (s : State) : Host.Outcome State Fault Refusal := .next (working (dackReceive ecc) s)

/-- RETURN -/
def execRet (q tag : Nat) (s : State) : Host.Outcome State Fault Refusal :=
  .next (working (issueRow (isOp 0x29) q tag returnWork) s)

/-- RETURN_HOLD_RELEASE -/
def execReturnHoldRelease (q tag : Nat) (s : State) : Host.Outcome State Fault Refusal :=
  .next (working (holdRelease 0x29 returnGo q tag) s)

/-- RETURN_ITEM -/
def execReturnItem (ecc : Ecc) (s : State) : Host.Outcome State Fault Refusal :=
  .next (working (fun u => afterRead (readQueue 2 ecc returnAct classes u)) s)

/-- ANSWER_ARRIVAL -/
def execAnswerArrival (item tk : Ecc) (s : State) : Host.Outcome State Fault Refusal :=
  .next (working (fun u => afterRead (answerArrival item tk classes (feedQueues u))) s)

end Sys2Proof.Machine
end

