-- ==== Sys2Proof/Machine/Link.lean ====
section
/-! DEFINITION. The sending side of a Skeles link: virtual channels (R307), flits (R303), the retry window (R305), the
hop decision of a message (R310 to R313), and what a link that goes down does to the messages on it (R308). -/

namespace Sys2Proof.Machine

/-! ## Control words and LINK flits -/

/-- Priority class of an FP owner code (Table 15.1). -/
def fpClass (owner : Nat) : Option Nat :=
  if 0x30 ≤ owner ∧ owner ≤ 0x33 then some (owner - 0x30) else if owner = 0x38 then some 3 else none

/-- MD as a link carries it (R301). -/
def markMd (p : Port) (d : Nat) : Nat := if p.ver = 1 then d % 2 ^ 16 else d % 2 ^ 21

/-- Sends a CAIRN mark in the next control word of port `n`, where its link is up (R315, R316), and keeps it until the far
end is known to have had it. -/
def sendMark (s : State) (n g d : Nat) : State :=
  if portUp s n then
    let p := port s n
    let s1 := setPort s n { p with marks := p.marks ++ [(g, d, now s)] }
    putWire s1 n (mkFlit (ctlBase p 0 + 2 ^ 27 + g % 64 * 2 ^ 21 + markMd p d) 0 [])
  else s

/-- PLL A cycles in `n` GCLK cycles: 45 in 16 (Table 02.3, log entry 138). -/
def pllaCycles (n : Nat) : Nat := ceilDiv (45 * n) 16

/-- PLL A cycles of a flit time of port `n`: 4 / w FCLK cycles (R297, log entry 138). -/
def flitCycles (s : State) (n : Nat) : Nat :=
  ceilDiv 36 (7 * max 1 ((List.range 4).filter (bit (port s n).groups)).length)

/-- A flit that carried marks failed: they are sent again, in ascending group order in successive control words, MD
increased by the PLL A cycles since each was first sent (R315, R316, log entry 138). -/
def repeatMarks (s : State) (n : Nat) : State :=
  let p := port s n
  let l := p.marks.foldr (fun m acc => acc.takeWhile (fun x => decide (x.1 < m.1)) ++ m ::
    acc.dropWhile (fun x => decide (x.1 < m.1))) []
  (l.zip (List.range l.length)).foldl (fun u x =>
    let d := x.1.2.1 + pllaCycles (now s - x.1.2.2) + x.2 * flitCycles s n
    putWire u n (mkFlit (ctlBase (port u n) 0 + 2 ^ 27 + x.1.1 % 64 * 2 ^ 21 + markMd p d) 0 [])) s

/-- Sends a LINK flit: subtype and lane (Table 12.4); a version-1 link does not carry them (R301). -/
def sendLink (s : State) (n sub lane : Nat) : State :=
  let rest := if (port s n).ver = 1 then 0 else sub * 2 ^ 64 + lane * 2 ^ 68
  putWire s n (mkFlit (ctlBase (port s n) 0) (0xA * 2 ^ 8 + rest) [])

/-! ## Sending (R305 to R307) -/

/-- The class of a KIND: DACK, DPRSP and UNREACH are responses. -/
def isResponse (kind : Nat) : Bool := kind == 3 || kind == 5 || kind == 9

/-- The channel of a header. -/
def vcOf (h : Nat) : Nat := bits h 12 2

/-- Credit for a flit on channel `vc` (R307): 64 buffers at the far end. -/
def hasCredit (p : Port) (vc : Nat) : Bool := (nth p.sentVc vc + 256 - nth p.ctot vc) % 256 < 64

/-- The header of the next flit of a message: HEAD, TAIL, LEN; on a version-1 link without the bits of R301. -/
def flitHdr (ver : Nat) (x : TxMsg) : Nat :=
  let n := min 352 x.left.length
  let h1 := setBits (setBits (setBits x.hdr 14 1 (b2n !x.started)) 15 1 (b2n (decide (x.left.length ≤ 352)))) 52 9 n
  if ver = 1 then
    let h2 := setBits (setBits h1 46 6 0) 61 2 0
    if bits h2 8 4 = 7 then setBits h2 136 4 0 else h2
  else h1

/-- Sends the next flit of a message on port `n`: sequenced, and kept for replay. The ingress buffer that held it falls
free, and with the tail all that the message still holds (R307). -/
def sendFlit (s : State) (n : Nat) (x : TxMsg) : State :=
  let p := port s n
  let vc := vcOf x.hdr
  let h := flitHdr p.ver x
  let f := mkFlit (ctlBase p vc + p.txSeq * 2 ^ 52 + 2 ^ 38) h (x.left.take 352)
  let len := bits h 52 9
  let s1 := setPort s n { p with
    txSeq := (p.txSeq + 1) % 4096, retry := p.retry ++ [f],
    sentVc := p.sentVc.set vc ((nth p.sentVc vc + 1) % 256) }
  let s2 := pmcEvent (bwAdd (putWire s1 n f) (20 + n) 1 len) 0x054 (some n) none (fpClass (bits h 0 8)) len
  freeBufs s2 x.orig.hold (if x.left.length ≤ 352 then x.orig.hold.bufs else min 1 x.orig.hold.bufs)

/-- The owner code of a group (R292). -/
def groupOwner (owner : Nat) : Bool := decide (0x40 ≤ owner ∧ owner ≤ 0x7F)

/-- Among a group's messages that wait for a link the one of the lowest chunk goes first, and one that has begun is sent
whole before the next (R292): message `x` gives way to message `y` of the same owner. -/
def givesWay (x y : TxMsg) : Bool :=
  !x.started && groupOwner (bits x.hdr 0 8) && bits x.hdr 0 8 == bits y.hdr 0 8 &&
  (y.started || decide (bits y.hdr 102 24 < bits x.hdr 102 24))

/-- A flit of the message may leave now: the owner has slots, the window has room and the channel has credit; a head
needs a channel that no other message holds. -/
def mayLeave (s : State) (n : Nat) (busy : List Nat) (x : TxMsg) : Bool :=
  let p := port s n
  (p.st == 5 || (p.st == 6 && x.started)) && holdsFp s n (bits x.hdr 0 8) && decide (p.retry.length < 128) &&
  hasCredit p (vcOf x.hdr) && (x.started || !busy.contains (vcOf x.hdr))

/-- Sends flits of one message while they may leave: what remains of it, none where its tail has left. -/
def sendFlits (n : Nat) (busy : List Nat) : Nat → State → TxMsg → State × Option TxMsg
  | 0, s, x => (s, some x)
  | fuel + 1, s, x =>
    if mayLeave s n busy x then
      let s1 := sendFlit s n x
      if x.left.length ≤ 352 then (s1, none)
      else sendFlits n busy fuel s1 { x with
        left := x.left.drop 352, started := true,
        orig := { x.orig with hold := { x.orig.hold with bufs := x.orig.hold.bufs - 1 } } }
    else (s, some x)

/-- Goes through the messages of a port in order; a message whose head has left holds its channel, and one of a group
gives way to those of the group in `all` that go before it. What has left wholly is taken from `all`. -/
def pumpMsgs (n : Nat) (all : List TxMsg) : List Nat → State → List TxMsg → State × List TxMsg
  | _, s, [] => (s, [])
  | busy, s, x :: rest =>
    let mine := if x.started then busy.erase (vcOf x.hdr) else busy
    let (s1, left) := if all.any (givesWay x) then (s, some x) else sendFlits n mine (x.left.length / 352 + 1) s x
    match left with
    | none => pumpMsgs n (all.erase x) mine s1 rest
    | some y =>
      let more := pumpMsgs n (all.map (fun z => if z == x then y else z))
        (if y.started then vcOf y.hdr :: mine else mine) s1 rest
      (more.1, y :: more.2)

/-- Sends what port `n` can send, once over its messages. -/
def pumpOnce (s : State) (n : Nat) : State :=
  let q := (port s n).txq
  let (s1, left) := pumpMsgs n q ((q.filter (·.started)).map (fun x => vcOf x.hdr)) s q
  setPort s1 n { port s1 n with txq := left }

/-- Sends what port `n` can send: over its messages until none leaves. -/
def pumpAll (n : Nat) : Nat → State → State
  | 0, s => s
  | fuel + 1, s =>
    let s1 := pumpOnce s n
    if (port s1 n).txq == (port s n).txq then s1 else pumpAll n fuel s1

/-- Sends what port `n` can send. -/
def portPump (s : State) (n : Nat) : State := pumpAll n ((port s n).txq.length + 1) s

/-! ## The next hop (R310 to R313) -/

/-- The channel of a message that leaves on port `n` (R307): that of the line it is on, and after the dateline once it
crosses the dateline link of that line. -/
def hopVc (s : State) (m : Msg) (n : Nat) : Nat :=
  let x := coordOf (ownChip s) (n / 2)
  let crosses := if n % 2 = 0 then x + 1 == domSize s (n / 2) else x == 0
  let same := match m.hold.port with
    | some k => k / 2 == n / 2 && vcOf m.hdr % 2 == 1
    | none => false
  2 * b2n (isResponse m.kind) + b2n (crosses || same)

/-- A message that has no route is discarded and counted; unless it is itself an UNREACH, its source hears of it. -/
def discardMsg (s : State) (m : Msg) : State :=
  let s1 := countC (freeHold s m.hold) 0xA0410 1
  if m.kind = 9 then s1 else post s1 (unreachOf s1 m)

/-- The marks of group `g`'s CAIRN at this chip. -/
def markRec (s : State) (g : Nat) : MarkRec := slook (fun _ => {}) s.fab.marks g
/-- Replaces them. -/
def setMarkRec (s : State) (g : Nat) (r : MarkRec) : State :=
  { s with fab := { s.fab with marks := sput (fun _ => {}) s.fab.marks g r } }

/-- A message that leaves on port `n` is the release of a CAIRN: its mark goes with it, once over each link, with the MD
received and this link's delay, or as soon as the mark has come (R315). -/
def releaseMark (s : State) (m : Msg) (n : Nat) : State :=
  if m.kind = 7 ∧ m.sub = 2 then
    let g := m.grp
    let r0 := markRec s g
    let r := if r0.seq = none ∨ r0.seq = some m.seq then { r0 with seq := some m.seq } else { seq := some m.seq }
    if r.sent.contains n || r.due.contains n then setMarkRec s g r
    else match r.md with
      | some d => sendMark (setMarkRec s g { r with sent := n :: r.sent }) n g (d + (port s n).delay)
      | none => setMarkRec s g { r with due := r.due ++ [n] }
  else s

/-- A mark of group `g` has come with accumulated delay `d`: one of a later CAIRN starts anew. It goes on over the links on
which the release has left (R315). -/
def takeMark (s : State) (g d : Nat) : State :=
  let r0 := markRec s g
  let r := if r0.md.isSome then { md := some d } else { r0 with md := some d }
  r.due.foldl (fun u n => sendMark u n g (d + (port u n).delay))
    (setMarkRec s g { r with due := [], sent := r.sent ++ r.due })

/-- Decides the next hop of a message that waits (R310). -/
def routeMsg (s : State) (m : Msg) : State :=
  let r := routeHdr m.hdr
  let s1 := countHop s r
  match decideHop s1 r with
  | .deliver => { s1 with fab := { s1.fab with inbox := s1.fab.inbox ++ [m] } }
  | .blocked => discardMsg s1 m
  | .send n q detour =>
    let s2 := if detour then countC s1 0xA0408 1 else s1
    let h := setBits (putRoute m.hdr q) 12 2 (hopVc s2 m n)
    let p := port s2 n
    releaseMark (portPump (setPort s2 n { p with txq := p.txq ++ [{ orig := m, hdr := h, left := m.data }] }) n) m n

/-- The ingress of a port is stopped by a row or an answer that its queue cannot take (R205). -/
def portStuck (s : State) (n : Option Nat) : Bool := n.isSome && s.fab.inbox.any (fun m => m.toQueue && m.hold.port == n)

/-- MESSAGE_FORWARD: the first message that waits and whose port's ingress runs goes to its next hop. -/
def forwardMsg (s : State) : State :=
  match s.fab.outbox.find? (fun m => !portStuck s m.hold.port) with
  | none => s
  | some m => routeMsg { s with fab := { s.fab with outbox := s.fab.outbox.erase m } } m

/-- Messages that have not begun to leave on port `n` are routed anew; those begun stay. -/
def requeue (s : State) (n : Nat) : State :=
  let p := port s n
  let s1 := setPort s n { p with txq := p.txq.filter (·.started) }
  { s1 with fab := { s1.fab with outbox := (p.txq.filter (fun x => !x.started)).map (·.orig) ++ s1.fab.outbox } }

/-- DETOUR_TIMEOUT (R313): the first message in transit that has detoured and whose head waits is discarded. -/
def detourTimeout (s : State) : State :=
  let waits := fun (x : TxMsg) => !x.started && x.orig.hold.port.isSome &&
    ((routeHdr x.hdr).revd || (routeHdr x.hdr).offax != 0)
  match (List.range 6).find? (fun n => (port s n).txq.any waits) with
  | none => s
  | some n =>
    let p := port s n
    match p.txq.find? waits with
    | none => s
    | some x => discardMsg (setPort s n { p with txq := p.txq.erase x }) x.orig

/-! ## Link loss (R308) -/

/-- FPn_PHY_EN. -/
def setPhyEn (s : State) (n : Nat) (on : Bool) : State :=
  { s with pins := { s.pins with phyEn := setBits s.pins.phyEn n 1 (b2n on) } }

/-- FAB_PCTL[n].EN -/
def portEn (s : State) (n : Nat) : Bool := bit (csrGet s (oFabPctl n)) 0

/-- Training starts at PHYWAIT; a PHY that is ready already lets it go on to LANE. A new training forgets the retired
lanes (R309). -/
def startTraining (s : State) (n : Nat) : State :=
  let p := port s n
  setPhyEn (setPort s n { p with st := if p.phyRdy then 2 else 1, retrain := false, pend := false, retired := 0 }) n true

/-- The port reaches DOWN: what it held is discarded, and training starts at once where an enable is pending (R325), or
100 ms later where EN is still 1. -/
def portDown (s : State) (n : Nat) : State :=
  let p := port s n
  let s1 := setPhyEn (setPort s n { p with
    st := 0, retrain := portEn s n && !p.pend, ver := 0, groups := 0, active := 0, retry := [], rx := [], txq := [],
    fails := [], marks := [] }) n false
  if p.pend then startTraining s1 n else s1

/-- The message of each channel whose head has crossed the link and whose tail stands in the retry buffer (R308): the
first flit of the channel there is no head. -/
def halfCrossed (p : Port) : List Msg :=
  [0, 1, 2, 3].filterMap (fun vc =>
    let l := p.retry.filter (fun f => vcOf f.hdr.toNat == vc)
    match l with
    | [] => none
    | f :: _ =>
      if bit f.hdr.toNat 14 || !(l.takeWhile (fun x => !bit x.hdr.toNat 14)).any (fun x => bit x.hdr.toNat 15) then none
      else some { hdr := f.hdr.toNat })

/-- A link goes down (R308): FAILCODE where there is one, LINKDN, the log; messages cut short are answered with UNREACH,
and those that had not begun are routed anew. A message that stands whole in the retry buffer goes with it (log entry
139). -/
def linkDown (s : State) (n : Nat) (code : Option Nat) : State :=
  let s0 := setPort s n { port s n with failcode := code.getD (port s n).failcode }
  let s1 := requeue s0 n
  let cut := ((port s1 n).txq).map (·.orig) ++ halfCrossed (port s1 n)
  let s2 := csrSet (portDown s1 n) (oFabPstat n) (2 ^ 11)
  let s3 := raiseFault s2 0x0401 1 8 0 (code.getD 0) n
  cut.foldl (fun u m =>
    let v := freeHold u m.hold
    if m.kind = 9 then v else post v (unreachOf v m)) s3

end Sys2Proof.Machine
end

