-- ==== Sys2Proof/Machine/Coll.lean ====
section
/-! DEFINITION. The collective unit (chapter 11): the signature round (R284), the ring steps of each operation (R277 to
R280), chunks and their signals (R276, R282) and CAIRN (R293). -/

namespace Sys2Proof.Machine

/-! ## Combining two values (R278) -/

/-- The nearest value of a format; beyond its range the infinity of the sign. -/
def roundInf (f : Flt) (v : FVal) : FVal :=
  match v with
  | .fin n m e =>
    let (m1, e1) := roundTo f 0 m e
    if leF (.fin false m1 e1) (maxFin f) then .fin n m1 e1 else .inf n
  | x => x

/-- The greater or lesser of two values: a NaN gives the canonical NaN, and +0 is greater than −0. -/
def pickF (least : Bool) (a b : FVal) : FVal :=
  if a.isNan || b.isNan then .nan
  else
    let aLess := ltF a b || (cmpF a b == 0 && a.sign && !b.sign)
    if aLess == least then a else b

/-- The sum of two codes of a type; the incoming one is first. -/
def sumCode (ety inc own : Nat) : Num Nat :=
  match ety with
  | 9 => pure ((inc + own) % 2 ^ 32)
  | 8 => do
    let p ← pairMerge (codePair inc) (codePair own)
    pure (pairCode p)
  | 1 => do
    let v ← exactAdd (decodeF .f32 inc) (decodeF .f32 own)
    pure (encodeF .f32 (roundInf .f32 v))
  | _ => do
    let v ← exactAdd (decodeF .b16 inc) (decodeF .b16 own)
    pure (encodeF .b16 (roundInf .b16 v))

/-- The greater or lesser of two codes; of two pairs with equal sums the incoming one. -/
def pickCode (least : Bool) (ety inc own : Nat) : Num Nat :=
  match ety with
  | 9 => pure (if (decide (sext inc 32 < sext own 32)) == least then inc else own)
  | 8 => do
    let a ← pairVal (codePair inc)
    let b ← pairVal (codePair own)
    pure (if a.isNan || b.isNan then pairCode ⟨.nan, fzero⟩
      else if cmpF a b = 0 then inc
      else if ltF a b == least then inc else own)
  | 1 => pure (encodeF .f32 (pickF least (decodeF .f32 inc) (decodeF .f32 own)))
  | _ => pure (encodeF .b16 (pickF least (decodeF .b16 inc) (decodeF .b16 own)))

/-- One element: SUM, MAX or MIN by SUBOP, of which undefined values act as 0. -/
def combineCode (sub ety inc own : Nat) : Num Nat :=
  if sub = 1 then pickCode false ety inc own
  else if sub = 2 then pickCode true ety inc own
  else sumCode ety inc own

/-- The elements of a 64-byte line. -/
def lineCodes (ety line : Nat) : List Nat :=
  (List.range (512 / etyBits ety)).map (fun j => bits line (etyBits ety * j) (etyBits ety))

/-- A line from its elements. -/
def codesLine (ety : Nat) (codes : List Nat) : Nat := codes.foldr (fun c acc => c + 2 ^ etyBits ety * acc) 0

/-- Two lines combined. -/
def combineLine (sub ety inc own : Nat) : Num Nat := do
  let r ← ((lineCodes ety inc).zip (lineCodes ety own)).mapM (fun p => combineCode sub ety p.1 p.2)
  pure (codesLine ety r)

/-! ## Working values -/

/-- A working line. -/
def CollOp.line (o : CollOp) (k : Nat) : Nat := slook (fun _ => 0) o.work k
/-- Working lines replaced. -/
def CollOp.put (o : CollOp) (kv : List (Nat × Nat)) : CollOp :=
  { o with work := kv.foldl (fun w p => sput (fun _ => 0) w p.1 p.2) o.work }

/-- The payload of lines. -/
def linesData (l : List Nat) : List Byte := (l.map (leBytes 64)).flatten

/-- The `n` lines of a payload. One that is too short, which only members with different definitions can send (R268), is
filled with free values. -/
def dataLines (draw n : Nat) (data : List Byte) : List Nat :=
  let fill := (List.range (64 * n - data.length)).map (fun i => Config.freeByte (draw + i))
  (runs 64 n (data ++ fill)).map leNat

/-- A collective of group `g` stops at an MP error of its own (R282). -/
def collFault (s : State) (g : Nat) (o : CollOp) (code : Nat) : State :=
  abortColl (mpFault s o.ctx o.q code) g stEcc (grp s g).midx (some code)

/-- Accesses to memory of the collective of group `g` (R281), and what follows where none failed. -/
def collIo {α : Type} (s : State) (g : Nat) (o : CollOp) (act : Mio α) (k : State → α → State) : State :=
  let (x, io) := act (ioStart s)
  let s1 := ioClose s (0x40 + g) (0x40 + g) io
  match io.stop with
  | some (.mp code) => collFault s1 g o code
  | _ => k s1 x

/-- Replaces the executing collective. -/
def setOp (s : State) (g : Nat) (o : CollOp) : State := setGrp s g { grp s g with active := some o }

/-! ## Chunks in flight (R276) -/

/-- A collective with the chunk of a run at hand. -/
def CollOp.view (o : CollOp) (r : ChunkRun) : CollOp :=
  { o with chunk := r.chunk, phase := r.phase, step := r.step, work := r.work, lower := r.lower }

/-- A collective that puts the chunk at hand back among those in flight, its destination bytes final or not. -/
def CollOp.keep (o : CollOp) (done : Bool) : CollOp :=
  let r : ChunkRun := { chunk := o.chunk, phase := o.phase, step := o.step, work := o.work, lower := o.lower, done := done }
  { o with
    flight := o.flight.filter (fun x => decide (x.chunk < o.chunk)) ++ r :: o.flight.filter (fun x => decide (o.chunk < x.chunk)),
    chunk := 0, phase := 0, step := 0, work := [], lower := [] }

/-! ## Destinations -/

/-- Writes destination bytes; those of a mismatched collective under NOSIG (R285) and those of an overlap with the source
(R273) are free values. -/
def destWrite (o : CollOp) (box m a : Nat) (bs : List Byte) : Mio Unit := do
  let io ← get
  let free := o.loose || (List.range (ceilDiv bs.length 64)).any (fun i => o.clash box m (a + 64 * i))
  if free then do
    set { io with mem := { io.mem with draws := io.mem.draws + bs.length } }
    ioWrite false (a % 2 ^ 42) ((List.range bs.length).map (fun i => Config.freeByte (io.mem.draws + i)))
  else ioWrite false (a % 2 ^ 42) bs

/-- The bytes of line `l` of an operation's data: clipped to bytes(n), and a BX8 row with its padding of 0x00 (R169,
R273). -/
def clipLine (o : CollOp) (l v : Nat) : List Byte :=
  let b := (leBytes 64 v).take (o.bytes - 64 * l)
  b ++ List.replicate (o.lineBytes l - b.length) 0#8

/-- Writes reduced lines to the destination: in place of the source's line for ALLREDUCE, from B on for REDSCAT (R277). -/
def writeReduced (o : CollOp) (box m : Nat) (ls : List Nat) : Mio Unit := do
  let first := (sliceLines o.lines box (relIdx box m 0) (relIdx box m 1) (relIdx box m 2)).1
  ls.forM (fun l => destWrite o box m (o.dst + 64 * (if o.opc = 0x41 then l - first else l)) (clipLine o l (o.line l)))

/-- Writes lines of the block of member `k` on member `m` (R279). -/
def writeBlock (o : CollOp) (box m : Nat) (ls : List Nat) (k : Nat) : Mio Unit :=
  ls.forM (fun l =>
    destWrite o box m (o.dst + k * roundUp o.bytes 64 + 64 * l) (clipLine o l (o.line (k * 2 ^ 32 + l))))

/-- The lines of the chunk at hand of a gather or scan. -/
def gatherLines (o : CollOp) (box : Nat) : List Nat := chunkOf (chunkLines box) o.chunk 0 o.lines

/-- The number of axis phases of a collective. -/
def phaseCount (o : CollOp) (box : Nat) : Nat := (phaseAxes box o.opc).length

/-- The phase of the chunk at hand gathers; the other kind of phase reduces. -/
def gathering (o : CollOp) (box : Nat) : Bool := !o.reduces || decide ((ringAxes box).length ≤ o.phase)

/-- The keys of the working lines that coordinate `u` of axis `a` holds in the phase of the chunk at hand. -/
def pieceKeys (o : CollOp) (box m a u : Nat) : List Nat :=
  if o.reduces then shardLines o box m a u
  else if o.scans then (gatherLines o box).map (fun l => u * 2 ^ 32 + l)
  else (blockMembers box m a u).flatMap (fun k => (gatherLines o box).map (fun l => k * 2 ^ 32 + l))

/-! ## One chunk (R276, R277, R279, R280) -/

/-- A source line; one in an overlap with the destination reads as free values (R273). -/
def sourceLine (o : CollOp) (box m l : Nat) : Mio Nat := do
  let b ← ioRead false ((o.src + 64 * l) % 2 ^ 42) 64
  if o.clash box m (o.src + 64 * l) then do
    let io ← get
    set { io with mem := { io.mem with draws := io.mem.draws + 64 } }
    pure (leNat ((List.range 64).map (fun i => Config.freeByte (io.mem.draws + i))))
  else pure (leNat b)

/-- Reads the source of the chunk at hand as working lines. -/
def loadChunk (o : CollOp) (box m : Nat) : Mio CollOp := do
  let keys :=
    if o.reduces then
      (slicesLines o.lines box o.chunk (List.range (boxSize box 0)) (List.range (boxSize box 1))
        (List.range (boxSize box 2))).map (fun l => (l, l))
    else
      let base := if o.scans then relIdx box m ((ringAxes box).headD 0) else m
      (gatherLines o box).map (fun l => (base * 2 ^ 32 + l, l))
  let kv ← keys.mapM (fun p => do
    let v ← sourceLine o box m p.2
    pure (p.1, v))
  pure (CollOp.put { o with work := [], lower := [] } kv)

/-- The element of a working line of an XSCAN. -/
def scanElem (o : CollOp) (u e : Nat) : Nat := bits (o.line (u * 2 ^ 32 + e / 16)) (32 * (e % 16)) 32

/-- The sums that end a phase of an XSCAN on axis `a` (R280): LOWER grows by the lower coordinates, and the vector of the
next phase is the sum over the line, held under the member's coordinate on axis `b`. -/
def foldScan (o : CollOp) (box m a b : Nat) : CollOp :=
  let ls := gatherLines o box
  let es := ls.flatMap (fun l => (List.range 16).map (fun j => 16 * l + j))
  let low := es.map (fun e => sumNat ((List.range (relIdx box m a)).map (fun u => scanElem o u e)) % 2 ^ 32)
  let tot := es.map (fun e => sumNat ((List.range (boxSize box a)).map (fun u => scanElem o u e)) % 2 ^ 32)
  let old := padTo es.length 0 o.lower
  let o1 := { o with work := [], lower := (low.zip old).map (fun (p : Nat × Nat) => (p.1 + p.2) % 2 ^ 32) }
  o1.put ((ls.zip (runs 16 ls.length tot)).map (fun (p : Nat × List Nat) => (relIdx box m b * 2 ^ 32 + p.1, codesLine 9 p.2)))

/-- Writes LOWER and TOTAL of the chunk's elements (R153, R280). -/
def writeScan (o : CollOp) (box m : Nat) : Mio Unit := do
  let r := scanRange o box o.chunk
  let u := relIdx box m ((ringAxes box).getLastD 0)
  let ws := (List.range r.2).map (fun i => nth o.lower i + scanElem o u (r.1 + i) * 2 ^ 32)
  destWrite o box m (o.dst + 8 * r.1) ((ws.map (leBytes 8)).flatten)

/-- What a member writes of its own in the chunk before any ring step: its block, or all of it where it has no ring. -/
def writeOwn (o : CollOp) (box m : Nat) : Mio Unit :=
  if o.reduces then (if phaseCount o box = 0 then writeReduced o box m (ownLines o box m o.chunk) else pure ())
  else if o.scans then (if phaseCount o box = 0 then writeScan o box m else pure ())
  else writeBlock o box m (gatherLines o box) m

/-- Sends a piece of the chunk at hand to the successor on axis `a` (R277, R279). -/
def sendPiece (s : State) (g a step : Nat) (o : CollOp) (keys : List Nat) : State :=
  let box := grpBox s g
  sendRing s g (ringNext s box (grp s g).midx a 1) a true 6 o.seq o.chunk (a + 1) step 0 (linesData (keys.map o.line))

/-- Step 1 of the phase at hand: in a reduction the sub-shard owned one position back, else the member's own piece. -/
def startPhase (s : State) (g : Nat) (o : CollOp) : State :=
  let box := grpBox s g
  let m := (grp s g).midx
  let a := nth (phaseAxes box o.opc) o.phase
  let back := ringAt (ringOrder s box m a) (ringPos (ringOrder s box m a) (relIdx box m a) + boxSize box a - 1)
  let u := if gathering o box then relIdx box m a else back
  sendPiece s g a 1 o (pieceKeys o box m a u)

/-- Starts the next chunk. A group of one member has no ring step: its chunk is final at once. -/
def startChunk (s : State) (g : Nat) (o : CollOp) : State :=
  let box := grpBox s g
  let m := (grp s g).midx
  let o0 := { o.view { chunk := o.next } with next := o.next + 1 }
  collIo s g o0 (do
      let o1 ← loadChunk o0 box m
      writeOwn o1 box m
      pure o1)
    (fun u o1 => if phaseCount o1 box = 0 then setOp u g (o1.keep true) else startPhase (setOp u g (o1.keep false)) g o1)

/-- What ends the phase at hand: writes of the member's own piece after the last reduction, sums of a scan. -/
def endPhase (o : CollOp) (box m : Nat) : Mio CollOp := do
  let axes := phaseAxes box o.opc
  let a := nth axes o.phase
  if o.reduces ∧ o.phase + 1 = (ringAxes box).length then do
    writeReduced o box m (ownLines o box m o.chunk)
    pure o
  else if o.scans then do
    let o1 := foldScan o box m a (nth axes (min (o.phase + 1) (axes.length - 1)))
    if o.phase + 1 = axes.length then writeScan o1 box m else pure ()
    pure o1
  else pure o

/-- The phase at hand has ended; after the last one the chunk's destination bytes are final. -/
def phaseDone (s : State) (g : Nat) (o : CollOp) : State :=
  let box := grpBox s g
  collIo s g o (endPhase o box (grp s g).midx) (fun u o1 =>
    let o2 := { o1 with phase := o1.phase + 1, step := 0 }
    if phaseCount o2 box ≤ o2.phase then setOp u g (o2.keep true) else startPhase (setOp u g (o2.keep false)) g o2)

/-- The residue check of `n` additions (R286): additions that a repeat mended are counted, and one that no repeat mends
aborts the collective; else it goes on. -/
def residue (res : Residue) (n : Nat) (s : State) (g : Nat) (o : CollOp) (k : State → State) : State :=
  let s1 := countC s 0x91118 (min res.repaired n)
  if res.fault && decide (0 < n) then
    abortColl (raiseFault (csrSet (countC s1 0x91120 1) 0x91000 1) 0x0301 2 7 o.ctx 0 o.q) g stResidue (grp s1 g).midx none
  else k s1

/-- A step of a reduction: the partial of the sub-shard owned at this member's position less `i` less 1 gains the member's
own value, and is sent on or ends its phase (R277, R286). -/
def stepReduce (res : Residue) (s : State) (g a i : Nat) (o : CollOp) (data : List Byte) : State :=
  let box := grpBox s g
  let m := (grp s g).midx
  let p := boxSize box a
  let order := ringOrder s box m a
  let u := ringAt order (ringPos order (relIdx box m a) + 2 * p - 1 - i)
  let keys := pieceKeys o box m a u
  let inc := dataLines s.draws keys.length data
  let (vals, t) := ((keys.zip inc).mapM (fun kv => combineLine o.subop o.etype kv.2 (o.line kv.1)) : Num (List Nat)) {}
  let adds := if o.subop = 1 ∨ o.subop = 2 then 0 else keys.length * (512 / etyBits o.etype)
  residue res adds s g o fun s0 =>
    let o1 := CollOp.put { o with step := i } (keys.zip vals)
    let s1 := addTally s0 t
    let s2 := setOp { s1 with draws := s1.draws + (64 * keys.length - data.length) } g (o1.keep false)
    if i + 1 < p then sendPiece s2 g a (i + 1) o1 keys else phaseDone s2 g o1

/-- A step of a gather: the piece of the member `i` positions back is held, written and passed on (R277, R279, R280). An
XSCAN adds it to the sum over the line, and one of a lower coordinate to that over the lower ones. -/
def stepGather (res : Residue) (s : State) (g a i : Nat) (o : CollOp) (data : List Byte) : State :=
  let box := grpBox s g
  let m := (grp s g).midx
  let p := boxSize box a
  let order := ringOrder s box m a
  let u := ringAt order (ringPos order (relIdx box m a) + p - i)
  let keys := pieceKeys o box m a u
  let vals := dataLines s.draws keys.length data
  let adds := if o.scans then 16 * keys.length * (if u < relIdx box m a then 2 else 1) else 0
  residue res adds s g o fun s0 =>
    let o1 := CollOp.put { o with step := i } (keys.zip vals)
    let write : Mio Unit :=
      if o.scans then pure ()
      else if o.reduces then writeReduced o1 box m keys
      else (blockMembers box m a u).forM (writeBlock o1 box m (gatherLines o box))
    collIo (setOp { s0 with draws := s0.draws + (64 * keys.length - data.length) } g (o1.keep false)) g o1 write (fun w _ =>
      if i + 1 < p then sendPiece w g a (i + 1) o1 keys else phaseDone w g o1)

/-! ## CAIRN (R293, R315) -/

/-- The release of a CAIRN (R293): the flag where there is one, and the completion with GLB_TIME. -/
def cairnDone (s : State) (g : Nat) (o : CollOp) : State :=
  let s1 := match o.flag with
    | some f => setFlag s f
    | none => s
  endColl s1 g 0 0 (now s1)

/-- The release message of the group's executing CAIRN has arrived: H. -/
def horizonOf (s : State) (g seq : Nat) : Option Nat :=
  (s.fab.inbox.find? (fun m => m.kind == 7 && m.sub == 2 && m.grp == g && m.seq == seq)).map (fun m => leNat (m.data.take 8))

/-- With mark and horizon known, the wait of H − D begins, or the release is late and happens at once (R294). -/
def cairnWait (s : State) (g : Nat) (o : CollOp) : State :=
  match o.mark, horizonOf s g o.seq with
  | some d, some h =>
    let s1 := match takeMsg s (fun m => m.kind == 7 && m.sub == 2 && m.grp == g && m.seq == o.seq) with
      | some (_, t) => t
      | none => s
    if h < d then cairnDone (countC s1 0x91140 1) g o else setOp s1 g { o with waiting := true }
  | _, _ => s

/-- A CAIRN whose arrival phase has ended, and that waits for its mark or its release, goes on (R293). -/
def cairnPoll (s : State) (g : Nat) : State :=
  match (grp s g).active with
  | none => s
  | some o => if o.cairn && o.sigDone && !o.waiting && decide (0 < o.prog) then cairnWait s g o else s

/-- The arrival phase has ended with OK: member 0 sends the release, whose marks go with it, and waits H cycles; the others
wait for them (R293, R315). -/
def cairnStart (s : State) (g : Nat) (o : CollOp) : State :=
  if (grp s g).midx = 0 then
    let box := grpBox s g
    let h := csrField s (oColCairn g) 0 32
    let s1 := (List.range (boxCount box)).foldl (fun u m =>
      if m = 0 then u
      else send u (0x40 + g) 7 (memberChip u box m) (ext 64 g + ext 70 o.seq + ext 136 2) (leBytes 8 h))
      (setMarkRec s g { seq := some o.seq, md := some 0 })
    setOp s1 g { o with waiting := true, mark := some 0 }
  else cairnWait s g o

/-! ## What a collective does without a message (R276, R282) -/

/-- The group's owner code has a slot of some memory port (R281). -/
def collSlots (s : State) (g : Nat) : Bool := holdsMp s (0x40 + g)

/-- The progress word, where one is wanted (R282). -/
def writeProgress (s : State) (g : Nat) (o : CollOp) (k : State → State) : State :=
  let a := csrField s (oColProg g) 6 36 * 64
  let o1 := { o with prog := o.signalled + 1 }
  if a = 0 then k (setOp s g o1)
  else if collSlots s g then
    collIo s g o (ioWrite false a (leBytes 8 (o.seq * 2 ^ 32 + o.signalled))) (fun u _ => k (setOp u g o1))
  else s

/-- The lowest chunk in flight is signalled complete (R282). -/
def signalChunk (s : State) (g : Nat) (o : CollOp) : State :=
  let o1 := { o with signalled := o.signalled + 1, flight := o.flight.filter (fun r => r.chunk != o.signalled) }
  pmcEvent (countC (setOp s g o1) 0x91108 1) 0x068 (some g) none none 1

/-- Takes the executing collective of group `g` as far as it comes without a message: progress words, each before the next
signal, the signal of the lowest chunk once its bytes are final, new chunks while fewer than 8 are in flight, and at the
end `fin`; what needs a memory port waits for its slots (R107, R276, R281, R282, log entry 36). -/
def advance (fin : State → Nat → CollOp → State) (g : Nat) : Nat → State → State
  | 0, s => s
  | fuel + 1, s =>
    match (grp s g).active with
    | none => s
    | some o =>
      if !o.sigDone then s
      else if o.prog ≤ o.signalled then writeProgress s g o (advance fin g fuel)
      else if o.cairn then (if o.waiting then s else cairnStart s g o)
      else if (o.run o.signalled).any (·.done) then advance fin g fuel (signalChunk s g o)
      else if o.next < o.chunks (grpBox s g) ∧ o.next < o.signalled + 8 then
        (if collSlots s g then advance fin g fuel (startChunk s g o) else s)
      else if o.chunks (grpBox s g) ≤ o.signalled then fin s g o
      else s

/-- The same with enough fuel for all that remains: for each chunk its start, its signal and its progress word. -/
def runColl (fin : State → Nat → CollOp → State) (s : State) (g : Nat) : State :=
  match (grp s g).active with
  | none => s
  | some o => advance fin g (3 * o.chunks (grpBox s g) + 4) s

/-- Every group's collective goes on, with slots that it may have gained. -/
def runAll (fin : State → Nat → CollOp → State) (s : State) : State := (List.range 64).foldl (runColl fin) s

/-! ## Messages of a group -/

/-- The message is for a sequence number that this member has completed (R291). -/
def isLate (s : State) (m : Msg) : Bool :=
  let d := ((grp s m.grp).seq + 2 ^ 32 - m.seq) % 2 ^ 32
  decide (1 ≤ d ∧ d < 2 ^ 31) && !((grp s m.grp).active.any (fun o => o.seq == m.seq))

/-- Discards a late message: its flits are counted (R291). -/
def dropLate (s : State) (m : Msg) : State := countC s 0x91138 (max 1 (ceilDiv m.data.length 352))

/-- The message comes from the predecessor on axis `a`. -/
def fromPred (s : State) (m : Msg) (a : Nat) : Bool :=
  let box := grpBox s m.grp
  m.src == memberChip s box (ringNext s box (grp s m.grp).midx a (boxSize box a - 1))

/-- The chunk in flight of which a data message is the next one. -/
def nextRun (s : State) (m : Msg) : Option (CollOp × ChunkRun) :=
  match (grp s m.grp).active with
  | none => none
  | some o =>
    let box := grpBox s m.grp
    if m.seq == o.seq && o.sigDone && !o.cairn then
      (o.flight.find? (fun r =>
        let a := nth (phaseAxes box o.opc) r.phase
        !r.done && decide (r.phase < phaseCount o box) && m.chunk == r.chunk % 2 ^ 24 && m.phase == a + 1 &&
        m.step == r.step + 1 && fromPred s m a)).map (fun r => (o, r))
    else none

/-- The data message is due: it is the next one of a chunk in flight, and its group has its slots (R281). -/
def isNextColl (s : State) (m : Msg) : Bool := (nextRun s m).isSome && collSlots s m.grp

/-- A data message that is due takes its step. -/
def takeColl (res : Residue) (s : State) (m : Msg) : State :=
  match nextRun s m with
  | none => s
  | some (o, r) =>
    let box := grpBox s m.grp
    let v := o.view r
    let a := nth (phaseAxes box o.opc) v.phase
    if gathering v box then stepGather res s m.grp a (v.step + 1) v m.data else stepReduce res s m.grp a (v.step + 1) v m.data

/-- COLL_MESSAGE: the first data message that is late or due; and what every group can do without one. -/
def collMessage (fin : State → Nat → CollOp → State) (res : Residue) (s : State) : State :=
  runAll fin (match takeMsg s (fun m => m.kind == 6 && (isLate s m || isNextColl s m)) with
    | none => s
    | some (m, s1) => if isLate s m then dropLate s1 m else takeColl res s1 m)

/-! ## The signature round (R283 to R285) -/

/-- The signature of a collective: CRC-32C of the record of Table 11.3. -/
def signature (box g opc sub ety count seq : Nat) : Nat :=
  crc32c (leBytes 1 opc ++ leBytes 1 sub ++ leBytes 1 ety ++ leBytes 1 g ++ leBytes 4 count ++ leBytes 4 seq ++
    leBytes 1 (boxClog2 box) ++ leBytes 1 (boxSize box 0) ++ leBytes 1 (boxSize box 1) ++ leBytes 1 (boxSize box 2))

/-- Passes a signature and its OK on to the successor on axis `a`. -/
def sendSig (s : State) (g a step seq : Nat) (data : List Byte) : State :=
  sendRing s g (ringNext s (grpBox s g) (grp s g).midx a 1) a true 7 seq 0 0 step 0 data

/-- The value that a member sends of its own; with NOSIG nothing is compared and OK is always 1. -/
def ownSig (s : State) (o : CollOp) : List Byte := leBytes 8 o.sig ++ leBytes 8 (b2n (o.ok || noSig s))

/-- The end of the round: a mismatch ends the collective with its own signature as DETAIL and no byte written; else the
data phases, or the wait of a CAIRN, begin. -/
def sigEnd (fin : State → Nat → CollOp → State) (s : State) (g : Nat) (o : CollOp) : State :=
  if !o.ok && !noSig s then endColl (countC s 0x91128 1) g stSigMis o.sig 0
  else runColl fin (setOp s g { o with sigDone := true, loose := !o.ok, phase := 0, step := 0 }) g

/-- Starts the ring of the round numbered `o.phase`, or ends the round after the last. -/
def sigRing (fin : State → Nat → CollOp → State) (s : State) (g : Nat) (o : CollOp) : State :=
  match (ringAxes (grpBox s g))[o.phase]? with
  | none => sigEnd fin s g o
  | some a => sendSig (setOp s g o) g a 1 o.seq (ownSig s o)

/-- The signature message is the next one of its round. -/
def isNextSig (s : State) (m : Msg) : Bool :=
  match (grp s m.grp).active with
  | none => false
  | some o =>
    match (ringAxes (grpBox s m.grp))[o.phase]? with
    | none => false
    | some a => m.seq == o.seq && !o.sigDone && m.step == o.sigStep + 1 && fromPred s m a

/-- Takes a signature of the round (R284). -/
def takeSig (fin : State → Nat → CollOp → State) (s : State) (g a : Nat) (o : CollOp) (m : Msg) : State :=
  let v := leNat (m.data.take 8)
  let ok := leNat ((m.data.drop 8).take 8) == 1
  let o1 := { o with ok := o.ok && v == o.sig && ok, sigStep := o.sigStep + 1 }
  let p := boxSize (grpBox s g) a
  let s1 := if o1.sigStep + 1 < p then sendSig s g a (o1.sigStep + 1) o.seq m.data else s
  if o1.sigStep + 1 < p then setOp s1 g o1
  else sigRing fin s1 g { o1 with sigStep := 0, phase := o1.phase + 1 }

/-- SIGNATURE_MESSAGE: the first signature that is late or due. -/
def sigMessage (fin : State → Nat → CollOp → State) (s : State) : State :=
  match takeMsg s (fun m => m.kind == 7 && m.sub == 0 && (isLate s m || isNextSig s m)) with
  | none => s
  | some (m, s1) =>
    if isLate s m then dropLate s1 m
    else match (grp s1 m.grp).active with
      | none => s1
      | some o =>
        match (ringAxes (grpBox s1 m.grp))[o.phase]? with
        | none => s1
        | some a => takeSig fin s1 m.grp a o m

/-- ABORT_NOTICE: the first notice that is late or names the executing collective (R287). -/
def abortNotice (s : State) : State :=
  let mine := fun m => (grp s (Msg.grp m)).active.any (fun o => o.seq == m.seq)
  match takeMsg s (fun m => m.kind == 7 && m.sub == 1 && (isLate s m || mine m)) with
  | none => s
  | some (m, s1) =>
    if isLate s m then dropLate s1 m
    else abortColl s1 m.grp (leNat (m.data.take 8)) (leNat ((m.data.drop 8).take 8)) none

/-! ## Marks and releases of CAIRN (R291, R315) -/

/-- Releases that arrived for a sequence number already completed are discarded (R291). -/
def dropLateReleases (s : State) : State :=
  match takeMsg s (fun m => m.kind == 7 && m.sub == 2 && isLate s m) with
  | none => s
  | some (m, s1) => dropLate s1 m

/-- CAIRN_MARKER: a mark of group `g` with accumulated delay `md` arrived on port `n`. It goes on over the links on which
the release goes, and at a member it times the release of the executing CAIRN. -/
def cairnMarker (n g md : Nat) (s : State) : State :=
  if !portUp s n then s
  else
    let s1 := takeMark (dropLateReleases s) g md
    match (grp s1 g).active with
    | none => s1
    | some o =>
      if o.cairn && o.mark.isNone then cairnPoll (setOp s1 g { o with mark := some md }) g else s1

/-- CAIRN_RELEASE -/
def cairnRelease (g : Nat) (s : State) : State :=
  match (grp s g).active with
  | none => s
  | some o => if o.cairn && o.waiting then cairnDone s g o else s

/-! ## Issue (R271, R272) -/

/-- A collective begins: it takes the next sequence number of its group and starts the signature round; `sub`, `ety` and
`count` are those of the signature record, and `fin` ends it. -/
def startColl (fin : State → Nat → CollOp → State) (s : State) (g : Nat) (o : CollOp) (sub ety count : Nat) : State :=
  let seq := (grp s g).seq
  let s1 := countC (setGrp s g { grp s g with seq := (seq + 1) % 2 ^ 32 }) 0x91100 1
  sigRing fin s1 g { o with seq := seq, sig := signature (grpBox s g) g o.opc sub ety count seq }

/-- A collective completes with OK and its number of signalled chunks. -/
def collDone (s : State) (g : Nat) (o : CollOp) : State := endColl s g 0 0 o.signalled

/-- The checks at issue (R272, R290): a refusal, or none. -/
def collCheck (s : State) (c : Cmd) : Option (Nat × Nat) :=
  let g := groupOf c
  if (c.opc == 0x40 || c.opc == 0x41) && !([0, 1, 8, 9] : List Nat).contains (etypeOf (bits c.c 44 4)) then some (stIllegal, 0x14)
  else if !inGroup s g then some (stIllegal, 0x15)
  else if (grp s g).lost then some (stMemberLost, lostDetail s g)
  else none

/-- The collective that a command describes. -/
def collOf (s : State) (c : Cmd) : CollOp :=
  if c.opc = 0x44 then
    { q := c.q, tag := c.tag, ctx := c.ctx, opc := c.opc,
      flag := if bit c.a 16 then some (absFlag s c.q (bits c.a 0 10)) else none }
  else
    let ety := if c.opc = 0x43 then 9 else etypeOf (bits c.c 44 4)
    { q := c.q, tag := c.tag, ctx := c.ctx, opc := c.opc, subop := if c.subop ≤ 2 then c.subop else 0, etype := ety,
      n := bits c.c 0 32, src := opAddr c.a, dst := opAddr c.b }

/-- ALLREDUCE, REDSCAT, ALLGATHER, XSCAN and CAIRN. Their cases of R272 need no slot; the signature record holds ETYPE as
the immediate gives it. -/
def collWork (c : Cmd) (s : State) : Work :=
  match collCheck s c with
  | some (status, detail) => doneWith s status detail 0 0
  | none =>
    let o := collOf s c
    let red := c.opc == 0x40 || c.opc == 0x41
    let ety := if c.opc = 0x43 then 9 else if c.opc = 0x44 then 0 else bits c.c 44 4
    ⟨startColl collDone s (groupOf c) o (if red then o.subop else 0) ety o.n, .exec⟩

/-! ## Meanings of the instructions -/

/-- ALLREDUCE -/
def execAllreduce (q tag : Nat) (s : State) : Host.Outcome State Fault Refusal :=
  .next (working (issueRow (isOp 0x40) q tag collWork) s)

/-- REDSCAT -/
def execRedscat (q tag : Nat) (s : State) : Host.Outcome State Fault Refusal :=
  .next (working (issueRow (isOp 0x41) q tag collWork) s)

/-- ALLGATHER -/
def execAllgather (q tag : Nat) (s : State) : Host.Outcome State Fault Refusal :=
  .next (working (issueRow (isOp 0x42) q tag collWork) s)

/-- XSCAN -/
def execXscan (q tag : Nat) (s : State) : Host.Outcome State Fault Refusal :=
  .next (working (issueRow (isOp 0x43) q tag collWork) s)

/-- CAIRN -/
def execCairn (q tag : Nat) (s : State) : Host.Outcome State Fault Refusal :=
  .next (working (issueRow (isOp 0x44) q tag collWork) s)

/-- CAIRN_MARKER -/
def execCairnMarker (n g md : Nat) (s : State) : Host.Outcome State Fault Refusal := .next (working (cairnMarker n g md) s)

/-- CAIRN_RELEASE -/
def execCairnRelease (g : Nat) (s : State) : Host.Outcome State Fault Refusal := .next (working (cairnRelease g) s)

/-- ABORT_NOTICE -/
def execAbortNotice (s : State) : Host.Outcome State Fault Refusal := .next (working abortNotice s)

end Sys2Proof.Machine
end

