-- ==== Sys2Proof/Machine/Fabric.lean ====
section
/-! DEFINITION. The receiving side of the fabric ports: training (R297 to R302), flits (R303 to R305), lane sparing (R309),
port enables (R324, R325), and the DP ports with the domain access service (R34, R317 to R320). -/

namespace Sys2Proof.Machine

/-! ## Training (Table 12.1, R299) -/

/-- The port is fused off (R390). -/
def portFused (s : State) (n : Nat) : Bool := bit s.glb.fuses.ports n

/-- A training stage fails: FAILCODE, the count, the log, and PHYWAIT again 100 ms later while EN is 1. -/
def trainFail (s : State) (n code : Nat) : State :=
  let s1 := countF (setPort s n { port s n with failcode := code }) (oFabPerr n) 48 16 1
  let s2 := setPhyEn (setPort s1 n { port s1 n with st := 0, retrain := portEn s1 n, groups := 0, active := 0, ver := 0 }) n
    false
  logEntry s2 0x0403 1 0 code n

/-- PHY_RDY_RISE (R35) -/
def phyRise (n : Nat) (s : State) : State :=
  let p := port s n
  setPort s n { p with phyRdy := true, st := if p.st = 1 then 2 else p.st }

/-- PHY_RDY_FALL (R35, R308): a link in training or in use goes down with code 0x09. The port's island is then in reset,
where its slot pointer is 0 and a pending rota switch takes effect (R107, R110). -/
def phyFall (n : Nat) (s : State) : State :=
  let p := port s n
  let s0 := if bit s.rotaPend (32 + n) then rotaToggle s (32 + n) else s
  let s1 := setPort s0 n { p with phyRdy := false }
  if 2 ≤ p.st then linkDown s1 n (some 0x09) else s1

/-- The lanes of group `g` in a mask, lowest first. -/
def groupLanes (mask g : Nat) : List Nat := ((List.range 8).map (8 * g + ·)).filter (bit mask ·)

/-- The mask of a list of lanes. -/
def laneMask (l : List Nat) : Nat := l.foldl (fun m j => m ||| 2 ^ j) 0

/-- LANE_REPORT: lanes good at both ends and not fused bad; a group with six is in use with its six lowest (R297). -/
def laneReport (n : Nat) (mine peer : Nat) (s : State) : State :=
  let p := port s n
  if p.st ≠ 2 then s
  else
    let good := mine &&& peer &&& (span 31 0 ^^^ (nth s.glb.fuses.lanes n &&& span 31 0))
    let gs := (List.range 4).filter (fun g => decide (6 ≤ (groupLanes good g).length))
    if gs.isEmpty then trainFail s n 0x02
    else setPort s n { p with
      st := 3, good := good, groups := laneMask gs, active := laneMask (gs.flatMap (fun g => (groupLanes good g).take 6)) }

/-- The first check of stage IDENT that fails, in the order of the codes (R299, log entry 37); 0 for none. -/
def identCheck (s : State) (n : Nat) (w : Ident) : Nat :=
  if w.chip ≠ neighbour s (ownChip s) n then 0x03
  else if w.dims ≠ (domSize s 0, domSize s 1, domSize s 2) then 0x04
  else if w.ver < 2 ∧ !minVer1 s then 0x05
  else if domSize s (n / 2) = 1 then 0x06
  else 0

/-- IDENTITY_EXCHANGE: the checks, then the lower of the two versions (R300). -/
def identity (n : Nat) (w : Ident) (s : State) : State :=
  if (port s n).st ≠ 3 then s
  else match identCheck s n w with
    | 0 => setPort s n { port s n with st := 4, ver := min 2 (max 1 w.ver) }
    | code => trainFail s n code

/-- CAL_COMPLETE: 64 echoes asked, `echoes` returned with median round trip `rtt` (R302); the port goes UP with all
credits. -/
def calComplete (n echoes rtt : Nat) (s : State) : State :=
  if (port s n).st ≠ 4 then s
  else if echoes < 32 then trainFail s n 0x07
  else setPort s n { port s n with
    st := 5, delay := ceilDiv rtt 2 % 2 ^ 16, txSeq := 0, rxSeq := 4095, retry := [], sentVc := [0, 0, 0, 0],
    ctot := [0, 0, 0, 0], freedVc := [0, 0, 0, 0], gen := (port s n).gen + 1, rx := [], fails := [], marks := [] }

/-- TRAINING_TIMEOUT (R299): the code of the stage; for IDENT, whose limit has four codes, one of them, free. -/
def trainTimeout (n : Nat) (s : State) : State :=
  match (port s n).st with
  | 1 => trainFail s n 0x01
  | 2 => trainFail s n 0x02
  | 3 => trainFail { s with draws := s.draws + 1 } n (3 + (Config.freeWord s.draws).toNat % 4)
  | 4 => trainFail s n 0x07
  | _ => s

/-- Training starts, unless the port is fused off. -/
def train (s : State) (n : Nat) : State := if portFused s n then s else startTraining s n

/-- PORT_RETRAIN -/
def retrain (n : Nat) (s : State) : State :=
  let p := port s n
  if p.st = 0 ∧ p.retrain ∧ portEn s n then train s n else s

/-! ## Enables (R324, R325) -/

/-- A write of 1 to FAB_PCTL[n].EN: a port trains when EN becomes 1. -/
def portEnable (n : Nat) (s : State) : State :=
  let p := port s n
  let s1 := csrSet s (oFabPctl n) 1
  if p.st = 0 then (if portEn s n then s1 else train s1 n)
  else if p.st = 6 then setPort s1 n { p with pend := true }
  else s1

/-- A write of 0: DOWN at once from training, DRAIN from UP. A message that had not begun to leave is routed anew. -/
def portDisable (n : Nat) (s : State) : State :=
  let p := port s n
  let s1 := csrClr s (oFabPctl n) 1
  if 1 ≤ p.st ∧ p.st ≤ 4 then portDown s1 n
  else if p.st = 5 then requeue (setPort s1 n { p with st := 6 }) n
  else setPort s1 n { p with retrain := false, pend := false }

/-- PORT_DRAIN_END (R324): a LINK flit of subtype 1, then DOWN; FAILCODE stays (R308). -/
def portDrainEnd (n : Nat) (s : State) : State :=
  if (port s n).st = 6 then linkDown (sendLink s n 1 0) n none else s

/-! ## Lanes (R309) -/

/-- Both ends retire a lane: a spare takes its place, or its group leaves use, with the link where it was the last. -/
def retireLane (n lane : Nat) (s : State) : State :=
  let p := port s n
  if (p.st ≠ 5 ∧ p.st ≠ 6) ∨ bit p.retired lane then s
  else
    let g := lane / 8
    let s1 := countC (setPort s n { p with retired := p.retired ||| 2 ^ lane, good := p.good &&& (span 31 0 ^^^ 2 ^ lane) })
      0xA0400 1
    let q := port s1 n
    if !bit q.active lane then logEntry s1 0x0402 0 0 lane n
    else
      let off := q.active &&& (span 31 0 ^^^ 2 ^ lane)
      match (groupLanes q.good g).find? (fun j => !bit off j) with
      | some j => logEntry (setPort s1 n { q with active := off ||| 2 ^ j }) 0x0402 0 0 lane n
      | none =>
        let gone := { q with active := laneMask ((List.range 32).filter (fun j => bit off j && j / 8 != g)),
                             groups := q.groups &&& (span 3 0 ^^^ 2 ^ g) }
        if gone.groups = 0 then linkDown (setPort s1 n gone) n (some 0x0A)
        else raiseFault (setPort s1 n gone) 0x0401 1 8 0 lane n

/-- LANE_OK_FALL and LANE_ERROR_LIMIT: the end that detects the fault tells the other. -/
def laneFault (n lane : Nat) (s : State) : State :=
  if ((port s n).st = 5 ∨ (port s n).st = 6) ∧ !bit (port s n).retired lane then retireLane n lane (sendLink s n 0 lane)
  else s

/-! ## Flits (R303 to R305) -/

/-- Acknowledged flits leave the retry buffer. -/
def dropAcked (retry : List Flit) (ack : Nat) : List Flit :=
  retry.filter (fun f =>
    let d := (bits f.ctl.toNat 52 12 + 4096 - ack) % 4096
    decide (1 ≤ d ∧ d ≤ 2048))

/-- What a good control word says: acknowledgement and credits (R305, R306). One without NAK tells that the marks sent have
arrived (log entry 138). The rows of NAK, mark and LINK flits are commands of their own (log entry 38). -/
def takeCtl (s : State) (n ctl : Nat) : State :=
  let p := port s n
  setPort s n { p with retry := dropAcked p.retry (bits ctl 40 12), ctot := p.ctot.set (bits ctl 36 2) (bits ctl 28 8),
                       marks := if bit ctl 39 then p.marks else [] }

/-- A message whose tail has arrived: to this chip's units, or to its next hop. -/
def arrived (s : State) (m : Msg) : State :=
  if m.dst = ownChip s then { s with fab := { s.fab with inbox := s.fab.inbox ++ [m] } }
  else { s with fab := { s.fab with outbox := s.fab.outbox ++ [m] } }

/-- The header as a receiver takes it: over a version-1 link its routing fields are 0 (R301). -/
def takenHdr (v1 : Bool) (h : Nat) : Nat := if v1 then putRoute h { dst := bits h 16 15 } else h

/-- A flit with a reserved KIND is discarded and counted (R304). -/
def badKind (s : State) (h : Nat) : State := if 0xB ≤ bits h 8 4 then countC s 0xA0428 1 else s

/-- A flit joins the message of its channel: it stays in its ingress buffer with the message (R203, R307), but for a
message that fills its channel's buffers all but one, whose further flits leave theirs at once (log entry 136). -/
def joinFlit (s : State) (n : Nat) (m : Msg) (vc : Nat) (data : List Byte) : Msg × State :=
  let h : Hold := { port := some n, vc := vc, bufs := m.hold.bufs, gen := (port s n).gen }
  if h.bufs < 63 then ({ m with data := m.data ++ data, hold := { h with bufs := h.bufs + 1 } }, s)
  else ({ m with data := m.data ++ data, hold := h }, freeBufs s h 1)

/-- A sequenced flit that was received in order: its payload bytes are counted, and it joins its message (R304); one that
belongs to none leaves its ingress buffer at once. -/
def takeFlit (s : State) (n : Nat) (f : Flit) : State :=
  let h := f.hdr.toNat
  let len := min 352 (bits h 52 9)
  let vc := vcOf h
  let kind := bits h 8 4
  let s1 := pmcEvent (bwAdd s (20 + n) 0 len) 0x055 (some n) none (fpClass (bits h 0 8)) len
  let p := port s1 n
  if kind = 0 ∨ 0xA ≤ kind then badKind (freeBufs s1 { port := some n, vc := vc, gen := p.gen } 1) h
  else
    let v1 := p.ver == 1
    let m0 : Msg := if bit h 14 then { hdr := takenHdr v1 h, v1 := v1 } else slook (fun _ => {}) p.rx vc
    let (m, s2) := joinFlit s1 n m0 vc (f.payload.take len)
    let q := port s2 n
    if bit h 15 then arrived (setPort s2 n { q with rx := sput (fun _ => {}) q.rx vc {} }) m
    else setPort s2 n { q with rx := sput (fun _ => {}) q.rx vc m }

/-- A sequenced flit that failed its check: NAK; where it is the eighth failure in a row of its sequence number, the one of
its control word (log entry 143), the link is lost. -/
def nakFlit (s : State) (n seq : Nat) : State :=
  let s1 := countF s (oFabPerr n) 0 24 1
  let p := port s1 n
  let k := slook (fun _ => 0) p.fails seq + 1
  let s2 := setPort s1 n { p with fails := sput (fun _ => 0) p.fails seq k }
  if 8 ≤ k then linkDown s2 n (some 0x08) else sendIdle s2 n 0 true

/-- FLIT_RECEIVE -/
def flitReceive (n : Nat) (f : Flit) (s : State) : State :=
  if !carries s n then s
  else
    let ctl := f.ctl.toNat
    let seqv := bit ctl 38
    let seq := bits ctl 52 12
    if !flitOk f then (if seqv then nakFlit s n seq else countF s (oFabPerr n) 0 24 1)
    else
      let s0 := takeCtl s n ctl
      let s1 := if seqv then setPort s0 n { port s0 n with fails := sput (fun _ => 0) (port s0 n).fails seq 0 } else s0
      let p := port s1 n
      let d := (bits ctl 52 12 + 4096 - p.rxSeq) % 4096
      let s2 :=
        if !seqv then badKind s1 f.hdr.toNat
        else if d = 1 then
          sendIdle (takeFlit (setPort s1 n { p with rxSeq := (p.rxSeq + 1) % 4096 }) n f) n (vcOf f.hdr.toNat) false
        else sendIdle s1 n 0 (decide (1 < d ∧ d ≤ 2048))
      (List.range 64).foldl cairnPoll (feedQueues (portPump s2 n))

/-- NAK_REPLAY (R305): the flits after `ack` are sent again in order, each counted; the window of those up to `ack` is
released, and CAIRN marks are repeated (R315). -/
def nakReplay (n ack : Nat) (s : State) : State :=
  if !carries s n then s
  else
    let p := port s n
    let left := dropAcked p.retry ack
    let s1 := countF (setPort s n { p with retry := left }) (oFabPerr n) 24 24 left.length
    portPump (pmcEvent (left.foldl (fun u f => putWire u n f) (repeatMarks s1 n)) 0x056 (some n) none none left.length) n

/-- LINK_LOSS_TIMEOUT (R305) -/
def linkLost (n : Nat) (s : State) : State := if carries s n then linkDown s n (some 0x08) else s

/-- LINK_DOWN_FLIT (R308) -/
def linkDownFlit (n : Nat) (s : State) : State := if carries s n then linkDown s n (some 0x0B) else s

/-! ## DP ports (R34) -/

/-- Bytes of a request's size code. -/
def dpSize (sz : Nat) : Nat := 8 * 2 ^ (sz % 4)
/-- An atomic. -/
def dpAtomic (op : Nat) : Bool := op == 2 || op == 3

/-- A response leaves on its DP port; load data and old values count (R366). -/
def dpAnswer (s : State) (r : DpReq) (status data : Nat) : State :=
  let out := if r.op = 0 then r.size else if dpAtomic r.op then 8 else 0
  let s1 := if status ≤ 2 then bwAdd s (16 + r.port) 1 out else s
  { s1 with fab := { s1.fab with
    rsp := { port := r.port, tag := r.tag, status := status, data := data } :: s1.fab.rsp,
    dp := s1.fab.dp.filter (fun x => x.id != r.id) } }

/-- The access itself, through MP ports in slots of owner code 0x28 (R34, R319): status and data. A store reads nothing of
its granule, so that poison there does not turn it away (log entry 141). -/
def dpAccess (s : State) (op addr size data : Nat) : State × Nat × Nat :=
  let a := addr % 2 ^ 42
  let code := if op = 1 then 0 else rdCode (mpLvl2 s) s.mem a size
  let s0 := if op = 1 then s else mpCount s 0x28 (64 * (granules a size).length) 0
  if code = 2 then (s0, 2, 0)
  else if code = 1 then (s0, 1, 0)
  else
    let old := rdNum s0.mem a size
    let new : Option (List Byte) :=
      match op with
      | 1 => some (leBytes size data)
      | 2 => some (leBytes 8 ((old + data % 2 ^ 64) % 2 ^ 64))
      | 3 => if old = data % 2 ^ 64 then some (leBytes 8 (bits data 64 64)) else none
      | _ => none
    match new with
    | none => (s0, 0, old)
    | some bs =>
      let (m, bad) := wrTry s0.mem a bs
      let s1 := mpCount (setMem s0 m) 0x28 0 bs.length
      if bad then (raiseFault s1 0x0102 2 1 0 0x03 0, 2, 0) else (s1, 0, if op = 1 then 0 else old)

/-- Requests that the same port accepted before. -/
def dpBefore (s : State) (r : DpReq) : List DpReq :=
  (s.fab.dp.takeWhile (fun x => x.id != r.id)).filter (fun x => x.port == r.port)

/-- The request may be performed: no earlier fence of its port waits, and none to the same granule of the same chip
(R317, R318). -/
def dpReady (s : State) (r : DpReq) : Bool :=
  (dpBefore s r).all (fun x => x.op != 4 && x.addr / 64 != r.addr / 64)

/-- Performs or sends one request, tested in the order of R34. -/
def dpServe (s : State) (r : DpReq) : State :=
  if 5 ≤ r.op ∨ (dpAtomic r.op ∧ r.size ≠ 8) then dpAnswer s r 4 0
  else if r.addr % r.size ≠ 0 then dpAnswer s r 3 0
  else if !isReady s then dpAnswer s r 2 0
  else if bits r.addr 42 15 = ownChip s then
    if holdsMp s 0x28 then
      let (s1, status, data) := dpAccess s r.op r.addr r.size r.data
      dpAnswer s1 r status data
    else s
  else
    let n := if r.op = 0 then 0 else if r.op = 1 then r.size else if r.op = 2 then 8 else 16
    let sz := (Nat.log2 (r.size / 8)) % 4
    let s1 := { s with fab := { s.fab with
      dp := s.fab.dp.map (fun x => if x.id == r.id then { x with sent := true } else x) } }
    send s1 0x28 4 (bits r.addr 42 15) (ext 64 r.id + ext 80 r.op + ext 83 sz + ext 85 (r.addr % 2 ^ 57)) (leBytes n r.data)

/-- Serves every request that is ready and not sent; a fence waits for DP_FENCE. -/
def dpPump (s : State) : State :=
  s.fab.dp.foldl (fun u r => if !r.sent && r.op != 4 && dpReady u r then dpServe u r else u) s

/-- DP_REQUEST: a port accepts up to 256 outstanding requests; none in cold reset. -/
def dpRequest (p op addr sz data tag : Nat) (s : State) : State :=
  if s.glb.boot = .coldReset ∨ 256 ≤ (s.fab.dp.filter (fun x => x.port == p)).length then s
  else
    let r : DpReq := { id := s.fab.dpId, port := p, tag := tag, op := op, addr := addr, size := dpSize sz, data := data }
    let s1 := { s with fab := { s.fab with dp := s.fab.dp ++ [r], dpId := (s.fab.dpId + 1) % 2 ^ 16 } }
    let inB := if op = 1 then r.size else if dpAtomic op then 8 else 0
    let s2 := bwAdd (pmcEvent s1 0x052 (some p) none none 1) (16 + p) 0 inB
    if !isReady s ∧ op = 4 then dpAnswer s2 r 2 0
    else if op = 4 ∨ !dpReady s2 r then s2 else dpServe s2 r

/-- DP_FENCE: the port's oldest request is a fence, so every earlier one has its response (R318). -/
def dpFence (p : Nat) (s : State) : State :=
  match s.fab.dp.find? (fun x => x.port == p) with
  | none => s
  | some r => if r.op = 4 then dpPump (dpAnswer s r 0 0) else s

/-- DPREQ_RECEIVE (R319) -/
def dpreqReceive (s : State) : State :=
  if !holdsMp s 0x28 then s
  else match takeMsg s (fun m => m.kind == 4) with
    | none => s
    | some (m, s1) =>
      let op := bits m.hdr 80 3
      let size := dpSize (bits m.hdr 83 2)
      let (s2, status, data) := dpAccess s1 op (bits m.hdr 85 57) size (leNat m.data)
      send s2 0x28 5 m.src (ext 64 (bits m.hdr 64 16) + ext 80 status)
        (leBytes (if op = 0 then size else if dpAtomic op then 8 else 0) data)

/-- DPRSP_RECEIVE: the response of the request with its ID, or one that came after the timeout (R320). -/
def dprspReceive (s : State) : State :=
  match takeMsg s (fun m => m.kind == 5) with
  | none => s
  | some (m, s1) =>
    let id := bits m.hdr 64 16
    match s1.fab.dp.find? (fun x => x.id == id && x.sent) with
    | some r => dpPump (dpAnswer s1 r (bits m.hdr 80 3) (leNat m.data))
    | none =>
      if s1.fab.dpLate.contains id then
        countC { s1 with fab := { s1.fab with dpLate := s1.fab.dpLate.erase id } } 0xA0420 1
      else s1

/-- DP_TIMEOUT: the request with that ID has no response within FAB_DP_TIMEOUT (R320). -/
def dpTimeout (id : Nat) (s : State) : State :=
  match s.fab.dp.find? (fun x => x.id == id) with
  | none => s
  | some r =>
    let s1 := countC (dpAnswer s r 2 0) 0xA0418 1
    dpPump (if r.sent then { s1 with fab := { s1.fab with dpLate := s1.fab.dpLate ++ [id] } } else s1)

/-- The requests outstanding at the start of a warm reset are answered UNREACHABLE (R44). -/
def dpFlush (s : State) : State := s.fab.dp.foldl (fun u r => dpAnswer u r 2 0) s

/-! ## Meanings -/

/-- PHY_RDY_RISE -/
def execPhyRdyRise (n : Nat) (s : State) : Host.Outcome State Fault Refusal := .next (served (phyRise n) s)
/-- PHY_RDY_FALL -/
def execPhyRdyFall (n : Nat) (s : State) : Host.Outcome State Fault Refusal := .next (served (phyFall n) s)
/-- LANE_REPORT -/
def execLaneReport (n : Nat) (rxok peer : BitVec 32) (s : State) : Host.Outcome State Fault Refusal :=
  .next (working (laneReport n rxok.toNat peer.toNat) s)
/-- IDENTITY_EXCHANGE -/
def execIdentityExchange (n : Nat) (w : Ident) (s : State) : Host.Outcome State Fault Refusal :=
  .next (working (identity n w) s)
/-- CAL_COMPLETE -/
def execCalComplete (n echoes rtt : Nat) (s : State) : Host.Outcome State Fault Refusal :=
  .next (working (calComplete n echoes rtt) s)
/-- TRAINING_TIMEOUT -/
def execTrainingTimeout (n : Nat) (s : State) : Host.Outcome State Fault Refusal := .next (working (trainTimeout n) s)
/-- PORT_RETRAIN -/
def execPortRetrain (n : Nat) (s : State) : Host.Outcome State Fault Refusal := .next (working (retrain n) s)
/-- PORT_DRAIN_END -/
def execPortDrainEnd (n : Nat) (s : State) : Host.Outcome State Fault Refusal := .next (working (portDrainEnd n) s)
/-- FLIT_RECEIVE -/
def execFlitReceive (n : Nat) (f : Flit) (s : State) : Host.Outcome State Fault Refusal :=
  .next (working (flitReceive n f) s)
/-- NAK_REPLAY -/
def execNakReplay (n ack : Nat) (s : State) : Host.Outcome State Fault Refusal := .next (working (nakReplay n ack) s)
/-- LINK_LOSS_TIMEOUT -/
def execLinkLossTimeout (n : Nat) (s : State) : Host.Outcome State Fault Refusal := .next (working (linkLost n) s)
/-- LINK_DOWN_FLIT -/
def execLinkDownFlit (n : Nat) (s : State) : Host.Outcome State Fault Refusal := .next (working (linkDownFlit n) s)
/-- LANE_OK_FALL -/
def execLaneOkFall (n lane : Nat) (s : State) : Host.Outcome State Fault Refusal := .next (working (laneFault n lane) s)
/-- LANE_ERROR_LIMIT -/
def execLaneErrorLimit (n lane : Nat) (s : State) : Host.Outcome State Fault Refusal := .next (working (laneFault n lane) s)
/-- LANE_RETIRE_FLIT -/
def execLaneRetireFlit (n lane : Nat) (s : State) : Host.Outcome State Fault Refusal := .next (working (retireLane n lane) s)
/-- MESSAGE_FORWARD -/
def execMessageForward (s : State) : Host.Outcome State Fault Refusal := .next (working forwardMsg s)
/-- DETOUR_TIMEOUT -/
def execDetourTimeout (s : State) : Host.Outcome State Fault Refusal := .next (working detourTimeout s)
/-- DP_REQUEST -/
def execDpRequest (p : Nat) (op : BitVec 3) (addr : BitVec 57) (sz : BitVec 2) (data : BitVec 512) (tag : BitVec 8)
    (s : State) : Host.Outcome State Fault Refusal :=
  .next (served (dpRequest p op.toNat addr.toNat sz.toNat data.toNat tag.toNat) s)
/-- DP_FENCE -/
def execDpFence (p : Nat) (s : State) : Host.Outcome State Fault Refusal := .next (working (dpFence p) s)
/-- DPREQ_RECEIVE -/
def execDpreqReceive (s : State) : Host.Outcome State Fault Refusal := .next (working dpreqReceive s)
/-- DPRSP_RECEIVE -/
def execDprspReceive (s : State) : Host.Outcome State Fault Refusal := .next (working dprspReceive s)
/-- DP_TIMEOUT -/
def execDpTimeout (id : Nat) (s : State) : Host.Outcome State Fault Refusal := .next (working (dpTimeout id) s)

end Sys2Proof.Machine
end

