-- ==== Sys2Proof/Machine/Boot.lean ====
section
/-! DEFINITION. Cold reset and bring-up, the verification of firmware images, warm reset, and the stop of a clock
(R21, R41 to R47, R51, R377 to R382, R390, R402). -/

namespace Sys2Proof.Machine

/-! ## Bytes of the staging and the image memories -/

/-- The canonical form of a list of bytes from address 0. -/
def sparseOf (l : List Byte) : List (Nat × Byte) := ((List.range l.length).zip l).filter (fun p => p.2 != 0#8)

/-- `n` bytes from address `a` of a canonical byte list. -/
def sparseRead (m : List (Nat × Byte)) (a n : Nat) : List Byte :=
  (List.range n).map (fun i => slook (fun _ => 0#8) m (a + i))

/-- The bytes below address `n`. -/
def sparseBelow (m : List (Nat × Byte)) (n : Nat) : List (Nat × Byte) := m.filter (fun p => decide (p.1 < n))

/-- Bytes of image staging. -/
def stagingSize : Nat := 524288

/-! ## The firmware image (R379, R380) -/

/-- A little-endian header field. -/
def imgField (m : List (Nat × Byte)) (a n : Nat) : Nat := leNat (sparseRead m a n)
/-- MAGIC -/
def imgMagic (m : List (Nat × Byte)) : Nat := imgField m 0 4
/-- LEN -/
def imgLen (m : List (Nat × Byte)) : Nat := imgField m 4 4
/-- FWVER -/
def imgFwver (m : List (Nat × Byte)) : Nat := imgField m 8 4
/-- PLEVEL -/
def imgPlevel (m : List (Nat × Byte)) : Nat := imgField m 12 1

/-- The digest of a list of bytes as the six words of MGT_KEYDIG: bytes 8k to 8k + 7, little-endian. -/
def digestWords (l : List Byte) : List Nat :=
  let bs := (leBytes 48 (sha384 l)).reverse
  (cutList 8 6 bs).map leNat

/-- The KEY bytes hash to the fused key digest. -/
def keyOk (f : Fuses) (m : List (Nat × Byte)) : Bool :=
  digestWords (sparseRead m 64 97) == (List.range 6).map (nth f.keyDig)

/-- The signed bytes of an image. -/
def signedBytes (m : List (Nat × Byte)) : List Byte := sparseRead m 0 (imgLen m - 96)

/-- The signature verifies over the signed bytes. -/
def sigOk (m : List (Nat × Byte)) : Bool :=
  let key := sparseRead m 64 97
  let sig := sparseRead m (imgLen m - 96) 96
  imgField m 64 1 == 4 &&
  ecdsaOk (beNat ((key.drop 1).take 48), beNat (key.drop 49)) (sha384 (signedBytes m)) (beNat (sig.take 48)) (beNat (sig.drop 48))

/-- The code of the first test of R380 that fails; 0 where all pass. A committed length above the limit gives 0x02 and one
below LEN fails the signature test (R382). -/
def verifyCode (f : Fuses) (committed : Option Nat) (m : List (Nat × Byte)) : Nat :=
  let len := imgLen m
  if stagingSize < len || committed.any (fun c => decide (stagingSize < c)) then 0x02
  else if imgMagic m ≠ 0x3358444B ∨ len < 512 ∨ len % 64 ≠ 0 then 0x01
  else if !keyOk f m then 0x01
  else if committed.any (fun c => decide (c < len)) || !sigOk m then 0x01
  else 0

/-! ## Reads of the boot ROM and the firmware (R378) -/

/-- An image at a local address: bytes 0 to 255, then the rest up to LEN; none where a read meets an MP error. An image
longer than the staging is read no further than that. -/
def fetchImage (s : State) (a : Nat) : Option (List (Nat × Byte)) :=
  if rdCode (mpLvl2 s) s.mem a 256 ≠ 0 then none
  else
    let n := max 256 (min stagingSize (leNat (rdBytes s.mem (a + 4) 4)))
    if rdCode (mpLvl2 s) s.mem (a + 256) (n - 256) ≠ 0 then none else some (sparseOf (rdBytes s.mem a n))

/-! ## Cold reset (R18, R41, R51, R402) -/

/-- The ports as a reset leaves them: the PHYs' ready lines alone persist. -/
def portsReset (s : State) : List (Nat × Port) :=
  ((List.range 6).filter (fun n => (port s n).phyRdy)).map (fun n => (n, { phyRdy := true }))

/-- Every field at its reset value, but for what is not the engine's: the queue of commands, host memory, the pins that the
host drives, the fuses in the block. TDO and TDO_EN have their reset values, and the TAP with them (R18, R39, log entry
144). -/
def coldBase (s : State) : State :=
  { pending := s.pending, mem := s.mem, draws := s.draws,
    glb := { wrstLow := s.glb.wrstLow, fuseBlock := s.glb.fuseBlock },
    fab := { ports := portsReset s } }

/-- A cold reset from stage 1 that keeps the sampled straps (R41, R384); with image staging where it is an update reset. -/
def reboot (s : State) (update : Bool) : State :=
  let t := coldBase s
  let u := { t with glb := { t.glb with straps := s.glb.straps, fromStaging := update },
                    pins := { t.pins with ready := true },
                    mgt := if update then { t.mgt with staging := s.mgt.staging, committed := s.mgt.committed } else t.mgt }
  setBoot u .pllLock

/-! ## Bring-up (Table 02.16, R42) -/

/-- A stage fails: the state, its code, MG_ALERT_N[3]; after SRAM_INIT a log entry too (Table 16.7). -/
def bootFail (s : State) (b : BootState) (code : Nat) (logged : Bool) : State :=
  let s1 := if logged then logEntry s (0x0800 + code) 3 0 0 0 else s
  setBoot { s1 with glb := { s1.glb with bootCode := code, alertBoot := true } } b

/-- Bad straps (R42). -/
def strapsBad (p : Straps) : Bool := p.mplvl == 0#2 || p.mplvl == 3#2 || p.mpen == 0#16

/-- PLL_LOCK ends; GLB_TIME starts at 0. -/
def pllLocked (s : State) : State :=
  if s.glb.boot ≠ .pllLock then s
  else if strapsBad s.glb.straps then bootFail s .strapError 0x04 false
  else setBoot { s with glb := { s.glb with time := 0 } } .fuseLoad

/-- The fields of a fuse block, in one list (R390). -/
def fuseFields (f : Fuses) : List Nat :=
  f.trimT.map (fun x => toTwos x 16) ++ f.trimV.map (fun x => toTwos x 16) ++ [f.cores] ++ f.repair ++ [f.ports] ++ f.lanes ++
  f.keyDig ++ [f.tblSum]

/-- The block's stored CRC matches its content. -/
def fusesOk (f : Fuses) : Bool := (Config.fuseCrc (fuseFields f)).toNat == f.crc

/-- FUSE_LOAD. -/
def fuseLoaded (s : State) : State :=
  if s.glb.boot ≠ .fuseLoad then s
  else if fusesOk s.glb.fuseBlock then setBoot { s with glb := { s.glb with fuses := s.glb.fuseBlock } } .sramInit
  else bootFail s .bootFailed 0x05 false

/-- SRAM_INIT: every SRAM is zero, image staging but for an update reset. -/
def sramDone (s : State) : State :=
  if s.glb.boot ≠ .sramInit then s
  else setBoot (if s.glb.fromStaging then s else { s with mgt := { s.mgt with staging := [] } }) .bootFetch

/-- The image in staging; bytes at or beyond a committed length read as 0 (R382). -/
def stagedImage (s : State) : List (Nat × Byte) :=
  match s.mgt.committed with
  | none => s.mgt.staging
  | some n => sparseBelow s.mgt.staging n

/-- BOOT_VERIFY begins on an image. -/
def toVerify (s : State) (m : List (Nat × Byte)) (committed : Option Nat) : State :=
  setBoot { s with glb := { s.glb with fetched := m, committed := committed } } .bootVerify

/-- BOOT_FETCH: from staging in an update reset, from the boot window, or a wait for COMMIT_IMAGE (R382, R384). -/
def bootFetched (s : State) : State :=
  if s.glb.boot ≠ .bootFetch then s
  else if s.glb.fromStaging then toVerify s (stagedImage s) s.mgt.committed
  else if s.glb.straps.bootsrc then s
  else match fetchImage s (s.glb.straps.bootwin.toNat * 2 ^ 19) with
    | none => bootFail s .bootFailed 0x03 true
    | some m => toVerify s m none

/-- BOOT_VERIFY: the image becomes the resident one, and its digest is recorded. -/
def bootVerified (s : State) : State :=
  if s.glb.boot ≠ .bootVerify then s
  else
    let m := s.glb.fetched
    let code := verifyCode s.glb.fuses s.glb.committed m
    let s1 := { s with glb := { s.glb with fetched := [], committed := none } }
    if code ≠ 0 then bootFail s1 .bootFailed code true
    else setBoot { s1 with glb := { s1.glb with image :=
      { fwver := imgFwver m, digest := sha384 (signedBytes m), body := sparseBelow m (imgLen m - 96),
        len := imgLen m - 96 } } } .fwInit

/-- The bytes of the function-table words, in ascending primitive and word order (R247). -/
def tableBytes : List Byte :=
  [Prim.exp2, .log2, .recip, .rsqrt, .tanhS].flatMap (fun p =>
    (List.range (8 * segCount p)).flatMap (fun w => leBytes 8 (tableData p w)))

/-- The function-table check (R247). -/
def checkTables (s : State) : State :=
  let crc := crc32c tableBytes
  let ok := crc == s.glb.fuses.tblSum
  let s1 := csrPut s 0x50038 (b2n ok * 2 ^ 63 + crc)
  if ok then s1 else raiseFault s1 0x0501 2 10 0 0 0

/-- FW_INIT ends: the tables are checked, PLEVEL is shown, READY. -/
def fwInited (s : State) : State :=
  if s.glb.boot ≠ .fwInit then s
  else
    let s1 := checkTables s
    setBoot { s1 with glb := { s1.glb with image := { s1.glb.image with plevel := imgPlevel s1.glb.image.body } } } .ready

/-! ## Warm reset (R44 to R46, Table 02.17) -/

/-- A port signals link-down to its neighbour and goes down. -/
def warmPort (s : State) (n : Nat) : State :=
  let p := port s n
  if p.st = 0 then s
  else
    let s1 := setPort s n { p with pend := false }
    portDown (if p.st = 5 ∨ p.st = 6 then sendLink s1 n 1 0 else s1) n

/-- WARM_DRAIN begins. -/
def warmBegin (s : State) : State :=
  let s1 := (List.range 6).foldl warmPort s
  setBoot { dpFlush s1 with glb := { (dpFlush s1).glb with drained := false } } .warmDrain

/-- A request for a warm reset: it starts one in READY alone (R44, R46). -/
def warmRequest (s : State) : State := if isReady s then warmBegin s else s

/-- What a warm reset leaves of the stored bits of a register (R402). -/
def csrWarm (off v : Nat) : Nat :=
  let kept := ((regInfo off).map (·.kept)).getD 0
  (v &&& kept) ||| (csrReset off &&& (span 63 0 ^^^ kept))

/-- The CSR store after a warm reset. -/
def csrWarmAll (l : List (Nat × Nat)) : List (Nat × Nat) :=
  (l.map (fun p => (p.1, csrWarm p.1 p.2))).filter (fun p => p.2 != csrReset p.1)

/-- What the memory ports have not answered yet. -/
def outstanding (s : State) : List (Bool × Nat × Nat) :=
  s.front.reads.map (fun r => (false, r.port, r.tag)) ++ s.front.writes.map (fun w => (true, w.port, w.tag))

/-- Stage 2: the state that Table 02.17 clears is at its reset value; sample records are counted as lost (R376). -/
def warmClear (s : State) : State :=
  let lost := s.pmc.buf.length
  let t := { s with
    csr := csrWarmAll s.csr, front := { late := s.front.late ++ outstanding s }, ctxs := [], slots := [{}, {}],
    disp := { origHwm := s.disp.origHwm }, shd := {}, col := {},
    fab := { ports := portsReset s, wire := s.fab.wire, dpId := s.fab.dpId, rsp := s.fab.rsp },
    plc := { jrnl := s.plc.jrnl },
    pmc := { latch := s.pmc.latch, bwLast := s.pmc.bwLast, bwSeq := s.pmc.bwSeq, xcnt := s.pmc.xcnt },
    pins := { s.pins with phyEn := 0 }, rotaActive := 0, rotaPend := 0 }
  setBoot (countC { t with glb := { t.glb with drained := false } } 0xC1608 lost) .warmInit

/-- The drain is complete; the reset follows once DX_WRST_N is 1. -/
def warmDrained (s : State) : State :=
  if s.glb.boot ≠ .warmDrain then s
  else if s.glb.wrstLow then { s with glb := { s.glb with drained := true } }
  else warmClear s

/-- The level of DX_WRST_N. -/
def setWrst (s : State) (low : Bool) : State := { s with glb := { s.glb with wrstLow := low } }

/-- DX_WRST_N is 1: a drain that is complete goes on. -/
def warmReleased (s : State) : State := if s.glb.boot = .warmDrain ∧ s.glb.drained then warmClear s else s

/-- WARM_INIT ends. -/
def warmInited (s : State) : State :=
  if s.glb.boot ≠ .warmInit then s
  else setBoot { s with glb := { s.glb with warmCount := min 0xFFFF (s.glb.warmCount + 1) } } .ready

/-! ## Meanings -/

/-- POWER_OK_FALL (R51): all engine state is lost. -/
def execPowerOkFall (s : State) : Host.Outcome State Fault Refusal := .next (coldBase s)
/-- COLD_RESET_ASSERT -/
def execColdResetAssert (s : State) : Host.Outcome State Fault Refusal := .next (coldBase s)
/-- COLD_RESET_RELEASE: the straps are sampled, and stage 1 begins (R23, R41). -/
def execColdResetRelease (straps : Straps) (s : State) : Host.Outcome State Fault Refusal :=
  .next (if s.glb.boot = .coldReset then
    setBoot { s with glb := { s.glb with straps := straps }, pins := { s.pins with ready := true } } .pllLock
  else s)
/-- PLL_LOCK -/
def execPllLock (s : State) : Host.Outcome State Fault Refusal := .next (served pllLocked s)
/-- FUSE_LOAD -/
def execFuseLoad (s : State) : Host.Outcome State Fault Refusal := .next (served fuseLoaded s)
/-- SRAM_INIT -/
def execSramInit (s : State) : Host.Outcome State Fault Refusal := .next (served sramDone s)
/-- BOOT_FETCH -/
def execBootFetch (s : State) : Host.Outcome State Fault Refusal := .next (served bootFetched s)
/-- BOOT_VERIFY -/
def execBootVerify (s : State) : Host.Outcome State Fault Refusal := .next (served bootVerified s)
/-- FW_INIT -/
def execFwInit (s : State) : Host.Outcome State Fault Refusal := .next (served fwInited s)
/-- WARM_RESET_PIN -/
def execWarmResetPin (s : State) : Host.Outcome State Fault Refusal := .next (served warmRequest (setWrst s true))
/-- WARM_RESET_RELEASE -/
def execWarmResetRelease (s : State) : Host.Outcome State Fault Refusal := .next (served warmReleased (setWrst s false))
/-- WARM_DRAIN_END -/
def execWarmDrainEnd (s : State) : Host.Outcome State Fault Refusal := .next (served warmDrained s)
/-- WARM_INIT_END -/
def execWarmInitEnd (s : State) : Host.Outcome State Fault Refusal := .next (served warmInited s)
/-- CLOCK_STOP (R21): outside cold reset the state is indeterminate until the next one. -/
def execClockStop (s : State) : Host.Outcome State Fault Refusal :=
  .next (if s.glb.boot = .coldReset then s else { s with glb := { s.glb with indeterminate := true } })

end Sys2Proof.Machine
end

