-- ==== Sys2Proof/Machine/Table.lean ====
section
/-! DEFINITION. What the placement engine works on: its accesses to memory, the budget (R335, R336), the journal (R344),
the owner table (R341) and the pieces of migration (R337). -/

namespace Sys2Proof.Machine

/-! ## Accesses of the placement engine (owner code 0x38) -/

/-- Work that may stop: at an MP error with its code (R32, R33), or at a failed translation (R322). -/
abbrev Pm (α : Type) := ExceptT Nat (StateM State) α

/-- The code of a failed translation. -/
def pmUnmapped : Nat := 0x100

/-- Changes the state. -/
def pmDo (f : State → State) : Pm Unit := do
  let s ← get
  set (f s)

/-- Reads `n` bytes at a local address. -/
def pmRead (a n : Nat) : Pm (List Byte) := do
  let s ← get
  let l := a % 2 ^ 42
  let code := rdCode (mpLvl2 s) s.mem l n
  set (mpCount s 0x38 (64 * (granules l n).length) 0)
  if code = 0 then pure (rdBytes s.mem l n) else throw code

/-- Writes bytes at a local address. -/
def pmWrite (a : Nat) (bs : List Byte) : Pm Unit := do
  let s ← get
  let (m, bad) := wrTry s.mem (a % 2 ^ 42) bs
  set (mpCount (setMem s m) 0x38 0 bs.length)
  if bad then throw 3 else pure ()

/-- The replicas of an object block, as (chip, LADDR). -/
def pmBlock (b : Nat) : Pm (List (Nat × Nat)) := do
  let s ← get
  let (s1, r) := blockReplicas s b
  set s1
  match r with
  | .ok l => pure l
  | .unmapped => throw pmUnmapped
  | .mp c => throw c

/-- Ends a placement instruction at an error: status and DETAIL (R33, R322, Table 13.7), with the fault logged. -/
def pmStop (s : State) (cx q code : Nat) : State × Nat × Nat :=
  if code = pmUnmapped then (s, stUnreach, 1) else (mpFault s cx q code, stEcc, code)

/-! ## The policy block (Table 13.2) -/

/-- LAG -/
def polLag (p : PSlot) : Nat := max 1 (bits (polW p 2) 48 8)
/-- XAREA -/
def polX (p : PSlot) : Nat := bits (polW p 3) 6 36 * 64
/-- RLAREA -/
def polRl (p : PSlot) : Nat := bits (polW p 4) 6 36 * 64
/-- RPLY; 0 for none -/
def polRply (p : PSlot) : Nat := bits (polW p 5) 6 36 * 64
/-- GTYPE as it acts -/
def polGtype (p : PSlot) : Nat := if bits (polW p 1) 48 4 = 1 then 1 else 0
/-- Blocks of an expert: NB × (NCM1 + 1) -/
def polNeed (p : PSlot) : Nat := polNB p * polComps p
/-- The object block of block `i` of companion `c` of expert `e`. -/
def objBlock (p : PSlot) (c e i : Nat) : Nat := polObj p c + e * polNB p + i
/-- The replica list of that block (R332). -/
def rlAddr (p : PSlot) (E c e i : Nat) : Nat := (polRl p + 512 * ((c * E + e) * polNB p + i)) % 2 ^ 42

/-! ## Budget (R335, R336) -/

/-- Blocks that some slot holds, as (first, length). -/
def heldRuns (s : State) : List (Nat × Nat) :=
  s.plc.slots.flatMap (fun p => p.2.runs ++ p.2.freeing.map (·.2))

/-- A list of runs in ascending order. -/
def insertRun (r : Nat × Nat) : List (Nat × Nat) → List (Nat × Nat)
  | [] => [r]
  | x :: l => if r.1 ≤ x.1 then r :: x :: l else x :: insertRun r l

/-- The free runs between `lo` and `hi`, with the held ones in ascending order. -/
def gapsFrom (lo hi : Nat) : List (Nat × Nat) → List (Nat × Nat)
  | [] => if lo < hi then [(lo, hi - lo)] else []
  | (f, n) :: r => (if lo < min f hi then [(lo, min f hi - lo)] else []) ++ gapsFrom (max lo (f + n)) hi r

/-- The free runs of the budget, lowest first. -/
def freeRuns (s : State) : List (Nat × Nat) :=
  let b := csrField s 0xB0018 21 21
  gapsFrom b (b + csrField s 0xB0020 0 21) ((heldRuns s).foldr insertRun [])

/-- LRUN: the longest run of free budget blocks. -/
def longestRun (s : State) : Nat := (freeRuns s).foldl (fun m r => max m r.2) 0

/-- Allocates the lowest run of `n` free blocks for slot `i`. -/
def takeRun (s : State) (i n : Nat) : Option (Nat × State) :=
  match (freeRuns s).find? (fun r => decide (n ≤ r.2)) with
  | none => none
  | some r => some (r.1, setPslot s i { pslot s i with runs := (pslot s i).runs ++ [(r.1, n)] })

/-- Frees the run that starts at `b`, where slot `i` holds it. -/
def dropRun (s : State) (i b : Nat) : State :=
  setPslot s i { pslot s i with runs := (pslot s i).runs.filter (fun r => r.1 != b) }

/-- Placement epoch `a` is earlier than `b`, both modulo 2^16. -/
def epochBefore (a b : Nat) : Bool :=
  let d := (b + 2 ^ 16 - a % 2 ^ 16) % 2 ^ 16
  decide (1 ≤ d ∧ d < 2 ^ 15)

/-- A run that its replica has left is freed once no live use of the context holds an epoch before `epoch`. -/
def retireRun (s : State) (i b epoch : Nat) : State :=
  match (pslot s i).runs.find? (fun r => r.1 == b) with
  | none => s
  | some r => setPslot (dropRun s i b) i { pslot (dropRun s i b) i with freeing := (pslot s i).freeing ++ [(epoch, r.1, r.2)] }

/-- The runs that may be freed at a PLACE (R336); a use holds a placement epoch once COUNT has sampled it (R328). -/
def freeRetired (s : State) (i : Nat) : State :=
  let p := pslot s i
  let live := (s.disp.uses.filter (fun u => u.ended.isNone && u.counted && u.ctx == p.ctx)).map (·.pepoch)
  setPslot s i { p with freeing := p.freeing.filter (fun f => live.any (epochBefore · f.1)) }

/-! ## The journal (R344) -/

/-- Kinds of journal record. -/
inductive JKind where
  | enrol | replicate | retire | move | switch | abandon | members | restore | step
  deriving DecidableEq, Repr

/-- KIND -/
def JKind.code : JKind → Nat
  | .enrol => 1 | .replicate => 2 | .retire => 3 | .move => 4 | .switch => 5 | .abandon => 6 | .members => 7
  | .restore => 8 | .step => 9

/-- What a journal record says beside its kind and its context. -/
structure JRec where
  slot : Nat := 0
  pepoch : Nat := 0
  step : Nat := 0
  dstep : Nat := 0
  expert : Nat := 0
  replica : Nat := 0
  /-- chip IDs -/
  src : Nat := 0
  dst : Nat := 0
  /-- first block of the run at the destination; 0 otherwise -/
  run : Nat := 0
  digest : Nat := 0
  deriving DecidableEq, Repr, Inhabited

/-- The 64 bytes of a journal record (Table 13.4). -/
def jrnlBytes (s : State) (k : JKind) (cx : Nat) (j : JRec) : List Byte :=
  leBytes 8 (k.code * 2 ^ 60 + j.slot % 16 * 2 ^ 56 + cx % 2 ^ 14 * 2 ^ 42 + j.pepoch % 2 ^ 16 * 2 ^ 26) ++
  leBytes 8 (j.step % 2 ^ 32 * 2 ^ 32 + j.dstep % 2 ^ 32) ++
  leBytes 8 (j.expert % 2 ^ 12 * 2 ^ 52 + j.replica % 64 * 2 ^ 46 + j.src % 2 ^ 15 * 2 ^ 31 + j.dst % 2 ^ 15 * 2 ^ 16) ++
  leBytes 8 (j.run % 2 ^ 21 * 2 ^ 21) ++
  leBytes 8 (j.digest % 2 ^ 32 * 2 ^ 32 + s.glb.image.fwver % 2 ^ 32) ++
  leBytes 8 (now s % 2 ^ 32) ++ List.replicate 16 0#8

/-- Writes a journal record: nothing where there is no ring; a crossing of a half of the ring sets JHALF. -/
def journal (k : JKind) (cx : Nat) (j : JRec) : Pm Unit := do
  let s ← get
  let base := csrField s 0xB0030 6 36 * 64
  let n := 2 ^ clampN 8 24 (csrField s 0xB0038 0 5)
  let wr := (s.plc.jrnl + 1) % 2 ^ 32
  let s1 := { s with plc := { s.plc with jrnl := wr } }
  if base = 0 then pure ()
  else do
    set (if wr % (n / 2) = 0 then csrSet s1 0xB0068 4 else s1)
    pmWrite (base + 64 * (s.plc.jrnl % n)) (jrnlBytes s k cx j)

/-! ## The owner table (R341) -/

/-- Writes the replicas of an object block: the replica list, then the entry with its epoch. -/
def writeBlockEntry (p : PSlot) (E c e i epoch : Nat) (l : List (Nat × Nat)) : Pm Unit := do
  let s ← get
  let rl := if l.length ≤ 1 then 0 else rlAddr p E c e i
  let h := l.headD (0, 0)
  let w0 := 2 ^ 63 + h.1 * 2 ^ 48 + (l.length - 1) * 2 ^ 42 + h.2 * 2 ^ 21
  if l.length ≤ 1 then pure ()
  else pmWrite rl (((l.drop 1).map (fun r => leBytes 8 (r.1 * 2 ^ 48 + r.2 * 2 ^ 21))).flatten)
  pmWrite (ownAddr s (objBlock p c e i)) (leBytes 8 w0 ++ leBytes 8 (epoch % 2 ^ 16 * 2 ^ 48 + rl))

/-- The companion and block numbers of an expert's blocks, in ascending order. -/
def expertBlocks (p : PSlot) : List (Nat × Nat) :=
  (List.range (polComps p)).flatMap (fun c => (List.range (polNB p)).map (fun i => (c, i)))

/-- Rewrites every entry of an expert by a function of the block's place in a run and its replicas. -/
def rewriteExpert (p : PSlot) (E e epoch : Nat) (f : Nat → List (Nat × Nat) → List (Nat × Nat)) : Pm Unit := do
  (expertBlocks p).forM (fun (c, i) => do
    let l ← pmBlock (objBlock p c e i)
    writeBlockEntry p E c e i epoch (f (c * polNB p + i) l))

/-- A new table generation (R323): the cache is empty. -/
def bumpGen (s : State) : State :=
  let s1 := csrPut s 0xA0020 (setBits (csrGet s 0xA0020) 32 16 (csrField s 0xA0020 32 16 + 1))
  { s1 with fab := { s1.fab with ownCache := [] } }

/-! ## MIGR messages (Table 13.3) -/

/-- Fields of a MIGR header. -/
structure MigrHdr where
  op : Nat := 0
  pslot : Nat := 0
  dslot : Nat := 0
  block : Nat := 0
  replica : Nat := 0
  /-- 64-byte lines -/
  offset : Nat := 0
  pepoch : Nat := 0
  deriving DecidableEq, Repr, Inhabited

/-- The header bits of a MIGR message. -/
def MigrHdr.bits (h : MigrHdr) : Nat :=
  ext 64 (h.pslot % 32) + ext 69 (h.dslot % 16) + ext 73 (h.op % 8) + ext 76 (h.block % 2 ^ 24) + ext 100 (h.replica % 64) +
  ext 106 (h.offset % 2 ^ 15) + ext 121 (h.pepoch % 2 ^ 16)

/-- The MIGR fields of a header. -/
def migrOf (h : Nat) : MigrHdr :=
  { op := Sys2Proof.bits h 73 3, pslot := Sys2Proof.bits h 64 5, dslot := Sys2Proof.bits h 69 4,
    block := Sys2Proof.bits h 76 24, replica := Sys2Proof.bits h 100 6, offset := Sys2Proof.bits h 106 15,
    pepoch := Sys2Proof.bits h 121 16 }

/-- Bytes of a piece and pieces of a block. -/
def pieceBytes : Nat := 65536
/-- Pieces of a 2 MiB block. -/
def blockPieces : Nat := 32

/-- Sends a MIGR message; its payload counts. -/
def sendMigr (s : State) (cx dst : Nat) (h : MigrHdr) (data : List Byte) : State :=
  let s1 := send (countC s 0xB0118 data.length) 0x38 8 dst h.bits data
  pmcEvent s1 0x070 none (some cx) none data.length

/-- Discards a MIGR message that matches nothing (R338). -/
def staleMigr (s : State) : State := countC s 0xB0120 1

/-- This chip's replica number of a block and its local address. -/
def ownReplica (s : State) (l : List (Nat × Nat)) : Option (Nat × Nat) :=
  match l.findIdx? (fun r => r.1 == ownChip s) with
  | none => none
  | some r => some (r, ((l[r]?).getD (0, 0)).2 * 2 ^ 21)

end Sys2Proof.Machine
end

