-- ==== Sys2Proof/Machine/Policy.lean ====
section
/-! DEFINITION. The placement policy of PLEVEL 1 (R333): which decisions a PLACE takes from the exchanged records and the
projected map. Loads are held times the least common multiple of 1 to 64, so that every L / R(e) is a whole number and the
arithmetic is exact (R7). -/

namespace Sys2Proof.Machine

/-- The least common multiple of 1 to 64. -/
def loadScale : Nat := (List.range 64).foldl (fun m i => Nat.lcm m (i + 1)) 1

/-- What the exchanged records say (Table 13.1). -/
structure PolicyIn where
  /-- LRUN and CAP by member -/
  lrun : List Nat := []
  cap : List Nat := []
  /-- L_e and D_e by expert -/
  load : List Nat := []
  drops : List Nat := []
  maxR : Nat := 64
  /-- blocks that a new replica needs -/
  need : Nat := 1
  hot : Nat := 0
  cold : Nat := 0
  move : Nat := 0
  maxRep : Nat := 0
  maxRet : Nat := 0
  maxMove : Nat := 0

/-- A decision without what only its destination knows. -/
structure Choice where
  slot : Nat
  kind : DecKind
  expert : Nat
  replica : Nat
  src : Nat
  dst : Nat
  deriving DecidableEq, Repr

/-- The projected map while decisions are taken. -/
structure Proj where
  /-- the same of the map in force -/
  base : List (List Nat) := []
  /-- owning members of each expert's replicas, in replica order -/
  reps : List (List Nat) := []
  /-- replicas in a pending decision: expert and replica -/
  busy : List (Nat × Nat) := []
  /-- destinations of this PLACE's decisions -/
  dests : List Nat := []
  /-- free decision slots, ascending -/
  free : List Nat := []
  taken : List Choice := []

/-- The replicas of an expert. -/
def Proj.of (m : Proj) (e : Nat) : List Nat := (m.reps[e]?).getD []
/-- R(e) -/
def Proj.r (m : Proj) (e : Nat) : Nat := (m.of e).length
/-- E_live -/
def Proj.live (m : Proj) : Nat := sumNat (m.reps.map (·.length))

/-- L_e / R(e), scaled. -/
def weight (x : PolicyIn) (m : Proj) (e : Nat) : Nat := nth x.load e * (loadScale / max 1 (m.r e))

/-- load_m, scaled. -/
def loadOf (x : PolicyIn) (m : Proj) (k : Nat) : Nat :=
  sumNat ((List.range m.reps.length).map (fun e => weight x m e * ((m.of e).filter (· == k)).length))

/-- load_a / c_a is less than load_b / c_b; a ratio over 0 is greater than every finite one. -/
def ratioLt (x : PolicyIn) (m : Proj) (a b : Nat) : Bool :=
  if nth x.cap a = 0 then false
  else if nth x.cap b = 0 then true
  else decide (loadOf x m a * nth x.cap b < loadOf x m b * nth x.cap a)

/-- The least element of a list under a strict order, the first of equals. -/
def leastBy {α : Type} (lt : α → α → Bool) : List α → Option α
  | [] => none
  | a :: l => match leastBy lt l with
    | none => some a
    | some b => if lt b a then some b else some a

/-- A list in ascending order of a strict order, equals in their places. -/
def orderBy {α : Type} (lt : α → α → Bool) (l : List α) : List α :=
  l.foldr (fun a acc => acc.takeWhile (fun b => lt b a) ++ a :: acc.dropWhile (fun b => lt b a)) []

/-- target(e, excl), over the members of a list (R333, R347). -/
def targetOf (x : PolicyIn) (m : Proj) (among : List Nat) (e : Nat) (excl : Option Nat) : Option Nat :=
  leastBy (ratioLt x m) (among.filter (fun k =>
    some k != excl && !(m.of e).contains k && decide (0 < nth x.cap k) && decide (x.need ≤ nth x.lrun k) &&
    !m.dests.contains k))

/-- Takes a decision in the lowest free slot and projects it. -/
def Proj.take (m : Proj) (kind : DecKind) (e r src dst : Nat) (reps : List Nat) : Proj :=
  match m.free with
  | [] => m
  | i :: rest => { m with
      reps := m.reps.set e reps, busy := (e, r) :: m.busy, free := rest,
      dests := if kind = .retire then m.dests else dst :: m.dests,
      taken := m.taken ++ [⟨i, kind, e, r, src, dst⟩] }

/-- A sum of loads: A. -/
def totalLoad (x : PolicyIn) : Nat := sumNat x.load

/-- Loop 1, retirements. The number retired without force goes along. -/
def retireStep (x : PolicyIn) (acc : Proj × Nat) (e : Nat) : Proj × Nat :=
  let (m, n) := acc
  let forced := decide (x.maxR < m.r e)
  let cold := decide (1 < m.r e ∧ n < x.maxRet ∧ 16 * nth x.load e * m.live < x.cold * totalLoad x * m.r e)
  let r := m.r e - 1
  if m.free.isEmpty || !(forced || cold) || m.busy.contains (e, r) then acc
  else
    let own := (m.of e).getLastD 0
    (m.take .retire e r own own ((m.of e).take r), if forced then n else n + 1)

/-- Loop 2, replications. The source is replica 0 of the map in force, which a pending move has not left yet (R337). -/
def replicateStep (x : PolicyIn) (members : List Nat) (acc : Proj × Nat) (e : Nat) : Proj × Nat :=
  let (m, n) := acc
  if m.free.isEmpty || decide (x.maxRep ≤ n) ||
      !decide (m.r e < x.maxR ∧ x.hot * totalLoad x * m.r e < 16 * nth x.load e * m.live) then acc
  else match targetOf x m members e none with
    | none => acc
    | some t => (m.take .replicate e (m.r e) (((m.base[e]?).getD []).headD 0) t (m.of e ++ [t]), n + 1)

/-- The replica of member `k` that loop 3 picks: the largest w at most x, ties to the lower expert. -/
def pickReplica (x : PolicyIn) (m : Proj) (k : Nat) : Option (Nat × Nat) :=
  let S := sumNat x.cap
  let cands := (List.range m.reps.length).filterMap (fun e =>
    let r := (m.of e).idxOf k
    if r < m.r e ∧ !m.busy.contains (e, r) ∧
        weight x m e * S + totalLoad x * loadScale * nth x.cap k ≤ loadOf x m k * S then some (e, r) else none)
  leastBy (fun a b => decide (weight x m b.1 < weight x m a.1)) cands

/-- Loop 3, moves. -/
def moveStep (x : PolicyIn) (members : List Nat) (acc : Proj × Nat) (k : Nat) : Proj × Nat :=
  let (m, n) := acc
  let S := sumNat x.cap
  if m.free.isEmpty || decide (x.maxMove ≤ n) ||
      !decide (x.move * totalLoad x * nth x.cap k * loadScale < 16 * loadOf x m k * S) then acc
  else match pickReplica x m k with
    | none => acc
    | some (e, r) =>
      match targetOf x m members e (some k) with
      | none => acc
      | some t =>
        if (loadOf x m t + weight x m e) * nth x.cap k < loadOf x m k * nth x.cap t then
          (m.take .move e r k t ((m.of e).set r t), n + 1)
        else acc

/-- The decisions of a PLACE (R333). -/
def policy (x : PolicyIn) (m0 : Proj) : List Choice :=
  if totalLoad x = 0 then []
  else
    let members := List.range x.cap.length
    let es := List.range m0.reps.length
    let o1 := orderBy (fun a b => decide (weight x m0 a < weight x m0 b)) es
    let m1 := (o1.foldl (retireStep x) (m0, 0)).1
    let o2 := orderBy (fun a b => decide (nth x.drops b < nth x.drops a ∨
      (nth x.drops b = nth x.drops a ∧ nth x.load b < nth x.load a))) es
    let m2 := (o2.foldl (replicateStep x members) (m1, 0)).1
    let o3 := orderBy (fun a b => ratioLt x m2 b a) members
    let m3 := (o3.foldl (moveStep x members) (m2, 0)).1
    m3.taken

end Sys2Proof.Machine
end

