-- ==== Sys2Proof/Machine/Place.lean ====
section
/-! DEFINITION. PLACE (R326 to R341, R344, R345): the exchange of placement records, the switch of due decisions, new
decisions, and the migration that they start. -/

namespace Sys2Proof.Machine

/-! ## Records (Table 13.1) -/

/-- RS: bytes of a placement record. -/
def recSize (E : Nat) : Nat := roundUp (192 + 16 * E) 64

/-- MAXR -/
def plcMaxR (s : State) : Nat := clampN 1 64 (csrField s 0xB0008 0 7)

/-- CAP (Table 13.1). -/
def plcCap (s : State) : Nat :=
  max 1 (csrField s 0xB0028 0 8) *
    sumNat ((List.range 6).map (fun n => if snapUp s n then nth s.fab.snapW n else 0))

/-- The decision slots whose decision meets a condition, as a mask. -/
def decMask (p : PSlot) (f : Decision → Bool) : Nat := p.decisions.foldl (fun m d => if f d then m ||| 2 ^ d.slot else m) 0

/-- The first 16 bytes of a record. -/
def recHead (s : State) (p : PSlot) : List Byte :=
  leBytes 4 p.step ++ leBytes 2 p.pepoch ++ leBytes 1 (plcMaxR s) ++ leBytes 1 s.glb.image.plevel ++
    leBytes 4 s.glb.image.fwver ++ leBytes 4 (crc32c ((p.policy.map (leBytes 8)).flatten))

/-- REP of decision slot `k`. -/
def repWord (p : PSlot) (k : Nat) : Nat :=
  match p.decisions.find? (fun d => d.slot == k) with
  | none => 0
  | some d => match d.run with
    | none => 0
    | some b => 2 ^ 63 + b * 2 ^ 21

/-- This member's record. -/
def ownRecord (s : State) (i E : Nat) : List Byte :=
  let p := pslot s i
  let fixed := recHead s p ++ leBytes 4 (longestRun s) ++ leBytes 4 (plcCap s) ++ leBytes 2 (decMask p (·.done)) ++
    leBytes 2 (decMask p (·.fail)) ++ List.replicate 36 0#8 ++ ((List.range 16).map (fun k => leBytes 8 (repWord p k))).flatten
  let cnt := ((List.range E).map (fun e =>
    let c := (p.sampled[e]?).getD (0, 0, 0)
    leBytes 4 c.1 ++ leBytes 4 c.2.1 ++ leBytes 4 c.2.2 ++ leBytes 4 0)).flatten
  fixed ++ cnt ++ List.replicate (recSize E - 192 - 16 * E) 0#8

/-- A record of the exchange area. -/
structure PRec where
  head : List Byte := []
  lrun : Nat := 0
  cap : Nat := 0
  done : Nat := 0
  fail : Nat := 0
  rep : List Nat := []
  /-- SEL and DROP by expert -/
  sel : List Nat := []
  drop : List Nat := []

/-- The record of bytes. -/
def recOf (E : Nat) (b : List Byte) : PRec :=
  let at_ := fun o n => leNat ((b.drop o).take n)
  { head := b.take 16, lrun := at_ 16 4, cap := at_ 20 4, done := at_ 24 2, fail := at_ 26 2,
    rep := (List.range 16).map (fun k => at_ (64 + 8 * k) 8),
    sel := (List.range E).map (fun e => at_ (192 + 16 * e) 4), drop := (List.range E).map (fun e => at_ (200 + 16 * e) 4) }

/-- The records of the exchange area, by member. -/
def readRecs (p : PSlot) (P E : Nat) : Pm (List PRec) :=
  (List.range P).mapM (fun m => do
    let b ← pmRead (polX p + m * recSize E) (recSize E)
    pure (recOf E b))

/-! ## Maps -/

/-- The owning members of every expert's replicas, in replica order, by the owner table. -/
def mapMembers (p : PSlot) (g E : Nat) : Pm (List (List Nat)) :=
  (List.range E).mapM (fun e => do
    let l ← pmBlock (objBlock p 0 e 0)
    l.mapM (fun r => do
      let s ← get
      let (s1, m) := memberOf s g r.1
      set s1
      pure m))

/-- The replicas of an expert after a decision: a new one appended, the last removed, or one moved. -/
def applyTo {α : Type} (k : DecKind) (r : Nat) (x : α) (l : List α) : List α :=
  match k with
  | .retire => l.take (l.length - 1)
  | .replicate => l ++ [x]
  | .move => l.set r x

/-- The projected map: the map in force with every pending decision applied, oldest first. -/
def project (maps : List (List Nat)) (ds : List Decision) : Proj :=
  let old := orderBy (fun a b => decide (a.step < b.step)) ds
  let reps := old.foldl (fun l d => l.set d.expert (applyTo d.kind d.replica d.dst ((l[d.expert]?).getD []))) maps
  { base := maps, reps := reps, busy := ds.map (fun d => (d.expert, d.replica)),
    free := (List.range 16).filter (fun k => !ds.any (fun d => d.slot == k)) }

/-! ## Migration at the source (R337) -/

/-- A decision that copies. -/
def Decision.copies (d : Decision) : Bool := d.kind != .retire

/-- Replaces the decision in its slot. -/
def putDec (s : State) (i : Nat) (d : Decision) : State :=
  setPslot s i { pslot s i with decisions := (pslot s i).decisions.map (fun x => if x.slot == d.slot then d else x) }

/-- The bytes of piece `k` of a block's run at this chip, with the block's place: companion and block number. -/
def readPiece (p : PSlot) (e k : Nat) : Pm (Nat × List Byte) := do
  let c := k / blockPieces / polNB p
  let i := k / blockPieces % polNB p
  let l ← pmBlock (objBlock p c e i)
  let s ← get
  match ownReplica s l with
  | none => throw pmUnmapped
  | some (_, a) =>
    let b ← pmRead (a + k % blockPieces * pieceBytes) pieceBytes
    pure (objBlock p c e i, b)

/-- Sends pieces of decision `d` of slot `i` while fewer than 16 are unacknowledged; a read error fails the decision. -/
def pushPieces (i : Nat) : Nat → State → Decision → State
  | 0, s, d => putDec s i d
  | fuel + 1, s, d =>
    if d.fail || d.pieces ≤ d.sentP || d.ackP + 16 ≤ d.sentP then putDec s i d
    else
      let p := pslot s i
      match (readPiece p d.expert d.sentP).run s with
      | (.error code, s1) => putDec (if code = pmUnmapped then s1 else mpFault s1 p.ctx 0 code) i { d with fail := true }
      | (.ok (b, data), s1) =>
        let h : MigrHdr := { op := 0, pslot := i, dslot := d.slot, block := b, replica := d.replica,
                             offset := d.sentP % blockPieces * (pieceBytes / 64), pepoch := d.pepoch }
        let chip := memberChip s1 (grpBox s1 (pbGroup (ctx s1 p.ctx))) d.dst
        pushPieces i fuel (sendMigr s1 p.ctx chip h data) { d with sentP := d.sentP + 1 }

/-- Pushes the pieces of every decision of a slot of which this member is the source. -/
def migrPump (s : State) (i : Nat) : State :=
  let m := (grp s (pbGroup (ctx s (pslot s i).ctx))).midx
  ((pslot s i).decisions.filter (fun d => d.copies && d.src == m)).foldl (fun u d =>
    match (pslot u i).decisions.find? (fun x => x.slot == d.slot) with
    | none => u
    | some x => pushPieces i 17 u x) s

/-! ## The switch (R340, R341) -/

/-- The decision is due at this PLACE: as STRICT or COUNTED mode says. -/
def isDue (strict : Bool) (p : PSlot) (recs : List PRec) (d : Decision) : Bool :=
  let all := recs.all (fun r => bit r.done d.slot)
  let time := decide (d.step + polLag p ≤ p.step)
  if !d.copies then time else if strict then time && all else all

/-- The run that the destination reports for a decision. -/
def repRun (recs : List PRec) (d : Decision) : Nat := bits (nth ((recs[d.dst]?).getD {}).rep d.slot) 21 21

/-- The journal record of a decision. -/
def decRec (s : State) (p : PSlot) (d : Decision) (pepoch digest run : Nat) : JRec :=
  let box := grpBox s (pbGroup (ctx s p.ctx))
  { slot := d.slot, pepoch := pepoch, step := p.step, dstep := d.step, expert := d.expert, replica := d.replica,
    src := memberChip s box d.src, dst := memberChip s box d.dst, run := run, digest := digest }

/-- Switches one decision: entries, counters, the run that falls free, a new table generation, by which the next decision
reads what this one wrote, and the journal. -/
def switchOne (i E digest : Nat) (strict : Bool) (recs : List PRec) (d : Decision) : Pm Unit := do
  let s ← get
  let p := pslot s i
  let g := pbGroup (ctx s p.ctx)
  let run := if d.copies then repRun recs d else 0
  let chip := memberChip s (grpBox s g) d.dst
  let l0 ← pmBlock (objBlock p 0 d.expert 0)
  let epoch := (p.pepoch + 1) % 2 ^ 16
  rewriteExpert p E d.expert epoch (fun k l => applyTo d.kind d.replica (chip, run + k) l)
  let leaves := match d.kind with
    | .retire => l0.length - 1
    | .move => d.replica
    | .replicate => l0.length
  pmDo (fun u =>
    let u1 := countC (csrSet u 0xB0068 1) 0xB0108 1
    let u2 := if d.copies && !strict && p.step != d.step + polLag p then tdcCount u1 2 else u1
    let u3 := match l0[leaves]? with
      | some r => if r.1 = ownChip u2 then retireRun u2 i r.2 epoch else u2
      | none => u2
    bumpGen (setPslot u3 i { pslot u3 i with decisions := (pslot u3 i).decisions.filter (fun x => x.slot != d.slot) }))
  journal .switch p.ctx (decRec s p d epoch digest run)

/-- A pending decision is abandoned: its run is free at once (R336). -/
def dropDec (s : State) (i : Nat) (d : Decision) : State :=
  let s1 := setPslot s i { pslot s i with decisions := (pslot s i).decisions.filter (fun x => x.slot != d.slot) }
  countC (match d.run with
    | some b => dropRun s1 i b
    | none => s1) 0xB0110 1

/-- The journal record of a decision of slot `i` that is taken or abandoned now. -/
def decNow (s : State) (i digest : Nat) (d : Decision) : JRec := decRec s (pslot s i) d (pslot s i).pepoch digest 0

/-- Writes journal records in decision slot order (R344); of one slot's the earlier first. -/
def journalAll (cx : Nat) (l : List (JKind × JRec)) : Pm Unit :=
  (orderBy (fun (a b : JKind × JRec) => decide (a.2.slot < b.2.slot)) l).forM (fun r => journal r.1 cx r.2)

/-- Abandons all pending decisions of slot `i`, with their journal records. -/
def abandonAll (i : Nat) : Pm Unit := do
  let s ← get
  pmDo (fun u => (pslot s i).decisions.foldl (fun v d => dropDec v i d) u)
  journalAll (pslot s i).ctx ((pslot s i).decisions.map (fun d => (.abandon, decNow s i 0 d)))

/-! ## New decisions (R333, R335) -/

/-- A decision as it begins on this member. -/
def newDec (s : State) (i : Nat) (c : Choice) : Decision :=
  let p := pslot s i
  let m := (grp s (pbGroup (ctx s p.ctx))).midx
  { slot := c.slot, kind := c.kind, expert := c.expert, replica := c.replica, src := c.src, dst := c.dst, step := p.step,
    pepoch := p.pepoch, done := c.kind == .retire || (c.src != m && c.dst != m), pieces := polNeed p * blockPieces }

/-- Records a decision; its destination allocates the run, and fails it where there is none. -/
def addDec (s : State) (i : Nat) (d : Decision) : State :=
  let m := (grp s (pbGroup (ctx s (pslot s i).ctx))).midx
  let (d1, s1) := if d.copies && d.dst == m then
      match takeRun s i (polNeed (pslot s i)) with
      | none => ({ d with fail := true }, s)
      | some (b, t) => ({ d with run := some b }, t)
    else (d, s)
  setPslot (countC s1 0xB0100 1) i { pslot s1 i with decisions := (pslot s1 i).decisions ++ [d1] }

/-- The journal kind of a decision. -/
def DecKind.jkind : DecKind → JKind | .retire => .retire | .replicate => .replicate | .move => .move

/-- The decision that a replay record names. -/
def replayChoice (s : State) (g : Nat) (w : List Nat) : Option Choice :=
  let k : Option DecKind := match bits (nth w 0) 60 4 with
    | 2 => some .replicate | 3 => some .retire | 4 => some .move | _ => none
  let idx := fun chip => if inBox s (grpBox s g) chip then idxIn s (grpBox s g) chip else boxCount (grpBox s g)
  k.map (fun kind => { slot := bits (nth w 0) 56 4, kind := kind, expert := bits (nth w 2) 52 12,
                       replica := bits (nth w 2) 46 6, src := idx (bits (nth w 2) 31 15), dst := idx (bits (nth w 2) 16 15) })

/-- Goes through the replay area from the cursor (R345): the decisions of this step, and whether a STEP record has another
digest. The fuel is the number of records left. -/
def replayScan (p : PSlot) (g digest : Nat) : Nat → Nat → Pm (List Choice × Bool × Nat)
  | 0, k => pure ([], false, k)
  | fuel + 1, k => do
    let b ← pmRead (polRply p + 64 + 64 * k) 64
    let w := (runs 8 8 b).map leNat
    let step := bits (nth w 1) 32 32
    if bits (nth w 0) 42 14 ≠ p.ctx ∨ step < p.step then replayScan p g digest fuel (k + 1)
    else if p.step < step then pure ([], false, k)
    else do
      let s ← get
      let (l, dv, e) ← replayScan p g digest fuel (k + 1)
      let here := (replayChoice s g w).toList
      pure (here ++ l, dv || (bits (nth w 0) 60 4 == 9 && bits (nth w 4) 32 32 != digest), e)

/-- The replayed decisions, with those whose slot is taken, whose chips are none of the group's, or whose destination lacks
the run (R345, log entry 150). -/
def replay (i g digest : Nat) (recs : List PRec) : Pm (List Choice × List Choice) := do
  let s ← get
  let p := pslot s i
  let b ← pmRead (polRply p) 64
  let (l, dv, k) ← replayScan p g digest (leNat (b.take 4) - p.cursor) p.cursor
  pmDo (fun u => setPslot (if dv then countC u 0xB0128 1 else u) i { pslot u i with cursor := k })
  let lacks := fun (c : Choice) => p.decisions.any (fun d => d.slot == c.slot) || decide (recs.length ≤ max c.src c.dst) ||
    (c.kind != .retire && decide (((recs[c.dst]?).getD {}).lrun < polNeed p))
  pure (l.filter (fun c => !lacks c), l.filter lacks)

/-- The policy's input from the records. -/
def policyIn (s : State) (p : PSlot) (E : Nat) (recs : List PRec) : PolicyIn :=
  let w := polW p 2
  { lrun := recs.map (·.lrun), cap := recs.map (·.cap),
    load := (List.range E).map (fun e => sumNat (recs.map (fun r => nth r.sel e))),
    drops := (List.range E).map (fun e => sumNat (recs.map (fun r => nth r.drop e))),
    maxR := plcMaxR s, need := polNeed p, hot := bits w 0 8, cold := bits w 8 8, move := bits w 16 8,
    maxRep := bits w 24 8, maxRet := bits w 32 8, maxMove := bits w 40 8 }

/-- The decisions of this PLACE: replayed or by the policy. The second list is abandoned at once. -/
def decide_ (i g E digest : Nat) (recs : List PRec) : Pm (List Choice × List Choice) := do
  let s ← get
  let p := pslot s i
  if polRply p ≠ 0 then replay i g digest recs
  else do
    let maps ← mapMembers p g E
    pure (policy (policyIn s p E recs) (project maps p.decisions), [])

/-! ## After the exchange -/

/-- How a PLACE ends. -/
structure PlaceEnd where
  status : Nat := 0
  detail : Nat := 0
  result : Nat := 0

/-- The work of STEP after the checks of R331: switches, abandonments, decisions; their journal records, and the STEP record
(R344, log entry 39). -/
def stepWork (run : PlaceRun) (g E digest : Nat) (recs : List PRec) : Pm Nat := do
  let i := run.slot
  let s ← get
  let p := pslot s i
  let ds := orderBy (fun (a b : Decision) => decide (a.slot < b.slot)) p.decisions
  let failed := ds.filter (fun d => recs.any (fun r => bit r.fail d.slot))
  let due := ds.filter (fun d => !failed.contains d && isDue run.strict p recs d)
  due.forM (switchOne i E digest run.strict recs)
  if due.isEmpty then pure () else pmDo (fun u => setPslot u i { pslot u i with pepoch := (p.pepoch + 1) % 2 ^ 16 })
  pmDo (fun u => failed.foldl (fun v d => dropDec (csrSet v 0xB0068 2) i d) u)
  let (cs, bad) ← decide_ i g E digest recs
  let v ← get
  let ds := (orderBy (fun (a b : Choice) => decide (a.slot < b.slot)) cs).map (newDec v i)
  pmDo (fun u => ds.foldl (fun w d => addDec w i d) (bad.foldl (fun w _ => countC (csrSet w 0xB0068 2) 0xB0110 1) u))
  journalAll p.ctx ((failed ++ bad.map (newDec v i)).map (fun d => (.abandon, decNow v i digest d)) ++
    ds.map (fun d => (d.kind.jkind, decNow v i digest d)))
  let u ← get
  journal .step p.ctx { pepoch := (pslot u i).pepoch, step := p.step, dstep := p.step, digest := digest }
  pmDo (fun v => setPslot v i { pslot v i with step := (p.step + 1) % 2 ^ 32, ackBytes := 0, sampled := [] })
  pure cs.length

/-- PLACE after its exchange (R331, R332): the records are held against the one that this member wrote. -/
def placeBody (run : PlaceRun) (g : Nat) : Pm PlaceEnd := do
  let s ← get
  let p := pslot s run.slot
  let E := pbE (ctx s run.ctx)
  let P := boxCount (grpBox s g)
  let recs ← readRecs p P E
  let area ← pmRead (polX p) (P * recSize E)
  if recs.any (fun r => r.head != run.head) then pure { status := stSigMis, detail := crc32c run.head }
  else if run.enrol then do
    pmDo (fun u => setPslot u run.slot { pslot u run.slot with st := 1 })
    journal .enrol run.ctx { digest := crc32c area }
    pure {}
  else do
    let n ← stepWork run g E (crc32c area) recs
    pure { result := n }

/-- The PLACE of a command. -/
def placeRun (s : State) (q tag : Nat) : Option PlaceRun := s.plc.places.find? (fun r => r.q == q && r.tag == tag)

/-- The PLACE leaves the engine; a slot whose ENROL did not complete is free again. -/
def dropPlace (s : State) (q tag : Nat) : State :=
  let s1 := { s with plc := { s.plc with places := s.plc.places.filter (fun r => !(r.q == q && r.tag == tag)) } }
  match placeRun s q tag with
  | none => s1
  | some r => if r.enrol && (pslot s1 r.slot).st != 1 then setPslot s1 r.slot {} else s1

/-- The exchange of a PLACE has ended well: its work, then its completion and the migrations that it started. -/
def placeFin (s : State) (g : Nat) (o : CollOp) : State :=
  match placeRun s o.q o.tag with
  | none => endColl s g 0 0 0
  | some run =>
    match (placeBody run g).run s with
    | (.ok e, s1) => migrPump (endColl (dropPlace s1 o.q o.tag) g e.status e.detail e.result) run.slot
    | (.error code, s1) =>
      let (s2, status, detail) := pmStop s1 run.ctx o.q code
      endColl (dropPlace s2 o.q o.tag) g status detail 0

/-! ## Before the exchange -/

/-- A PLACE ends before its exchange. -/
def placeQuit (s : State) (run : PlaceRun) (status detail : Nat) : State :=
  finish (dropPlace s run.q run.tag) run.q run.tag status detail 0 0

/-- Replaces the PLACE of a command. -/
def putPlace (s : State) (r : PlaceRun) : State :=
  { s with plc := { s.plc with places := s.plc.places.filter (fun x => !(x.q == r.q && x.tag == r.tag)) ++ [r] } }

/-- Writes the record and starts the ALLGATHER over the context's group (R330). -/
def placeExchange (s : State) (run : PlaceRun) : State :=
  let p := pslot s run.slot
  let g := pbGroup (ctx s run.ctx)
  let E := pbE (ctx s run.ctx)
  let at_ := (polX p + (grp s g).midx * recSize E) % 2 ^ 42
  match (pmWrite at_ (ownRecord s run.slot E)).run s with
  | (.error code, s1) =>
    let (s2, status, detail) := pmStop s1 run.ctx run.q code
    placeQuit s2 run status detail
  | (.ok _, s1) =>
    let o : CollOp := { q := run.q, tag := run.tag, ctx := run.ctx, opc := 0x48, etype := 7, n := recSize E, src := at_,
                        dst := polX p }
    let r := { run with head := recHead s p }
    startColl placeFin (putPlace s1 r) g o (b2n run.enrol) 0 (recSize E)

/-- A due copy has neither ended nor failed here: PLACE under STRICT waits for it (R340). -/
def mustWait (s : State) (run : PlaceRun) : Bool :=
  let p := pslot s run.slot
  run.strict && !run.enrol && p.decisions.any (fun d => d.copies && !d.done && !d.fail && decide (d.step + polLag p ≤ p.step))

/-- Goes on with a PLACE: it waits, or exchanges. -/
def placeGo (s : State) (run : PlaceRun) : State :=
  let r := { run with waiting := mustWait s run }
  let s1 := putPlace s r
  if r.waiting then s1 else placeExchange s1 r

/-- The PLACEs that waited for a decision of slot `i`. -/
def placeResume (s : State) (i : Nat) : State :=
  (s.plc.places.filter (fun r => r.waiting && r.slot == i && (findCmd s r.q r.tag).any (·.executing))).foldl placeGo s

/-- Reads the policy block (Table 13.2). -/
def loadPolicy (i a : Nat) : Pm Unit := do
  let b ← pmRead a 64
  pmDo (fun s => setPslot s i { pslot s i with policy := (runs 8 8 b).map leNat })

/-- Samples and resets the step counters (R329). -/
def sampleSteps (s : State) (i E : Nat) : State :=
  let p := pslot s i
  let v := fun (l : List (Nat × Nat)) e => slook (fun _ => 0) l e
  setPslot s i { p with sel := [], kept := [], drop := [],
                        sampled := (List.range E).map (fun e => (v p.sel e, v p.kept e, v p.drop e)) }

/-- A slot is free; one whose ENROL was ended by an abort is free again. -/
def slotFree (s : State) (i : Nat) : Bool :=
  (pslot s i).st == 0 ||
  ((pslot s i).st == 3 && !s.front.inflight.any (fun c => c.opc == 0x48 && c.executing && c.ctx == (pslot s i).ctx))

/-- A slot is free for the ENROL that is command `tag` of queue `q`: that command holds none yet. -/
def slotFreeFor (s : State) (q tag i : Nat) : Bool :=
  (pslot s i).st == 0 ||
  ((pslot s i).st == 3 && !s.front.inflight.any (fun c =>
    c.opc == 0x48 && c.executing && c.ctx == (pslot s i).ctx && !(c.q == q && c.tag == tag)))

/-- The unit checks of a PLACE over its group: usable, then not lost (R272, R350). -/
def groupCheck (s : State) (g : Nat) : Option (Nat × Nat) :=
  if !inGroup s g then some (stIllegal, 0x15)
  else if (grp s g).lost then some (stMemberLost, lostDetail s g)
  else none

/-- STEP (R332): the sample at its issue (R329), the policy block where one is given, then the exchange. -/
def placeStepWork (c : Cmd) (s : State) : Work :=
  match placedSlot s c.ctx, groupCheck s (pbGroup (ctx s c.ctx)) with
  | none, _ => doneWith s stIllegal 0x16 0 0
  | some i, chk =>
    if (pslot s i).st = 2 then doneWith s stIllegal 0x16 0 0
    else match chk with
    | some (status, detail) => doneWith s status detail 0 0
    | none =>
      let c1 := { c with saved := [1] }
      let s0 := if c.saved.isEmpty then setCmd (sampleSteps (freeRetired s i) i (pbE (ctx s c.ctx))) c1 else s
      withSlots (slotsOk s c) c s0 fun _ =>
        match (if absent c.a then (pure () : Pm Unit) else loadPolicy i (opAddr c.a)).run s0 with
        | (.error code, s1) =>
          let (s2, status, detail) := pmStop s1 c.ctx c.q code
          doneWith s2 status detail 0 0
        | (.ok _, s1) =>
          ⟨placeGo s1 { q := c.q, tag := c.tag, ctx := c.ctx, slot := i, strict := c.strict }, .exec⟩

/-- ENROL (R332): the lowest free slot, with STEP and PEPOCH 0. -/
def placeEnrolWork (c : Cmd) (s : State) : Work :=
  match placedSlot s c.ctx, (List.range 32).find? (slotFreeFor s c.q c.tag), groupCheck s (pbGroup (ctx s c.ctx)) with
  | some _, _, _ => doneWith s stIllegal 0x17 0 0
  | none, none, _ => doneWith s stIllegal 0x17 0 0
  | none, some _, some (status, detail) => doneWith s status detail 0 0
  | none, some i, none => withSlots (slotsOk s c) c s fun _ =>
    match (loadPolicy i (opAddr c.a)).run (setPslot s i { st := 3, ctx := c.ctx }) with
    | (.error code, s1) =>
      let (s2, status, detail) := pmStop (setPslot s1 i {}) c.ctx c.q code
      doneWith s2 status detail 0 0
    | (.ok _, s1) =>
      ⟨placeGo s1 { q := c.q, tag := c.tag, ctx := c.ctx, slot := i, enrol := true, strict := c.strict }, .exec⟩

/-- Releases a placement slot as LEAVE does: pending decisions are abandoned, what the slot holds is free. -/
def leaveSlot (i : Nat) : Pm Unit := do
  abandonAll i
  pmDo (fun u => setPslot u i {})

/-- LEAVE (R332) -/
def placeLeaveWork (c : Cmd) (s : State) : Work :=
  let g := pbGroup (ctx s c.ctx)
  match placedSlot s c.ctx with
  | none => doneWith s stIllegal 0x16 0 0
  | some i =>
    if (grp s g).lost then doneWith s stMemberLost (lostDetail s g) 0 0
    else withSlots (slotsOk s c) c s fun _ => match (leaveSlot i).run s with
      | (.ok _, s1) => doneWith s1 0 0 0 0
      | (.error code, s1) =>
        let (s2, status, detail) := pmStop s1 c.ctx c.q code
        doneWith s2 status detail 0 0

/-! ## Meanings -/

/-- PLACE_STEP -/
def execPlaceStep (q tag : Nat) (s : State) : Host.Outcome State Fault Refusal :=
  .next (working (issueRow (isSub 0x48 0 [0, 1, 2]) q tag placeStepWork) s)
/-- PLACE_ENROL -/
def execPlaceEnrol (q tag : Nat) (s : State) : Host.Outcome State Fault Refusal :=
  .next (working (issueRow (isSub 0x48 1 [0, 1, 2]) q tag placeEnrolWork) s)
/-- PLACE_LEAVE -/
def execPlaceLeave (q tag : Nat) (s : State) : Host.Outcome State Fault Refusal :=
  .next (working (issueRow (isSub 0x48 2 [0, 1, 2]) q tag placeLeaveWork) s)

end Sys2Proof.Machine
end

