-- ==== Sys2Proof/Machine/Migr.lean ====
section
/-! DEFINITION. MIGRATE (R342, R343): replica-gradient sums along the replica chains, and explicit copies. -/

namespace Sys2Proof.Machine

/-- A MIGRATE ends at an error of its own. -/
def migrateStop (s : State) (cx q tag code result : Nat) : State :=
  let (s1, status, detail) := pmStop s cx q code
  finish s1 q tag status detail result 0

/-- The unit check of a MIGRATE: the slot of a placed context. -/
def placedCheck (s : State) (cx : Nat) : Option Nat :=
  match placedSlot s cx with
  | none => none
  | some i => if (pslot s i).st = 1 then some i else none

/-! ## GSUM (R342) -/

/-- The gradient companion. -/
def gradComp (p : PSlot) : Nat := polG p % 4

/-- The replicas of the gradient block that holds piece `k` of expert `e`. -/
def gradBlock (p : PSlot) (e k : Nat) : Nat := objBlock p (gradComp p) e (k / blockPieces)

/-- Stores or clears the sum in progress. -/
def setGsum (s : State) (x : Option Gsum) : State := { s with plc := { s.plc with gsum := x } }

/-- Ends the sum. -/
def gsumEnd (s : State) (x : Gsum) (status detail : Nat) : State :=
  finish (setGsum s none) x.q x.tag status detail x.bytes 0

/-- One piece fewer to end at this member; the last one ends the sum. -/
def gsumLess (s : State) : State :=
  match s.plc.gsum with
  | none => s
  | some x =>
    let y := { x with left := x.left - 1 }
    if y.left = 0 then gsumEnd s y 0 0 else setGsum s (some y)

/-- Sends a piece of the sum to a chip, its bytes counted. -/
def sendGsum (s : State) (x : Gsum) (op chip b k r : Nat) (data : List Byte) : State :=
  let h : MigrHdr := { op := op, pslot := x.slot, block := b, replica := r, offset := k % blockPieces * (pieceBytes / 64),
                       pepoch := (pslot s x.slot).pepoch }
  let s1 := match s.plc.gsum with
    | some y => setGsum s (some { y with bytes := y.bytes + data.length })
    | none => s
  sendMigr s1 x.ctx chip h data

/-- The last replica starts the next piece of its chains. -/
def gsumNext : Pm Unit := do
  let s ← get
  match s.plc.gsum with
  | none => pure ()
  | some x =>
    match x.todo with
    | [] => pure ()
    | (e, k) :: rest =>
      let p := pslot s x.slot
      let b := gradBlock p e k
      let l ← pmBlock b
      let u ← get
      match ownReplica u l with
      | none => throw pmUnmapped
      | some (r, a) =>
        let data ← pmRead (a + k % blockPieces * pieceBytes) pieceBytes
        pmDo (fun v => sendGsum (setGsum v (v.plc.gsum.map (fun y => { y with todo := rest }))) x 2
          ((l[r - 1]?).getD (0, 0)).1 b k (r - 1) data)

/-- The pieces in which this member takes part, and those that it starts, expert by expert. -/
def gsumParts (p : PSlot) (E : Nat) : Pm (Nat × List (Nat × Nat)) := do
  (List.range E).foldlM (fun acc e => do
    let l ← pmBlock (objBlock p (gradComp p) e 0)
    let s ← get
    let n := polNB p * blockPieces
    match ownReplica s l with
    | none => pure acc
    | some (r, _) =>
      if l.length ≤ 1 then pure acc
      else pure (acc.1 + n, if r + 1 = l.length then acc.2 ++ (List.range n).map (fun k => (e, k)) else acc.2)) (0, [])

/-- MIGRATE GSUM at its issue. -/
def gsumWork (c : Cmd) (s : State) : Work :=
  match placedCheck s c.ctx, groupCheck s (pbGroup (ctx s c.ctx)) with
  | none, _ => doneWith s stIllegal 0x16 0 0
  | some _, some (status, detail) => doneWith s status detail 0 0
  | some i, none =>
    let p := pslot s i
    if polG p = 0xF then doneWith s 0 0 0 0
    else withSlots (slotsOk s c) c s fun _ => match (gsumParts p (pbE (ctx s c.ctx))).run s with
      | (.error code, s1) =>
        let (s2, status, detail) := pmStop s1 c.ctx c.q code
        doneWith s2 status detail 0 0
      | (.ok (0, _), s1) => doneWith s1 0 0 0 0
      | (.ok (n, todo), s1) =>
        let s2 := setGsum s1 (some { q := c.q, tag := c.tag, ctx := c.ctx, slot := i, todo := todo, left := n })
        match gsumNext.run s2 with
        | (.error code, s3) =>
          let (s4, status, detail) := pmStop (setGsum s3 none) c.ctx c.q code
          doneWith s4 status detail 0 0
        | (.ok _, s3) => ⟨s3, .exec⟩

/-- The message belongs to the sum in progress. -/
def gsumMatch (s : State) (m : Msg) : Bool :=
  let h := migrOf m.hdr
  s.plc.gsum.any (fun x => x.slot == h.pslot && (pslot s x.slot).pepoch == h.pepoch)

/-- The message belongs to no placed context's epoch (R338). -/
def gsumStale (s : State) (m : Msg) : Bool :=
  let h := migrOf m.hdr
  (pslot s h.pslot).st != 1 || (pslot s h.pslot).pepoch != h.pepoch

/-- The lines of a piece. -/
def pieceLines (b : List Byte) : List Nat := (runs 64 (ceilDiv b.length 64) b).map leNat

/-- A partial arrives: it gains the own value, and goes to the next lower replica; at replica 0 it is the result, which is
written and sent back in ascending replica order. -/
def gsumRed (x : Gsum) (h : MigrHdr) (data : List Byte) : Pm Unit := do
  let s ← get
  let p := pslot s x.slot
  let l ← pmBlock h.block
  let u ← get
  match ownReplica u l with
  | none => throw pmUnmapped
  | some (r, a) =>
    let own ← pmRead (a + h.offset * 64) data.length
    let (sums, t) := (((pieceLines data).zip (pieceLines own)).mapM (fun v => combineLine 0 (polGtype p) v.1 v.2)
      : Num (List Nat)) {}
    let out := (linesData sums).take data.length
    let k := h.offset / (pieceBytes / 64)
    pmDo (fun v => addTally v t)
    if 0 < r then pmDo (fun v => sendGsum v x 2 ((l[r - 1]?).getD (0, 0)).1 h.block k (r - 1) out)
    else do
      pmWrite (a + h.offset * 64) out
      pmDo (fun v => gsumLess (((indexed l).drop 1).foldl (fun w q => sendGsum w x 3 q.1.1 h.block k q.2 out) v))

/-- A result arrives: it overwrites the gradient piece; the last replica starts its next piece. -/
def gsumBc (h : MigrHdr) (data : List Byte) : Pm Unit := do
  let l ← pmBlock h.block
  let u ← get
  match ownReplica u l with
  | none => throw pmUnmapped
  | some (r, a) => do
    pmWrite (a + h.offset * 64) data
    pmDo gsumLess
    if r + 1 = l.length then gsumNext else pure ()

/-- MIGR_GSUM_MESSAGE, with the outcome of the residue check of its additions (R286). -/
def gsumMessage (res : Residue) (s : State) : State :=
  let is := fun (m : Msg) => m.kind == 8 && ((migrOf m.hdr).op == 2 || (migrOf m.hdr).op == 3)
  match takeMsg s (fun m => is m && (gsumMatch s m || gsumStale s m)) with
  | none => s
  | some (m, s1) =>
    let h := migrOf m.hdr
    match s1.plc.gsum with
    | none => staleMigr s1
    | some x =>
      if !gsumMatch s m then staleMigr s1
      else
      let adds := if h.op = 2 then ceilDiv (8 * m.data.length) (etyBits (polGtype (pslot s x.slot))) else 0
      let s2 := countC s1 0x91118 (min res.repaired adds)
      if res.fault && decide (0 < adds) then
        let s3 := raiseFault (csrSet (countC s2 0x91120 1) 0x91000 1) 0x0301 2 7 x.ctx 0 x.q
        gsumEnd s3 x stResidue (grp s3 (pbGroup (ctx s3 x.ctx))).midx
      else
        match (if h.op = 2 then gsumRed x h m.data else gsumBc h m.data).run s2 with
        | (.ok _, s3) => s3
        | (.error code, s3) => migrateStop (setGsum s3 none) x.ctx x.q x.tag code x.bytes

/-! ## LIST (R343) -/

/-- Stores or clears the copy in progress. -/
def setList (s : State) (x : Option ListRun) : State := { s with plc := { s.plc with list := x } }

/-- Ends the copy. -/
def listEnd (s : State) (x : ListRun) (status detail : Nat) : State :=
  finish (setList s none) x.q x.tag status detail x.bytes 0

/-- The first 64 payload bytes of a LIST message and of its acknowledgement: destination address and length
(log entry 40). -/
def listHead (dst n : Nat) : List Byte := leBytes 8 dst ++ leBytes 8 n ++ List.replicate 48 0#8

/-- Sends pieces of the list while fewer than 16 are unacknowledged, and ends the copy after the last acknowledgement. -/
def listPump : Nat → State → State
  | 0, s => s
  | fuel + 1, s =>
    match s.plc.list with
    | none => s
    | some x =>
      match x.todo with
      | [] => if x.out = 0 then listEnd s x 0 (x.skipped % 2 ^ 24) else s
      | (i, src, dst, n) :: rest =>
        if 16 ≤ x.out then s
        else match (pmRead src n).run s with
          | (.error code, s1) => migrateStop (setList s1 none) x.ctx x.q x.tag code x.bytes
          | (.ok b, s1) =>
            let h : MigrHdr := { op := 5, pslot := x.slot, block := i, pepoch := (pslot s1 x.slot).pepoch }
            listPump fuel (sendMigr (setList s1 (some { x with todo := rest, out := x.out + 1 })) x.ctx (bits dst 42 15) h
              (listHead dst n ++ b))

/-- The pieces of a list entry. -/
def listPieces (i src dst n : Nat) : List (Nat × Nat × Nat × Nat) :=
  (List.range (ceilDiv n pieceBytes)).map (fun k =>
    (i, src + k * pieceBytes, dst + k * pieceBytes, min pieceBytes (n - k * pieceBytes)))

/-- Reads the list: its pieces, and the entries skipped because their source chip is another. -/
def readList (a : Nat) : Pm (List (Nat × Nat × Nat × Nat) × Nat) := do
  let hd ← pmRead a 64
  let es ← (List.range (leNat (hd.take 4))).mapM (fun i => do
    let b ← pmRead (a + 64 + 32 * i) 32
    let w := (runs 8 4 b).map leNat
    let s ← get
    if bits (nth w 0) 42 15 = ownChip s then
      pure (listPieces i (nth w 0 % 2 ^ 42) (nth w 1 % 2 ^ 57) (bits (nth w 2) 0 32), 0)
    else pure ([], 1))
  pure ((es.map (·.1)).flatten, sumNat (es.map (·.2)))

/-- MIGRATE LIST at its issue. -/
def listWork (c : Cmd) (s : State) : Work :=
  match placedCheck s c.ctx with
  | none => doneWith s stIllegal 0x16 0 0
  | some i => withSlots (slotsOk s c) c s fun _ =>
    match (readList (opAddr c.a)).run s with
    | (.error code, s1) =>
      let (s2, status, detail) := pmStop s1 c.ctx c.q code
      doneWith s2 status detail 0 0
    | (.ok (todo, skipped), s1) =>
      if todo.isEmpty then doneWith s1 0 (skipped % 2 ^ 24) 0 0
      else ⟨listPump 17 (setList s1 (some { q := c.q, tag := c.tag, ctx := c.ctx, slot := i, todo := todo,
                                            skipped := skipped })), .exec⟩

/-- MIGR_LIST_MESSAGE: written at its destination address and acknowledged; where the write fails it is not
acknowledged, and on its own chip the MIGRATE ends (R33). -/
def listMessage (s : State) : State :=
  match takeMsg s (fun m => m.kind == 8 && (migrOf m.hdr).op == 5) with
  | none => s
  | some (m, s1) =>
    let h := migrOf m.hdr
    let dst := leNat (m.data.take 8)
    match (pmWrite dst (m.data.drop 64)).run s1 with
    | (.ok _, s2) => send s2 0x38 8 m.src ({ h with op := 1 }).bits (m.data.take 64)
    | (.error code, s2) =>
      match s2.plc.list with
      | some x => if m.src = ownChip s2 then migrateStop (setList s2 none) x.ctx x.q x.tag code x.bytes
        else mpFault s2 0 0 code
      | none => mpFault s2 0 0 code

/-- A piece of the list is acknowledged. -/
def listAck (s : State) (data : List Byte) : State :=
  match s.plc.list with
  | none => staleMigr s
  | some x => listPump 17 (setList s (some { x with out := x.out - 1, bytes := x.bytes + leNat ((data.drop 8).take 8) }))

/-! ## Meanings -/

/-- MIGRATE_LIST -/
def execMigrateList (q tag : Nat) (s : State) : Host.Outcome State Fault Refusal :=
  .next (working (issueRow (isSub 0x49 0 [0, 1]) q tag listWork) s)
/-- MIGRATE_GSUM -/
def execMigrateGsum (q tag : Nat) (s : State) : Host.Outcome State Fault Refusal :=
  .next (working (issueRow (isSub 0x49 1 [0, 1]) q tag gsumWork) s)
/-- MIGR_GSUM_MESSAGE -/
def execMigrGsumMessage (res : Residue) (s : State) : Host.Outcome State Fault Refusal :=
  .next (working (gsumMessage res) s)
/-- MIGR_LIST_MESSAGE -/
def execMigrListMessage (s : State) : Host.Outcome State Fault Refusal := .next (working listMessage s)

end Sys2Proof.Machine
end

