-- ==== Sys2Proof/Machine/Members.lean ====
section
/-! DEFINITION. MEMBERS (R346 to R349), the arrival of migration pieces, acknowledgements and STATE messages (R337, R338),
and of UNREACH (R314); then the messages of collectives, whose ends include those of PLACE and MEMBERS. -/

namespace Sys2Proof.Machine

/-! ## The member list (Table 13.5) -/

/-- word `i` of the member list -/
def MembersSt.word (x : MembersSt) (i : Nat) : Nat := nth x.list i
/-- The new box. -/
def MembersSt.box (x : MembersSt) : Nat := bits (x.word 0) 0 53
/-- The lost chip IDs. -/
def MembersSt.lost (x : MembersSt) : List Nat :=
  ([2, 3].flatMap (fun w => [48, 32, 16, 0].map (fun b => bits (x.word w) b 15))).filter (· != 0x7FFF)
/-- The exchange area. -/
def MembersSt.area (x : MembersSt) : Nat := bits (x.word 4) 6 36 * 64

/-- A chip stays: it is in the new box and not lost. Only a chip of the old box owns replicas. -/
def stays (s : State) (x : MembersSt) (chip : Nat) : Bool := inBox s x.box chip && !x.lost.contains chip

/-- Stores or clears the MEMBERS. -/
def setMembers (s : State) (x : Option MembersSt) : State := { s with plc := { s.plc with members := x } }

/-- Contexts whose group is `g`, ascending. -/
def ctxsOf (s : State) (g : Nat) : List Nat :=
  (s.ctxs.filter (fun p => p.2.st != .closed && pbGroup p.2 == g)).map (·.1)

/-- Placed contexts of group `g`, ascending. -/
def placedOf (s : State) (g : Nat) : List Nat := (ctxsOf s g).filter (fun c => (placedSlot s c).isSome)

/-! ## The start (R346) -/

/-- Ends the live uses of the group's contexts and abandons the pending decisions of their slots. -/
def membersStart (g : Nat) : Pm Unit := do
  let s ← get
  pmDo (fun u => (ctxsOf s g).foldl (fun v c =>
    (v.disp.uses.filter (fun x => x.ctx == c && x.ended.isNone)).foldl (fun w x => endUse w x .members none) v) u)
  (ctxsOf s g).forM (fun c => match placedSlot s c with
    | none => pure ()
    | some i => abandonAll i)

/-! ## The drain plan (R347) -/

/-- The code of an expert that finds no target. -/
def noTarget (e : Nat) : Nat := 0x1000 + e

/-- The plan of one context. The replica that moves is replica 0, or, where its chip is lost and another's is not, the
lowest that is not (log entry 41). LRUN falls by what was planned. -/
def drainCtx (x : MembersSt) (i : Nat) : Pm (List Drain) := do
  let s ← get
  let p := pslot s i
  let E := pbE (ctx s p.ctx)
  let P := boxCount (grpBox s x.g)
  let recs ← readRecs p P E
  let maps ← mapMembers p x.g E
  let chip := fun m => memberChip s (grpBox s x.g) m
  let among := (List.range P).filter (fun m => stays s x (chip m))
  let start : PolicyIn × Proj × List Drain := (policyIn s p E recs, { reps := maps }, [])
  let r ← (List.range E).foldlM (fun (acc : PolicyIn × Proj × List Drain) e => do
    let (inp, m, out) := acc
    let own := m.of e
    let stay := own.filter (fun k => stays s x (chip k))
    if !stay.isEmpty || own.isEmpty then pure (inp, { m with reps := m.reps.set e stay }, out)
    else match targetOf inp m among e none with
      | none => throw (noTarget e)
      | some t =>
        let src := (indexed own).find? (fun q => !x.lost.contains (chip q.1))
        let d : Drain := { ctx := p.ctx, expert := e, src := src.map (fun q => (chip q.1, q.2)), dst := chip t }
        let inp1 := { inp with lrun := inp.lrun.set t (nth inp.lrun t - polNeed p) }
        pure (inp1, { m with reps := m.reps.set e [t] }, out ++ [d])) start
  pure r.2.2

/-- Allocates the runs of the plan at this chip, in ascending expert order. -/
def drainRuns : List Drain → Pm (List Drain)
  | [] => pure []
  | d :: rest => do
    let s ← get
    match placedSlot s d.ctx with
    | none => throw (noTarget d.expert)
    | some i =>
      if d.dst = ownChip s then
        match takeRun s i (polNeed (pslot s i)) with
        | none => throw (noTarget d.expert)
        | some (b, t) => do
          set t
          let more ← drainRuns rest
          pure ({ d with run := some b } :: more)
      else do
        let more ← drainRuns rest
        pure (d :: more)

/-- The pieces of a copy: placement slot, object block, replica number written, piece, destination chip. -/
def drainPieces (s : State) (d : Drain) : List (Nat × Nat × Nat × Nat × Nat) :=
  match placedSlot s d.ctx, d.src with
  | some i, some (_, _) =>
    let p := pslot s i
    (expertBlocks p).flatMap (fun (c, k) =>
      (List.range blockPieces).map (fun j => (i, objBlock p c d.expert k, 0, j, d.dst)))
  | _, _ => []

/-- The plan with its runs, what this chip pushes, and how many pieces it receives. -/
def drainPlan (x : MembersSt) : Pm MembersSt := do
  let s ← get
  if x.role = .joining then pure x
  else do
    let parts ← (placedOf s x.g).mapM (fun c => match placedSlot s c with
      | none => pure []
      | some i => drainCtx x i)
    let plan ← drainRuns parts.flatten
    let u ← get
    let mine := plan.filter (fun d => d.src.any (fun q => q.1 == ownChip u))
    let here := plan.filter (fun d => d.src.isSome && d.dst == ownChip u)
    pure { x with
      plan := plan, push := mine.flatMap (drainPieces u), toRecv := sumNat (here.map (fun d => (drainPieces u d).length)),
      restored := (plan.filter (fun d => d.src.isNone)).length }

/-! ## Completion -/

/-- The context epoch of every OPEN context of group `g` increments (R348). -/
def bumpEpochs (s : State) (g : Nat) : State :=
  ((ctxsOf s g).filter (fun c => (ctx s c).st == .open)).foldl
    (fun u c => setCtx u c { ctx u c with epoch := ((ctx u c).epoch + 1) % 2 ^ 16 }) s

/-- The placement slots of the group's contexts become SUSPENDED. -/
def suspendSlots (s : State) (g : Nat) : State :=
  (placedOf s g).foldl (fun u c => match placedSlot u c with
    | none => u
    | some i => setPslot u i { pslot u i with st := 2 }) s

/-- The journal record of a MEMBERS, one for each placed context (Table 13.4). -/
def membersRecords (cs : List Nat) : Pm Unit :=
  cs.forM (fun c => do
    let s ← get
    match placedSlot s c with
    | none => pure ()
    | some i => journal .members c { pepoch := (pslot s i).pepoch, step := (pslot s i).step })

/-- A chip completes MEMBERS: the event, DETAIL and the new context epoch (R348). -/
def membersDone (s : State) (x : MembersSt) : State :=
  finish (csrSet (setMembers s none) 0xB0068 8) x.q x.tag 0 (x.restored % 2 ^ 16) (ctx s x.ctx).epoch 0

/-- MEMBERS ends before its exchange, and may be resumed only after STALLED. -/
def membersQuit (s : State) (x : MembersSt) (code : Nat) : State :=
  let (s1, status, detail) := pmStop s x.ctx x.q code
  finish (setMembers s1 none) x.q x.tag status detail 0 0

/-! ## STATE messages (R348; layout: log entry 41) -/

/-- The replicas of a block as the payload of a STATE message has them: the entry, then the replica list. -/
def blockState (b : Nat) : Pm (List Byte) := do
  let s ← get
  let e ← pmRead (ownAddr s b) 16
  let w0 := leNat (e.take 8)
  let w1 := leNat (e.drop 8)
  let l ← if ownR w0 ≤ 1 then pure [] else pmRead (ownList w1) (8 * (ownR w0 - 1))
  pure (e ++ l)

/-- Companion, expert and block numbers of a context's blocks, in the order of R332. -/
def ctxBlocks (p : PSlot) (E : Nat) : List (Nat × Nat × Nat) :=
  (List.range (polComps p)).flatMap (fun c => (List.range E).flatMap (fun e => (List.range (polNB p)).map (fun i => (c, e, i))))

/-- The payload of a context's STATE message. -/
def stateData (c total : Nat) : Pm (List Byte) := do
  let s ← get
  match placedSlot s c with
  | none => pure (List.replicate 64 0#8)
  | some i =>
    let p := pslot s i
    let E := pbE (ctx s c)
    let blocks ← (ctxBlocks p E).mapM (fun (k, e, j) => blockState (objBlock p k e j))
    pure (leBytes 8 c ++ leBytes 8 (p.step + p.pepoch * 2 ^ 32) ++ leBytes 8 E ++ leBytes 8 total ++
      List.replicate 32 0#8 ++ (padTo 8 0 p.policy).flatMap (leBytes 8) ++ blocks.flatten)

/-- The members of the new box that join: chips outside the old box. -/
def joiners (s : State) (x : MembersSt) : List Nat :=
  ((List.range (boxCount x.box)).map (memberChip s x.box)).filter (fun c => !inBox s (grpBox s x.g) c)

/-- The staying chip of lowest new index sends each joining chip the state of every placed context, and an empty STATE
where there is none. -/
def sendStates (x : MembersSt) : Pm Unit := do
  let s ← get
  let first := ((List.range (boxCount x.box)).map (memberChip s x.box)).find? (fun c => inBox s (grpBox s x.g) c && stays s x c)
  if first ≠ some (ownChip s) then pure ()
  else do
    let cs := placedOf s x.g
    let parts ← if cs.isEmpty then pure [List.replicate 64 (0#8 : Byte)] else cs.mapM (fun c => stateData c cs.length)
    (joiners s x).forM (fun chip => parts.forM (fun d => pmDo (fun u => sendMigr u x.ctx chip { op := 4 } d)))

/-- Writes the owner-table entries and replica lists of a STATE message. -/
def loadBlocks (p : PSlot) (E : Nat) : List (Nat × Nat × Nat) → List Byte → Pm Unit
  | [], _ => pure ()
  | (c, e, i) :: rest, b => do
    let s ← get
    let w0 := leNat (b.take 8)
    let n := 8 * (ownR w0 - 1)
    pmWrite (ownAddr s (objBlock p c e i)) (b.take 16)
    if n = 0 then pure () else pmWrite (rlAddr p E c e i) ((b.drop 16).take n)
    loadBlocks p E rest (b.drop (16 + n))

/-- A joining chip takes a STATE message into its table and a free slot. -/
def loadState (d : List Byte) : Pm Unit := do
  let s ← get
  let w := (runs 8 16 d).map leNat
  match (List.range 32).find? (slotFree s) with
  | none => pure ()
  | some i =>
    if nth w 3 = 0 then pure ()
    else do
      let p : PSlot := { st := 1, ctx := nth w 0 % 2 ^ 14, step := bits (nth w 1) 0 32, pepoch := bits (nth w 1) 32 16,
                         policy := (w.drop 8).take 8 }
      loadBlocks p (nth w 2) (ctxBlocks p (nth w 2)) (d.drop 128)
      pmDo (fun u => bumpGen (setPslot u i p))

/-! ## The new group and its exchange (R348) -/

/-- COL_GRP[g] with the new box, EN 0 then 1. -/
def regroup (s : State) (x : MembersSt) : State :=
  let m := span 52 48 + span 45 40 + span 37 32 + span 29 24 + span 20 16 + span 12 8 + span 4 0
  enableGroup (csrPut (disableGroup s x.g) (oColGrp x.g) (2 ^ 63 + (x.box &&& m))) x.g

/-- Bytes of a record of step 4. -/
def mbrSize (E : Nat) : Nat := roundUp (64 + 8 * E) 64

/-- The CRC-32C of a context's owner-table entries. -/
def entriesCrc (p : PSlot) (E : Nat) : Pm Nat := do
  let es ← (ctxBlocks p E).mapM (fun (c, e, i) => do
    let s ← get
    pmRead (ownAddr s (objBlock p c e i)) 16)
  pure (crc32c es.flatten)

/-- EXPERTS of the context of an exchange; 0 where no context is placed. -/
def exchE (s : State) (c : Nat) : Nat := if (placedSlot s c).isSome then pbE (ctx s c) else 0

/-- The first 16 bytes of a record of step 4. -/
def mbrHead (c : Nat) : Pm (List Byte) := do
  let s ← get
  let p := pslot s ((placedSlot s c).getD 32)
  let crc ← if (placedSlot s c).isSome then entriesCrc p (exchE s c) else pure 0
  pure (leBytes 4 p.step ++ leBytes 2 p.pepoch ++ leBytes 2 0 ++ leBytes 4 s.glb.image.fwver ++ leBytes 4 crc)

/-- This member's record: the head, then the run start of every drain destination here. -/
def mbrRecord (x : MembersSt) (c : Nat) : Pm (List Byte) := do
  let h ← mbrHead c
  let s ← get
  let E := exchE s c
  let word := fun e => match x.plan.find? (fun d => d.ctx == c && d.expert == e && d.dst == ownChip s) with
    | none => 0
    | some d => match d.run with
      | none => 0
      | some b => 2 ^ 63 + b * 2 ^ 21
  pure (h ++ List.replicate 48 0#8 ++ ((List.range E).map (fun e => leBytes 8 (word e))).flatten ++
    List.replicate (mbrSize E - 64 - 8 * E) 0#8)

/-- The replicas of an expert after the drain (R347): those that stay; or, where none does, the run that some member
reports. The flag says that the expert is RESTORED. -/
def drained (s : State) (x : MembersSt) (recs : List (List Nat)) (e : Nat) (l : List (Nat × Nat)) :
    Option (Option (Nat × Nat)) × Bool :=
  let stay := l.filter (fun r => stays s x r.1)
  if !stay.isEmpty || l.isEmpty then (if stay.length = l.length then none else some none, false)
  else match (indexed recs).find? (fun q => bit (nth q.1 e) 63) with
    | none => (none, false)
    | some q => (some (some (memberChip s x.box q.2, bits (nth q.1 e) 21 21)), l.all (fun r => x.lost.contains r.1))

/-- A RESTORED expert: the record, the event, and the undefined contents of its run (R349). -/
def restoreOne (c i e : Nat) (dst : Nat × Nat) : Pm Unit := do
  pmDo (fun s =>
    let s1 := countC (csrSet s 0xB0068 16) 0xB0130 1
    if dst.1 = ownChip s1 then
      setMem s1 (wrFree s1.mem (dst.2 * 2 ^ 21 % 2 ^ 42) (polNeed (pslot s1 i) * 2 ^ 21))
    else s1)
  let s ← get
  journal .restore c { pepoch := (pslot s i).pepoch + 1, step := (pslot s i).step, expert := e, dst := dst.1, run := dst.2 }

/-- Applies the drain plan of a context from the exchanged records, with one new placement epoch, and a new table generation
for each expert that changes (R341, R348). -/
def applyDrain (x : MembersSt) (c i : Nat) (recs : List (List Nat)) : Pm Nat := do
  let s ← get
  let p := pslot s i
  let E := pbE (ctx s c)
  let n ← (List.range E).foldlM (fun acc e => do
    let l ← pmBlock (objBlock p 0 e 0)
    let (ch, restored) := drained s x recs e l
    match ch with
    | none => pure acc
    | some new => do
      rewriteExpert p E e (p.pepoch + 1) (fun k l => match new with
        | none => l.filter (fun r => stays s x r.1)
        | some d => [(d.1, d.2 + k)])
      pmDo (fun u => csrSet (bumpGen u) 0xB0068 1)
      match restored, new with
      | true, some d => do
        restoreOne c i e d
        pure (acc + 1)
      | _, _ => pure acc) 0
  pmDo (fun u => setPslot u i { pslot u i with
    pepoch := (p.pepoch + 1) % 2 ^ 16, sel := [], kept := [], drop := [], sampled := [] })
  pure n

/-- The exchanged record of the head context is in memory: the check against the record that this member wrote, then the
drain plan of that context. A difference in the headers answers its own CRC. -/
def membersBody (x : MembersSt) (c : Nat) : Pm (Option Nat × Nat) := do
  let s ← get
  let E := exchE s c
  let recs ← (List.range (boxCount x.box)).mapM (fun m => pmRead (x.area + m * mbrSize E) (mbrSize E))
  if recs.any (fun r => r.take 16 != x.head) then pure (some (crc32c x.head), 0)
  else match placedSlot s c with
    | none => pure (none, 0)
    | some i => do
      let n ← applyDrain x c i (recs.map (fun r => (runs 8 E (r.drop 64)).map leNat))
      membersRecords [c]
      pure (none, n)

/-- Ends the group's collective without an end of its command: another exchange follows. -/
def closeColl (s : State) (g : Nat) (o : CollOp) : State :=
  setGrp s g { grp s g with active := none, lastStatus := 0, lastOpc := o.opc, lastChunks := o.signalled }

/-- Writes the record of the head context and starts its exchange, which `fin` ends. -/
def membersExchange (fin : State → Nat → CollOp → State) (s : State) (x : MembersSt) : State :=
  match x.exch with
  | [] => s
  | c :: _ =>
    let n := mbrSize (exchE s c)
    let at_ := (x.area + (grp s x.g).midx * n) % 2 ^ 42
    match (do
        let b ← mbrRecord x c
        pmWrite at_ b
        pure (b.take 16) : Pm (List Byte)).run s with
    | (.error code, s1) => membersQuit s1 x code
    | (.ok head, s1) =>
      let o : CollOp := { q := x.q, tag := x.tag, ctx := x.ctx, opc := 0x4A, etype := 7, n := n, src := at_, dst := x.area }
      startColl fin (setMembers s1 (some { x with head := head })) x.g o 0 0 n

/-- An exchange of MEMBERS has ended well: the next one, or step 5 (R348). A group of one member runs through its
exchanges, so that the fuel is the number of contexts left. -/
def membersFin : Nat → State → Nat → CollOp → State
  | 0, s, _, _ => s
  | fuel + 1, s, g, o =>
    match s.plc.members with
    | none => endColl s g 0 0 0
    | some x =>
      match x.exch with
      | [] => endColl s g 0 0 0
      | c :: rest =>
        match (membersBody x c).run s with
        | (.error code, s1) =>
          let (s2, status, detail) := pmStop s1 x.ctx o.q code
          endColl (setMembers s2 none) g status detail 0
        | (.ok (some crc, _), s1) => endColl (setMembers (suspendSlots s1 g) none) g stSigMis crc 0
        | (.ok (none, n), s1) =>
          let y := { x with exch := rest, restored := (if x.role = .joining then x.restored + n else x.restored) }
          if rest.isEmpty then
            let s2 := bumpEpochs s1 g
            endColl (csrSet (setMembers s2 none) 0xB0068 8) g 0 (y.restored % 2 ^ 16) (ctx s2 y.ctx).epoch
          else
            membersExchange (membersFin fuel) (setMembers (closeColl s1 g o) (some y)) y

/-- The end of an exchange of MEMBERS, with enough fuel. -/
def membersEnd (s : State) (g : Nat) (o : CollOp) : State :=
  membersFin ((s.plc.members.map (fun x => x.exch.length)).getD 0 + 1) s g o

/-! ## The steps of MEMBERS -/

/-- Sends pieces of the drain while fewer than 16 are unacknowledged. -/
def drainPush : Nat → State → MembersSt → Except Nat MembersSt × State
  | 0, s, x => (.ok x, s)
  | fuel + 1, s, x =>
    match x.push with
    | [] => (.ok x, s)
    | (i, b, r, j, dst) :: rest =>
      if 16 ≤ x.toAck then (.ok x, s)
      else match (do
          let l ← pmBlock b
          let u ← get
          match ownReplica u l with
          | none => throw pmUnmapped
          | some (_, a) => pmRead (a + j * pieceBytes) pieceBytes : Pm (List Byte)).run s with
        | (.error code, s1) => (.error code, s1)
        | (.ok data, s1) =>
          let p := pslot s1 i
          let h : MigrHdr := { op := 0, pslot := i, block := b, replica := r, offset := j * (pieceBytes / 64),
                               pepoch := p.pepoch }
          drainPush fuel (sendMigr s1 p.ctx dst h data) { x with push := rest, toAck := x.toAck + 1 }

/-- Step 2 on a departing chip: the group is disabled, the context epochs go on, the slots are SUSPENDED. -/
def departNow (s : State) (x : MembersSt) : State :=
  match (membersRecords (placedOf s x.g)).run s with
  | (.error code, s1) => membersQuit s1 x code
  | (.ok _, s1) => membersDone (suspendSlots (bumpEpochs (disableGroup s1 x.g) x.g) x.g) x

/-- Steps 3 and 4: the new box, then the exchanges. -/
def membersRegroup (s : State) (x : MembersSt) : State :=
  let s1 := if x.stage ≤ 3 then regroup s x else s
  let cs := placedOf s1 x.g
  let y := { x with stage := 4, exch := if x.stage ≤ 3 then (if cs.isEmpty then [x.ctx] else cs) else x.exch }
  membersExchange membersEnd (setMembers s1 (some y)) y

/-- The MEMBERS command executes; one that ended with STALLED does not, until it is issued again (R348). -/
def membersLive (s : State) (x : MembersSt) : Bool :=
  (findCmd s x.q x.tag).any (fun c => c.opc == 0x4A && c.executing)

/-- Goes on with a MEMBERS from its first step that is not completed (R348). -/
def membersGo (s : State) (x : MembersSt) : State :=
  if !membersLive s x then setMembers s (some x)
  else match x.role with
  | .departing =>
    match drainPush 17 s x with
    | (.error code, s1) => membersQuit s1 x code
    | (.ok y, s1) => if y.push.isEmpty ∧ y.toAck = 0 then departNow s1 y else setMembers s1 (some y)
  | .staying =>
    if 0 < x.toRecv then setMembers s (some x)
    else if x.stage ≤ 2 then
      match (sendStates x).run s with
      | (.error code, s1) => membersQuit s1 x code
      | (.ok _, s1) => membersRegroup s1 { x with stage := 3 }
    else membersRegroup s x
  | .joining =>
    if x.stage ≤ 2 ∧ x.states ≠ some 0 then setMembers s (some x) else membersRegroup s { x with stage := max 3 x.stage }

/-- What this chip is; none for a chip of neither box, or one named as lost. -/
def roleOf (s : State) (x : MembersSt) : Option MRole :=
  let own := ownChip s
  if x.lost.contains own then none
  else match inGroup s x.g, inBox s x.box own with
    | true, true => some .staying
    | true, false => some .departing
    | false, true => some .joining
    | false, false => none

/-- A MEMBERS with the same list that ended with STALLED (R348). -/
def resumable (s : State) (c : Cmd) (list : List Nat) : Option MembersSt :=
  match s.plc.members with
  | none => none
  | some x => if x.ctx = c.ctx ∧ x.list = list then some { x with q := c.q, tag := c.tag } else none

/-- MEMBERS at its issue. -/
def membersWork (c : Cmd) (s : State) : Work := withSlots (slotsOk s c) c s fun _ =>
  match (pmRead (opAddr c.a) 64).run s with
  | (.error code, s1) =>
    let (s2, status, detail) := pmStop s1 c.ctx c.q code
    doneWith s2 status detail 0 0
  | (.ok b, s1) =>
    let list := (runs 8 8 b).map leNat
    let g := pbGroup (ctx s1 c.ctx)
    if bits (nth list 1) 0 6 ≠ g ∨ groupTaken s1 g then doneWith s1 stIllegal 0x15 0 0
    else match resumable s1 c list with
      | some x => ⟨membersGo s1 x, .exec⟩
      | none =>
        let x0 : MembersSt := { q := c.q, tag := c.tag, ctx := c.ctx, g := g, list := list }
        match roleOf s1 x0 with
        | none => doneWith s1 stIllegal 0x15 0 0
        | some role =>
          match (do
              membersStart g
              drainPlan { x0 with role := role } : Pm MembersSt).run s1 with
          | (.ok x, s2) => ⟨membersGo s2 x, .exec⟩
          | (.error code, s2) =>
            if 0x1000 ≤ code then doneWith s1 stExhausted (0x02 * 2 ^ 24 + (code - 0x1000) % 2 ^ 12) 0 0
            else
              let (s3, status, detail) := pmStop s2 c.ctx c.q code
              doneWith s3 status detail 0 0

/-! ## Arriving pieces and acknowledgements (R337, R338) -/

/-- Companion and number of an object block of an expert. -/
def placeOfBlock (p : PSlot) (e b : Nat) : Option (Nat × Nat) :=
  (expertBlocks p).find? (fun q => objBlock p q.1 e q.2 == b)

/-- The pending copy that a message names, at this end. -/
def decOf (s : State) (h : MigrHdr) (atDst : Bool) : Option Decision :=
  let p := pslot s h.pslot
  let m := (grp s (pbGroup (ctx s p.ctx))).midx
  p.decisions.find? (fun d => d.copies && d.slot == h.dslot && d.pepoch == h.pepoch && (if atDst then d.dst else d.src) == m)

/-- The acknowledgement of a piece. -/
def ackPiece (s : State) (m : Msg) : State := send s 0x38 8 m.src ({ migrOf m.hdr with op := 1 }).bits []

/-- A piece of a decision at its destination. -/
def copyForDec (s : State) (m : Msg) (d : Decision) : State :=
  let h := migrOf m.hdr
  let p := pslot s h.pslot
  match d.run, placeOfBlock p d.expert h.block with
  | some b, some (c, i) =>
    match (pmWrite ((b + c * polNB p + i) * 2 ^ 21 + h.offset * 64) m.data).run s with
    | (.error code, s1) => placeResume (putDec (mpFault s1 p.ctx 0 code) h.pslot { d with fail := true }) h.pslot
    | (.ok _, s1) =>
      let d1 := { d with recvP := d.recvP + 1, done := d.done || decide (d.pieces ≤ d.recvP + 1) }
      let s2 := ackPiece (putDec s1 h.pslot d1) m
      if d1.done then placeResume s2 h.pslot else s2
  | _, _ => staleMigr s

/-- A piece of a drain at its destination. -/
def copyForDrain (s : State) (m : Msg) : State :=
  let h := migrOf m.hdr
  let p := pslot s h.pslot
  match s.plc.members with
  | none => staleMigr s
  | some x =>
    match x.plan.find? (fun d => d.ctx == p.ctx && d.dst == ownChip s && (placeOfBlock p d.expert h.block).isSome) with
    | none => staleMigr s
    | some d =>
      match d.run, placeOfBlock p d.expert h.block with
      | some b, some (c, i) =>
        if x.toRecv = 0 ∨ h.pepoch ≠ p.pepoch then staleMigr s
        else match (pmWrite ((b + c * polNB p + i) * 2 ^ 21 + h.offset * 64) m.data).run s with
          | (.error code, s1) => membersQuit s1 x code
          | (.ok _, s1) => membersGo (ackPiece s1 m) { x with toRecv := x.toRecv - 1 }
      | _, _ => staleMigr s

/-- MIGR_COPY_PIECE -/
def copyPiece (s : State) : State :=
  match takeMsg s (fun m => m.kind == 8 && (migrOf m.hdr).op == 0) with
  | none => s
  | some (m, s1) =>
    match decOf s1 (migrOf m.hdr) true with
    | some d => copyForDec s1 m d
    | none => copyForDrain s1 m

/-- MIGR_ACK -/
def migrAck (s : State) : State :=
  match takeMsg s (fun m => m.kind == 8 && (migrOf m.hdr).op == 1) with
  | none => s
  | some (m, s1) =>
    let h := migrOf m.hdr
    if !m.data.isEmpty then listAck s1 m.data
    else match decOf s1 h false with
      | some d =>
        let d1 := { d with ackP := d.ackP + 1, done := d.done || decide (d.pieces ≤ d.ackP + 1) }
        let s2 := putDec s1 h.pslot d1
        let s3 := migrPump (setPslot s2 h.pslot { pslot s2 h.pslot with ackBytes := (pslot s2 h.pslot).ackBytes + pieceBytes })
          h.pslot
        if d1.done then placeResume s3 h.pslot else s3
      | none =>
        match s1.plc.members with
        | some x => if 0 < x.toAck then membersGo s1 { x with toAck := x.toAck - 1 } else staleMigr s1
        | none => staleMigr s1

/-- MIGR_STATE: a joining chip whose MEMBERS waits for it. -/
def migrState (s : State) : State :=
  match s.plc.members with
  | none => s
  | some x =>
    if x.role ≠ .joining ∨ 2 < x.stage then s
    else match takeMsg s (fun m => m.kind == 8 && (migrOf m.hdr).op == 4) with
      | none => s
      | some (m, s1) =>
        match (loadState m.data).run s1 with
        | (.error code, s2) => membersQuit s2 x code
        | (.ok _, s2) =>
          let total := leNat ((m.data.drop 24).take 8)
          membersGo s2 { x with states := some ((x.states.getD total) - 1) }

/-! ## UNREACH (R314) -/

/-- What ends by the KIND of the message that did not arrive. `w` is bits [125:64] of its header. -/
def unreachKind (s : State) (kind dst w : Nat) : State :=
  if kind = 4 then
    match s.fab.dp.find? (fun x => x.id == bits w 0 16 && x.sent) with
    | none => s
    | some r => dpPump (dpAnswer s r 2 0)
  else if kind = 8 then
    let h := migrOf (w * 2 ^ 64)
    if h.op = 0 then
      let p := pslot s h.pslot
      let m := (grp s (pbGroup (ctx s p.ctx))).midx
      match p.decisions.find? (fun d => d.copies && d.slot == h.dslot && d.src == m) with
      | none => s
      | some d => placeResume (putDec s h.pslot { d with fail := true }) h.pslot
    else if h.op = 5 then
      match s.plc.list with
      | none => s
      | some x => listEnd s x stUnreach (dst * 2 ^ 8)
    else s
  else s

/-- UNREACH_RECEIVE: the work of the original KIND ends, and the chip is reported unreachable. -/
def unreachReceive (s : State) : State :=
  match takeMsg s (fun m => m.kind == 9) with
  | none => s
  | some (m, s1) =>
    let dst := bits m.hdr 83 15
    reportUnreach (unreachKind s1 (bits m.hdr 64 4) dst (bits m.hdr 98 62)) dst

/-! ## Messages of collectives, the exchanges included -/

/-- How a collective ends, by its opcode. -/
def finAll (s : State) (g : Nat) (o : CollOp) : State :=
  if o.opc = 0x48 then placeFin s g o else if o.opc = 0x4A then membersEnd s g o else collDone s g o

/-! ## Meanings -/

/-- MEMBERS -/
def execMembers (q tag : Nat) (s : State) : Host.Outcome State Fault Refusal :=
  .next (working (issueRow (isOp 0x4A) q tag membersWork) s)
/-- MIGR_COPY_PIECE -/
def execMigrCopyPiece (s : State) : Host.Outcome State Fault Refusal := .next (working copyPiece s)
/-- MIGR_ACK -/
def execMigrAck (s : State) : Host.Outcome State Fault Refusal := .next (working migrAck s)
/-- MIGR_STATE -/
def execMigrState (s : State) : Host.Outcome State Fault Refusal := .next (working migrState s)
/-- UNREACH_RECEIVE -/
def execUnreachReceive (s : State) : Host.Outcome State Fault Refusal := .next (working unreachReceive s)
/-- COLL_MESSAGE -/
def execCollMessage (res : Residue) (s : State) : Host.Outcome State Fault Refusal :=
  .next (working (collMessage finAll res) s)
/-- SIGNATURE_MESSAGE -/
def execSignatureMessage (s : State) : Host.Outcome State Fault Refusal := .next (working (sigMessage finAll) s)

end Sys2Proof.Machine
end

