-- ==== Sys2Proof/Machine/Mgmt.lean ====
section
/-! DEFINITION. The management subsystem (chapter 16): sensors and throttling, the log ring, corrected-error windows, the
watchdog, firmware updates, the MG port (R38); the go lines (R37, R93); and the test port (R39, R40). -/

namespace Sys2Proof.Machine

/-- The firmware runs: from FW_INIT on, and not while it restarts (R397). -/
def fwRuns (s : State) : Bool :=
  !s.mgt.restarting &&
  (match s.glb.boot with | .fwInit | .ready | .warmDrain | .warmInit => true | _ => false)

/-- Work of the firmware. -/
def byFirmware (f : State → State) (s : State) : State := served (fun u => if fwRuns u then f u else u) s

/-! ## The log ring in host memory (R393) -/

/-- Entries not flushed. -/
def logPending (s : State) : Nat := (s.mgt.next + 2 ^ 32 - s.mgt.flushed) % 2 ^ 32

/-- MGT_LOG_BASE.ADDR as an address -/
def logBase (s : State) : Nat := csrField s 0xD0018 6 36 * 64

/-- The bytes of an on-chip log entry (R392). -/
def logBytes (e : Nat × Nat × Nat × Nat) : List Byte :=
  leBytes 8 e.1 ++ leBytes 8 e.2.1 ++ leBytes 8 e.2.2.1 ++ leBytes 8 e.2.2.2

/-- The on-chip entry at index `i` of the ring. -/
def logAt (s : State) (i : Nat) : Nat × Nat × Nat × Nat := slook (fun _ => (0, 0, 0, 0)) s.mgt.log (i % 2048)

/-- Flushes the oldest unflushed entry, under a memory-port slot of owner 0x3C (R107, R378); one whose write is refused is
lost (R33). -/
def flushOne (s : State) : State :=
  if logBase s = 0 ∨ logPending s = 0 ∨ !holdsMp s 0x3C then s
  else
    let n := s.mgt.flushed
    let a := (logBase s + 32 * (n % 2 ^ clampN 8 24 (csrField s 0xD0020 0 5))) % 2 ^ 42
    let (m, bad) := wrTry s.mem a (logBytes (logAt s n))
    let s1 := setMem { s with mgt := { s.mgt with flushed := (n + 1) % 2 ^ 32 } } m
    let s2 := mpCount s1 0x3C 0 32
    if bad then raiseFault (countC s2 0xD0E00 1) 0x0102 2 1 0 3 0 else s2

/-- Flushes up to `k` entries. -/
def flushMany : Nat → State → State
  | 0, s => s
  | k + 1, s => flushMany k (flushOne s)

/-- Flushes every entry that stands in the log. -/
def flushAll (s : State) : State := if isReady s then flushMany (logPending s) s else s

/-! ## Throttling (R49) -/

/-- CAP, as it acts -/
def aclkCap (s : State) : Nat := clampN 1 8 (csrField s 0xD0040 8 4)
/-- The least of the three targets. -/
def aclkTarget (s : State) : Nat := min (aclkCap s) (min s.mgt.tTarget s.mgt.dTarget)

/-- CUR falls to the least target at once; each fall counts in EVENTS. -/
def aclkFall (s : State) : State :=
  if aclkTarget s < s.mgt.cur then countF { s with mgt := { s.mgt with cur := aclkTarget s } } 0xD0040 32 16 1 else s

/-- ACLK_STEP_UP: 1,024 delivered ACLK cycles have passed; CUR rises by one eighth towards its target. -/
def aclkRise (s : State) : State :=
  if s.mgt.cur < aclkTarget s then { s with mgt := { s.mgt with cur := s.mgt.cur + 1 } } else s

/-- The thermal target falls by one eighth, to no lower than 2. -/
def targetDown (s : State) : State := aclkFall { s with mgt := { s.mgt with tTarget := max 2 (s.mgt.tTarget - 1) } }

/-! ## Sensors (R386 to R389, R391) -/

/-- Element `i` of a list of signed numbers, 0 beyond its end. -/
def nthI (l : List Int) (i : Nat) : Int := (l[i]?).getD 0
/-- A number between bounds. -/
def clampI (lo hi x : Int) : Int := max lo (min hi x)
/-- The effective trim of thermal sensor `i`, in 0.125 °C. -/
def trimT (s : State) (i : Nat) : Int :=
  clampI (-128) 127 (nthI s.glb.fuses.trimT i + nthI s.mgt.ucalT i)
/-- The effective trim of voltage sensor `j`, in mV. -/
def trimV (s : State) (j : Nat) : Int :=
  clampI (-40) 40 (nthI s.glb.fuses.trimV j + nthI s.mgt.ucalV j)
/-- ALARM of the setting in force -/
def thAlarm (s : State) : Int := sext (bits s.mgt.thCtl 0 16) 16
/-- CLEAR, as it acts -/
def thClear (s : State) : Int :=
  let c := sext (bits s.mgt.thCtl 16 16) 16
  if thAlarm s ≤ c then thAlarm s - 8 else c
/-- TRIP, as it acts -/
def thTrip (s : State) : Int := max (thAlarm s) (sext (bits s.mgt.thCtl 32 16) 16)

/-- The sensor of a list, from `i` on, with the first greatest reading under an order. -/
def pickSensor (better : Int → Int → Bool) : List Int → Nat → Nat → Int → Nat
  | [], _, best, _ => best
  | x :: l, i, best, v => if better x v then pickSensor better l (i + 1) i x else pickSensor better l (i + 1) best v

/-- TSRC: the thermal sensor with the highest reading. -/
def hotSensor (s : State) : Nat :=
  match s.mgt.temps with | [] => 0 | x :: l => pickSensor (fun a b => decide (b < a)) l 1 0 x
/-- VSRC: the VDD_CORE monitor with the lowest reading. -/
def lowSensor (s : State) : Nat :=
  match s.mgt.volts.take 24 with | [] => 0 | x :: l => pickSensor (fun a b => decide (a < b)) l 1 0 x

/-- A write to a user offset or to MGT_THERM_CTL takes effect at the next sample (R386, R391). -/
def takeOffsets (s : State) : State :=
  { s with mgt := { s.mgt with
    thCtl := csrGet s 0xD0030,
    ucalT := (List.range 16).map (fun i => sext (csrField s (0xD0300 + 8 * i) 0 8) 8),
    ucalV := (List.range 32).map (fun j => sext (csrField s (0xD0400 + 8 * j) 0 8) 8) } }

/-- The readings of a sample. -/
def takeReadings (temps volts : List Int) (s : State) : State :=
  { s with mgt := { s.mgt with
    temps := (List.range 16).map (fun i => clampI (-320) 1200 (nthI temps i + trimT s i)),
    volts := (List.range 32).map (fun j => clampI 500 1000 (nthI volts j + trimV s j)) } }

/-- The thermal alarm at a sample (R387). -/
def thermalTest (s : State) : State :=
  if s.mgt.thermal then
    if s.mgt.temps.all (fun x => decide (x ≤ thClear s)) then
      logEntry { s with mgt := { s.mgt with thermal := false } } 0x0611 0 0 0 (hotSensor s)
    else faultBit s 11
  else if s.mgt.temps.any (fun x => decide (thAlarm s < x)) then
    targetDown (raiseFault { s with mgt := { s.mgt with thermal := true } } 0x0601 1 11 0 0 (hotSensor s))
  else s

/-- The thermal trip at a sample (R388): its entry is flushed before the alert. -/
def tripTest (s : State) : State :=
  if s.mgt.temps.any (fun x => decide (thTrip s ≤ x)) then
    let s1 := if s.mgt.trip then s else flushAll (logEntry s 0x0602 3 0 0 (hotSensor s))
    let s2 := faultBit (faultBit s1 11) 15
    { s2 with mgt := { s2.mgt with trip := true, alertFatal := true } }
  else { s with mgt := { s.mgt with trip := false } }

/-- The VDD_SRAM test at a sample (R389). -/
def sramTest (s : State) : State :=
  match ((List.range 8).map (· + 24)).find? (fun j =>
      decide (nthI s.mgt.volts j < 810) || decide (890 < nthI s.mgt.volts j)) with
  | none => { s with mgt := { s.mgt with sramv := false } }
  | some j =>
    let s1 := if s.mgt.sramv then s else logEntry s 0x0604 2 0 0 j
    let s2 := faultBit s1 12
    { s2 with mgt := { s2.mgt with sramv := true } }

/-- SENSOR_SAMPLE. -/
def sensorSample (temps volts : List Int) (s : State) : State :=
  sramTest (tripTest (thermalTest (takeReadings temps volts (takeOffsets s))))

/-- THERMAL_STEP_DOWN: 100 µs more with the alarm raised. -/
def thermalDown (s : State) : State := if s.mgt.thermal then targetDown s else s

/-- THERMAL_STEP_UP: 500 µs after the alarm cleared, every reading at or below CLEAR. -/
def thermalUp (s : State) : State :=
  if !s.mgt.thermal && s.mgt.temps.all (fun x => decide (x ≤ thClear s)) then
    { s with mgt := { s.mgt with tTarget := min 8 (s.mgt.tTarget + 1) } }
  else s

/-- The comparators work once the island is out of cold reset. -/
def outOfReset (s : State) : Bool := s.glb.boot != .coldReset

/-- DROOP_ALARM: a monitor of V0 to V23 has fallen below DROOP (R389). -/
def droopAlarm (sensor : Nat) (s : State) : State :=
  if outOfReset s && !s.mgt.droop && decide (sensor < 24) then
    aclkFall (raiseFault { s with mgt := { s.mgt with droop := true, dTarget := 4 } } 0x0603 1 12 0 0 sensor)
  else s

/-- DROOP_CLEAR: all of them have stayed at or above CLR for 20 µs. -/
def droopClear (s : State) : State :=
  if s.mgt.droop then logEntry { s with mgt := { s.mgt with droop := false, dTarget := 8 } } 0x0613 0 0 0 0 else s

/-- CE_WINDOW_CHECK: a 1 ms window ends (R396). -/
def ceWindow (s : State) : State :=
  let n := s.mgt.ceAcc
  let s1 := { s with mgt := { s.mgt with ceAcc := 0 } }
  if csrField s 0xD0068 0 32 < n then countC (raiseFault s1 0x0201 1 13 0 0 0) 0xD0E10 1 else s1

/-! ## The watchdog (R397) -/

/-- Bytes of a canonical byte list change. -/
def upsetBytes (m : List (Nat × Byte)) (l : List (Nat × Byte)) : List (Nat × Byte) :=
  l.foldl (fun acc p => sput (fun _ => 0#8) acc p.1 p.2) m

/-- WATCHDOG_EXPIRY: the processor is reset. Which bytes of the resident image its SRAM has lost by then is a free value (log
entry 153). -/
def watchdog (s0 : State) : State :=
  let s := { s0 with draws := s0.draws + 1, glb := { s0.glb with image := { s0.glb.image with
    body := upsetBytes s0.glb.image.body (Config.imageUpset s0.draws) } } }
  let s1 := raiseFault (countC s 0xD0E08 1) 0x0701 2 14 0 0 0
  aclkFall { s1 with mgt := { s1.mgt with restarting := true, tTarget := min 4 s1.mgt.tTarget } }

/-- The resident image still has the digest recorded at BOOT_VERIFY. -/
def imageIntact (s : State) : Bool := sha384 (sparseRead s.glb.image.body 0 s.glb.image.len) == s.glb.image.digest

/-- FIRMWARE_RESTART_DONE: the firmware starts again, or the image is corrupt; an entry of severity 3 is flushed before the
alert that it causes (R393). -/
def restartDone (s : State) : State :=
  if !s.mgt.restarting then s
  else
    let s1 := { s with mgt := { s.mgt with restarting := false } }
    if imageIntact s then s1
    else
      let s2 := faultBit (flushAll (logEntry s1 0x0702 3 0 0 0)) 15
      setBoot { s2 with mgt := { s2.mgt with alertFatal := true }, glb := { s2.glb with bootCode := 0x01 } } .bootFailed

/-! ## Updates (R383, R384) -/

/-- MGT_FWUPD.STATE changes; every change sets EVT (R399). -/
def setUpd (s : State) (x : Nat) : State :=
  if s.mgt.upd = x then s else csrSet { s with mgt := { s.mgt with upd := x } } 0xD0010 (2 ^ 16)

/-- The update fails with a code. -/
def updFail (s : State) (code : Nat) : State := setUpd { s with mgt := { s.mgt with updCode := code } } 4

/-- LOADING or VERIFYING. -/
def updBusy (s : State) : Bool := s.mgt.upd == 1 || s.mgt.upd == 2

/-- A write of 1 to LOAD. -/
def updLoad (s : State) : State :=
  if updBusy s then csrSet s 0xD0010 (2 ^ 7)
  else setUpd { s with mgt := { s.mgt with force := false, sver := 0 } } 1

/-- FW_UPDATE_LOAD_DONE: the image at MGT_FWSRC is in staging, or a read met an MP error. The reads are made under a
memory-port slot of owner 0x3C (R378). -/
def updLoaded (s : State) : State :=
  if s.mgt.upd ≠ 1 ∨ !isReady s ∨ !holdsMp s 0x3C then s
  else
    let a := csrField s 0xD0008 6 36 * 64
    match fetchImage s a with
    | none => updFail s 0x03
    | some m =>
      let n := max 256 (min stagingSize (leNat (rdBytes s.mem (a + 4) 4)))
      setUpd { s with mgt := { s.mgt with staging := m ++ s.mgt.staging.filter (fun p => decide (n ≤ p.1)),
                                          committed := none } } 2

/-- The update reset: the log is flushed, then a cold reset boots from staging (R384). -/
def updReset (s : State) : State := reboot (flushAll s) true

/-- FW_UPDATE_VERIFY_DONE. -/
def updVerified (s : State) : State :=
  if s.mgt.upd ≠ 2 then s
  else
    let code := verifyCode s.glb.fuses s.mgt.committed (stagedImage s)
    if code ≠ 0 then updFail s code
    else
      let s1 := setUpd { s with mgt := { s.mgt with sver := imgFwver (stagedImage s) } } 3
      if s.mgt.force then updReset s1 else s1

/-- A write of 1 to GO. -/
def updGo (s : State) : State := if s.mgt.upd = 3 then updReset s else csrSet s 0xD0010 (2 ^ 7)

/-! ## The MG port (R38, R382) -/

/-- The code of GLB_STATUS.STATE. -/
def BootState.code : BootState → Nat
  | .coldReset => 0x0 | .pllLock => 0x1 | .fuseLoad => 0x2 | .sramInit => 0x3 | .bootFetch => 0x4 | .bootVerify => 0x5
  | .fwInit => 0x6 | .ready => 0x7 | .warmDrain => 0x8 | .warmInit => 0x9 | .strapError => 0xE | .bootFailed => 0xF

/-- GLB_STATUS. -/
def glbStatus (s : State) : Nat :=
  s.glb.warmCount * 2 ^ 32 + s.glb.bootCode * 2 ^ 24 + b2n s.glb.straps.bootsrc * 2 ^ 20 +
  s.glb.straps.mplvl.toNat * 2 ^ 18 + csrField s 0x20 16 2 * 2 ^ 16 + s.glb.boot.code

/-- Status and log are readable from FUSE_LOAD onward (Table 02.19), and in STRAP_ERROR (Table 16.6). -/
def mgAnswers (s : State) : Bool := s.glb.boot != .coldReset && s.glb.boot != .pllLock

/-- A read frame drives bytes. -/
def mgDrive (s : State) (l : List Byte) : State := { s with pins := { s.pins with mgSdo := l } }

/-- `n` free bytes: a read frame that goes on after the last byte that the spec gives. -/
def freeBytes (k n : Nat) : List Byte := (List.range n).map (fun i => Config.freeByte (k + i))

/-- READ_STATUS. -/
def readStatus (n : Nat) (s : State) : State :=
  if mgAnswers s then
    let extra := n - 8
    mgDrive { s with mem := { s.mem with draws := s.mem.draws + extra } }
      ((leBytes 8 (glbStatus s)).take n ++ freeBytes s.mem.draws extra)
  else mgDrive s []

/-- Byte `a` of the 64 KiB on-chip log. -/
def logByte (s : State) (a : Nat) : Byte := ((logBytes (logAt s (a % 65536 / 32)))[a % 32]?).getD 0#8

/-- READ_LOG. -/
def readLog (off n : Nat) (s : State) : State :=
  if mgAnswers s && !s.mgt.restarting then mgDrive s ((List.range n).map (fun i => logByte s (off + i))) else mgDrive s []

/-- The image commands of MG are taken (R382): a boot that waits for them, or READY, with no update in progress. -/
def mgImages (s : State) : Bool :=
  !s.mgt.restarting && !updBusy s &&
  (isReady s || (s.glb.boot == .bootFetch && s.glb.straps.bootsrc && !s.glb.fromStaging))

/-- Writes bytes into staging; those beyond its end are ignored. -/
def putStaging (m : List (Nat × Byte)) : Nat → List Byte → List (Nat × Byte)
  | _, [] => m
  | a, b :: l => putStaging (if a < stagingSize then sput (fun _ => 0#8) m a b else m) (a + 1) l

/-- WRITE_IMAGE: it discards a staged image (R383). -/
def writeImage (off : Nat) (data : List Byte) (s : State) : State :=
  if mgImages s then
    let s1 := { s with mgt := { s.mgt with staging := putStaging s.mgt.staging off data } }
    if s.mgt.upd = 3 then setUpd { s1 with mgt := { s1.mgt with sver := 0 } } 0 else s1
  else s

/-- COMMIT_IMAGE. -/
def commitImage (word : Nat) (s : State) : State :=
  if mgImages s then
    let len := bits word 0 23
    let s1 := { s with mgt := { s.mgt with committed := some len } }
    if isReady s then setUpd { s1 with mgt := { s1.mgt with force := bit word 23, sver := 0 } } 2
    else toVerify s1 (stagedImage s1) (some len)
  else s

/-! ## Go lines (R37, R93) -/

/-- GO_LINE: a rising edge after which the line stayed at 1. -/
def goLine (line : Nat) (s : State) : State :=
  let r := csrGet s (0x14200 + 8 * line)
  if line < 16 ∧ bit r 10 then setFlag s (bits r 0 10) else s

/-! ## The test port (R39, R40) -/

/-- The IDCODE. -/
def idcodeOf (s : State) : Nat := 0x2 * 2 ^ 28 + 0xD032 * 2 ^ 12 + s.glb.straps.jtagMfr.toNat * 2 + 1

/-- A scan has ended: the TAP is in Run-Test/Idle, TDO_EN is 0 again, and TDO holds the last bit that it carried (log entry
144). -/
def scanEnd (s : State) (ir dr : Nat) (out : List Bool) : State :=
  { s with test := { s.test with tap := .runTestIdle, tdo := out.getLastD s.test.tdo, tdoEn := false, shifted := out,
                                 ir := ir, dr := dr } }

/-- A WIR value takes effect; while DX_TESTMODE is 0 each acts as WS_BYPASS. The instruction register keeps the code that
scanned the WIR, or after it the register that the WIR selects (log entry 142). -/
def setWir (s : State) (x : Nat) : State :=
  let t := scanEnd s (if x = 0 then 0x20 else 0x21) 0 []
  { t with test := { t.test with wir := if s.glb.straps.testmode then x else 0 } }

/-- SRAM and register contents are indeterminate, and the engine gives no service until a cold reset (R40). -/
def endService (s : State) : State :=
  if s.glb.straps.testmode then loseState { s with test := { s.test with noService := true } } else s

/-- Bits of a list, the first one lowest. -/
def bitsNat (l : List Bool) : Nat := l.foldr (fun b acc => 2 * acc + b2n b) 0

/-- WS_EXTEST: the WBR's output cells take the bits scanned in, and drive the outputs; its input cells capture the inputs,
which are free values (R40, log entry 144). Cells that the bits do not reach keep theirs. -/
def extest (drive : List Bool) (s : State) : State :=
  let t := setWir s 1
  if s.glb.straps.testmode then
    { t with draws := s.draws + 1, test := { t.test with
      wbrOut := BitVec.ofNat wbrOuts (s.test.wbrOut.toNat / 2 ^ drive.length * 2 ^ drive.length + bitsNat drive),
      wbrIn := Config.wbrCapture s.draws } }
  else t

/-- WS_MBIST, with its result in the wrapper data register (log entry 9). -/
def mbist (s : State) : State :=
  let s1 := endService (setWir s 3)
  if s.glb.straps.testmode then
    { s1 with draws := s1.draws + 1, test := { s1.test with dr := (Config.mbistResult s1.draws).toNat } }
  else s1

/-! ## Meanings -/

/-- ACLK_STEP_UP -/
def execAclkStepUp (s : State) : Host.Outcome State Fault Refusal :=
  .next (served (fun u => if outOfReset u then aclkRise u else u) s)
/-- SENSOR_SAMPLE -/
def execSensorSample (temps volts : List Int) (s : State) : Host.Outcome State Fault Refusal :=
  .next (byFirmware (sensorSample temps volts) s)
/-- THERMAL_STEP_DOWN -/
def execThermalStepDown (s : State) : Host.Outcome State Fault Refusal := .next (byFirmware thermalDown s)
/-- THERMAL_STEP_UP -/
def execThermalStepUp (s : State) : Host.Outcome State Fault Refusal := .next (byFirmware thermalUp s)
/-- DROOP_ALARM -/
def execDroopAlarm (sensor : Nat) (s : State) : Host.Outcome State Fault Refusal := .next (served (droopAlarm sensor) s)
/-- DROOP_CLEAR -/
def execDroopClear (s : State) : Host.Outcome State Fault Refusal := .next (served droopClear s)
/-- LOG_FLUSH: the firmware writes to host memory in READY alone (Table 02.19, R44). -/
def execLogFlush (s : State) : Host.Outcome State Fault Refusal :=
  .next (byFirmware (fun u => if isReady u then flushOne u else u) s)
/-- CE_WINDOW_CHECK -/
def execCeWindowCheck (s : State) : Host.Outcome State Fault Refusal := .next (byFirmware ceWindow s)
/-- WATCHDOG_EXPIRY -/
def execWatchdogExpiry (s : State) : Host.Outcome State Fault Refusal := .next (byFirmware watchdog s)
/-- FIRMWARE_RESTART_DONE -/
def execFirmwareRestartDone (s : State) : Host.Outcome State Fault Refusal := .next (served restartDone s)
/-- FW_UPDATE_LOAD_DONE -/
def execFwUpdateLoadDone (s : State) : Host.Outcome State Fault Refusal := .next (byFirmware updLoaded s)
/-- FW_UPDATE_VERIFY_DONE -/
def execFwUpdateVerifyDone (s : State) : Host.Outcome State Fault Refusal := .next (byFirmware updVerified s)
/-- READ_STATUS -/
def execReadStatus (n : Nat) (s : State) : Host.Outcome State Fault Refusal := .next (served (readStatus n) s)
/-- READ_LOG -/
def execReadLog (off : BitVec 24) (n : Nat) (s : State) : Host.Outcome State Fault Refusal :=
  .next (served (readLog off.toNat n) s)
/-- WRITE_IMAGE -/
def execWriteImage (off : BitVec 24) (data : List Byte) (s : State) : Host.Outcome State Fault Refusal :=
  .next (served (writeImage off.toNat data) s)
/-- COMMIT_IMAGE -/
def execCommitImage (word : BitVec 24) (s : State) : Host.Outcome State Fault Refusal :=
  .next (served (commitImage word.toNat) s)
/-- GO_LINE -/
def execGoLine (line : Nat) (s : State) : Host.Outcome State Fault Refusal := .next (working (goLine line) s)
/-- IDCODE -/
def execIdcode (s : State) : Host.Outcome State Fault Refusal :=
  .next (scanEnd s 0x01 (idcodeOf s) ((List.range 32).map (bit (idcodeOf s))))
/-- BYPASS: code 0xFF and every code that no other instruction has. -/
def execBypass (code : BitVec 8) (s : State) : Host.Outcome State Fault Refusal :=
  .next (if [0x01, 0x20, 0x21].contains code.toNat then s
    else scanEnd s code.toNat 0 [false])
/-- WS_BYPASS -/
def execWsBypass (s : State) : Host.Outcome State Fault Refusal := .next (setWir s 0)
/-- WS_EXTEST -/
def execWsExtest (drive : List Bool) (s : State) : Host.Outcome State Fault Refusal := .next (extest drive s)
/-- WS_INTEST_SCAN -/
def execWsIntestScan (s : State) : Host.Outcome State Fault Refusal := .next (endService (setWir s 2))
/-- WS_MBIST -/
def execWsMbist (s : State) : Host.Outcome State Fault Refusal := .next (mbist s)
/-- TAP_RESET: the controller is in Test-Logic-Reset with IDCODE, the wrapper is in bypass (log entry 34). -/
def execTapReset (s : State) : Host.Outcome State Fault Refusal :=
  .next { s with test := { s.test with tap := .testLogicReset, tdo := false, tdoEn := false, ir := 0x01, dr := 0, wir := 0 } }

end Sys2Proof.Machine
end

