-- ==== Sys2Proof/Machine/Csr.lean ====
section
/-! DEFINITION. What a CSR read shows (chapter 17 and the register sections of the owning chapters), with the output
levels that the state implies: event lines and alert lines. -/

namespace Sys2Proof.Machine

/-- The context that CTX_QSEL selects. -/
def selCtx (s : State) : Nat := csrField s 0x20008 0 14

/-- The code of a context state (Table 04.8). -/
def CtxState.code : CtxState → Nat
  | .closed => 0 | .opening => 1 | .open => 2 | .draining => 3

/-! ## Front end -/

/-- CQ_STATUS -/
def rdCqStatus (s : State) (q : Nat) : Nat :=
  csrGet s (oCqStatus q) + b2n (ringFull s q) * 2 ^ 18 + qInflight s q

/-- A register of a queue block, by its offset in the block. -/
def rdQueue (s : State) (q r : Nat) : Nat :=
  match r with
  | 0x40 => (queue s q).stail
  | 0x48 => (queue s q).shead
  | 0x50 => (queue s q).ctail
  | 0x58 => (queue s q).chead
  | 0x60 => rdCqStatus s q
  | 0x68 => (queue s q).evidx
  | _ => csrGet s (0x10000 + 0x100 * q + r)

/-- CTX_QSTATE -/
def rdCtxState (s : State) : Nat :=
  let c := selCtx s
  let k := ctx s c
  k.epoch * 2 ^ 48 + k.job * 2 ^ 32 + (s.front.inflight.filter (fun x => x.ctx == c)).length * 2 ^ 22 +
  pbClass k * 2 ^ 4 + k.st.code

/-- GLB_, CQ_, CTX_ and ROTA_. -/
def rdFront (s : State) (off : Nat) : Nat :=
  if 0x10000 ≤ off ∧ off < 0x14000 then rdQueue s ((off - 0x10000) / 0x100) (off % 0x100)
  else if 0x14000 ≤ off ∧ off < 0x14080 then bits s.front.flags.toNat (8 * (off - 0x14000)) 64
  else match off with
  | 0x00 => 0x30200
  | 0x08 => 0x40461007FF
  | 0x20 => glbStatus s
  | 0x30 => now s
  | 0x14090 => s.front.inflight.length
  | 0x20010 => rdCtxState s
  | 0x20018 => bits (pbWord (ctx s (selCtx s)) 1) 0 16
  | 0x20020 => pbCapMax (ctx s (selCtx s))
  | 0x3F000 => s.rotaActive
  | 0x3F010 => s.rotaPend
  | _ => csrGet s off

/-! ## Scoring, special functions, Yard -/

/-- The usable cores, ascending (R113). -/
def usableCores (s : State) : List Nat :=
  (List.range 5).filter (fun i => !bit s.glb.fuses.cores i && !bit (csrGet s 0x40008) i)

/-- SC_CORES -/
def rdCores (s : State) : Nat :=
  ((usableCores s)[4]?).getD 7 * 2 ^ 32 + coreCount s * 2 ^ 28 + s.glb.fuses.cores * 2 ^ 16 +
  csrField s 0x40008 0 5 * 2 ^ 8 + sumNat ((coreActive s).map (fun i => 2 ^ i))

/-- SC_SLOT -/
def rdSlot (s : State) (i : Nat) : Nat :=
  let x := slotNow s i
  x.st * 2 ^ 62 + x.ctx * 2 ^ 48 + x.etype * 2 ^ 32 + x.lines * 2 ^ 16 + b2n (slotInUse s i)

/-- SFU_TBL_DATA -/
def rdTable (s : State) : Nat :=
  match primOf (csrField s 0x50028 8 3) with
  | none => 0
  | some p => tableData p (csrField s 0x50028 0 7)

/-- SC_, SFU_ and YD_. -/
def rdCompute (s : State) (off : Nat) : Nat :=
  match off with
  | 0x40000 => rdCores s
  | 0x40020 => rdSlot s 0
  | 0x40028 => rdSlot s 1
  | 0x50030 => rdTable s
  | 0x60000 => (s.disp.uses.filter (fun u => u.plan.isSome)).length * 2 ^ 32 + yardHeld s * 2 ^ 8 + yardBusy s
  | _ => if 0x40040 ≤ off ∧ off < 0x40068 then nth s.glb.fuses.repair ((off - 0x40040) / 8) else csrGet s off

/-! ## Sheds, tickets, work queues -/

/-- SHD_STAT -/
def rdShdStat (s : State) (i : Nat) : Nat :=
  let x := shed s i
  b2n x.busy * 2 ^ 63 + csrGet s (oShdStat i) + x.cache.length * 2 ^ 48 + x.used * 2 ^ 24 + x.free

/-- TKT_WQ_OCC -/
def rdWqOcc (s : State) (w : Nat) : Nat :=
  sumNat ((List.range 4).map (fun c => b2n (!((wq s w).at c).all.isEmpty) * 2 ^ (32 + c))) + wqItems s w

/-- The BUSY and PEND bits of TKT_WQ_RESET. -/
def rdWqReset (s : State) : Nat :=
  sumNat ((List.range 4).map (fun w => b2n (wq s w).pend * 2 ^ (16 + w) + b2n (wq s w).busy * 2 ^ (8 + w)))

/-- SHD_ and TKT_. -/
def rdBuffers (s : State) (off : Nat) : Nat :=
  if off < 0x70200 then
    let i := (off - 0x70000) / 0x40
    if off % 0x40 = 0x10 then csrGet s off + b2n (shed s i).pend * 4
    else if off % 0x40 = 0x18 then rdShdStat s i
    else csrGet s off
  else if 0x71000 ≤ off ∧ off < 0x72000 ∧ off % 0x10 = 8 then quse s ((off - 0x71000) / 0x10)
  else if 0x80100 ≤ off ∧ off < 0x80180 ∧ off % 0x20 = 0x10 then rdWqOcc s ((off - 0x80100) / 0x20)
  else match off with
  | 0x80000 => (s.disp.tickets.filter (fun p => p.2.st != 0)).length * 2 ^ 32 +
      (s.disp.uses.filter (fun u => u.ended.isNone)).length * 2 ^ 16 + b2n (s.front.inflight.any (fun c => waitN c != 0))
  | 0x80008 => ringFree s * 2 ^ 32 + ringHead s
  | 0x80020 => s.disp.origHwm * 2 ^ 32 + origUsed s
  | 0x80180 => rdWqReset s
  | _ => csrGet s off

/-! ## Collectives, fabric, placement -/

/-- COL_GSTAT -/
def rdGstat (s : State) (g : Nat) : Nat :=
  let x := grp s g
  x.seq * 2 ^ 32 + b2n x.active.isSome * 2 ^ 31 + b2n x.lost * 2 ^ 30 + b2n x.notin * 2 ^ 29 + b2n (noSig s) * 2 ^ 28 + x.midx

/-- FAB_PSTAT -/
def rdPstat (s : State) (n : Nat) : Nat :=
  let p := port s n
  p.failcode * 2 ^ 56 + p.delay * 2 ^ 32 + (if p.st = 5 then p.ver else 0) * 2 ^ 28 + p.groups * 2 ^ 24 +
  b2n p.pend * 2 ^ 12 + csrGet s (oFabPstat n) + p.st

/-- The bits of decision slots that a test picks. -/
def decBits (p : PSlot) (f : Decision → Bool) : Nat := sumNat ((p.decisions.filter f).map (fun d => 2 ^ d.slot))

/-- A copy that this member sends. -/
def sendsCopy (s : State) (p : PSlot) (d : Decision) : Bool :=
  d.copies && d.src == (grp s (pbGroup (ctx s p.ctx))).midx

/-- PLC_MIGPROG (R339) -/
def rdMigprog (s : State) (p : PSlot) : Nat :=
  let ds := p.decisions.filter (sendsCopy s p)
  let total := sumNat (ds.map (·.pieces))
  (p.ackBytes / 2 ^ 20) * 2 ^ 32 + (if total = 0 then 100 else 100 * sumNat (ds.map (·.ackP)) / total)

/-- A migration is in progress: a copy of a pending decision, of a LIST or of a drain. -/
def migActive (s : State) : Bool :=
  s.plc.slots.any (fun q => q.2.decisions.any (fun d => d.copies && !d.done && !d.fail)) ||
  s.plc.list.isSome || s.plc.members.any (fun x => 0 < x.toAck || 0 < x.toRecv)

/-- COL_, FAB_ and PLC_. -/
def rdDomain (s : State) (off : Nat) : Nat :=
  let sel := pslot s (csrField s 0xB0048 0 5)
  if off < 0x91000 then
    let g := (off - 0x90000) / 0x40
    if off % 0x40 = 0x20 then rdGstat s g
    else if off % 0x40 = 0x28 then (grp s g).lastStatus * 2 ^ 56 + (grp s g).lastOpc * 2 ^ 48 + (grp s g).lastChunks
    else csrGet s off
  else if 0xA0100 ≤ off ∧ off < 0xA0280 then
    let n := (off - 0xA0100) / 0x40
    if off % 0x40 = 0x08 then rdPstat s n
    else if off % 0x40 = 0x10 then (port s n).retired * 2 ^ 32 + (port s n).active
    else csrGet s off
  else match off with
  | 0xA0008 => s.fab.snapUp * 2 ^ 8
  | 0xB0000 => b2n (migActive s) * 2 ^ 9 +
      b2n (s.front.inflight.any (fun c => unitOf c.opc == .placement && c.inUnit)) * 2 ^ 8 +
      (if s.glb.image.len = 0 then 1 else s.glb.image.plevel)
  | 0xB0040 => s.plc.jrnl
  | 0xB0050 => (if sel.st = 3 then 0 else sel.st * 2 ^ 62 + sel.ctx * 2 ^ 48 + sel.pepoch * 2 ^ 32 + sel.step)
  | 0xB0058 => decBits sel (·.fail) * 2 ^ 32 + decBits sel (·.done) * 2 ^ 16 + decBits sel (fun _ => true)
  | 0xB0060 => rdMigprog s sel
  | _ => csrGet s off

/-! ## Counters, management -/

/-- PMC_CNT: the odd counter of a chained pair shows the latched value (R363). -/
def rdCnt (s : State) (i : Nat) : Nat :=
  if pmcOddChained s i then setBits (csrGet s (oPmcCnt i)) 0 48 (slook (fun _ => 0) s.pmc.latch i)
  else csrGet s (oPmcCnt i)

/-- PMC_BW, by register number. -/
def rdBw (s : State) (k : Nat) : Nat := s.pmc.bwSeq * 2 ^ 48 + slook (fun _ => 0) s.pmc.bwLast k

/-- PMC_SMPSTAT -/
def rdSmpstat (s : State) : Nat :=
  b2n s.pmc.cfg.armed * 2 ^ 63 + s.pmc.cfg.job * 2 ^ 32 + s.pmc.buf.length * 2 ^ 16 + s.pmc.skipped

/-- Ports that are UP, as bits. -/
def upPorts (s : State) : Nat := sumNat ((List.range 6).map (fun n => b2n ((port s n).st == 5) * 2 ^ n))

/-- Axis `a` has an UP port. -/
def axisUp (s : State) (a : Nat) : Bool := (port s (2 * a)).st == 5 || (port s (2 * a + 1)).st == 5

/-- MGT_SVC.LEVEL (R394) -/
def svcLevel (s : State) : Nat :=
  if coreCount s = 0 then 0
  else if (List.range 3).all (fun a => decide (domSize s a ≤ 1) || axisUp s a) then 2 else 1

/-- MGT_SVC -/
def rdSvc (s : State) : Nat :=
  b2n (tablesOk s) * 2 ^ 16 + upPorts s * 2 ^ 8 + sumNat ((List.range 3).map (fun a => b2n (axisUp s a) * 2 ^ (4 + a))) +
  svcLevel s

/-- MGT_ALARM -/
def rdAlarm (s : State) : Nat :=
  lowSensor s * 2 ^ 24 + hotSensor s * 2 ^ 16 + b2n s.mgt.trip * 8 + b2n s.mgt.sramv * 4 + b2n s.mgt.droop * 2 +
  b2n s.mgt.thermal

/-- PMC_ -/
def rdPmc (s : State) (off : Nat) : Nat :=
  if off < 0xC0800 then rdCnt s ((off - 0xC0000) / 8)
  else if 0xC1200 ≤ off ∧ off < 0xC13B0 then rdBw s ((off - 0xC1200) / 8)
  else if 0xC1500 ≤ off ∧ off < 0xC1530 then nth (ctx s (selCtx s)).cnt ((off - 0xC1500) / 8)
  else if off = 0xC1600 then rdSmpstat s
  else if 0xC1610 ≤ off ∧ off < 0xC1630 then
    let w := (off - 0xC1610) / 8
    sumNat ((List.range 64).map (fun b => b2n (bit (csrGet s (oPmcCnt (64 * w + b))) 63) * 2 ^ b))
  else csrGet s off

/-- MGT_ and DET_ -/
def rdMgt (s : State) (off : Nat) : Nat :=
  if 0xD0078 ≤ off ∧ off < 0xD00A8 then nth s.glb.fuses.lanes ((off - 0xD0078) / 8)
  else if 0xD00B0 ≤ off ∧ off < 0xD00E0 then nth s.glb.fuses.keyDig ((off - 0xD00B0) / 8)
  else if 0xD0100 ≤ off ∧ off < 0xD0180 then
    let i := (off - 0xD0100) / 8
    toTwos (nthI s.glb.fuses.trimT i) 16 * 2 ^ 48 + toTwos (trimT s i) 16 * 2 ^ 32 + toTwos (nthI s.mgt.temps i) 16
  else if 0xD0200 ≤ off ∧ off < 0xD0300 then
    let j := (off - 0xD0200) / 8
    toTwos (nthI s.glb.fuses.trimV j) 16 * 2 ^ 48 + toTwos (trimV s j) 16 * 2 ^ 32 + (nthI s.mgt.volts j).toNat
  else match off with
  | 0xD0000 => s.glb.image.plevel * 2 ^ 32 + s.glb.image.fwver
  | 0xD0010 => s.mgt.sver * 2 ^ 32 + csrGet s off + s.mgt.updCode * 2 ^ 8 + s.mgt.upd * 2 ^ 4
  | 0xD0028 => s.mgt.flushed * 2 ^ 32 + s.mgt.next
  | 0xD0040 => csrGet s off + s.mgt.cur
  | 0xD0048 => rdAlarm s
  | 0xD0060 => rdSvc s
  | 0xD0070 => s.glb.fuses.ports * 2 ^ 8 + s.glb.fuses.cores
  | 0xD00E0 => s.glb.fuses.tblSum
  | _ => csrGet s off

/-- The value that a read of a mapped register shows. -/
def regRead (s : State) (off : Nat) : Nat :=
  if off < 0x40000 then rdFront s off
  else if off < 0x70000 then rdCompute s off
  else if off < 0x90000 then rdBuffers s off
  else if off < 0xC0000 then rdDomain s off
  else if off < 0xD0000 then rdPmc s off
  else rdMgt s off

/-! ## Who may access what (R27, R43, R374, R400, R401, R405) -/

/-- The verdict on an access. -/
inductive Access where
  /-- in cold reset no access is taken: CP_CSR_RDATA and CP_CSR_ERR are 0 -/
  | none
  /-- refused: 0, with CP_CSR_ERR -/
  | refused
  /-- taken -/
  | taken
  /-- an offset of the open mirror that mirrors nothing, or a write to the mirror: 0 with no error, no effect -/
  | ignored
  /-- taken as a read of another offset that changes nothing: the mirror -/
  | mirror (off : Nat)
  deriving DecidableEq, Repr

/-- The ranges that answer before READY and through a warm reset: GLB_ and MGT_ (R43, Table 02.19). -/
def rangeOpen (s : State) (off : Nat) : Bool := isReady s || decide (off < 0x10000) || decide (0xD0000 ≤ off ∧ off < 0xE0000)

/-- The verdict on an access to an offset. -/
def access (s : State) (off : Nat) (priv write : Bool) : Access :=
  if s.glb.boot = .coldReset then .none
  else if !rangeOpen s off then .refused
  else if 0xC8000 ≤ off ∧ off ≤ 0xC93A8 then
    if csrField s 0xC1008 0 1 = 0 then .refused
    else if write then .ignored
    else if off < 0xC8800 ∨ 0xC9200 ≤ off then .mirror (off - 0x8000)
    else .ignored
  else match regInfo off with
    | Option.none => .refused
    | some r => if priv || (!r.sup && !write) then .taken else .refused

/-- The CSR outputs of an access. -/
def csrOut (s : State) (v : Nat) (err : Bool) : State := { s with pins := { s.pins with csrRdata := v, csrErr := err } }

/-! ## Output levels -/

/-- A queue has a cause pending on its completion line (R96). -/
def queueCause (s : State) (q : Nat) : Bool :=
  let d := ((queue s q).evidx + 2 ^ 32 - (queue s q).chead) % 2 ^ 32
  decide (1 ≤ d ∧ d ≤ 2 ^ qClog2 s q)

/-- EV_OUT[n] (R36, R48, R96, R371, R393, R396, R399; PLC_EVENT). -/
def evOut (s : State) (n : Nat) : Bool :=
  if s.glb.boot = .coldReset then false
  else if n = 56 then bit (csrGet s 0x20) 16
  else if !isReady s then false
  else if n < 32 then (List.range 64).any (fun q => csrField s (oCqCtl q) 24 5 == n && queueCause s q)
  else if n < 48 then bit (csrGet s 0xD0050) (n - 32) && bit (csrGet s 0xD0058) (n - 32)
  else if n < 53 then bit (csrGet s 0xB0068) (n - 48)
  else match n with
  | 57 => decide (2048 ≤ s.pmc.buf.length)
  | 58 => decide (1024 ≤ logPending s)
  | 59 => bit (csrGet s 0xD0010) 16
  | _ => false

/-- MG_ALERT_N[n], active low (Table 02.13, R387 to R389, R42). -/
def mgAlertN (s : State) (n : Nat) : Bool :=
  match n with
  | 0 => !(s.mgt.thermal || s.mgt.trip)
  | 1 => !s.mgt.droop
  | 2 => !s.mgt.alertFatal
  | _ => !s.glb.alertBoot

end Sys2Proof.Machine
end

