-- ==== Sys2Proof/Machine/CsrWrite.lean ====
section
/-! DEFINITION. CSR writes with the behaviour that the owning chapters give them, CSR reads with what they clear or latch,
and the rota's bank switches (R5, R6, R26, R27, R110, R111, R363, R374 and the rules that each definition names). -/

namespace Sys2Proof.Machine

/-- The 64-bit complement. -/
def compl64 (m : Nat) : Nat := span 63 0 ^^^ (m &&& span 63 0)

/-- A write to a register with no behaviour of its own: RW fields take the value, RW1C bits are cleared where it is 1 and
set where hardware sets them in the same cycle, every other bit stays (R5, R6). -/
def plainWrite (s : State) (off v hw : Nat) : State :=
  match regInfo off with
  | none => s
  | some r =>
    csrPut s off ((csrGet s off &&& compl64 (r.rw ||| (v &&& r.w1c))) ||| (v &&& r.rw) ||| (hw &&& r.w1c))

/-! ## Rota (R110, R111) -/

/-- An instance number that Table 04.11 does not use. -/
def rotaUnused (i : Nat) : Bool :=
  (decide (5 ≤ i) && decide (i ≤ 7)) || (decide (10 ≤ i) && decide (i ≤ 15)) || i == 38 || i == 39

/-- The bank that is active on instance `i`. -/
def activeBank (s : State) (i : Nat) : Nat := b2n (bit s.rotaActive i)

/-- A write to entry register `j` of bank `b` of instance `i`. -/
def writeRota (s : State) (i b j v : Nat) : State :=
  if rotaUnused i || activeBank s i == b || bit s.rotaPend i then csrSet s 0x3F018 1
  else csrPut s (oRota i b j) v

/-- The shadow bank of instance `i` holds owner 0x38. -/
def shadowHasBg (s : State) (i : Nat) : Bool :=
  (List.range 32).any (fun j =>
    (List.range 8).any (fun m => bits (csrGet s (oRota i (1 - activeBank s i) j)) (8 * m) 8 == 0x38))

/-- A refused commit: NOBG, and the instance. -/
def refuseCommit (s : State) (i : Nat) : State :=
  csrPut s 0x3F018 (setBits (csrGet s 0x3F018 ||| 2) 8 6 i)

/-- What waited for slots of instance `i` goes on under its new table. -/
def rotaPump (s : State) (i : Nat) : State :=
  if 16 ≤ i ∧ i < 32 then fetchPumpAll s else if 32 ≤ i ∧ i < 38 then portPump s (i - 32) else s

/-- A commit of instance `i`: refused, pending, or, where the island of a fabric port is held in reset, done at once. -/
def commitOne (s : State) (i : Nat) : State :=
  if rotaUnused i || bit s.rotaPend i then s
  else if decide (16 ≤ i) && decide (i < 38) && !shadowHasBg s i then refuseCommit s i
  else if decide (32 ≤ i) && decide (i < 38) && !(port s (i - 32)).phyRdy then rotaPump (rotaToggle s i) i
  else { s with rotaPend := setBits s.rotaPend i 1 1 }

/-- A write to ROTA_COMMIT. -/
def writeCommit (s : State) (v : Nat) : State :=
  (List.range 64).foldl (fun u i => if bit v i then commitOne u i else u) s

/-- ROTA_SWITCH: the slot pointer of instance `i` returns to 0. -/
def rotaSwitch (i : Nat) (s : State) : State :=
  if bit s.rotaPend i then rotaPump (rotaToggle s i) i else s

/-! ## Writes by range -/

/-- A write to a queue's block (R84, R85). -/
def writeQueue (s : State) (q r off v hw : Nat) : State :=
  match r with
  | 0x00 => writeCqCtl s q v
  | 0x08 => writeCqSbase s q v
  | 0x10 | 0x18 => if qBusy s q then s else plainWrite s off v hw
  | _ => plainWrite s off v hw

/-- A write to GLB_RESET (R44, R47). -/
def writeReset (s : State) (v : Nat) : State :=
  if bit v 1 then reboot s false else if bit v 0 then warmRequest s else s

/-- A write to CTX_GRANT (R105). -/
def writeGrant (s : State) (v : Nat) : State :=
  setCtx s (bits v 0 14) { ctx s (bits v 0 14) with grant := bits v 16 16 }

/-- GLB_, CQ_, CTX_ and ROTA_. -/
def writeFront (s : State) (off v hw : Nat) : State :=
  if 0x10000 ≤ off ∧ off < 0x14000 then writeQueue s ((off - 0x10000) / 0x100) (off % 0x100) off v hw
  else if 0x30000 ≤ off ∧ off < 0x38000 then
    writeRota s ((off - 0x30000) / 0x200) ((off - 0x30000) / 0x100 % 2) (off % 0x100 / 8) v
  else match off with
  | 0x10 => if bit (csrGet s 0x10) 8 then s else plainWrite s off v hw
  | 0x28 => writeReset s v
  | 0x14080 => if bit v 16 then clearFlag s (bits v 0 10) else setFlag s (bits v 0 10)
  | 0x20000 => writeGrant s v
  | 0x3F008 => writeCommit s v
  | _ => plainWrite s off v hw

/-- A write to a Shed's block (R251, R252). -/
def writeShed (s : State) (i r off v hw : Nat) : State :=
  match r with
  | 0x00 | 0x08 => if shdLocked s i then s else plainWrite s off v hw
  | 0x10 => writeShdCtl s i v
  | _ => plainWrite s off v hw

/-- SHD_ and TKT_ (R208, R226, R252). -/
def writeBuffers (s : State) (off v hw : Nat) : State :=
  if off < 0x70200 then writeShed s ((off - 0x70000) / 0x40) (off % 0x40) off v hw
  else if off = 0x80010 ∨ off = 0x80018 then (if origUsed s ≠ 0 then s else plainWrite s off v hw)
  else if 0x80100 ≤ off ∧ off < 0x80180 ∧ off % 0x20 < 0x10 then
    (if wqItems s ((off - 0x80100) / 0x20) ≠ 0 then s else plainWrite s off v hw)
  else if off = 0x80180 then writeWqReset s v
  else plainWrite s off v hw

/-- A write to COL_GRP[g] (R270). -/
def writeGroup (s : State) (g v : Nat) : State :=
  let x := grp s g
  if x.en then
    if bit v 63 then (if x.offPend then setGrp s g { x with onPend := true } else s)
    else if x.active.isSome then setGrp s g { x with offPend := true, onPend := false }
    else disableGroup s g
  else
    let s1 := plainWrite s (oColGrp g) v 0
    if bit v 63 then enableGroup s1 g else s1

/-- FAB_ID may be written (R295). -/
def fabIdle (s : State) : Bool := (List.range 6).all (fun n => !portEn s n && (port s n).st == 0)

/-- A write to FAB_ID: the sizes of every enabled group are compared again (R269, R295). -/
def writeFabId (s : State) (v : Nat) : State :=
  if fabIdle s then
    (List.range 64).foldl (fun u g => if (grp u g).en then placeGroup u g else u) (plainWrite s 0xA0000 v 0)
  else s

/-- The width of a link: its lane groups in use (R297). -/
def linkWidth (p : Port) : Nat := sumNat ((List.range 4).map (fun g => b2n (bit p.groups g)))

/-- The snapshot of the routing view (R312). -/
def takeSnapshot (s : State) : State :=
  { s with fab := { s.fab with snapUp := upPorts s, snapW := (List.range 6).map (fun n => linkWidth (port s n)) } }

/-- A write to FAB_OWN_CTL: a change of GEN invalidates the owner cache (R323). -/
def writeOwnCtl (s : State) (v : Nat) : State :=
  let s1 := plainWrite s 0xA0020 v 0
  if bits v 32 16 = csrField s 0xA0020 32 16 then s1 else { s1 with fab := { s1.fab with ownCache := [] } }

/-- COL_, FAB_ and PLC_ (R270, R295, R312, R323 to R325, R351). -/
def writeDomain (s : State) (off v hw : Nat) : State :=
  if off < 0x91000 ∧ off % 0x40 = 0 then writeGroup s ((off - 0x90000) / 0x40) v
  else if 0xA0100 ≤ off ∧ off < 0xA0280 ∧ off % 0x40 = 0 then
    let n := (off - 0xA0100) / 0x40
    if bit v 0 then portEnable n s else portDisable n s
  else match off with
  | 0xA0000 => writeFabId s v
  | 0xA0008 => if bit v 0 then takeSnapshot s else s
  | 0xA0020 => writeOwnCtl s v
  | 0xB0018 | 0xB0020 => if (heldRuns s).isEmpty then plainWrite s off v hw else s
  | _ => plainWrite s off v hw

/-- A write to PMC_CFG[i]: once a pair is chained anew, its odd counter has nothing latched (R363). -/
def writePmcCfg (s : State) (i v : Nat) : State :=
  let s1 := plainWrite s (oPmcCfg i) v 0
  if i % 2 = 0 ∧ bit v 62 ∧ !bit (csrGet s (oPmcCfg i)) 62 then
    { s1 with pmc := { s1.pmc with latch := sput (fun _ => 0) s1.pmc.latch (i + 1) 0 } }
  else s1

/-- A write to PMC_BW_CTL: the first window opens with EN, and EN = 0 ends counting (R365). -/
def writeBwCtl (s : State) (v : Nat) : State :=
  let s1 := plainWrite s 0xC1100 v 0
  if bit v 63 = bit (csrGet s 0xC1100) 63 then s1 else { s1 with pmc := { s1.pmc with bwAcc := [] } }

/-- A write to PMC_XSEL clears every expert counter (R368). -/
def writeXsel (s : State) (v : Nat) : State :=
  let s1 := plainWrite s 0xC1400 v 0
  { s1 with pmc := { s1.pmc with xcnt := [] } }

/-- A write to PMC_CTL: of FROZEN only a 0 has effect (R364). -/
def writePmcCtl (s : State) (v : Nat) : State :=
  csrPut s 0xC1000 ((v &&& 3) ||| (csrGet s 0xC1000 &&& v &&& 4))

/-- PMC_ -/
def writePmc (s : State) (off v hw : Nat) : State :=
  if 0xC0800 ≤ off ∧ off < 0xC1000 then writePmcCfg s ((off - 0xC0800) / 8) v
  else match off with
  | 0xC1000 => writePmcCtl s v
  | 0xC1100 => writeBwCtl s v
  | 0xC1400 => writeXsel s v
  | _ => plainWrite s off v hw

/-- A write to MGT_FWUPD (R383, R384): the RW1C bits, then LOAD, then GO. -/
def writeFwupd (s : State) (v hw : Nat) : State :=
  let s1 := plainWrite s 0xD0010 v hw
  let s2 := if bit v 0 then updLoad s1 else s1
  if bit v 1 then updGo s2 else s2

/-- A write to MGT_FAULT: THERMAL and DROOP stay set while their alarm is raised (R387, R389). -/
def writeFault (s : State) (v hw : Nat) : State :=
  let s1 := plainWrite s 0xD0050 v hw
  let s2 := if s1.mgt.thermal then faultBit s1 11 else s1
  if s2.mgt.droop then faultBit s2 12 else s2

/-- MGT_ and DET_ -/
def writeMgt (s : State) (off v hw : Nat) : State :=
  match off with
  | 0xD0010 => writeFwupd s v hw
  | 0xD0040 => aclkFall (plainWrite s off v hw)
  | 0xD0050 => writeFault s v hw
  | _ => plainWrite s off v hw

/-- The effect of a write to a mapped register. -/
def writeReg (s : State) (off v hw : Nat) : State :=
  if off < 0x40000 then writeFront s off v hw
  else if off < 0x70000 then plainWrite s off v hw
  else if off < 0x90000 then writeBuffers s off v hw
  else if off < 0xC0000 then writeDomain s off v hw
  else if off < 0xD0000 then writePmc s off v hw
  else writeMgt s off v hw

/-! ## Accesses -/

/-- A CSR write (R26, R27): `hw` holds the RW1C bits that hardware sets in the same cycle (R6). -/
def csrWriteAt (off : Nat) (priv : Bool) (v hw : Nat) (s : State) : State :=
  match access s off priv true with
  | .none => s
  | .refused => csrOut (bwAdd s 26 0 8) 0 true
  | .taken => csrOut (writeReg (bwAdd s 26 0 8) off v hw) 0 false
  | .ignored | .mirror _ => csrOut (bwAdd s 26 0 8) 0 false

/-- `n` timing-dependent choices in the cycle of a clearing read; their sources are free (R354, log entry 5). -/
def tdcMany : Nat → State → State
  | 0, s => s
  | n + 1, s => tdcMany n (tdcCount { s with draws := s.draws + 1 } ((Config.freeWord s.draws).toNat % 3))

/-- What a read changes: RC fields go back to their reset value, with the events of the same cycle added (R6); a read of
the even counter of a chained pair latches the odd one (R363); a read of DET_TDC_COUNT clears DET_TDC_FIRST (R354). -/
def readEffect (s : State) (off same : Nat) : State :=
  if off = 0xE0008 then tdcMany same (csrPut (csrPut s 0xE0008 0) 0xE0018 0)
  else if 0xC0000 ≤ off ∧ off < 0xC0800 then
    let i := (off - 0xC0000) / 8
    if i % 2 = 0 ∧ bit (csrGet s (oPmcCfg i)) 62 then
      { s with pmc := { s.pmc with latch := sput (fun _ => 0) s.pmc.latch (i + 1) (csrField s (oPmcCnt (i + 1)) 0 48) } }
    else s
  else match regInfo off with
    | none => s
    | some r => if r.rc = 0 then s else csrPut s off ((csrGet s off &&& compl64 r.rc) ||| (same &&& r.rc))

/-- A CSR read (R25, R27): `same` holds the events counted in the same cycle, in the fields of the register (R6). -/
def csrReadAt (off : Nat) (priv : Bool) (same : Nat) (s : State) : State :=
  match access s off priv false with
  | .none => csrOut s 0 false
  | .refused => csrOut (bwAdd s 26 1 8) 0 true
  | .taken => csrOut (readEffect (bwAdd s 26 1 8) off same) (regRead s off) false
  | .ignored => csrOut (bwAdd s 26 1 8) 0 false
  | .mirror x => csrOut (bwAdd s 26 1 8) (regRead s x) false

/-- A served CSR write. -/
def doWrite (off : Nat) (priv : Bool) (v hw : Nat) (s : State) : Host.Outcome State Fault Refusal :=
  .next (served (csrWriteAt off priv v hw) s)

/-- A served CSR read. -/
def doRead (off : Nat) (priv : Bool) (same : Nat) (s : State) : Host.Outcome State Fault Refusal :=
  .next (served (csrReadAt off priv same) s)

/-! ## Meanings -/

/-- CSR_WRITE -/
def execCsrWrite (idx : Nat) (v : Word64) (priv : Bool) (hw : Word64) (s : State) : Host.Outcome State Fault Refusal :=
  doWrite (8 * idx) priv v.toNat hw.toNat s
/-- CLEARING_READ: a read of any register; those with no RC field lose nothing. -/
def execClearingRead (idx : Nat) (priv : Bool) (same : Nat) (s : State) : Host.Outcome State Fault Refusal :=
  doRead (8 * idx) priv same s
/-- GLB_IFACE_SEL_WRITE (R78) -/
def execGlbIfaceSelWrite (v : Word64) (priv : Bool) (s : State) : Host.Outcome State Fault Refusal :=
  doWrite 0x10 priv v.toNat 0 s
/-- GLB_RESET_WARM (R44, R46) -/
def execGlbResetWarm (priv : Bool) (s : State) : Host.Outcome State Fault Refusal := doWrite 0x28 priv 1 0 s
/-- GLB_RESET_REBOOT (R47): with WARM or without. -/
def execGlbResetReboot (warm priv : Bool) (s : State) : Host.Outcome State Fault Refusal :=
  doWrite 0x28 priv (2 + b2n warm) 0 s
/-- QUEUE_ENABLE: a write with EN = 1 (R78, R84). -/
def execQueueEnable (q : Nat) (v : Word64) (priv : Bool) (s : State) : Host.Outcome State Fault Refusal :=
  doWrite (oCqCtl q) priv (v.toNat ||| 1) 0 s
/-- QUEUE_DISABLE: a write with EN = 0 and ABORT = 0 (R85). -/
def execQueueDisable (q : Nat) (v : Word64) (priv : Bool) (s : State) : Host.Outcome State Fault Refusal :=
  doWrite (oCqCtl q) priv (v.toNat &&& compl64 5) 0 s
/-- QUEUE_ABORT: a write with ABORT = 1 (R84). -/
def execQueueAbort (q : Nat) (v : Word64) (priv : Bool) (s : State) : Host.Outcome State Fault Refusal :=
  doWrite (oCqCtl q) priv (v.toNat ||| 4) 0 s
/-- CQ_SBASE_WRITE (R85) -/
def execCqSbaseWrite (q : Nat) (v : Word64) (priv : Bool) (s : State) : Host.Outcome State Fault Refusal :=
  doWrite (oCqSbase q) priv v.toNat 0 s
/-- CQ_FLAGSET_SET (R91) -/
def execCqFlagsetSet (flag : BitVec 10) (priv : Bool) (s : State) : Host.Outcome State Fault Refusal :=
  doWrite 0x14080 priv flag.toNat 0 s
/-- CQ_FLAGSET_CLEAR (R92) -/
def execCqFlagsetClear (flag : BitVec 10) (priv : Bool) (s : State) : Host.Outcome State Fault Refusal :=
  doWrite 0x14080 priv (2 ^ 16 + flag.toNat) 0 s
/-- CTX_GRANT (R105) -/
def execCtxGrant (v : Word64) (priv : Bool) (s : State) : Host.Outcome State Fault Refusal :=
  doWrite 0x20000 priv v.toNat 0 s
/-- ROTA_ENTRY_WRITE (R110) -/
def execRotaEntryWrite (i b j : Nat) (v : Word64) (priv : Bool) (s : State) : Host.Outcome State Fault Refusal :=
  doWrite (oRota i b j) priv v.toNat 0 s
/-- ROTA_COMMIT (R110, R111) -/
def execRotaCommit (v : Word64) (priv : Bool) (s : State) : Host.Outcome State Fault Refusal :=
  doWrite 0x3F008 priv v.toNat 0 s
/-- ROTA_SWITCH (R110) -/
def execRotaSwitch (i : Nat) (s : State) : Host.Outcome State Fault Refusal := .next (working (rotaSwitch i) s)
/-- SHED_INIT: a write with INIT = 1 (R251, R252). -/
def execShedInit (shed : Nat) (v : Word64) (priv : Bool) (s : State) : Host.Outcome State Fault Refusal :=
  doWrite (oShdCtl shed) priv (v.toNat ||| 2) 0 s
/-- WQ_RESET (R208) -/
def execWqReset (v : Word64) (priv : Bool) (s : State) : Host.Outcome State Fault Refusal :=
  doWrite 0x80180 priv v.toNat 0 s
/-- GROUP_ENABLE: a write with EN = 1 (R270). -/
def execGroupEnable (g : Nat) (v : Word64) (priv : Bool) (s : State) : Host.Outcome State Fault Refusal :=
  doWrite (oColGrp g) priv (v.toNat ||| 2 ^ 63) 0 s
/-- GROUP_DISABLE: a write with EN = 0 (R270). -/
def execGroupDisable (g : Nat) (v : Word64) (priv : Bool) (s : State) : Host.Outcome State Fault Refusal :=
  doWrite (oColGrp g) priv (v.toNat &&& compl64 (2 ^ 63)) 0 s
/-- FAB_ID_WRITE (R269, R295) -/
def execFabIdWrite (v : Word64) (priv : Bool) (s : State) : Host.Outcome State Fault Refusal :=
  doWrite 0xA0000 priv v.toNat 0 s
/-- ROUTE_SNAPSHOT (R312) -/
def execRouteSnapshot (priv : Bool) (s : State) : Host.Outcome State Fault Refusal := doWrite 0xA0008 priv 1 0 s
/-- OWNER_TABLE_GEN_CHANGE (R323) -/
def execOwnerTableGenChange (v : Word64) (priv : Bool) (s : State) : Host.Outcome State Fault Refusal :=
  doWrite 0xA0020 priv v.toNat 0 s
/-- PORT_ENABLE (R299, R325) -/
def execPortEnable (n : Nat) (priv : Bool) (s : State) : Host.Outcome State Fault Refusal :=
  doWrite (oFabPctl n) priv 1 0 s
/-- PORT_DISABLE (R324) -/
def execPortDisable (n : Nat) (priv : Bool) (s : State) : Host.Outcome State Fault Refusal :=
  doWrite (oFabPctl n) priv 0 0 s
/-- PMC_XSEL_WRITE (R368) -/
def execPmcXselWrite (v : Word64) (priv : Bool) (s : State) : Host.Outcome State Fault Refusal :=
  doWrite 0xC1400 priv v.toNat 0 s
/-- PMC_CHAIN_READ (R363) -/
def execPmcChainRead (i : Nat) (priv : Bool) (s : State) : Host.Outcome State Fault Refusal := doRead (oPmcCnt i) priv 0 s
/-- DET_TDC_COUNT_READ (R354) -/
def execDetTdcCountRead (priv : Bool) (same : Nat) (s : State) : Host.Outcome State Fault Refusal :=
  doRead 0xE0008 priv same s
/-- FW_UPDATE_LOAD (R383) -/
def execFwUpdateLoad (priv : Bool) (s : State) : Host.Outcome State Fault Refusal := doWrite 0xD0010 priv 1 0 s
/-- FW_UPDATE_GO (R384) -/
def execFwUpdateGo (priv : Bool) (s : State) : Host.Outcome State Fault Refusal := doWrite 0xD0010 priv 2 0 s

end Sys2Proof.Machine
end

