-- ==== Sys2Proof/Machine/Drain.lean ====
section
/-! DEFINITION. The end of a context's drain (R102, R264, R367): its resources are released, its extended state is
written back, and it becomes CLOSED. And the answers of the memory ports (R28 to R33): a read beat and a write
acknowledgement. -/

namespace Sys2Proof.Machine

/-! ## The drain (R102) -/

/-- The CTXCLOSE that drains context `k`. -/
def drainer (s : State) (k : Nat) : Option Cmd :=
  s.front.inflight.find? (fun c => c.opc == 0x09 && c.ctx == k && c.executing)

/-- No command of the context executes but the CTXCLOSE itself. -/
def drainIdle (s : State) (k : Nat) : Bool :=
  s.front.inflight.all (fun c => !(c.ctx == k && c.inUnit) || (c.opc == 0x09 && c.executing))

/-- The placement slot of a context is released as LEAVE does (Table 13.7). -/
def drainPlaced (s : State) (k q : Nat) : State :=
  match placedSlot s k with
  | none => s
  | some i =>
    match (leaveSlot i).run s with
    | (.ok _, s1) => s1
    | (.error code, s1) => setPslot (pmStop s1 k q code).1 i {}

/-- The weight slots of a context are FREE. -/
def drainSlots (s : State) (k : Nat) : State :=
  { s with slots := s.slots.map (fun x => if x.st != 0 && x.ctx == k then {} else x) }

/-- The resources of a context are released: batch uses with their tickets and buffers, ALLOC buffers, weight slots, the
placement slot. -/
def drainRelease (s : State) (k q : Nat) : State :=
  drainPlaced (drainSlots (drainBufs (dropUses s k) k) k) k q

/-- The context is CLOSED and has no job. -/
def closeCtx (s : State) (k : Nat) : State :=
  setCtx s k { ctx s k with st := .closed, job := 0, supv := false, cur := none, next := none }

/-- The counters of a context as its write-back has them (R367). -/
def ctxCounters (k : Ctx) : List Byte := (k.cnt.map (leBytes 8)).flatten

/-- The releases of a context's drain and its write-back have their slots (R107, R259, R264). -/
def drainSlotted (s : State) (k : Nat) : Bool :=
  holdsMp s 0x08 && drainSlotsOk s k && (usesOfCtx s k).all (canDrop s)

/-- The write-back of a context's extended state at its area (R102, R367): the counters, then 4,048 bytes of which the spec
gives no contents (log entry 145). `true` where a write is refused: then the area is indeterminate. -/
def writeBack (s : State) (k : Nat) : State × Bool :=
  let ext := (ctx s k).ext
  let data := ctxCounters (ctx s k)
  let bad := wrBad s.mem ext 4096
  let m := wrFree s.mem ext 4096
  (mpCount (setMem s (if bad then m else wrBytes m ext data)) 0x08 0 4096, bad)

/-- CONTEXT_DRAIN_END. -/
def drainEnd (k : Nat) (s : State) : State :=
  match drainer s k with
  | none => s
  | some c =>
    if (ctx s k).st = .draining ∧ drainIdle s k ∧ drainSlotted s k then
      let (s2, bad) := writeBack (drainRelease s k c.q) k
      let s3 := closeCtx s2 k
      let r := (now s3 + 2 ^ 64 - c.tiss) % 2 ^ 64
      let s4 := if bad then finish (mpFault s3 k c.q 3) c.q c.tag stEcc 3 r 0
        else finish s3 c.q c.tag (if c.waited then stOkWaited else 0) 0 r 0
      drainFollow s4 k
    else s

/-! ## Memory-port answers -/

/-- The outstanding read of a port and tag. -/
def readOf (s : State) (port tag : Nat) : Option MpRead := s.front.reads.find? (fun r => r.port == port && r.tag == tag)

/-- The outstanding write of a port and tag. -/
def writeOf (s : State) (port tag : Nat) : Option MpWrite := s.front.writes.find? (fun w => w.port == port && w.tag == tag)

/-- The read is not outstanding any more. -/
def dropRead (s : State) (port tag : Nat) : State :=
  { s with front := { s.front with reads := s.front.reads.filter (fun r => !(r.port == port && r.tag == tag)) } }

/-- The write is not outstanding any more. -/
def dropWrite (s : State) (port tag : Nat) : State :=
  { s with front := { s.front with writes := s.front.writes.filter (fun w => !(w.port == port && w.tag == tag)) } }

/-- The error code of a read whose beats have all arrived (R32): a decode error takes precedence, and poison counts at
level 2 only. -/
def beatCode (s : State) (r : MpRead) : Nat := if r.err then 2 else if r.poison && mpLvl2 s then 1 else 0

/-- What a read that is complete brings to its requester. -/
def readDone (s : State) (r : MpRead) : State :=
  match r.use with
  | .dropped => s
  | .fetch q => fetchArrived s q r (beatCode s r)
  | .ctxParam c q tag => ctxParamArrived s c q tag r (beatCode s r)

/-- A beat of a read: the requests of the front end lie in one granule, so that of the beat's two poison bits that of
this granule counts (R29, R32). -/
def readBeat (r : MpRead) (poison : BitVec 2) (err last : Bool) (s : State) : State :=
  let r1 := { r with poison := r.poison || poison.getLsbD (r.addr / 64 % 2), err := r.err || err }
  let s1 := bwAdd (pmcEvent s 0x050 (some r.port) none none 64) r.port 0 64
  if last then readDone (dropRead s1 r.port r.tag) r1
  else { s1 with front := { s1.front with
    reads := s1.front.reads.map (fun x => if x.port == r.port && x.tag == r.tag then r1 else x) } }

/-- What an acknowledged write means to its requester. -/
def writeDone (s : State) (w : MpWrite) (err : Bool) : State :=
  match w.use with
  | .record q => recordAcked s q err
  | .ctxZero c q tag => ctxZeroAcked s c q tag err
  | .dropped => s

/-- An acknowledgement: the data are visible, or the bytes are indeterminate (R30, R33). -/
def writeAck (w : MpWrite) (err : Bool) (s : State) : State :=
  let m := if err then wrFree s.mem w.addr w.data.length else wrBytes s.mem w.addr w.data
  let s1 := setMem (dropWrite s w.port w.tag) m
  writeDone (bwAdd (pmcEvent s1 0x051 (some w.port) none none w.data.length) w.port 1 w.data.length) w err

/-! ## Late answers (R45) -/

/-- The warm drain left a request of this port and tag unanswered. -/
def oldTag (s : State) (wr : Bool) (port tag : Nat) : Bool := s.front.late.contains (wr, port, tag)

/-- One late answer has come. -/
def dropOld (s : State) (wr : Bool) (port tag : Nat) : State :=
  { s with front := { s.front with late := s.front.late.erase (wr, port, tag) } }

/-- A late beat is taken for one of a new request with the same tag: what that request brings is indeterminate. -/
def lateBeat (r : MpRead) (poison : BitVec 2) (err last : Bool) (s : State) : State :=
  let t := readBeat r poison err last (setMem s (wrFree s.mem r.addr r.len))
  setMem t { t.mem with cells := s.mem.cells }

/-- A late acknowledgement is taken for that of a new write with the same tag: the new bytes are indeterminate. -/
def lateAck (w : MpWrite) (err : Bool) (s : State) : State :=
  let t := setMem (dropWrite s w.port w.tag) (wrFree s.mem w.addr w.data.length)
  writeDone t w err

/-- A read beat outside READY: WARM_DRAIN waits for it, and nothing follows from it (R44). -/
def quietBeat (s : State) (port tag : Nat) (last : Bool) : State := if last then dropRead s port tag else s

/-- An acknowledgement outside READY: the write is performed, or refused with the log entry and the fault of R33; nothing
else follows from it (R44). -/
def quietAck (s : State) (w : MpWrite) (err : Bool) : State :=
  let m := if err then wrFree s.mem w.addr w.data.length else wrBytes s.mem w.addr w.data
  let s1 := setMem (dropWrite s w.port w.tag) m
  if !err then s1
  else match w.use with
    | .record q => fetchFault s1 q
    | .ctxZero c q _ => mpFault s1 c q 3
    | .dropped => mpFault s1 0 0 3

/-! ## Meanings -/

/-- CONTEXT_DRAIN_END -/
def execContextDrainEnd (k : Nat) (s : State) : Host.Outcome State Fault Refusal := .next (working (drainEnd k) s)

/-- MP_READ_BEAT -/
def execMpReadBeat (port tag : Nat) (poison : BitVec 2) (err last : Bool) (s : State) : Host.Outcome State Fault Refusal :=
  if s.test.noService || s.glb.indeterminate then .next (served id s)
  else
    let late := oldTag s false port tag
    let s1 := if late && last then dropOld s false port tag else s
    match readOf s port tag with
    | none => if late then .next s1 else .fault .strayResponse
    | some r =>
      if !isReady s then .next (quietBeat s1 port tag last)
      else if late then .next (lateBeat r poison err last s1)
      else .next (readBeat r poison err last s)

/-- MP_WRITE_ACK -/
def execMpWriteAck (port tag : Nat) (err : Bool) (s : State) : Host.Outcome State Fault Refusal :=
  if s.test.noService || s.glb.indeterminate then .next (served id s)
  else
    let late := oldTag s true port tag
    let s1 := if late then dropOld s true port tag else s
    match writeOf s port tag with
    | none => if late then .next s1 else .fault .strayResponse
    | some w =>
      if !isReady s then .next (quietAck s1 w err)
      else if late then .next (lateAck w err s1)
      else .next (writeAck w err s)

end Sys2Proof.Machine
end

