-- ==== Sys2Proof/Machine/Rgrad.lean ====
section
/-! DEFINITION. RGRAD (R127 to R129, R147): router gradients in phases R, W and X. -/

namespace Sys2Proof.Machine

/-- What an RGRAD works on. -/
structure Rg where
  c : Cmd
  g : SelCfg
  /-- the block of Table 05.6 -/
  blk : Nat
  a : Desc
  b : Desc
  /-- DX as its descriptor was at issue (R165) -/
  dx : Desc
  /-- expert count, width, rows -/
  E : Nat
  D : Nat
  T : Nat

/-- An address field of the block. -/
def Rg.addr (r : Rg) (w : Nat) : Nat := bits r.blk (64 * w + 6) 36 * 64
/-- SCRATCH row `t`. -/
def Rg.scratch (r : Rg) (t : Nat) : Nat := (r.addr 1 + roundUp (2 * r.E) 64 * t) % 2 ^ 42
/-- Passes of 1,024 experts. -/
def Rg.passes (r : Rg) : Nat := ceilDiv r.E 1024
/-- N, the number of active cores. -/
def Rg.N (r : Rg) : Nat := max 1 r.c.cores.length

/-- An activation row at the array edge, entering `m` times. -/
def Rg.row (r : Rg) (m t : Nat) : Mio (List FVal) := do
  let codes ← edgeCodes r.a (r.a.coords t) r.D
  num (numTimes m (codes.mapM (edgeVal r.a.ety none)))

/-- A step of a phase, unless an error has stopped the instruction. -/
def unlessStopped (x : Mio Unit) : Mio Unit := do
  let bad ← ioStopped
  if bad then pure () else x

/-- Reads that stream dlogit `m` times: their bytes count each time, and in SC_WBYTES; those before an error count once. -/
def dlogitTimes {α : Type} (m : Nat) (x : Mio α) : Mio α := do
  let before ← get
  let v ← x
  modify fun io =>
    let n := io.rd - before.rd
    if io.stop.isSome then { io with wb := io.wb + n }
    else { io with rd := before.rd + m * n, wb := io.wb + m * n }
  pure v

/-- PGRAD, +0 where the block names none. -/
def Rg.pgrad (r : Rg) : Mio (List FVal) := do
  if r.addr 4 = 0 then pure (List.replicate r.E fzero)
  else
    let bs ← ioRead false (r.addr 4) (4 * r.E)
    pure ((codesOf 1 bs 0 r.E).map (decodeF .f32))

/-- dlogit of token `t`, to SCRATCH; a tile that begins a round takes a stream of weights (R126). -/
def Rg.tokenR (r : Rg) (st : WStream) (pg : List FVal) (t : Nat) : Mio Unit := do
  if t % (128 * r.N) = 0 then takeStream (evenShares r.c.cores) st else pure ()
  let x ← r.row r.passes t
  let l ← num (logits st.w x)
  let rec_ ← ioRead false ((r.addr 0 + 64 + 64 * t) % 2 ^ 42) (4 * r.g.k)
  let S := (codesOf 1 rec_ 0 r.g.k).map (fun w => bits w 0 12)
  let gg ← sourceRow r.c.cvt r.b (r.b.coords t) r.g.k
  let dl ← num (routerGrad r.g (decodeF .f32 (bits r.blk (320 + 32) 32)) l S gg pg)
  let codes ← num (dl.mapM (convert r.c.cvt .b16))
  ioWrite false (r.scratch t) (bytesOf 0 codes)
  coreMark (coreOf r.c.cores (t / 128))

/-- Phase R: dlogit of every token. -/
def Rg.phaseR (r : Rg) (st : WStream) : Mio Unit := do
  let pg ← r.pgrad
  (List.range r.T).forM (fun t => unlessStopped (r.tokenR st pg t))
  num (tallyNans (infWeights st.w * (roundUp r.T 128 - r.T)))

/-- dlogit of every token as SCRATCH holds it. -/
def Rg.dlogit (r : Rg) : Mio (List (List FVal)) :=
  (List.range r.T).mapM (fun t => do
    let bs ← ioRead false (r.scratch t) (2 * r.E)
    pure ((codesOf 0 bs 0 r.E).map (decodeF .b16)))

/-- One gradient accumulator: column trees over tiles in ascending order. -/
def columnAcc (xs gs : List FVal) : Num Pair := do
  let tiles ← (runs 128 (ceilDiv xs.length 128) (xs.zip gs)).mapM (fun ch => do
    let p ← ch.mapM (fun q => fmul q.1 q.2)
    tree128 p)
  tiles.foldlM pairAdd {}

/-- Address of DW element (e, f). -/
def Rg.dwAt (r : Rg) (e f : Nat) : Nat :=
  let n := if bit r.blk (320 + 1) then 4 else 8
  (r.addr 2 + roundUp (n * r.D) 64 * e + n * f) % 2 ^ 42

/-- Writes one expert's slice of DW under DWACC and DWFMT (R128). -/
def Rg.putDw (r : Rg) (e f : Nat) (acc : List Pair) : Mio Unit := do
  let single := bit r.blk (320 + 1)
  let n := if single then 4 else 8
  let sum ← if bit r.blk 320 then do
      let old ← ioRead false (r.dwAt e f) (n * acc.length)
      let was := fun (i : Nat) =>
        let w := leNat ((old.drop (n * i)).take n)
        if single then (⟨decodeF .f32 w, fzero⟩ : Pair) else codePair w
      num ((indexed acc).mapM (fun p => pairMerge (was p.2) p.1))
    else pure acc
  let out ← num (sum.mapM (fun p => do
    if single then
      let x ← narrowF32 r.c.cvt p
      pure (leBytes 4 x)
    else pure (leBytes 8 (pairCode p))))
  ioWrite false (r.dwAt e f) out.flatten

/-- The experts of pass `p`. -/
def Rg.passExperts (r : Rg) (p : Nat) : List Nat := ((List.range 1024).map (· + 1024 * p)).filter (· < r.E)

/-- The unit of pass `p` and chunk `ch` of phase W, on its core: N consecutive units run in lockstep on the active cores
(R127). -/
def Rg.unitW (r : Rg) (G X : List (List FVal)) (p ch : Nat) : Mio Unit := do
  let feats := ((List.range 128).map (· + 128 * ch)).filter (· < r.D)
  (r.passExperts p).forM (fun e => unlessStopped do
    let gs := G.map (fun row => (row[e]?).getD fzero)
    let acc ← num (feats.mapM (fun f => columnAcc (X.map (fun row => (row[f]?).getD fzero)) gs))
    r.putDw e (128 * ch) acc)
  coreMark (coreOf r.c.cores (p * ceilDiv r.D 128 + ch))

/-- Phase W: weight gradients, by pass, chunk and expert; N consecutive units share one dlogit stream (R126, R127). -/
def Rg.phaseW (r : Rg) : Mio Unit := do
  if r.addr 2 = 0 ∨ (r.T = 0 ∧ bit r.blk 320) then pure ()
  else
    let chunks := ceilDiv r.D 128
    let G ← dlogitTimes (ceilDiv chunks r.N) r.dlogit
    let X ← (List.range r.T).mapM (r.row r.passes)
    (List.range r.passes).forM (fun p => (List.range chunks).forM (fun ch => unlessStopped (r.unitW G X p ch)))
    num (tallyNans (infWeights G * (roundUp r.D 128 - r.D)))

/-- One element of dX before narrowing. -/
def dxElem (g w : List FVal) : Num FVal :=
  (g.zip w).foldlM (fun a p => do fadd a (← fmul p.1 p.2)) fzero

/-- The codes of a slice of dX under DXACC (R128). -/
def Rg.dxCodes (r : Rg) (d : Desc) (t f : Nat) (vals : List FVal) : Mio (List Nat) := do
  let fmt := if d.ety = 1 then Flt.f32 else Flt.b16
  if bit r.blk (320 + 2) then
    let old ← d.readSeg (d.coords t) f vals.length
    num ((old.zip vals).mapM (fun p => do
      let q ← pairAdd ⟨decodeF fmt p.1, fzero⟩ p.2
      narrowPair r.c.cvt fmt q))
  else num (vals.mapM (convert r.c.cvt fmt))

/-- The slice of dX of row `t` and chunk `ch`. -/
def Rg.rowX (r : Rg) (d : Desc) (G W : List (List FVal)) (ch t : Nat) : Mio Unit := do
  let g := (G[t]?).getD []
  let feats := ((List.range 128).map (· + 128 * ch)).filter (· < r.D)
  let vals ← num (feats.mapM (fun f => dxElem g (W.map (fun row => (row[f]?).getD fzero))))
  let codes ← r.dxCodes d t (128 * ch) vals
  d.writeSeg (d.coords t) (128 * ch) codes

/-- Tile `i` of phase X, on its core. -/
def Rg.tileX (r : Rg) (d : Desc) (G : List (List FVal)) (st : WStream) (i : Nat) : Mio Unit := do
  if i % r.N = 0 then takeStream (evenShares r.c.cores) st else pure ()
  (List.range (ceilDiv r.D 128)).forM (fun ch =>
    (((List.range 128).map (· + 128 * i)).filter (· < r.T)).forM (fun t => unlessStopped (r.rowX d G st.w ch t)))
  coreMark (coreOf r.c.cores i)

/-- Phase X: dX, by tile, chunk and row. -/
def Rg.phaseX (r : Rg) (st : WStream) : Mio Unit := do
  if r.addr 3 = 0 ∨ r.T = 0 then pure ()
  else
    let d := { r.dx with ety := if r.dx.ety = 1 then 1 else 0 }
    let G ← dlogitTimes (ceilDiv r.D 128) r.dlogit
    (List.range (ceilDiv r.T 128)).forM (fun i => unlessStopped (r.tileX d G st i))
    num (tallyNans (infWeights st.w * (roundUp r.T 128 - r.T) + infWeights G * (roundUp r.D 128 - r.D)))

/-- The three phases; each phase that uses weights takes a stream of them per round. Structures are read at issue (R165). -/
def rgradRun (s : State) (c : Cmd) : Mio Nat := do
  let k := ctx s c.ctx
  let blk ← readStruct c.c
  let a ← readDesc c c.a
  let b ← readDesc c c.b
  let dx ← if bits blk (192 + 6) 36 = 0 then pure {} else readDesc c (bits blk (192 + 6) 36 * 64)
  let bad ← ioStopped
  if bad then pure 0
  else
    let idx ← if a.rows = 0 then pure 0 else do
      let h ← ioRead false (bits blk 6 36 * 64) 64
      pure (leNat h)
    let r : Rg := { c := c, blk := blk, a := a, b := b, dx := dx, E := pbE k, D := pbD k, T := a.rows,
                    g := { route := pbRoute k, k := pbK k, renorm := bit idx 64, cvt := c.cvt } }
    let (rows, ety) := sourceRows s c.level k.cur
    let st ← if r.T = 0 then pure {} else readStream c.level k.cur rows ety r.E r.D
    unlessStopped (r.phaseR st)
    unlessStopped r.phaseW
    unlessStopped (r.phaseX st)
    pure a.rows

/-- The array fills of RGRAD (R119, Table 15.1): those of phase R, and those of phase W. -/
def rgradCounts (s : State) (c : Cmd) (T : Nat) (blk : Nat) : State :=
  let k := ctx s c.ctx
  let nt := ceilDiv T 128
  let units := ceilDiv (pbE k) 1024 * ceilDiv (pbD k) 128
  let masked := roundUp T 128 - T
  let s1 := fillCounts s c T (pbD k) (pbE k) 1024
  if bits blk (128 + 6) 36 = 0 then s1
  else
    let s2 := countC (countC s1 0x40080 (nt * units)) 0x40090 (masked * units)
    (List.range units).foldl (fun u i =>
      let core := coreOf c.cores i
      pmcEvent (pmcEvent u 0x020 (some core) (some c.ctx) (some c.cls) nt) 0x022 (some core) (some c.ctx) (some c.cls) masked) s2

/-- RGRAD on a context with a parameter out of range writes free values in its areas (R101). -/
def rgradBad (s : State) (c : Cmd) : Mio Nat := do
  let k := ctx s c.ctx
  let blk ← readStruct c.c
  let a ← readDesc c c.a
  let at_ := fun (w : Nat) => bits blk (64 * w + 6) 36 * 64
  let d ← if at_ 3 = 0 then pure {} else readDesc c (at_ 3)
  modify fun io =>
    if io.stop.isSome then io else
    let m1 := wrFree io.mem (at_ 1) (roundUp (2 * pbE k) 64 * a.rows)
    let m2 := if at_ 2 = 0 then m1
      else wrFree m1 (at_ 2) (roundUp ((if bit blk (320 + 1) then 4 else 8) * pbD k) 64 * pbE k)
    let m3 := if at_ 3 = 0 then m2
      else (List.range d.rows).foldl (fun m r => wrFree m (d.rowAddr (d.coords r) % 2 ^ 42) (rowBytes d.ety (d.size 0))) m2
    { io with mem := m3 }
  pure a.rows

/-- RGRAD (R127, R129). On a hash-routed context it completes with OK and writes nothing. -/
def rgradWork (ecc : SramEcc) (c : Cmd) (s : State) : Work :=
  let k := ctx s c.ctx
  if !tablesOk s then doneWith s stEcc 0x14 0 0
  else if pbRoute k = 3 then doneWith s 0 0 0 0
  else withSlots (slotsOk s c) c s fun _ =>
    let s0 := coreCe ecc s
    let (T, io) := (if pbBad k then rgradBad s c else rgradRun s c) { ioStart s0 with strike := coreStrike c.cores ecc }
    let s1 := countC (spoilBy ecc (coresClose c s0 io) k.cur) 0x40088 io.wb
    match io.ended with
    | some x => coreStop s1 c x
    | none => doneWith (if pbBad k then s1 else rgradCounts s1 c T (rdNum s.mem (opAddr c.c) 64)) 0 0 0 0

/-- RGRAD -/
def execRgrad (q tag : Nat) (ecc : SramEcc) (s : State) : Host.Outcome State Fault Refusal :=
  .next (working (issueRow (isOp 0x13) q tag (rgradWork ecc)) s)

end Sys2Proof.Machine
end

