-- ==== Sys2Proof/Machine/Sample.lean ====
section
/-! DEFINITION. SAMPLE (R369 to R375): arming, draining and stopping the sampling of commands, and the dump of the expert
counters. And the bandwidth windows of the ports (R365). -/

namespace Sys2Proof.Machine

/-! ## Accesses of SAMPLE, for owner 0x08 -/

/-- Writes bytes; `true` where the write is refused. -/
def smpWrite (s : State) (a : Nat) (bs : List Byte) : State × Bool :=
  let (m, bad) := wrTry s.mem (a % 2 ^ 42) bs
  (mpCount (setMem s m) 0x08 0 bs.length, bad)

/-- Writes pieces of bytes in order, up to the first that is refused. -/
def smpWrites (s : State) : List (Nat × List Byte) → State × Bool
  | [] => (s, false)
  | (a, bs) :: rest =>
    let (s1, bad) := smpWrite s a bs
    if bad then (s1, true) else smpWrites s1 rest

/-- SAMPLE ends with an MP error (R32, R33, R375). -/
def smpFail (s : State) (c : Cmd) (code : Nat) : Work := doneWith (mpFault s c.ctx c.q code) stEcc code 0 0

/-- A refusal of R375. -/
def smpRefuse (s : State) : Work := doneWith s stIllegal 0x18 0 0

/-! ## ARM, STOP (R372) -/

/-- The configuration of a block (Table 15.4), or of its absence. -/
def smpConfig (w : List Nat) : SampleCfg :=
  { armed := true, period := max 1 (bits (nth w 0) 0 32), clsMask := bits (nth w 0) 32 4, qmask := nth w 1,
    minlat := bits (nth w 2) 32 32, ctxen := bit (nth w 2) 31, ctx := bits (nth w 2) 16 14, opcen := bit (nth w 2) 8,
    opc := bits (nth w 2) 0 8, countdown := max 1 (bits (nth w 0) 0 32) }

/-- The words that an absent block stands for: PERIOD 1, every queue and class, no filter. -/
def smpDefault : List Nat := [2 ^ 32 * 15 + 1, 2 ^ 64 - 1, 0]

/-- Arms with the words of a block. -/
def smpArm (c : Cmd) (s : State) (w : List Nat) : Work :=
  let sup := qSupv s c.q
  let g := { smpConfig w with user := !sup, job := if sup then 0xFFFF else qJob s c.q }
  doneWith { s with pmc := { s.pmc with cfg := g, skipped := 0 } } 0 0 0 0

/-- SAMPLE ARM. -/
def armWork (c : Cmd) (s : State) : Work :=
  if absent c.a then smpArm c s smpDefault
  else withSlots (slotsOk s c) c s fun _ =>
    let code := rdCode (mpLvl2 s) s.mem (opAddr c.a) 64
    let s1 := mpCount s 0x08 64 0
    if code ≠ 0 then smpFail s1 c code
    else smpArm c s1 ((List.range 3).map (fun i => rdNum s.mem (opAddr c.a + 8 * i) 8))

/-- The sampling in force is another job's (R375). -/
def smpForeign (s : State) (c : Cmd) : Bool := !qSupv s c.q && s.pmc.cfg.job != qJob s c.q

/-- SAMPLE STOP. -/
def stopSampling (c : Cmd) (s : State) : Work :=
  if smpForeign s c then smpRefuse s
  else doneWith { s with pmc := { s.pmc with cfg := { s.pmc.cfg with armed := false } } } 0 0 s.pmc.buf.length 0

/-! ## DRAIN (R373) -/

/-- The bytes of a sample record. -/
def smpBytes (r : Nat × Nat × Nat × Nat) : List Byte :=
  leBytes 8 r.1 ++ leBytes 8 r.2.1 ++ leBytes 8 r.2.2.1 ++ leBytes 8 r.2.2.2

/-- SAMPLE DRAIN: the oldest records, then the header. Records that an error catches are lost (R375). -/
def drainSamples (c : Cmd) (s : State) : Work :=
  if smpForeign s c then smpRefuse s
  else withSlots (slotsOk s c) c s fun _ =>
    let b := opAddr c.b
    let code := rdCode (mpLvl2 s) s.mem b 4
    let s1 := mpCount s 0x08 64 0
    if code ≠ 0 then smpFail s1 c code
    else
      let n := min (rdNum s.mem b 4) s1.pmc.buf.length
      let recs := s1.pmc.buf.take n
      let s2 := { s1 with pmc := { s1.pmc with buf := s1.pmc.buf.drop n } }
      let (s3, bad) := smpWrites s2 ((List.range n).zip recs |>.map (fun p => (b + 64 + 32 * p.1, smpBytes p.2)))
      if bad then smpFail (countC s3 0xC1608 n) c 3
      else
        let (s4, bad2) := smpWrite s3 (b + 8) (leBytes 8 n ++ leBytes 8 (csrField s3 0xC1608 0 48))
        if bad2 then smpFail (countC s4 0xC1608 n) c 3
        else doneWith (csrPut s4 0xC1608 0) 0 0 n 0

/-! ## XDUMP (R368, R372) -/

/-- SAMPLE XDUMP. -/
def xdumpWork (c : Cmd) (s : State) : Work :=
  let r := csrGet s 0xC1400
  let k := ctx s (bits r 0 14)
  if !qSupv s c.q && (k.st == .closed || k.job != qJob s c.q) then smpRefuse s
  else if !bit r 63 then doneWith s 0 0 0 0
  else withSlots (slotsOk s c) c s fun _ =>
    let n := pbE k
    let row := fun e =>
      let v := slook (fun _ => (0, 0, 0)) s.pmc.xcnt e
      (opAddr c.b + 32 * e, smpBytes (v.1, v.2.1, v.2.2, 0))
    let (s1, bad) := smpWrites s ((List.range n).map row)
    if bad then smpFail s1 c 3
    else doneWith (if bit c.a 0 then { s1 with pmc := { s1.pmc with xcnt := [] } } else s1) 0 0 n 0

/-! ## Bandwidth windows (R365) -/

/-- A window ends: its bytes are shown, SEQ rises, the next window opens. -/
def windowEnd (s : State) : State :=
  if bit (csrGet s 0xC1100) 63 then
    { s with pmc := { s.pmc with bwLast := (s.pmc.bwAcc.map (fun p => (p.1, p.2 % 2 ^ 48))).filter (fun p => p.2 != 0), bwAcc := [],
                                 bwSeq := (s.pmc.bwSeq + 1) % 2 ^ 16 } }
  else s

/-! ## Meanings -/

/-- SAMPLE_ARM -/
def execSampleArm (q tag : Nat) (s : State) : Host.Outcome State Fault Refusal :=
  .next (working (issueRow (isSub 0x50 0 [0, 1, 2, 3]) q tag armWork) s)
/-- SAMPLE_DRAIN -/
def execSampleDrain (q tag : Nat) (s : State) : Host.Outcome State Fault Refusal :=
  .next (working (issueRow (isSub 0x50 1 [0, 1, 2, 3]) q tag drainSamples) s)
/-- SAMPLE_STOP -/
def execSampleStop (q tag : Nat) (s : State) : Host.Outcome State Fault Refusal :=
  .next (working (issueRow (isSub 0x50 2 [0, 1, 2, 3]) q tag stopSampling) s)
/-- SAMPLE_XDUMP -/
def execSampleXdump (q tag : Nat) (s : State) : Host.Outcome State Fault Refusal :=
  .next (working (issueRow (isSub 0x50 3 [0, 1, 2, 3]) q tag xdumpWork) s)
/-- BW_WINDOW_END -/
def execBwWindowEnd (s : State) : Host.Outcome State Fault Refusal := .next (working windowEnd s)

end Sys2Proof.Machine
end

