-- ==== Sys2Proof/Machine/Timeouts.lean ====
section
/-! DEFINITION. The timers that end a wait: the stall timer (R224, R288), the Shed wait in STRICT mode (R261) and the
placement timeout (R330, R340, R348). When a timer has run out is the environment's; each row says so. -/

namespace Sys2Proof.Machine

/-! ## The stall timer (R224, R288, R342) -/

/-- The group on which a command's collective executes. -/
def groupBusyWith (s : State) (q tag : Nat) : Option Nat :=
  (List.range 64).find? (fun g => match (grp s g).active with
    | none => false
    | some o => o.q == q && o.tag == tag)

/-- The executing collective of a command aborts with STALLED (R288). -/
def stallColl (s : State) (q tag : Nat) : State :=
  match groupBusyWith s q tag with
  | none => s
  | some g => abortColl (countC s 0x91130 1) g stStalled (grp s g).midx none

/-- The replica-gradient sum of a command ends with STALLED (R342). -/
def stallGsum (s : State) (q tag : Nat) : State :=
  match s.plc.gsum with
  | none => s
  | some x =>
    if x.q = q ∧ x.tag = tag then gsumEnd (countC s 0x91130 1) x stStalled (grp s (pbGroup (ctx s x.ctx))).midx else s

/-- A wait reaches COL_STALL_TIMEOUT of its group. -/
def stallTimeout (q tag : Nat) (s : State) : State :=
  match findCmd s q tag with
  | none => s
  | some c =>
    if c.isFinished then s
    else if c.opc = 0x28 ∨ c.opc = 0x29 ∨ c.opc = 0x2A then stallUse s c
    else if c.opc = 0x49 then stallGsum s q tag
    else if 0x40 ≤ c.opc ∧ c.opc ≤ 0x44 then stallColl s q tag
    else s

/-! ## The Shed wait (R261) -/

/-- A waiting request fails with SHED_EXHAUSTED, reason 2: a PLAN or SEND fails as without a buffer (R163, R209). -/
def shedWaitEnd (s : State) (c : Cmd) (sh : Nat) : State :=
  let (s1, r) := failExhaust s c.qcls 2 sh
  let detail := match r with | .fail _ d => d | _ => 0
  if c.opc = 0x38 then finish s1 c.q c.tag stExhausted detail 0 0
  else match liveUse s1 c.ctx c.batch with
    | none => s1
    | some u =>
      if c.opc = 0x19 then settle (planFailed s1 c u (takenBufs c) stExhausted detail) c.q c.tag
      else sendFailed s1 u.slot c stExhausted detail

/-- A Shed wait reaches COL_STALL_TIMEOUT of the context's group. The rule names the wait of a STRICT request for a free
buffer (R261); one that only lacks a slot of the bank ends with a slot alone. -/
def shedTimeout (q tag : Nat) (s : State) : State :=
  match findCmd s q tag with
  | none => s
  | some c => match c.st with
    | .waitShed sh _ => if bankReady s sh c then s else shedWaitEnd s c sh
    | _ => s

/-! ## The placement timeout (R330, R340, R343, R348) -/

/-- A MEMBERS that waits ends with STALLED and may be issued again (R348). -/
def stallMembers (s : State) (q tag : Nat) : State :=
  match s.plc.members with
  | none => s
  | some x => if x.q = q ∧ x.tag = tag then finish s q tag stStalled (grp s x.g).midx 0 0 else s

/-- A MIGRATE LIST that waits for acknowledgements ends with STALLED. -/
def stallList (s : State) (q tag : Nat) : State :=
  match s.plc.list with
  | none => s
  | some x => if x.q = q ∧ x.tag = tag then listEnd s x stStalled (grp s (pbGroup (ctx s x.ctx))).midx else s

/-- A PLACE that waits under STRICT ends with STALLED, and nothing switches (R340). -/
def stallPlace (s : State) (q tag : Nat) : State :=
  match placeRun s q tag with
  | none => s
  | some r => if r.waiting then placeQuit s r stStalled (grp s (pbGroup (ctx s r.ctx))).midx else s

/-- A placement wait reaches PLC_TIMEOUT: an exchange aborts as a collective does (R330), any other wait ends its
instruction. -/
def placementTimeout (q tag : Nat) (s : State) : State :=
  match findCmd s q tag with
  | none => s
  | some c =>
    if !c.executing then s
    else if c.opc = 0x48 ∨ c.opc = 0x4A then
      match groupBusyWith s q tag with
      | some _ => (fun u => if c.opc = 0x48 then dropPlace u q tag else u) (stallColl s q tag)
      | none => if c.opc = 0x48 then stallPlace s q tag else stallMembers s q tag
    else if c.opc = 0x49 then stallList s q tag
    else s

/-! ## Meanings -/

/-- STALL_TIMEOUT -/
def execStallTimeout (q tag : Nat) (s : State) : Host.Outcome State Fault Refusal :=
  .next (working (stallTimeout q tag) s)
/-- SHED_WAIT_TIMEOUT -/
def execShedWaitTimeout (q tag : Nat) (s : State) : Host.Outcome State Fault Refusal :=
  .next (working (shedTimeout q tag) s)
/-- PLACEMENT_TIMEOUT -/
def execPlacementTimeout (q tag : Nat) (s : State) : Host.Outcome State Fault Refusal :=
  .next (working (placementTimeout q tag) s)

end Sys2Proof.Machine
end

