-- ==== Sys2Proof/Machine/Dispatch.lean ====
section
/-! DEFINITION. The meaning of every command and event: one arm per constructor of `Instr`. -/

namespace Sys2Proof.Machine

/-- The effect of a command or event on everything but the queue. -/
def exec (i : Instr) (s : State) : Host.Outcome State Fault Refusal :=
  match i with
  | .powerOkFall => Sys2Proof.Machine.execPowerOkFall s
  | .coldResetAssert => Sys2Proof.Machine.execColdResetAssert s
  | .coldResetRelease straps => Sys2Proof.Machine.execColdResetRelease straps s
  | .pllLock => Sys2Proof.Machine.execPllLock s
  | .fuseLoad => Sys2Proof.Machine.execFuseLoad s
  | .sramInit => Sys2Proof.Machine.execSramInit s
  | .bootFetch => Sys2Proof.Machine.execBootFetch s
  | .bootVerify => Sys2Proof.Machine.execBootVerify s
  | .fwInit => Sys2Proof.Machine.execFwInit s
  | .warmResetPin => Sys2Proof.Machine.execWarmResetPin s
  | .glbResetWarm priv => Sys2Proof.Machine.execGlbResetWarm priv s
  | .glbResetReboot warm priv => Sys2Proof.Machine.execGlbResetReboot warm priv s
  | .warmDrainEnd => Sys2Proof.Machine.execWarmDrainEnd s
  | .warmInitEnd => Sys2Proof.Machine.execWarmInitEnd s
  | .doorbellLine line lv data priv => Sys2Proof.Machine.execDoorbellLine line lv data priv s
  | .csrWrite idx v priv hw => Sys2Proof.Machine.execCsrWrite idx v priv hw s
  | .clearingRead idx priv same => Sys2Proof.Machine.execClearingRead idx priv same s
  | .glbIfaceSelWrite v priv => Sys2Proof.Machine.execGlbIfaceSelWrite v priv s
  | .queueEnable q v priv => Sys2Proof.Machine.execQueueEnable q v priv s
  | .queueDisable q v priv => Sys2Proof.Machine.execQueueDisable q v priv s
  | .queueAbort q v priv => Sys2Proof.Machine.execQueueAbort q v priv s
  | .cqSbaseWrite q v priv => Sys2Proof.Machine.execCqSbaseWrite q v priv s
  | .cqFlagsetSet flag priv => Sys2Proof.Machine.execCqFlagsetSet flag priv s
  | .cqFlagsetClear flag priv => Sys2Proof.Machine.execCqFlagsetClear flag priv s
  | .ctxGrant v priv => Sys2Proof.Machine.execCtxGrant v priv s
  | .rotaEntryWrite inst b j v priv => Sys2Proof.Machine.execRotaEntryWrite inst b j v priv s
  | .rotaCommit v priv => Sys2Proof.Machine.execRotaCommit v priv s
  | .rotaSwitch inst => Sys2Proof.Machine.execRotaSwitch inst s
  | .shedInit shed v priv => Sys2Proof.Machine.execShedInit shed v priv s
  | .shedInitDone shed => Sys2Proof.Machine.execShedInitDone shed s
  | .wqReset v priv => Sys2Proof.Machine.execWqReset v priv s
  | .wqResetDone w => Sys2Proof.Machine.execWqResetDone w s
  | .groupEnable g v priv => Sys2Proof.Machine.execGroupEnable g v priv s
  | .groupDisable g v priv => Sys2Proof.Machine.execGroupDisable g v priv s
  | .fabIdWrite v priv => Sys2Proof.Machine.execFabIdWrite v priv s
  | .routeSnapshot priv => Sys2Proof.Machine.execRouteSnapshot priv s
  | .ownerTableGenChange v priv => Sys2Proof.Machine.execOwnerTableGenChange v priv s
  | .portEnable n priv => Sys2Proof.Machine.execPortEnable n priv s
  | .portDisable n priv => Sys2Proof.Machine.execPortDisable n priv s
  | .portDrainEnd n => Sys2Proof.Machine.execPortDrainEnd n s
  | .pmcXselWrite v priv => Sys2Proof.Machine.execPmcXselWrite v priv s
  | .pmcChainRead inst priv => Sys2Proof.Machine.execPmcChainRead inst priv s
  | .detTdcCountRead priv same => Sys2Proof.Machine.execDetTdcCountRead priv same s
  | .bwWindowEnd => Sys2Proof.Machine.execBwWindowEnd s
  | .fwUpdateLoad priv => Sys2Proof.Machine.execFwUpdateLoad priv s
  | .fwUpdateLoadDone => Sys2Proof.Machine.execFwUpdateLoadDone s
  | .fwUpdateVerifyDone => Sys2Proof.Machine.execFwUpdateVerifyDone s
  | .fwUpdateGo priv => Sys2Proof.Machine.execFwUpdateGo priv s
  | .aclkStepUp => Sys2Proof.Machine.execAclkStepUp s
  | .commandAdmit => Sys2Proof.Machine.execCommandAdmit s
  | .completionRecordWrite q => Sys2Proof.Machine.execCompletionRecordWrite q s
  | .mpReadBeat port tag poison err last => Sys2Proof.Machine.execMpReadBeat port tag poison err last s
  | .mpWriteAck port tag err => Sys2Proof.Machine.execMpWriteAck port tag err s
  | .nop q tag => Sys2Proof.Machine.execNop q tag s
  | .waitConsume q tag => Sys2Proof.Machine.execWaitConsume q tag s
  | .waitObserve q tag => Sys2Proof.Machine.execWaitObserve q tag s
  | .signalSet q tag => Sys2Proof.Machine.execSignalSet q tag s
  | .signalClear q tag => Sys2Proof.Machine.execSignalClear q tag s
  | .ctxopen q tag => Sys2Proof.Machine.execCtxopen q tag s
  | .ctxclose q tag => Sys2Proof.Machine.execCtxclose q tag s
  | .contextDrainEnd c => Sys2Proof.Machine.execContextDrainEnd c s
  | .ctxloadLoad q tag => Sys2Proof.Machine.execCtxloadLoad q tag s
  | .ctxloadSwap q tag => Sys2Proof.Machine.execCtxloadSwap q tag s
  | .ctxloadRelease q tag => Sys2Proof.Machine.execCtxloadRelease q tag s
  | .score q tag ecc => Sys2Proof.Machine.execScore q tag ecc s
  | .scorev q tag ecc => Sys2Proof.Machine.execScorev q tag ecc s
  | .hashsel q tag => Sys2Proof.Machine.execHashsel q tag s
  | .rgrad q tag ecc => Sys2Proof.Machine.execRgrad q tag ecc s
  | .ticketGrant => Sys2Proof.Machine.execTicketGrant s
  | .count q tag => Sys2Proof.Machine.execCount q tag s
  | .plan q tag ecc => Sys2Proof.Machine.execPlan q tag ecc s
  | .sort q tag ecc => Sys2Proof.Machine.execSort q tag ecc s
  | .wqRefill w cls ecc => Sys2Proof.Machine.execWqRefill w cls ecc s
  | .gather q tag ecc => Sys2Proof.Machine.execGather q tag ecc s
  | .scatter q tag ecc => Sys2Proof.Machine.execScatter q tag ecc s
  | .copy q tag ecc => Sys2Proof.Machine.execCopy q tag ecc s
  | .xpose q tag ecc => Sys2Proof.Machine.execXpose q tag ecc s
  | .sendForward q tag => Sys2Proof.Machine.execSendForward q tag s
  | .sendBackward q tag => Sys2Proof.Machine.execSendBackward q tag s
  | .sendHoldRelease q tag => Sys2Proof.Machine.execSendHoldRelease q tag s
  | .sendItem item ticket => Sys2Proof.Machine.execSendItem item ticket s
  | .rowArrival ecc => Sys2Proof.Machine.execRowArrival ecc s
  | .rowPlanTimeout cls => Sys2Proof.Machine.execRowPlanTimeout cls s
  | .dackReceive ecc => Sys2Proof.Machine.execDackReceive ecc s
  | .ret q tag => Sys2Proof.Machine.execRet q tag s
  | .returnHoldRelease q tag => Sys2Proof.Machine.execReturnHoldRelease q tag s
  | .returnItem ecc => Sys2Proof.Machine.execReturnItem ecc s
  | .answerArrival item ticket => Sys2Proof.Machine.execAnswerArrival item ticket s
  | .combineForward q tag => Sys2Proof.Machine.execCombineForward q tag s
  | .combineBackward q tag => Sys2Proof.Machine.execCombineBackward q tag s
  | .cancel q tag => Sys2Proof.Machine.execCancel q tag s
  | .useRelease => Sys2Proof.Machine.execUseRelease s
  | .stallTimeout q tag => Sys2Proof.Machine.execStallTimeout q tag s
  | .act q tag ecc => Sys2Proof.Machine.execAct q tag ecc s
  | .norm q tag ecc => Sys2Proof.Machine.execNorm q tag ecc s
  | .softmax q tag ecc => Sys2Proof.Machine.execSoftmax q tag ecc s
  | .alloc q tag => Sys2Proof.Machine.execAlloc q tag s
  | .free q tag => Sys2Proof.Machine.execFree q tag s
  | .shedWaitTimeout q tag => Sys2Proof.Machine.execShedWaitTimeout q tag s
  | .shedCacheRefill shed => Sys2Proof.Machine.execShedCacheRefill shed s
  | .shedCacheWriteback shed => Sys2Proof.Machine.execShedCacheWriteback shed s
  | .allreduce q tag => Sys2Proof.Machine.execAllreduce q tag s
  | .redscat q tag => Sys2Proof.Machine.execRedscat q tag s
  | .allgather q tag => Sys2Proof.Machine.execAllgather q tag s
  | .xscan q tag => Sys2Proof.Machine.execXscan q tag s
  | .cairn q tag => Sys2Proof.Machine.execCairn q tag s
  | .collMessage res => Sys2Proof.Machine.execCollMessage res s
  | .signatureMessage => Sys2Proof.Machine.execSignatureMessage s
  | .abortNotice => Sys2Proof.Machine.execAbortNotice s
  | .cairnMarker port g md => Sys2Proof.Machine.execCairnMarker port g md s
  | .cairnRelease g => Sys2Proof.Machine.execCairnRelease g s
  | .phyRdyRise n => Sys2Proof.Machine.execPhyRdyRise n s
  | .phyRdyFall n => Sys2Proof.Machine.execPhyRdyFall n s
  | .laneReport n rxok peer => Sys2Proof.Machine.execLaneReport n rxok peer s
  | .identityExchange n ident => Sys2Proof.Machine.execIdentityExchange n ident s
  | .calComplete n echoes rtt => Sys2Proof.Machine.execCalComplete n echoes rtt s
  | .trainingTimeout n => Sys2Proof.Machine.execTrainingTimeout n s
  | .portRetrain n => Sys2Proof.Machine.execPortRetrain n s
  | .flitReceive n f => Sys2Proof.Machine.execFlitReceive n f s
  | .nakReplay n ack => Sys2Proof.Machine.execNakReplay n ack s
  | .linkLossTimeout n => Sys2Proof.Machine.execLinkLossTimeout n s
  | .linkDownFlit n => Sys2Proof.Machine.execLinkDownFlit n s
  | .laneOkFall n lane => Sys2Proof.Machine.execLaneOkFall n lane s
  | .laneErrorLimit n lane => Sys2Proof.Machine.execLaneErrorLimit n lane s
  | .laneRetireFlit n lane => Sys2Proof.Machine.execLaneRetireFlit n lane s
  | .messageForward => Sys2Proof.Machine.execMessageForward s
  | .detourTimeout => Sys2Proof.Machine.execDetourTimeout s
  | .unreachReceive => Sys2Proof.Machine.execUnreachReceive s
  | .dpRequest port op addr sz data tag => Sys2Proof.Machine.execDpRequest port op addr sz data tag s
  | .dpFence port => Sys2Proof.Machine.execDpFence port s
  | .dpreqReceive => Sys2Proof.Machine.execDpreqReceive s
  | .dprspReceive => Sys2Proof.Machine.execDprspReceive s
  | .dpTimeout id => Sys2Proof.Machine.execDpTimeout id s
  | .placeStep q tag => Sys2Proof.Machine.execPlaceStep q tag s
  | .placeEnrol q tag => Sys2Proof.Machine.execPlaceEnrol q tag s
  | .placeLeave q tag => Sys2Proof.Machine.execPlaceLeave q tag s
  | .migrateList q tag => Sys2Proof.Machine.execMigrateList q tag s
  | .migrateGsum q tag => Sys2Proof.Machine.execMigrateGsum q tag s
  | .migrCopyPiece => Sys2Proof.Machine.execMigrCopyPiece s
  | .migrAck => Sys2Proof.Machine.execMigrAck s
  | .migrGsumMessage res => Sys2Proof.Machine.execMigrGsumMessage res s
  | .migrState => Sys2Proof.Machine.execMigrState s
  | .migrListMessage => Sys2Proof.Machine.execMigrListMessage s
  | .members q tag => Sys2Proof.Machine.execMembers q tag s
  | .placementTimeout q tag => Sys2Proof.Machine.execPlacementTimeout q tag s
  | .sampleArm q tag => Sys2Proof.Machine.execSampleArm q tag s
  | .sampleDrain q tag => Sys2Proof.Machine.execSampleDrain q tag s
  | .sampleStop q tag => Sys2Proof.Machine.execSampleStop q tag s
  | .sampleXdump q tag => Sys2Proof.Machine.execSampleXdump q tag s
  | .goLine line => Sys2Proof.Machine.execGoLine line s
  | .sensorSample temps volts => Sys2Proof.Machine.execSensorSample temps volts s
  | .thermalStepDown => Sys2Proof.Machine.execThermalStepDown s
  | .thermalStepUp => Sys2Proof.Machine.execThermalStepUp s
  | .droopAlarm sensor => Sys2Proof.Machine.execDroopAlarm sensor s
  | .droopClear => Sys2Proof.Machine.execDroopClear s
  | .logFlush => Sys2Proof.Machine.execLogFlush s
  | .ceWindowCheck => Sys2Proof.Machine.execCeWindowCheck s
  | .watchdogExpiry => Sys2Proof.Machine.execWatchdogExpiry s
  | .readStatus n => Sys2Proof.Machine.execReadStatus n s
  | .readLog off n => Sys2Proof.Machine.execReadLog off n s
  | .writeImage off data => Sys2Proof.Machine.execWriteImage off data s
  | .commitImage word => Sys2Proof.Machine.execCommitImage word s
  | .idcode => Sys2Proof.Machine.execIdcode s
  | .bypass code => Sys2Proof.Machine.execBypass code s
  | .wsExtest drive => Sys2Proof.Machine.execWsExtest drive s
  | .wsIntestScan => Sys2Proof.Machine.execWsIntestScan s
  | .wsMbist => Sys2Proof.Machine.execWsMbist s
  | .wsBypass => Sys2Proof.Machine.execWsBypass s
  | .warmResetRelease => Sys2Proof.Machine.execWarmResetRelease s
  | .clockStop => Sys2Proof.Machine.execClockStop s
  | .firmwareRestartDone => Sys2Proof.Machine.execFirmwareRestartDone s
  | .tapReset => Sys2Proof.Machine.execTapReset s
  | .illegalOpcode q tag => Sys2Proof.Machine.execIllegalOpcode q tag s

end Sys2Proof.Machine
end

