-- ==== Sys2Proof/Machine/Idle.lean ====
section
/-! DEFINITION. What passes when no command waits: one cycle of the time base (log entry 2). -/

namespace Sys2Proof.Machine

/-- The time base counts: PLL G has locked (R5, R20, R42). -/
def timeRuns (s : State) : Bool :=
  match s.glb.boot with
  | .coldReset | .pllLock | .strapError => false
  | _ => true

/-- One GCLK cycle: GLB_TIME counts, and event 0x001 is reported (R5, Table 15.1). -/
def tick (s : State) : State :=
  if timeRuns s then pmcEvent { s with glb := { s.glb with time := s.glb.time + 1 } } 0x001 none none none 1 else s

/-- The step on an empty queue. -/
def idle (s : State) : State := served tick s

end Sys2Proof.Machine
end

