-- ==== Sys2Proof/Safety.lean ====
section
/-! DEFINITION. The terms in which claims about the engine are stated: when it serves, when a command issues, what a
report leaves, what may be counted, and the canonical form that the tables of every state keep. -/

namespace Sys2Proof.Machine

/-- Host memory is in canonical form: bytes and marks. -/
def Memory.wf (m : HostMem) : Bool := swf memDefault m.cells && swf (fun _ => {}) m.marks

/-- Every sparse table of the engine and host memory is in canonical form. -/
def State.canonical (s : State) : Bool :=
  Memory.wf s.mem && swf csrReset s.csr && swf (fun _ => {}) s.front.queues && swf (fun _ => {}) s.ctxs &&
  swf (fun _ => {}) s.disp.tickets && swf (fun _ => {}) s.shd.sheds && swf (fun _ => 0) s.shd.quse &&
  swf (fun _ => {}) s.col.grps && swf (fun _ => {}) s.fab.ports && swf (fun _ => {}) s.plc.slots &&
  swf (fun _ => 0) s.pmc.latch && swf (fun _ => 0) s.pmc.bwAcc && swf (fun _ => 0) s.pmc.bwLast &&
  swf (fun _ => (0, 0, 0)) s.pmc.xcnt && swf (fun _ => (0, 0, 0, 0)) s.mgt.log && swf (fun _ => 0#8) s.mgt.staging

/-- The invariant of the engine's tables: host memory is always in canonical form, and so is every table unless a stopped
clock has left the state indeterminate (R21). -/
abbrev Inv (s : State) : Prop := Memory.wf s.mem = true ∧ (s.glb.indeterminate = false → s.canonical = true)

/-- The engine gives service and its state is determinate (R21, R40). -/
abbrev Served (s : State) : Prop := s.test.noService = false ∧ s.glb.indeterminate = false

/-- The engine serves and is in READY, where its units work (R43, R44). -/
abbrev Working (s : State) : Prop := Served s ∧ isReady s = true

/-- `t` is what a cold reset makes of `s`: every register and table of the engine is at its reset value; the ready lines of
the PHYs, host memory and the waiting commands stay (R18, R41, R51). -/
structure ColdState (s t : State) : Prop where
  boot : t.glb.boot = .coldReset
  served : Served t
  regs : ∀ o, csrGet t o = csrReset o
  front : t.front = {}
  ctxs : t.ctxs = []
  slots : t.slots = [{}, {}]
  disp : t.disp = {}
  shd : t.shd = {}
  col : t.col = {}
  plc : t.plc = {}
  pmc : t.pmc = {}
  mgt : t.mgt = {}
  pins : t.pins = {}
  test : t.test = {}
  rota : t.rotaActive = 0 ∧ t.rotaPend = 0
  ports : ∀ n, n < 6 → port t n = { phyRdy := (port s n).phyRdy }
  fab : { t.fab with ports := [] } = {}
  fuses : t.glb.fuseBlock = s.glb.fuseBlock
  mem : t.mem = s.mem
  pending : t.pending = s.pending

/-- `t` is what the islands' reset of a warm reset makes of `s` (R44, Table 02.17): queues, flags, contexts, uses, tickets,
work queues, Sheds, groups and placement slots are at their reset values, every port is DOWN, each register keeps the bits
that survive and has its reset value in the others; GLB_TIME, the management subsystem, the test port and host memory are as
they were. -/
structure WarmState (s t : State) : Prop where
  boot : t.glb.boot = .warmInit
  inflight : t.front.inflight = []
  queues : t.front.queues = []
  flags : t.front.flags = 0
  ctxs : t.ctxs = []
  slots : t.slots = [{}, {}]
  disp : { t.disp with origHwm := 0 } = {}
  shd : t.shd = {}
  col : t.col = {}
  placement : t.plc.slots = [] ∧ t.plc.places = [] ∧ t.plc.gsum = none ∧ t.plc.list = none ∧ t.plc.members = none
  ports : ∀ n, n < 6 → port t n = { phyRdy := (port s n).phyRdy }
  rota : t.rotaActive = 0 ∧ t.rotaPend = 0
  regs : ∀ o, o ≠ 0x20 → o ≠ 0xC1608 → csrGet t o = csrWarm o (csrGet s o)
  time : t.glb.time = s.glb.time
  mgt : t.mgt = s.mgt
  test : t.test = s.test
  mem : t.mem = s.mem
  pending : t.pending = s.pending

/-- Command `c` is in flight and takes its issue step now as an instruction of opcode `opc` (R87 to R89), and no check made
at issue turns it away (R97). -/
abbrev Issues (s : State) (c : Cmd) (opc : Nat) : Prop :=
  Working s ∧ findCmd s c.q c.tag = some c ∧ c.opc = opc ∧ c.st = .admitted ∧ mayIssue s c = true ∧
  issueCheck s (stampIssue s c) = .go

/-- The owners that the unit of the command works under hold rota slots, so that it works at once (R107, R112). -/
abbrev Slotted (s : State) (c : Cmd) : Prop := slotsOk s (stampIssue s c) = true

/-- Command `c` issues now and its unit works at once. -/
abbrev Runs (s : State) (c : Cmd) (opc : Nat) : Prop := Issues s c opc ∧ Slotted s c

/-- The state in which the unit of the issued command begins. -/
def begun (s : State) (c : Cmd) : State := setCmd s { stampIssue s c with st := .exec }

/-- A register that hardware counts in: a field that a read clears, an event counter, PMC_CTL.FREEZE, DET_TDC_FIRST. -/
def countsIn (off : Nat) : Bool :=
  (match regInfo off with | none => false | some r => r.rc != 0) || (0xC0000 ≤ off && off < 0xC0800) ||
  off == 0xC1000 || off == 0xE0018

/-- Between `s` and `t` at most counts have been made: counting registers, the bytes of the current bandwidth window, the
expert counters. -/
def CountsOnly (s t : State) : Prop :=
  { t with csr := s.csr, pmc := s.pmc } = s ∧
  (∀ off, countsIn off = false → csrGet t off = csrGet s off) ∧
  { t.pmc with bwAcc := s.pmc.bwAcc, xcnt := s.pmc.xcnt } = s.pmc

/-- `t` is `s` but for what a report of command `c` leaves in the front end (R94): the command is finished with these
values, and its queue's record list has gained its TAG. Every other command and queue is as it was. -/
def Reports (s t : State) (c : Cmd) (status detail result epoch : Nat) : Prop :=
  (∃ r c1, findCmd t c.q c.tag = some c1 ∧ c1.st = .finished r ∧ c1.opc = c.opc ∧ c1.ctx = c.ctx ∧ c1.batch = c.batch ∧
    c1.tiss = now s ∧ r.status = status ∧ r.detail = detail ∧ r.result = result ∧ r.epoch = epoch) ∧
  queue t c.q = { queue s c.q with done := (queue s c.q).done ++ [c.tag] } ∧
  (∀ q, q ≠ c.q → queue t q = queue s q) ∧
  (∀ q tag, (q, tag) ≠ (c.q, c.tag) → findCmd t q tag = findCmd s q tag)

/-- The rows of the opcode table that are instructions of the command queues: queue, TAG, and which commands the row is of
(Table 04.2, R73). -/
def rowOf : Instr → Option (Nat × Nat × (Cmd → Bool))
  | .nop q t => some (q, t, isOp 0x00)
  | .waitConsume q t => some (q, t, isSub 0x04 0 [0, 1])
  | .waitObserve q t => some (q, t, isSub 0x04 1 [0, 1])
  | .signalSet q t => some (q, t, isSub 0x05 0 [0, 1])
  | .signalClear q t => some (q, t, isSub 0x05 1 [0, 1])
  | .ctxopen q t => some (q, t, isOp 0x08)
  | .ctxclose q t => some (q, t, isOp 0x09)
  | .ctxloadLoad q t => some (q, t, isSub 0x0A 0 [0, 1, 2])
  | .ctxloadSwap q t => some (q, t, isSub 0x0A 1 [0, 1, 2])
  | .ctxloadRelease q t => some (q, t, isSub 0x0A 2 [0, 1, 2])
  | .score q t _ => some (q, t, isOp 0x10)
  | .scorev q t _ => some (q, t, isOp 0x11)
  | .hashsel q t => some (q, t, isOp 0x12)
  | .rgrad q t _ => some (q, t, isOp 0x13)
  | .count q t => some (q, t, isOp 0x18)
  | .plan q t _ => some (q, t, isOp 0x19)
  | .sort q t _ => some (q, t, isOp 0x20)
  | .gather q t _ => some (q, t, isOp 0x21)
  | .scatter q t _ => some (q, t, isOp 0x22)
  | .copy q t _ => some (q, t, isOp 0x23)
  | .xpose q t _ => some (q, t, isOp 0x24)
  | .sendForward q t => some (q, t, fun c => c.opc == 0x28 && !bit c.subop 0)
  | .sendBackward q t => some (q, t, fun c => c.opc == 0x28 && bit c.subop 0)
  | .ret q t => some (q, t, isOp 0x29)
  | .combineForward q t => some (q, t, fun c => c.opc == 0x2A && !bit c.subop 0)
  | .combineBackward q t => some (q, t, fun c => c.opc == 0x2A && bit c.subop 0)
  | .cancel q t => some (q, t, isOp 0x2B)
  | .act q t _ => some (q, t, isOp 0x30)
  | .norm q t _ => some (q, t, isOp 0x31)
  | .softmax q t _ => some (q, t, isOp 0x32)
  | .alloc q t => some (q, t, isOp 0x38)
  | .free q t => some (q, t, isOp 0x39)
  | .allreduce q t => some (q, t, isOp 0x40)
  | .redscat q t => some (q, t, isOp 0x41)
  | .allgather q t => some (q, t, isOp 0x42)
  | .xscan q t => some (q, t, isOp 0x43)
  | .cairn q t => some (q, t, isOp 0x44)
  | .placeStep q t => some (q, t, isSub 0x48 0 [0, 1, 2])
  | .placeEnrol q t => some (q, t, isSub 0x48 1 [0, 1, 2])
  | .placeLeave q t => some (q, t, isSub 0x48 2 [0, 1, 2])
  | .migrateList q t => some (q, t, isSub 0x49 0 [0, 1])
  | .migrateGsum q t => some (q, t, isSub 0x49 1 [0, 1])
  | .members q t => some (q, t, isOp 0x4A)
  | .sampleArm q t => some (q, t, isSub 0x50 0 [0, 1, 2, 3])
  | .sampleDrain q t => some (q, t, isSub 0x50 1 [0, 1, 2, 3])
  | .sampleStop q t => some (q, t, isSub 0x50 2 [0, 1, 2, 3])
  | .sampleXdump q t => some (q, t, isSub 0x50 3 [0, 1, 2, 3])
  | .illegalOpcode q t => some (q, t, fun c => !opcodes.contains c.opc)
  | _ => none

/-- The keys of the commands in flight are distinct (R82). -/
abbrev KeysDistinct (s : State) : Prop := (s.front.inflight.map (fun c => (c.q, c.tag))).Nodup

/-- Command `c` of `s` is finished in `t` with these values. -/
def Finished (t : State) (c : Cmd) (status detail : Nat) : Prop :=
  ∃ c1 r, findCmd t c.q c.tag = some c1 ∧ c1.st = .finished r ∧ r.status = status ∧ r.detail = detail

/-- Only the command's own place in the front end has changed between `s` and `t`: it now stands at `st`. -/
def MovesTo (s t : State) (c : Cmd) (st : CmdSt) : Prop :=
  (∃ c1, findCmd t c.q c.tag = some c1 ∧ c1.st = st ∧ c1.opc = c.opc ∧ c1.ctx = c.ctx ∧ c1.batch = c.batch ∧
    c1.tiss = now s) ∧
  (∀ q tag, (q, tag) ≠ (c.q, c.tag) → findCmd t q tag = findCmd s q tag) ∧
  t.front.queues = s.front.queues ∧ t.front.flags = s.front.flags

/-- Between `s` and `t` host memory is the same but for bytes in `here`, and no mark has changed. -/
def MemOnly (here : Nat → Prop) (s t : State) : Prop :=
  t.mem.marks = s.mem.marks ∧ ∀ a, ¬ here (a % 2 ^ 42) → rdByte t.mem a = rdByte s.mem a

/-- The host's memory system answers every access without error (R32, R33). -/
abbrev Quiet (s : State) : Prop := s.mem.marks = []

/-- The descriptor that operand `x` of command `c` names. -/
def descAt (s : State) (c : Cmd) (x : Nat) : Desc := descOf c.level (rdNum s.mem (opAddr x) 64)

/-- The bytes that the rows of a local tensor occupy, padding up to a multiple of 64 included (R167, R169). -/
def rowArea (d : Desc) (x : Nat) : Prop :=
  ∃ cs i, d.rowIn cs = true ∧ i < roundUp (rowBytes d.ety (d.size 0)) 64 ∧ x = (d.rowAddr cs + i) % 2 ^ 42

/-- `n` bytes from address `a`. -/
def areaAt (a n x : Nat) : Prop := ∃ i, i < n ∧ x = (a + i) % 2 ^ 42

/-- The current weight source of the command's context is local, and a resident copy of it has a row for each expert. -/
def WeightsLocal (s : State) (c : Cmd) : Prop :=
  ∀ w, (ctx s c.ctx).cur = some w → (descOf c.level w.desc).dom = false ∧
    ∀ i, w.slot = some i → ((s.slots[i]?).getD {}).rows.length = pbE (ctx s c.ctx)

/-- What a selection instruction needs to run at once (R107, R136, R192, R193, R198): parameters in range, no live use of its
context and batch ID and none whose end is being released, a free batch-table entry, its tickets free with no reservation
waiting, the slots of its cores and of the tickets' banks, and accesses that are local and meet no error. -/
def SelReady (s : State) (c : Cmd) : Prop :=
  Quiet s ∧ pbBad (ctx s c.ctx) = false ∧ liveUse s c.ctx c.batch = none ∧ reuseOpen c s = false ∧
  (freeEntry s).isSome = true ∧ (∀ x ∈ s.front.inflight, waitN x = 0) ∧
  (descAt s c c.a).rows * pbK (ctx s c.ctx) ≤ ringFree s ∧
  reserveSlots s (stampIssue s c) ((descAt s c c.a).rows * pbK (ctx s c.ctx)) = true ∧
  (descAt s c c.a).dom = false ∧ WeightsLocal s c

/-- No other instruction of the Yard that may execute at the same time has accessed memory (R175). -/
abbrev YardAlone (s : State) (c : Cmd) : Prop := yardOthers s c = []

/-- What a selection instruction leaves (R192, R194, R197, Table 08.2): its report with the number of assignments and the
batch epoch, the next epoch in the context, one use more, and its tickets SELECTED from the next number on. -/
def Selects (s t : State) (c : Cmd) : Prop :=
  let k := ctx s c.ctx
  let n := (descAt s c c.a).rows * pbK k
  Reports s t c 0 0 n k.bepoch ∧ (ctx t c.ctx).bepoch = (k.bepoch + 1) % 2 ^ 16 ∧
  (∃ u, t.disp.uses = s.disp.uses ++ [u] ∧ u.ctx = c.ctx ∧ u.batch = c.batch ∧ u.epoch = k.bepoch ∧ u.k = pbK k ∧
    u.t = (descAt s c c.a).rows ∧ u.base = s.disp.nextTicket ∧ u.ended = none ∧
    ∀ i, i < n → (ticket t ((s.disp.nextTicket + i) % ringSize)).st = 1 ∧
      (ticket t ((s.disp.nextTicket + i) % ringSize)).bentry = u.slot) ∧
  (∀ x, x ≠ c.ctx → ctx t x = ctx s x)

/-- Every SORT and RETURN in flight has written all its items (R181, R205, R213). -/
abbrev WritersDone (s : State) : Prop :=
  ∀ x ∈ s.front.inflight, (x.opc = 0x20 → pairsOf (x.saved.drop 2) = []) ∧ (x.opc = 0x29 → retRest x = [])

/-- No token has all its answers and is not combined yet, and no COMBINE waits (R217). -/
abbrev Settled (s : State) : Prop :=
  (∀ u ∈ s.disp.uses, settleReady u = true → ∀ x, x < u.t → u.combined.contains x = true ∨ leadPend s u x ≠ 0) ∧
  ∀ x ∈ s.front.inflight, x.st ≠ .waitTokens

/-- Work queue `w` can be read: it is not being reset, its reader holds nothing, and it has its four classes; nothing has
arrived that waits for a queue, and nothing waits to be combined. -/
abbrev QueueReads (s : State) (w : Nat) : Prop :=
  s.disp.wqs.length = 4 ∧ (wq s w).cls.length = 4 ∧ (wq s w).busy = false ∧ (wq s w).held = [] ∧ s.fab.inbox = [] ∧
  WritersDone s ∧ Settled s

/-- Use `u` is live and is the one in its batch-table entry (R192). -/
abbrev Live (s : State) (u : Use) : Prop := useAt s u.slot = some u ∧ u.ended = none

/-- The quota class that ALLOC charges (R263). -/
def allocClass (s : State) (c : Cmd) : Nat := if qSupv s c.q then bits c.a 48 8 else pbQclass (ctx s c.ctx)

/-- Command `c` issues now, and `i` is its row: a collective of group `groupOf c` (R271). -/
abbrev IssuesColl (s : State) (c : Cmd) (i : Instr) : Prop :=
  (Issues s c 0x40 ∧ i = .allreduce c.q c.tag) ∨ (Issues s c 0x41 ∧ i = .redscat c.q c.tag) ∨
  (Issues s c 0x42 ∧ i = .allgather c.q c.tag) ∨ (Issues s c 0x43 ∧ i = .xscan c.q c.tag) ∨
  (Issues s c 0x44 ∧ i = .cairn c.q c.tag)

/-- The checks of R272 and R290 let a collective begin. -/
abbrev CollReady (s : State) (c : Cmd) : Prop :=
  (c.opc = 0x40 ∨ c.opc = 0x41 → etypeOf (bits c.c 44 4) ∈ [0, 1, 8, 9]) ∧ inGroup s (groupOf c) = true ∧
  (grp s (groupOf c)).lost = false

/-- Message `m` is the first in the inbox that meets `f`, of those that no waiting row or answer of their port holds back
(R205). -/
abbrev FirstMsg (s : State) (f : Msg → Bool) (m : Msg) : Prop := (pickMsg f [] s.fab.inbox).map (·.1) = some m

/-- No message in the inbox that can be taken meets `f`. -/
abbrev NoMsg (s : State) (f : Msg → Bool) : Prop := pickMsg f [] s.fab.inbox = none

/-- The executing collectives can go on by a message alone: their progress words are written, the lowest chunk in flight is
not final, no chunk can be started, and a CAIRN waits for its release (R276, R282, R293). -/
def CollsRest (s : State) : Prop :=
  ∀ g o, (grp s g).active = some o → o.sigDone = true →
    o.signalled < o.prog ∧ (o.cairn = true → o.waiting = true) ∧
    (o.cairn = false → (o.run o.signalled).any (·.done) = false ∧
      (o.chunks (grpBox s g) ≤ o.next ∨ o.signalled + 8 ≤ o.next) ∧ o.signalled < o.chunks (grpBox s g))

/-- The axis of the ring on which a chunk in flight takes its next step. -/
def runAxis (s : State) (g : Nat) (o : CollOp) (r : ChunkRun) : Nat := nth (phaseAxes (grpBox s g) o.opc) r.phase

/-- The working lines to which step `i` of a reduction on axis `a` adds the member's own (R277). -/
def stepKeys (s : State) (g a i : Nat) (o : CollOp) : List Nat :=
  let box := grpBox s g
  let m := (grp s g).midx
  let order := ringOrder s box m a
  pieceKeys o box m a (ringAt order (ringPos order (relIdx box m a) + 2 * boxSize box a - 1 - i))

/-- Message `m` has left the inbox, the ingress buffers that it held are free (R203, R307), and nothing else of the fabric
endpoint has changed. -/
def TakesMsg (s t : State) (m : Msg) : Prop :=
  t.fab = (freeHold { s with fab := { s.fab with inbox := s.fab.inbox.erase m } } m.hold).fab

/-- A training stage of port `n` has failed with a code (R299): the port is DOWN, tries again while EN is 1, and the
failure is counted. -/
def TrainingFails (s t : State) (n code : Nat) : Prop :=
  (port t n).st = 0 ∧ (port t n).failcode = code ∧ (port t n).retrain = portEn s n ∧
  csrField t (oFabPerr n) 48 16 = min (csrField s (oFabPerr n) 48 16 + 1) (2 ^ 16 - 1)

/-- The link of port `n` has gone down (R308): the port is DOWN, or trains anew where an enable was pending (R325), and
LINKDN is set. -/
def LinkLost (s t : State) (n failcode : Nat) : Prop :=
  (port t n).st = (if (port s n).pend then (if (port t n).phyRdy then 2 else 1) else 0) ∧
  (port t n).failcode = failcode ∧ bit (csrGet t (oFabPstat n)) 11 = true

/-- No earlier request of DP port `p` holds back one to `addr`: none is a fence, and none is to its granule (R317, R318). -/
abbrev DpClear (s : State) (p addr : Nat) : Prop :=
  ∀ x ∈ s.fab.dp, x.port = p → x.op ≠ 4 ∧ x.addr / 64 ≠ addr / 64

/-- A message that has detoured, whose head waits on a port (R313). -/
def detourWaits (x : TxMsg) : Bool :=
  !x.started && x.orig.hold.port.isSome && ((routeHdr x.hdr).revd || (routeHdr x.hdr).offax != 0)

/-- The fabric endpoint with message `m` taken from its inbox. -/
def without (s : State) (m : Msg) : State := freeHold { s with fab := { s.fab with inbox := s.fab.inbox.erase m } } m.hold

/-- Commands that are no reset pin, no clock and no test-port instruction. -/
def functional : Instr → Bool
  | .powerOkFall | .coldResetAssert | .coldResetRelease _ | .warmResetPin | .warmResetRelease | .clockStop | .idcode
  | .bypass _ | .wsBypass | .wsExtest _ | .wsIntestScan | .wsMbist | .tapReset => false
  | _ => true

/-- The instructions of the command queues and the unit events of dispatch, collectives and placement: work of the engine's
units. -/
def unitWork : Instr → Bool
  | .commandAdmit | .completionRecordWrite _ | .nop _ _ | .waitConsume _ _ | .waitObserve _ _ | .signalSet _ _
  | .signalClear _ _ | .ctxopen _ _ | .ctxclose _ _ | .contextDrainEnd _ | .ctxloadLoad _ _ | .ctxloadSwap _ _
  | .ctxloadRelease _ _ | .score _ _ _ | .scorev _ _ _ | .hashsel _ _ | .rgrad _ _ _ | .ticketGrant | .count _ _
  | .plan _ _ _ | .sort _ _ _ | .wqRefill _ _ _ | .gather _ _ _ | .scatter _ _ _ | .copy _ _ _ | .xpose _ _ _
  | .sendForward _ _ | .sendBackward _ _ | .sendHoldRelease _ _ | .sendItem _ _ | .rowArrival _ | .rowPlanTimeout _
  | .dackReceive _ | .ret _ _ | .returnHoldRelease _ _ | .returnItem _ | .answerArrival _ _ | .combineForward _ _
  | .combineBackward _ _ | .cancel _ _ | .useRelease | .stallTimeout _ _ | .act _ _ _ | .norm _ _ _ | .softmax _ _ _
  | .alloc _ _ | .free _ _ | .shedWaitTimeout _ _ | .shedCacheRefill _ | .shedCacheWriteback _ | .allreduce _ _
  | .redscat _ _ | .allgather _ _ | .xscan _ _ | .cairn _ _ | .collMessage _ | .signatureMessage | .abortNotice
  | .cairnRelease _ | .placeStep _ _ | .placeEnrol _ _ | .placeLeave _ _ | .migrateList _ _ | .migrateGsum _ _
  | .migrCopyPiece | .migrAck | .migrGsumMessage _ | .migrState | .migrListMessage | .members _ _ | .placementTimeout _ _
  | .sampleArm _ _ | .sampleDrain _ _ | .sampleStop _ _ | .sampleXdump _ _ | .goLine _ | .illegalOpcode _ _ => true
  | _ => false

/-- A register whose writes have a behaviour of their own, which the owning chapters give: GLB_IFACE_SEL, GLB_RESET, the
queue blocks, CQ_FLAGSET, CTX_GRANT, the rota, the Sheds, the origin ring, the spill rings, TKT_WQ_RESET, COL_GRP, FAB_PCTL,
FAB_ID, FAB_ROUTE, FAB_OWN_CTL, the block budget, PMC_CFG, PMC_CTL, PMC_BW_CTL, PMC_XSEL, MGT_FWUPD, MGT_ACLK, MGT_FAULT. -/
def ownRule (off : Nat) : Bool :=
  off == 0x10 || off == 0x28 || (0x10000 ≤ off && off < 0x14000 && off % 0x100 < 0x20) || off == 0x14080 || off == 0x20000 ||
  (0x30000 ≤ off && off < 0x38000) || off == 0x3F008 ||
  (0x70000 ≤ off && off < 0x70200 && off % 0x40 != 0x18) || off == 0x80010 || off == 0x80018 ||
  (0x80100 ≤ off && off < 0x80180 && off % 0x20 < 0x10) || off == 0x80180 ||
  (0x90000 ≤ off && off < 0x91000 && off % 0x40 == 0) || (0xA0100 ≤ off && off < 0xA0280 && off % 0x40 == 0) || off == 0xA0000 || off == 0xA0008 || off == 0xA0020 || off == 0xB0018 ||
  off == 0xB0020 || (0xC0800 ≤ off && off < 0xC1000) || off == 0xC1000 || off == 0xC1100 || off == 0xC1400 ||
  off == 0xD0010 || off == 0xD0040 || off == 0xD0050

end Sys2Proof.Machine
end

