-- ==== Sys2Proof/Certificates/Slice0/Obligations.lean ====
section
/-! DEFINITION. The statements for the provers. Each docstring names the rules of spec/ that the statement formalises, and
says where a clause is the model's own choice. `Issues s c opc` stands for: the engine is in READY, command `c` is in
flight, and it takes its issue step now as an instruction of that opcode with no check turning it away (R87, R97). -/

open Sys2Proof Sys2Proof.Machine

/-! ## The machine as a whole -/

/-- A step takes the command at the front of the queue and runs it on the state with the queue's rest. The queue of
commands is the model's own (log entry 1). -/
def Obligations.StepTakesFront : Prop :=
  (∀ (s : State) (i : Instr) (rest : List Instr), s.pending = i :: rest → step s = exec i { s with pending := rest }) ∧
  (∀ (s : State) (i : Instr), step (s.withFront i) = exec i s)

/-- A step on an empty queue lets one GCLK cycle pass (log entry 2): GLB_TIME counts once PLL G has locked (R5), nothing but
counters changes, and before that nothing changes at all. -/
def Obligations.IdleCountsTime : Prop :=
  (∀ s : State, Served s → s.pending = [] → timeRuns s = true →
    ∃ t, step s = .next t ∧ t.glb.time = s.glb.time + 1 ∧
      CountsOnly { s with glb := { s.glb with time := s.glb.time + 1 } } t) ∧
  (∀ s : State, Served s → s.pending = [] → timeRuns s = false → step s = .next s)

/-- The state right after a cold reset, as the chapters give the reset values: GLB_STATUS.STATE is COLD_RESET; every
register reads its reset value; every queue, context, group, Shed, port and placement slot is in its reset state; the
flags are 0; bank 0 of every rota instance is active; ACLK runs at full rate; the test port is in its reset state, TDO and
TDO_EN at 0; no command waits. -/
def Obligations.ResetState : Prop :=
  let s := State.reset
  s.pending = [] ∧ s.glb.boot = .coldReset ∧ (∀ o, csrGet s o = csrReset o) ∧ s.front.inflight = [] ∧
  (∀ q, queue s q = {}) ∧ (∀ f, flagOf s f = false) ∧ (∀ k, (ctx s k).st = .closed ∧ (ctx s k).epoch = 0) ∧
  s.disp.uses = [] ∧ (∀ n, (ticket s n).st = 0) ∧ (∀ i, (shed s i).used = 0) ∧ (∀ g, (grp s g).en = false) ∧
  (∀ n, (port s n).st = 0) ∧ (∀ i, (pslot s i).st = 0) ∧ s.rotaActive = 0 ∧ s.rotaPend = 0 ∧ s.mgt.cur = 8 ∧
  s.test = {} ∧ s.mem = {}

/-- The tables of the reset state are in canonical form. -/
def Obligations.ResetKeepsInv : Prop := Inv State.reset

/-- Every step keeps the canonical form of host memory and of every table of the engine: keys strictly rising, nothing
listed at its default. The form is the model's; a stopped clock leaves every table but host memory open (R21, log
entry 10). -/
def Obligations.StepKeepsInv : Prop := ∀ s t : State, Inv s → step s = .next t → Inv t

/-- No command changes the queue of commands that wait: only a step takes one from it. -/
def Obligations.CommandsLeaveQueue : Prop := ∀ (i : Instr) (s t : State), exec i s = .next t → t.pending = s.pending

/-- Once WS_INTEST_SCAN or WS_MBIST has run, the engine gives no service until a cold reset (R40): every functional command
leaves the state as it is. A cold reset ends that; no step but a cold reset does. Before READY, and through a warm reset,
the units do no work (R43, R44): each of their commands and events leaves the state as it is. A doorbell then is ignored and
sets GLB_STATUS.EARLY_DB, in every state but COLD_RESET. -/
def Obligations.ServiceGates : Prop :=
  (∀ (i : Instr) (s : State), s.test.noService = true → functional i = true → exec i s = .next s) ∧
  (∀ (i : Instr) (s t : State), s.test.noService = true → i ≠ .powerOkFall → i ≠ .coldResetAssert → exec i s = .next t →
    t.test.noService = true) ∧
  (∀ s : State, ∃ t, exec .coldResetAssert s = .next t ∧ t.test.noService = false) ∧
  (∀ (i : Instr) (s : State), Served s → isReady s = false → unitWork i = true → exec i s = .next s) ∧
  (∀ (s : State) (line : Nat) (lv : BitVec 8) (data : BitVec 512) (priv : Bool), Served s → isReady s = false →
    s.glb.boot ≠ .coldReset →
    ∃ t, exec (.doorbellLine line lv data priv) s = .next t ∧ bit (csrGet t 0x20) 17 = true ∧ { t with csr := s.csr } = s ∧
      ∀ o, o ≠ 0x20 → csrGet t o = csrGet s o)

/-! ## Resets and bring-up -/

/-- A cold reset (R41, R51): every register and table of the engine is at its reset value, all engine state is lost, the
outputs are at their reset values, and the test port is reset too (R18; log entry 144). What is not the engine's stays: host
memory and the waiting commands. On the rise of DX_RST_N the straps are sampled, the READY outputs become 1 and stage
PLL_LOCK begins (R23, R41). Completes: POWER_OK_FALL (powerOkFall) and COLD_RESET_ASSERT (coldResetAssert) in every state,
COLD_RESET_RELEASE (coldResetRelease) in COLD_RESET; in any other state that row changes nothing. -/
def Obligations.ColdReset : Prop :=
  (∀ s : State, ∃ t, exec .powerOkFall s = .next t ∧ ColdState s t) ∧
  (∀ s : State, ∃ t, exec .coldResetAssert s = .next t ∧ ColdState s t) ∧
  (∀ (s : State) (p : Straps), s.glb.boot = .coldReset →
    ∃ t, exec (.coldResetRelease p) s = .next t ∧ t.glb.boot = .pllLock ∧ t.glb.straps = p ∧ t.pins.ready = true ∧
      { t with glb := s.glb, pins := s.pins, csr := s.csr } = s ∧ ∀ o, o ≠ 0x20 → csrGet t o = csrGet s o) ∧
  (∀ (s : State) (p : Straps), s.glb.boot ≠ .coldReset → exec (.coldResetRelease p) s = .next s)

/-- Bring-up (R41, R42, R390, R380, R247): each stage ends in the next one. PLL_LOCK starts GLB_TIME at 0, or fails with
code 0x04 on bad straps; FUSE_LOAD copies the fuses, or fails with code 0x05 when their CRC does not match; SRAM_INIT leaves
every SRAM zero; BOOT_FETCH reads the image from the boot window, or in an update reset takes it from staging;
BOOT_VERIFY makes an image that passes every test the resident one, and otherwise fails with the code of the first test that
fails; FW_INIT checks the function tables and reaches READY. Each change of STATE sets STCHG (R399). Completes: PLL_LOCK
(pllLock), FUSE_LOAD (fuseLoad), SRAM_INIT (sramInit), BOOT_FETCH (bootFetch), BOOT_VERIFY (bootVerify) and FW_INIT (fwInit),
each in the stage that it ends. -/
def Obligations.BringUp : Prop :=
  (∀ s : State, Served s → s.glb.boot = .pllLock → strapsBad s.glb.straps = false →
    ∃ t, exec .pllLock s = .next t ∧ t.glb.boot = .fuseLoad ∧ t.glb.time = 0 ∧ bit (csrGet t 0x20) 16 = true) ∧
  (∀ s : State, Served s → s.glb.boot = .pllLock → strapsBad s.glb.straps = true →
    ∃ t, exec .pllLock s = .next t ∧ t.glb.boot = .strapError ∧ t.glb.bootCode = 0x04 ∧ bit (csrGet t 0x20) 16 = true) ∧
  (∀ s : State, Served s → s.glb.boot = .fuseLoad → fusesOk s.glb.fuseBlock = true →
    ∃ t, exec .fuseLoad s = .next t ∧ t.glb.boot = .sramInit ∧ t.glb.fuses = s.glb.fuseBlock ∧
      bit (csrGet t 0x20) 16 = true) ∧
  (∀ s : State, Served s → s.glb.boot = .fuseLoad → fusesOk s.glb.fuseBlock = false →
    ∃ t, exec .fuseLoad s = .next t ∧ t.glb.boot = .bootFailed ∧ t.glb.bootCode = 0x05 ∧ bit (csrGet t 0x20) 16 = true) ∧
  (∀ s : State, Served s → s.glb.boot = .sramInit →
    ∃ t, exec .sramInit s = .next t ∧ t.glb.boot = .bootFetch ∧ bit (csrGet t 0x20) 16 = true ∧
      t.mgt.staging = (if s.glb.fromStaging then s.mgt.staging else [])) ∧
  (∀ (s : State) (m : List (Nat × Byte)), Served s → s.glb.boot = .bootFetch → s.glb.fromStaging = false →
    s.glb.straps.bootsrc = false → fetchImage s (s.glb.straps.bootwin.toNat * 2 ^ 19) = some m →
    ∃ t, exec .bootFetch s = .next t ∧ t.glb.boot = .bootVerify ∧ t.glb.fetched = m ∧ bit (csrGet t 0x20) 16 = true ∧
      t.mem = s.mem) ∧
  (∀ s : State, Served s → s.glb.boot = .bootFetch → s.glb.fromStaging = false → s.glb.straps.bootsrc = false →
    fetchImage s (s.glb.straps.bootwin.toNat * 2 ^ 19) = none →
    ∃ t, exec .bootFetch s = .next t ∧ t.glb.boot = .bootFailed ∧ t.glb.bootCode = 0x03 ∧ t.mem = s.mem) ∧
  (∀ s : State, Served s → s.glb.boot = .bootFetch → s.glb.fromStaging = true →
    ∃ t, exec .bootFetch s = .next t ∧ t.glb.boot = .bootVerify ∧ t.glb.fetched = stagedImage s ∧ t.mem = s.mem) ∧
  (∀ s : State, Served s → s.glb.boot = .bootVerify → verifyCode s.glb.fuses s.glb.committed s.glb.fetched = 0 →
    ∃ t, exec .bootVerify s = .next t ∧ t.glb.boot = .fwInit ∧ t.glb.image.fwver = imgFwver s.glb.fetched ∧
      t.glb.image.digest = sha384 (signedBytes s.glb.fetched) ∧ bit (csrGet t 0x20) 16 = true) ∧
  (∀ s : State, Served s → s.glb.boot = .bootVerify → verifyCode s.glb.fuses s.glb.committed s.glb.fetched ≠ 0 →
    ∃ t, exec .bootVerify s = .next t ∧ t.glb.boot = .bootFailed ∧
      t.glb.bootCode = verifyCode s.glb.fuses s.glb.committed s.glb.fetched) ∧
  (∀ s : State, Served s → Inv s → s.glb.boot = .fwInit →
    ∃ t, exec .fwInit s = .next t ∧ t.glb.boot = .ready ∧ bit (csrGet t 0x20) 16 = true ∧
      (tablesOk t = true ↔ crc32c tableBytes = s.glb.fuses.tblSum) ∧ t.mem = s.mem)

/-- Warm reset (R44 to R46, Table 02.17). A fall of DX_WRST_N or a write of 1 to GLB_RESET.WARM starts the drain in READY, and
is without effect elsewhere. When the drain ends and DX_WRST_N is 1, or DX_WRST_N rises after it, queues, contexts, batch
uses, tickets, Sheds, groups and placement slots are at their reset values, registers keep the fields that survive, and
GLB_TIME, the log and the sensors go on. WARM_INIT ends in READY with one more warm reset counted. A clock that stops leaves
the engine indeterminate until the next cold reset (R21). Completes: WARM_RESET_PIN (warmResetPin) and GLB_RESET_WARM
(glbResetWarm) in READY, WARM_DRAIN_END (warmDrainEnd) and WARM_RESET_RELEASE (warmResetRelease) in WARM_DRAIN,
WARM_INIT_END (warmInitEnd) in WARM_INIT, CLOCK_STOP (clockStop) in every state but COLD_RESET. -/
def Obligations.WarmReset : Prop :=
  (∀ s : State, Served s → isReady s = true →
    ∃ t, exec .warmResetPin s = .next t ∧ t.glb.boot = .warmDrain ∧ t.glb.wrstLow = true ∧ t.mem = s.mem) ∧
  (∀ s : State, Served s → isReady s = true →
    ∃ t, exec (.glbResetWarm true) s = .next t ∧ t.glb.boot = .warmDrain ∧ t.pins.csrErr = false ∧ t.mem = s.mem) ∧
  (∀ s : State, Served s → isReady s = false →
    exec .warmResetPin s = .next { s with glb := { s.glb with wrstLow := true } }) ∧
  (∀ s : State, Served s → s.glb.boot = .warmDrain → s.glb.wrstLow = true →
    exec .warmDrainEnd s = .next { s with glb := { s.glb with drained := true } }) ∧
  (∀ s : State, Served s → Inv s → s.glb.boot = .warmDrain → s.glb.wrstLow = false →
    ∃ t, exec .warmDrainEnd s = .next t ∧ WarmState s t) ∧
  (∀ s : State, Served s → Inv s → s.glb.boot = .warmDrain → s.glb.drained = true →
    ∃ t, exec .warmResetRelease s = .next t ∧ WarmState s t) ∧
  (∀ s : State, Served s → (s.glb.boot ≠ .warmDrain ∨ s.glb.drained = false) →
    exec .warmResetRelease s = .next { s with glb := { s.glb with wrstLow := false } }) ∧
  (∀ s : State, Served s → s.glb.boot = .warmInit →
    ∃ t, exec .warmInitEnd s = .next t ∧ t.glb.boot = .ready ∧ t.glb.warmCount = min 0xFFFF (s.glb.warmCount + 1) ∧
      { t with glb := s.glb, csr := s.csr } = s) ∧
  (∀ s : State, s.glb.boot ≠ .coldReset →
    exec .clockStop s = .next { s with glb := { s.glb with indeterminate := true } })

/-- A write of 1 to GLB_RESET.REBOOT, in every state but COLD_RESET. With WARM as well it does what it does alone (R47): a
cold reset from stage 1 that keeps the sampled straps, whatever the state of a warm reset. Completes: GLB_RESET_REBOOT
(glbResetReboot), with WARM and without. -/
def Obligations.RebootOverridesWarm : Prop :=
  ∀ (s : State) (warm : Bool), Served s → s.glb.boot ≠ .coldReset →
    exec (.glbResetReboot true true) s = exec (.glbResetReboot false true) s ∧
    ∃ t, exec (.glbResetReboot warm true) s = .next t ∧ t.glb.boot = .pllLock ∧ t.glb.straps = s.glb.straps ∧
      t.pins.ready = true ∧ t.front = {} ∧ t.ctxs = [] ∧ t.disp = {} ∧ t.shd = {} ∧ t.col = {} ∧ t.plc = {} ∧ t.mgt = {} ∧
      (∀ o, o ≠ 0x20 → csrGet t o = csrReset o) ∧ t.mem = s.mem ∧ t.pending = s.pending

/-! ## The test port -/

/-- The test port (R39, R40). IDCODE selects the identification register: version 2, part 0xD032, the sampled manufacturer
code, bit 0 at 1, and TDO carries its 32 bits, the lowest first. BYPASS, and every code without an instruction of its own,
selects the one-bit bypass register, which captures 0. Each WIR instruction takes effect while DX_TESTMODE is 1 and acts as
WS_BYPASS while it is 0; WS_EXTEST drives the boundary's output cells with the bits scanned in and captures the inputs, which
are free values (log entry 144); WS_INTEST_SCAN and WS_MBIST end service and leave the engine's contents open (R40, log
entry 10), and WS_MBIST a free result (log entry 9). A reset of the TAP selects IDCODE and WS_BYPASS (log entry 34). After a
scan the TAP is in Run-Test/Idle and TDO_EN is 0 (log entry 144). Completes: IDCODE (idcode), BYPASS
(bypass), WS_BYPASS (wsBypass), WS_EXTEST (wsExtest), WS_INTEST_SCAN (wsIntestScan), WS_MBIST (wsMbist), TAP_RESET
(tapReset). -/
def Obligations.TestPort : Prop :=
  (∀ s : State, ∃ t, exec .idcode s = .next t ∧ t.test.ir = 0x01 ∧
    t.test.dr = 0x2D032000 + s.glb.straps.jtagMfr.toNat * 2 + 1 ∧
    t.test.shifted = (List.range 32).map (bit t.test.dr) ∧ t.test.tap = .runTestIdle ∧ t.test.tdoEn = false ∧
    { t with test := s.test } = s) ∧
  (∀ (s : State) (code : BitVec 8), code ≠ 0x01#8 → code ≠ 0x20#8 → code ≠ 0x21#8 →
    ∃ t, exec (.bypass code) s = .next t ∧ t.test.ir = code.toNat ∧ t.test.dr = 0 ∧ t.test.wir = s.test.wir ∧
      { t with test := s.test } = s) ∧
  (∀ s : State, ∃ t, exec .wsBypass s = .next t ∧ t.test.wir = 0 ∧ t.test.noService = s.test.noService ∧
    { t with test := s.test } = s) ∧
  (∀ (s : State) (d : List Bool), s.glb.straps.testmode = true →
    ∃ t, exec (.wsExtest d) s = .next t ∧ t.test.wir = 1 ∧ t.test.noService = s.test.noService ∧
      (∀ i, i < d.length → i < wbrOuts → some (t.test.wbrOut.getLsbD i) = d[i]?) ∧
      (∀ i, d.length ≤ i → t.test.wbrOut.getLsbD i = s.test.wbrOut.getLsbD i) ∧
      { t with test := s.test, draws := s.draws } = s) ∧
  (∀ s : State, s.glb.straps.testmode = true →
    ∃ t, exec .wsIntestScan s = .next t ∧ t.test.wir = 2 ∧ t.test.noService = true ∧ t.mem = s.mem ∧
      t.pending = s.pending) ∧
  (∀ s : State, s.glb.straps.testmode = true →
    ∃ t, exec .wsMbist s = .next t ∧ t.test.wir = 3 ∧ t.test.noService = true ∧ t.mem = s.mem ∧ t.pending = s.pending) ∧
  (∀ (s : State) (d : List Bool) (i : Instr), s.glb.straps.testmode = false →
    i = .wsExtest d ∨ i = .wsIntestScan ∨ i = .wsMbist →
    ∃ t, exec i s = .next t ∧ t.test.wir = 0 ∧ t.test.noService = s.test.noService ∧ { t with test := s.test } = s) ∧
  (∀ s : State, ∃ t, exec .tapReset s = .next t ∧ t.test.ir = 0x01 ∧ t.test.wir = 0 ∧ t.test.tap = .testLogicReset ∧
    t.test.tdoEn = false ∧ t.test.noService = s.test.noService ∧ { t with test := s.test } = s)

/-! ## Management -/

/-- Sensors and thermal steps (R386 to R388, R391). A sample takes the user offsets, adds the trims and clamps the readings; a
reading above ALARM raises the thermal alarm when none is raised, lowers the thermal target by one eighth, to no lower than
2, and logs code 0x0601; a reading of TRIP or more alerts. While the alarm is raised every THERMAL_STEP_DOWN lowers the
target once more; once it has cleared and every reading is at or below CLEAR, THERMAL_STEP_UP raises it, to no higher than
8. A write to MGT_THERM_CTL is in force from the next sample on (R386). CUR falls to the least of the three targets at once
(R49). Supply droop and the ACLK rate (R49, R389): DROOP_ALARM sets
the droop target to 4, CUR falls to the least target at once, the fault is logged with code 0x0603; DROOP_CLEAR restores the
target to 8; each ACLK_STEP_UP raises CUR by one eighth towards the least target and never beyond it. Completes:
SENSOR_SAMPLE (sensorSample), THERMAL_STEP_DOWN (thermalStepDown), THERMAL_STEP_UP (thermalStepUp), DROOP_ALARM (droopAlarm),
DROOP_CLEAR (droopClear), ACLK_STEP_UP (aclkStepUp). -/
def Obligations.Environment : Prop :=
  (∀ (s : State) (temps volts : List Int), Served s → fwRuns s = true →
    ∃ t, exec (.sensorSample temps volts) s = .next t ∧ t.mgt.thCtl = csrGet s 0xD0030 ∧
      (∀ i, i < 16 → nthI t.mgt.ucalT i = sext (csrField s (0xD0300 + 8 * i) 0 8) 8 ∧
        nthI t.mgt.temps i = clampI (-320) 1200 (nthI temps i +
          clampI (-128) 127 (nthI s.glb.fuses.trimT i + sext (csrField s (0xD0300 + 8 * i) 0 8) 8))) ∧
      (∀ j, j < 32 → nthI t.mgt.volts j = clampI 500 1000 (nthI volts j +
          clampI (-40) 40 (nthI s.glb.fuses.trimV j + sext (csrField s (0xD0400 + 8 * j) 0 8) 8))) ∧
      t.mgt.thermal = (if s.mgt.thermal then !t.mgt.temps.all (fun x => decide (x ≤ thClear t))
        else t.mgt.temps.any (fun x => decide (thAlarm t < x))) ∧
      t.mgt.tTarget = (if !s.mgt.thermal && t.mgt.thermal then max 2 (s.mgt.tTarget - 1) else s.mgt.tTarget) ∧
      t.mgt.trip = t.mgt.temps.any (fun x => decide (thTrip t ≤ x)) ∧
      (t.mgt.trip = true → t.mgt.alertFatal = true)) ∧
  (∀ s : State, Served s → fwRuns s = true → s.mgt.thermal = true →
    ∃ t, exec .thermalStepDown s = .next t ∧ t.mgt.tTarget = max 2 (s.mgt.tTarget - 1) ∧ t.mgt.cur ≤ s.mgt.cur ∧
      (t.mgt.cur ≤ t.mgt.tTarget ∨ t.mgt.cur = s.mgt.cur)) ∧
  (∀ s : State, Served s → fwRuns s = true → s.mgt.thermal = false →
    s.mgt.temps.all (fun x => decide (x ≤ thClear s)) = true →
    exec .thermalStepUp s = .next { s with mgt := { s.mgt with tTarget := min 8 (s.mgt.tTarget + 1) } }) ∧
  (∀ (s : State) (n : Nat), Served s → s.glb.boot ≠ .coldReset → s.mgt.droop = false → n < 24 →
    ∃ t, exec (.droopAlarm n) s = .next t ∧ t.mgt.droop = true ∧ t.mgt.dTarget = 4 ∧
      t.mgt.cur = min s.mgt.cur (min (aclkCap s) (min s.mgt.tTarget 4)) ∧ t.mgt.next = (s.mgt.next + 1) % 2 ^ 32 ∧
      bit (csrGet t 0xD0050) 12 = true ∧ t.mem = s.mem ∧ t.front = s.front) ∧
  (∀ s : State, Served s → s.mgt.droop = true →
    ∃ t, exec .droopClear s = .next t ∧ t.mgt.droop = false ∧ t.mgt.dTarget = 8 ∧ t.mgt.cur = s.mgt.cur) ∧
  (∀ s : State, Served s → s.glb.boot ≠ .coldReset → s.mgt.cur < aclkTarget s →
    ∃ t, exec .aclkStepUp s = .next t ∧ t = { s with mgt := { s.mgt with cur := s.mgt.cur + 1 } } ∧
      t.mgt.cur ≤ aclkTarget t)

/-- The log, the corrected-error window and the watchdog (R393, R396, R397). LOG_FLUSH writes the oldest unflushed entry to
its place in the ring in host memory, where the write is not refused. CE_WINDOW_CHECK ends the window: more corrected errors
than the limit are logged with code 0x0201. WATCHDOG_EXPIRY logs code 0x0701, restarts the firmware, sets the thermal
target to 4 at most and leaves in the resident image what its SRAM has not lost, which is a free value (log entry 153); FIRMWARE_RESTART_DONE starts it again where the resident image still has its digest, and otherwise ends
in BOOT_FAILED with code 0x01. Completes: LOG_FLUSH (logFlush) under a memory-port slot of owner 0x3C (R378),
CE_WINDOW_CHECK (ceWindowCheck), WATCHDOG_EXPIRY (watchdogExpiry), FIRMWARE_RESTART_DONE (firmwareRestartDone). -/
def Obligations.LogAndWatchdog : Prop :=
  (∀ s : State, Served s → fwRuns s = true → isReady s = true → logBase s ≠ 0 → logPending s ≠ 0 →
    holdsMp s 0x3C = true →
    wrBad s.mem ((logBase s + 32 * (s.mgt.flushed % 2 ^ clampN 8 24 (csrField s 0xD0020 0 5))) % 2 ^ 42) 32 = false →
    ∃ t, exec .logFlush s = .next t ∧ t.mgt.flushed = (s.mgt.flushed + 1) % 2 ^ 32 ∧
      t.mem = wrBytes s.mem ((logBase s + 32 * (s.mgt.flushed % 2 ^ clampN 8 24 (csrField s 0xD0020 0 5))) % 2 ^ 42)
        (logBytes (logAt s s.mgt.flushed)) ∧
      CountsOnly { s with mem := t.mem, mgt := t.mgt } t) ∧
  (∀ s : State, Served s → fwRuns s = true →
    ∃ t, exec .ceWindowCheck s = .next t ∧ t.mgt.ceAcc = 0 ∧
      t.mgt.next = (if csrField s 0xD0068 0 32 < s.mgt.ceAcc then (s.mgt.next + 1) % 2 ^ 32 else s.mgt.next) ∧
      (csrField s 0xD0068 0 32 < s.mgt.ceAcc → bit (csrGet t 0xD0050) 13 = true) ∧ t.front = s.front ∧ t.mem = s.mem) ∧
  (∀ s : State, Served s → fwRuns s = true →
    ∃ t, exec .watchdogExpiry s = .next t ∧ t.mgt.restarting = true ∧ t.mgt.tTarget = min 4 s.mgt.tTarget ∧
      t.mgt.next = (s.mgt.next + 1) % 2 ^ 32 ∧ bit (csrGet t 0xD0050) 14 = true ∧
      t.glb.image = { s.glb.image with body := upsetBytes s.glb.image.body (Config.imageUpset s.draws) } ∧ t.front = s.front ∧ t.mem = s.mem) ∧
  (∀ s : State, Served s → s.mgt.restarting = true → imageIntact s = true →
    exec .firmwareRestartDone s = .next { s with mgt := { s.mgt with restarting := false } }) ∧
  (∀ s : State, Served s → s.mgt.restarting = true → imageIntact s = false →
    ∃ t, exec .firmwareRestartDone s = .next t ∧ t.mgt.restarting = false ∧ t.glb.boot = .bootFailed ∧
      t.glb.bootCode = 0x01 ∧ t.mgt.alertFatal = true)

/-- Firmware updates (R383, R384). A write of 1 to LOAD starts the read of the image, and is ignored with REF set while one is
in progress; the image read comes to staging and verification starts; an image that passes is STAGED, another FAILED with
the code of its test; a write of 1 to GO while STAGED starts the update reset, a cold reset that keeps image staging and the
straps. The MG port (R38, R382). READ_STATUS drives the bytes of GLB_STATUS, READ_LOG those of the log from its offset, both
from FUSE_LOAD onward; before that the frame gets no byte. WRITE_IMAGE writes staging and discards a staged image;
COMMIT_IMAGE starts the verification of staging: of the boot image where the boot waits for one, otherwise as an update.
Completes: FW_UPDATE_LOAD (fwUpdateLoad), FW_UPDATE_LOAD_DONE (fwUpdateLoadDone), FW_UPDATE_VERIFY_DONE
(fwUpdateVerifyDone), FW_UPDATE_GO (fwUpdateGo), READ_STATUS (readStatus), READ_LOG (readLog), WRITE_IMAGE (writeImage),
COMMIT_IMAGE (commitImage). -/
def Obligations.Management : Prop :=
  (∀ s : State, Served s → s.glb.boot ≠ .coldReset → updBusy s = false →
    ∃ t, exec (.fwUpdateLoad true) s = .next t ∧ t.mgt.upd = 1 ∧ t.pins.csrErr = false ∧ t.mem = s.mem ∧
      t.front = s.front) ∧
  (∀ s : State, Served s → s.glb.boot ≠ .coldReset → updBusy s = true →
    ∃ t, exec (.fwUpdateLoad true) s = .next t ∧ t.mgt.upd = s.mgt.upd ∧ bit (csrGet t 0xD0010) 7 = true ∧
      t.mem = s.mem) ∧
  (∀ (s : State) (m : List (Nat × Byte)), Served s → fwRuns s = true → isReady s = true → s.mgt.upd = 1 →
    holdsMp s 0x3C = true → fetchImage s (csrField s 0xD0008 6 36 * 64) = some m →
    ∃ t, exec .fwUpdateLoadDone s = .next t ∧ t.mgt.upd = 2 ∧ t.mgt.committed = none ∧ t.mem = s.mem ∧
      t.front = s.front) ∧
  (∀ s : State, Served s → fwRuns s = true → isReady s = true → s.mgt.upd = 1 →
    holdsMp s 0x3C = true → fetchImage s (csrField s 0xD0008 6 36 * 64) = none →
    ∃ t, exec .fwUpdateLoadDone s = .next t ∧ t.mgt.upd = 4 ∧ t.mgt.updCode = 0x03 ∧ t.mgt.staging = s.mgt.staging) ∧
  (∀ s : State, Served s → fwRuns s = true → s.mgt.upd = 2 →
    verifyCode s.glb.fuses s.mgt.committed (stagedImage s) = 0 → s.mgt.force = false →
    ∃ t, exec .fwUpdateVerifyDone s = .next t ∧ t.mgt.upd = 3 ∧ t.mgt.sver = imgFwver (stagedImage s) ∧
      t.front = s.front ∧ t.mem = s.mem) ∧
  (∀ s : State, Served s → fwRuns s = true → s.mgt.upd = 2 →
    verifyCode s.glb.fuses s.mgt.committed (stagedImage s) = 0 → s.mgt.force = true →
    ∃ t, exec .fwUpdateVerifyDone s = .next t ∧ t.glb.boot = .pllLock ∧ t.glb.fromStaging = true ∧
      t.glb.straps = s.glb.straps ∧ t.mgt.staging = s.mgt.staging ∧ t.front = {}) ∧
  (∀ s : State, Served s → fwRuns s = true → s.mgt.upd = 2 →
    verifyCode s.glb.fuses s.mgt.committed (stagedImage s) ≠ 0 →
    ∃ t, exec .fwUpdateVerifyDone s = .next t ∧ t.mgt.upd = 4 ∧
      t.mgt.updCode = verifyCode s.glb.fuses s.mgt.committed (stagedImage s) ∧ t.front = s.front ∧ t.mem = s.mem) ∧
  (∀ s : State, Served s → s.glb.boot ≠ .coldReset → s.mgt.upd = 3 →
    ∃ t, exec (.fwUpdateGo true) s = .next t ∧ t.glb.boot = .pllLock ∧ t.glb.fromStaging = true ∧
      t.glb.straps = s.glb.straps ∧ t.mgt.staging = s.mgt.staging ∧ t.mgt.committed = s.mgt.committed ∧ t.front = {} ∧
      t.mgt.upd = 0) ∧
  (∀ (s : State) (n : Nat), Served s → mgAnswers s = true → n ≤ 8 →
    ∃ t, exec (.readStatus n) s = .next t ∧ t.pins.mgSdo = (leBytes 8 (glbStatus s)).take n ∧ { t with pins := s.pins } = s) ∧
  (∀ (s : State) (off : BitVec 24) (n : Nat), Served s → mgAnswers s = true → s.mgt.restarting = false →
    ∃ t, exec (.readLog off n) s = .next t ∧ { t with pins := s.pins } = s ∧ t.pins.mgSdo.length = n ∧
      ∀ i, i < n → t.pins.mgSdo[i]? = some (logByte s (off.toNat + i))) ∧
  (∀ (s : State) (n : Nat), Served s → mgAnswers s = false →
    ∃ t, exec (.readStatus n) s = .next t ∧ t.pins.mgSdo = []) ∧
  (∀ (s : State) (off : BitVec 24) (l : List Byte), Served s → Inv s → mgImages s = true →
    off.toNat + l.length ≤ stagingSize →
    ∃ t, exec (.writeImage off l) s = .next t ∧ t.mgt.upd = (if s.mgt.upd = 3 then 0 else s.mgt.upd) ∧
      (∀ i, i < l.length → l[i]? = some (slook (fun _ => 0#8) t.mgt.staging (off.toNat + i))) ∧
      (∀ a, a < off.toNat ∨ off.toNat + l.length ≤ a →
        slook (fun _ => 0#8) t.mgt.staging a = slook (fun _ => 0#8) s.mgt.staging a) ∧
      { t with mgt := s.mgt, csr := s.csr } = s) ∧
  (∀ (s : State) (w : BitVec 24), Served s → mgImages s = true →
    ∃ t, exec (.commitImage w) s = .next t ∧ t.mgt.committed = some (bits w.toNat 0 23) ∧
      (isReady s = true → t.mgt.upd = 2 ∧ t.mgt.force = bit w.toNat 23) ∧
      (isReady s = false → t.glb.boot = .bootVerify ∧ t.glb.committed = some (bits w.toNat 0 23)))

/-! ## CSR accesses -/

/-- A CSR write to a register with no behaviour of its own (R5, R6, R26): bit by bit, an RW field takes the value, an RW1C bit
is cleared by a 1 and set where hardware sets it in the same cycle, and every other bit stays. Nothing else changes but the
answer and the count of the transfer. An access that R27 or R43 refuses (an unmapped offset, a register that needs PRIV, a
unit range before READY) has no effect on the engine: CP_CSR_ERR is 1, and read data is 0. Completes: CSR_WRITE (csrWrite)
on a register of that kind; the clearing read of one stands in the next statement. -/
def Obligations.RegisterWrites : Prop :=
  (∀ (s : State) (idx : Nat) (v hw : Word64) (priv : Bool) (r : Reg), Served s → Inv s →
    access s (8 * idx) priv true = .taken → regInfo (8 * idx) = some r → ownRule (8 * idx) = false →
    ∃ t, exec (.csrWrite idx v priv hw) s = .next t ∧ t.pins.csrErr = false ∧
      (∀ b, b < 64 → bit (csrGet t (8 * idx)) b =
        (if bit r.rw b then bit v.toNat b
         else if bit r.w1c b then (bit (csrGet s (8 * idx)) b && !bit v.toNat b) || bit hw.toNat b
         else bit (csrGet s (8 * idx)) b)) ∧
      (∀ o, o ≠ 8 * idx → csrGet t o = csrGet s o) ∧ { t with csr := s.csr, pins := s.pins, pmc := s.pmc } = s) ∧
  (∀ (s : State) (idx : Nat) (v hw : Word64) (priv : Bool), Served s → access s (8 * idx) priv true = .refused →
    ∃ t, exec (.csrWrite idx v priv hw) s = .next t ∧ t.pins.csrErr = true ∧
      CountsOnly { s with pins := t.pins } t) ∧
  (∀ (s : State) (idx same : Nat) (priv : Bool), Served s → access s (8 * idx) priv false = .refused →
    ∃ t, exec (.clearingRead idx priv same) s = .next t ∧ t.pins.csrErr = true ∧ t.pins.csrRdata = 0 ∧
      CountsOnly { s with pins := t.pins } t) ∧
  (∀ (s : State) (off : Nat) (priv write : Bool), s.glb.boot ≠ .coldReset → isReady s = false → 0x10000 ≤ off →
    off < 0xD0000 → access s off priv write = .refused)

/-- Clearing reads (R6, R363, R354). A read of a register with an RC field shows its value and leaves the field at 0 with the
events of the same cycle added; a read of the even counter of a chained pair latches the odd one; a read of DET_TDC_COUNT
with no choice in its cycle clears the count and DET_TDC_FIRST. Completes: CLEARING_READ (clearingRead), PMC_CHAIN_READ
(pmcChainRead), DET_TDC_COUNT_READ (detTdcCountRead). -/
def Obligations.ClearingReads : Prop :=
  (∀ (s : State) (idx same : Nat) (priv : Bool) (r : Reg), Served s → Inv s → access s (8 * idx) priv false = .taken →
    regInfo (8 * idx) = some r → r.rc ≠ 0 → 8 * idx ≠ 0xE0008 →
    ∃ t, exec (.clearingRead idx priv same) s = .next t ∧ t.pins.csrErr = false ∧ t.pins.csrRdata = regRead s (8 * idx) ∧
      (∀ b, b < 64 → bit (csrGet t (8 * idx)) b = (if bit r.rc b then bit same b else bit (csrGet s (8 * idx)) b)) ∧
      (∀ o, o ≠ 8 * idx → csrGet t o = csrGet s o) ∧ { t with csr := s.csr, pins := s.pins, pmc := s.pmc } = s) ∧
  (∀ (s : State) (i : Nat) (priv : Bool), Served s → Inv s → i < 256 → i % 2 = 0 → bit (csrGet s (oPmcCfg i)) 62 = true →
    access s (oPmcCnt i) priv false = .taken →
    ∃ t, exec (.pmcChainRead i priv) s = .next t ∧ t.pins.csrRdata = csrGet s (oPmcCnt i) ∧ t.csr = s.csr ∧
      slook (fun _ => 0) t.pmc.latch (i + 1) = csrField s (oPmcCnt (i + 1)) 0 48) ∧
  (∀ (s : State) (priv : Bool), Served s → Inv s → access s 0xE0008 priv false = .taken →
    ∃ t, exec (.detTdcCountRead priv 0) s = .next t ∧ t.pins.csrRdata = csrGet s 0xE0008 ∧ csrGet t 0xE0008 = 0 ∧
      csrGet t 0xE0018 = 0 ∧ ∀ o, o ≠ 0xE0008 → o ≠ 0xE0018 → csrGet t o = csrGet s o)

/-- GLB_IFACE_SEL and the queues' control (R78, R84, R85). A write of LEVEL takes effect unless LOCKED is 1; enabling a queue
sets LOCKED; EN = 0 disables the queue and leaves every command in flight; a write to CQ_SBASE is accepted while the queue
is disabled with nothing in flight, sets the four indices and CQ_EVIDX to 0, and is ignored otherwise. Queue abort (R84): EN
becomes 0, the prefetch buffer is discarded, and each command of the queue that has not issued is finished with CANCELLED,
reason 0x01. Commands that have issued, and commands of other queues, go on as they were. Completes: GLB_IFACE_SEL_WRITE
(glbIfaceSelWrite), QUEUE_ENABLE (queueEnable), QUEUE_DISABLE (queueDisable), CQ_SBASE_WRITE (cqSbaseWrite), QUEUE_ABORT
(queueAbort), each in READY. -/
def Obligations.QueueControl : Prop :=
  (∀ (s : State) (v : Word64), Working s → Inv s →
    ∃ t, exec (.glbIfaceSelWrite v true) s = .next t ∧ t.pins.csrErr = false ∧
      bits (csrGet t 0x10) 0 2 = (if bit (csrGet s 0x10) 8 then bits (csrGet s 0x10) 0 2 else bits v.toNat 0 2) ∧
      { t with csr := s.csr, pins := s.pins, pmc := s.pmc } = s) ∧
  (∀ (s : State) (q : Nat) (v : Word64), Working s → Inv s → q < 64 → bit v.toNat 2 = false →
    ∃ t, exec (.queueEnable q v true) s = .next t ∧ qEn t q = true ∧ bit (csrGet t 0x10) 8 = true ∧
      t.front.inflight = s.front.inflight ∧ t.mem = s.mem ∧ t.ctxs = s.ctxs) ∧
  (∀ (s : State) (q : Nat) (v : Word64), Working s → Inv s → q < 64 →
    ∃ t, exec (.queueDisable q v true) s = .next t ∧ qEn t q = false ∧ t.front = s.front ∧ t.mem = s.mem) ∧
  (∀ (s : State) (q : Nat) (v : Word64), Working s → Inv s → q < 64 →
    ∃ t, exec (.cqSbaseWrite q v true) s = .next t ∧
      (if qBusy s q then CountsOnly { s with pins := t.pins } t
       else (queue t q).stail = 0 ∧ (queue t q).shead = 0 ∧ (queue t q).ctail = 0 ∧ (queue t q).chead = 0 ∧
         (queue t q).evidx = 0 ∧ (queue t q).prefetch = [] ∧ csrGet t (oCqSbase q) = v.toNat &&& span 41 6 ∧
         t.front.inflight = s.front.inflight ∧ t.mem = s.mem)) ∧
  (∀ (s : State) (q : Nat) (v : Word64), Working s → Inv s → q < 64 →
    (s.front.inflight.map (fun c => (c.q, c.tag))).Nodup →
    ∃ t, exec (.queueAbort q v true) s = .next t ∧ qEn t q = false ∧ (queue t q).prefetch = [] ∧
      (∀ c ∈ s.front.inflight, c.q = q → c.notIssued = true →
        ∃ c1 r, findCmd t q c.tag = some c1 ∧ c1.st = .finished r ∧ r.status = 0x10 ∧ r.detail = 0x01) ∧
      (∀ c ∈ s.front.inflight, c.q ≠ q ∨ c.notIssued = false → findCmd t c.q c.tag = some c) ∧
      t.mem = s.mem ∧ t.ctxs = s.ctxs ∧ t.disp = s.disp)

/-- Flags set and cleared by register (R91, R92), and by a go line (R93): a write to CQ_FLAGSET with CLEAR = 0, or a go line
whose GO_MAP is enabled, sets its flag; where the flag was 0 and a consuming WAIT waits on it, the earliest such WAIT is
finished and the flag is 0 again; a set of a flag that is 1 counts in CQ_DBLSET. CLEAR = 1 clears the flag. Completes:
CQ_FLAGSET_SET (cqFlagsetSet) and CQ_FLAGSET_CLEAR (cqFlagsetClear) in READY, GO_LINE (goLine) where the line is mapped. -/
def Obligations.FlagsByRegister : Prop :=
  (∀ (s : State) (f : BitVec 10), Working s → flagOf s f.toNat = false →
    (∀ c ∈ s.front.inflight, c.st ≠ .waitFlag f.toNat) →
    ∃ t, exec (.cqFlagsetSet f true) s = .next t ∧ t.front.flags = flagPut s.front.flags f.toNat true ∧
      t.front.inflight = s.front.inflight ∧ t.front.queues = s.front.queues ∧ t.mem = s.mem ∧ t.csr = s.csr) ∧
  (∀ (s : State) (f : BitVec 10) (c : Cmd), Working s → flagOf s f.toNat = false → findCmd s c.q c.tag = some c →
    (s.front.inflight.map (fun x => (x.q, x.tag))).Nodup →
    s.front.inflight.find? (waitsOn f.toNat true) = some c →
    ∃ t c1 r, exec (.cqFlagsetSet f true) s = .next t ∧ flagOf t f.toNat = false ∧ findCmd t c.q c.tag = some c1 ∧
      c1.st = .finished r ∧ r.status = 0 ∧ r.result = (now s + 2 ^ 64 - c.tiss) % 2 ^ 64) ∧
  (∀ (s : State) (f : BitVec 10), Working s → Inv s → flagOf s f.toNat = true →
    ∃ t, exec (.cqFlagsetSet f true) s = .next t ∧ t.front = s.front ∧
      csrField t 0x14088 0 32 = min (csrField s 0x14088 0 32 + 1) (2 ^ 32 - 1)) ∧
  (∀ (s : State) (f : BitVec 10), Working s →
    ∃ t, exec (.cqFlagsetClear f true) s = .next t ∧ t.front.flags = flagPut s.front.flags f.toNat false ∧
      { t with front := s.front, pins := s.pins, pmc := s.pmc } = s) ∧
  (∀ (s : State) (n : Nat), Working s → n < 16 → bit (csrGet s (0x14200 + 8 * n)) 10 = true →
    flagOf s (csrField s (0x14200 + 8 * n) 0 10) = false →
    (∀ c ∈ s.front.inflight, c.st ≠ .waitFlag (csrField s (0x14200 + 8 * n) 0 10)) →
    exec (.goLine n) s = .next { s with front := { s.front with
      flags := flagPut s.front.flags (csrField s (0x14200 + 8 * n) 0 10) true } })

/-- CTX_GRANT records the job that may open a context (R105). A write to PMC_XSEL selects the watched context and clears
every expert counter (R368). A snapshot records which ports are UP (R312). A change of GEN empties the owner-table cache
(R323). A write to FAB_ID takes effect while every port is disabled and DOWN, and is ignored otherwise (R295). Completes:
CTX_GRANT (ctxGrant), PMC_XSEL_WRITE (pmcXselWrite), ROUTE_SNAPSHOT (routeSnapshot), OWNER_TABLE_GEN_CHANGE
(ownerTableGenChange), FAB_ID_WRITE (fabIdWrite), each in READY. -/
def Obligations.RegistersWithEffects : Prop :=
  (∀ (s : State) (v : Word64), Working s → Inv s →
    ∃ t, exec (.ctxGrant v true) s = .next t ∧ ctx t (bits v.toNat 0 14) =
        { ctx s (bits v.toNat 0 14) with grant := bits v.toNat 16 16 } ∧
      (∀ k, k ≠ bits v.toNat 0 14 → ctx t k = ctx s k) ∧ { t with ctxs := s.ctxs, pins := s.pins, pmc := s.pmc } = s) ∧
  (∀ (s : State) (v : Word64), Working s → Inv s →
    ∃ t, exec (.pmcXselWrite v true) s = .next t ∧ t.pmc.xcnt = [] ∧
      bits (csrGet t 0xC1400) 0 14 = bits v.toNat 0 14 ∧ bit (csrGet t 0xC1400) 63 = bit v.toNat 63 ∧ (∀ o, o ≠ 0xC1400 → csrGet t o = csrGet s o) ∧
      { t with csr := s.csr, pmc := s.pmc, pins := s.pins } = s) ∧
  (∀ s : State, Working s →
    ∃ t, exec (.routeSnapshot true) s = .next t ∧ t.fab.snapUp = upPorts s ∧ t.fab.ports = s.fab.ports ∧
      { t with fab := s.fab, pins := s.pins, pmc := s.pmc } = s) ∧
  (∀ (s : State) (v : Word64), Working s → Inv s → bits v.toNat 32 16 ≠ csrField s 0xA0020 32 16 →
    ∃ t, exec (.ownerTableGenChange v true) s = .next t ∧ t.fab.ownCache = [] ∧
      csrField t 0xA0020 32 16 = bits v.toNat 32 16 ∧ t.fab.ports = s.fab.ports ∧ t.mem = s.mem) ∧
  (∀ (s : State) (v : Word64), Working s → Inv s → fabIdle s = true →
    ∃ t, exec (.fabIdWrite v true) s = .next t ∧ ownChip t = bits v.toNat 0 15 ∧ t.fab = s.fab ∧ t.mem = s.mem ∧
      t.front = s.front) ∧
  (∀ (s : State) (v : Word64), Working s → fabIdle s = false →
    ∃ t, exec (.fabIdWrite v true) s = .next t ∧ t.csr = s.csr ∧ { t with pins := s.pins, pmc := s.pmc } = s)

/-- Rota tables (R110, R111). A write to an entry fills a shadow bank that is not pending, and is ignored with ACTWR set
where it aims at an active bank, a pending instance or an unused one. A commit makes every instance that it names pending,
one that is pending already staying so; one of a memory port or a fabric port whose shadow bank has no slot of owner 0x38 is
refused, keeps its bank, and sets NOBG with the instance. A pending instance switches banks when its slot pointer returns
to 0. Completes: ROTA_ENTRY_WRITE (rotaEntryWrite), ROTA_COMMIT (rotaCommit), ROTA_SWITCH (rotaSwitch), each in READY. -/
def Obligations.RotaBanks : Prop :=
  (∀ (s : State) (i b j : Nat) (v : Word64), Working s → Inv s → i < 64 → b < 2 → j < 32 →
    ∃ t, exec (.rotaEntryWrite i b j v true) s = .next t ∧ t.pins.csrErr = false ∧ t.rotaActive = s.rotaActive ∧
      t.rotaPend = s.rotaPend ∧
      (if rotaUnused i || activeBank s i == b || bit s.rotaPend i then
        bit (csrGet t 0x3F018) 0 = true ∧ ∀ o, o ≠ 0x3F018 → csrGet t o = csrGet s o
       else csrGet t (oRota i b j) = v.toNat ∧ ∀ o, o ≠ oRota i b j → csrGet t o = csrGet s o)) ∧
  (∀ (s : State) (v : Word64), Working s → Inv s →
    (∀ i, 32 ≤ i → i < 38 → bit v.toNat i = true → (port s (i - 32)).phyRdy = true) →
    let refused := fun i => decide (16 ≤ i) && decide (i < 38) && !shadowHasBg s i
    ∃ t, exec (.rotaCommit v true) s = .next t ∧ t.rotaActive = s.rotaActive ∧
      (∀ i, i < 64 → bit t.rotaPend i = (bit s.rotaPend i || (bit v.toNat i && !rotaUnused i && !refused i))) ∧
      ((∀ i, i < 64 → bit v.toNat i = true → rotaUnused i = false → bit s.rotaPend i = false → refused i = false) →
        t.csr = s.csr)) ∧
  (∀ (s : State) (i : Nat), Working s → Inv s → 16 ≤ i → i < 38 → bit s.rotaPend i = false → shadowHasBg s i = false →
    ∃ t, exec (.rotaCommit (BitVec.ofNat 64 (2 ^ i)) true) s = .next t ∧ t.rotaPend = s.rotaPend ∧
      t.rotaActive = s.rotaActive ∧ bit (csrGet t 0x3F018) 1 = true ∧ bits (csrGet t 0x3F018) 8 6 = i) ∧
  (∀ (s : State) (i : Nat), Working s → bit s.rotaPend i = true →
    ∃ t, exec (.rotaSwitch i) s = .next t ∧ t.rotaActive = s.rotaActive ^^^ 2 ^ i ∧ bit t.rotaPend i = false ∧
      t.mem = s.mem)

/-! ## The front end -/

/-- Doorbells (R79, Table 04.4). In READY a line updates the eight queues of its group together. A lane whose update Table
04.4 accepts sets STAIL of its queue, or CHEAD for the lines 8 to 15 of a window; a lane whose update it refuses leaves the
indices and sets the queue's CQ_STATUS.DBERR. Every other queue is as it was. A tail update that lowers STAIL discards the
commands read ahead beyond it (the model's choice, log entry 123).
Completes: DOORBELL_LINE (doorbellLine) in READY. -/
def Obligations.DoorbellLanes : Prop :=
  ∀ (s : State) (line : Nat) (lv : BitVec 8) (data : BitVec 512) (priv : Bool), Working s → Inv s →
    ∃ t, exec (.doorbellLine line lv data priv) s = .next t ∧
      (∀ j, j < 8 →
        let q := 8 * (line % 8) + j
        let new := bits data.toNat (64 * j) 32
        let head := decide (8 ≤ line % 16)
        let ok := lv.getLsbD j && laneOk s q new head priv
        (queue t q).stail = (if ok && !head then new else (queue s q).stail) ∧
        (queue t q).chead = (if ok && head then new else (queue s q).chead) ∧
        (queue t q).shead = (queue s q).shead ∧ (queue t q).ctail = (queue s q).ctail ∧
        (queue t q).prefetch = (if ok && !head then (queue s q).prefetch.take ((new + 2 ^ 32 - (queue s q).shead) % 2 ^ 32)
          else (queue s q).prefetch) ∧ (queue t q).done = (queue s q).done ∧
        bit (csrGet t (oCqStatus q)) 16 =
          (bit (csrGet s (oCqStatus q)) 16 || (lv.getLsbD j && !laneOk s q new head priv))) ∧
      (∀ q, q / 8 ≠ line % 8 → queue t q = queue s q) ∧
      (∀ o, countsIn o = false → (∀ j, j < 8 → o ≠ oCqStatus (8 * (line % 8) + j)) → csrGet t o = csrGet s o) ∧
      { t with csr := s.csr, pmc := s.pmc, front := s.front } = s ∧
      { t.front with queues := s.front.queues, reads := s.front.reads } = s.front

/-- Admission (R82, R83). The command at SHEAD of the first queue able to take one in, in cyclic order after the queue that
admitted last, comes into flight with the fields that its word spells; SHEAD advances. With no such queue nothing
happens. Completes: COMMAND_ADMIT (commandAdmit). -/
def Obligations.Admission : Prop :=
  (∀ (s : State) (q w : Nat) (rest : List Nat), Working s → Inv s → nextQueue s = some q →
    (queue s q).prefetch = w :: rest →
    ∃ t c, exec .commandAdmit s = .next t ∧ t.front.inflight = s.front.inflight ++ [c] ∧
      { c with selected := false } = { decodeWord (cmdLevel s) q (queue s q).shead w with tadm := now s } ∧
      t.front.lastAdmit = q ∧ (queue t q).shead = ((queue s q).shead + 1) % 2 ^ 32 ∧ (queue t q).prefetch = rest ∧
      (queue t q).stail = (queue s q).stail ∧ (∀ k, k ≠ q → queue t k = queue s k) ∧
      t.mem = s.mem ∧ t.ctxs = s.ctxs ∧ t.front.flags = s.front.flags) ∧
  (∀ s : State, Working s → nextQueue s = none → exec .commandAdmit s = .next s) ∧
  (∀ (s : State) (q : Nat), s.front.lastAdmit < 64 → nextQueue s = some q → canAdmit s q = true ∧
    ∀ k, k < 64 → canAdmit s k = true → (q + 63 - s.front.lastAdmit) % 64 ≤ (k + 63 - s.front.lastAdmit) % 64)

/-- Completion records (R94 to R96, R33). The record of the command that reported first is written at CTAIL, and held while
the ring is full. Its acknowledgement makes it visible in memory, advances CTAIL, takes the command out of flight, and sets
CQ_EVIDX where EVENT was 1 or STATUS is at or above 0x10. A refused write disables the queue and sets CQ_STATUS.FERR.
Completes: COMPLETION_RECORD_WRITE (completionRecordWrite), MP_WRITE_ACK (mpWriteAck). -/
def Obligations.CompletionRecords : Prop :=
  (∀ (s : State) (q p tg : Nat) (c : Cmd) (r : Report), Working s → (queue s q).writing = false → ringFull s q = false →
    nextRecord s q = some (c, r) → mpPortFor s 0x08 = some p → freeWriteTag s p = some tg →
    ∃ t, exec (.completionRecordWrite q) s = .next t ∧ (queue t q).writing = true ∧
      t.front.writes = s.front.writes ++ [{
        port := p, tag := tg, use := .record q, data := leBytes 32 (recordOf s c r),
        addr := csrField s (oCqCbase q) 6 36 * 64 + 32 * ((queue s q).ctail % 2 ^ qClog2 s q) }] ∧
      t.front.inflight = s.front.inflight ∧ t.front.flags = s.front.flags ∧ { t with front := s.front } = s) ∧
  (∀ (s : State) (q : Nat), Working s → ringFull s q = true → exec (.completionRecordWrite q) s = .next s) ∧
  (∀ (s : State) (q port tag : Nat) (w : MpWrite) (c : Cmd) (r : Report), Working s → Inv s → q < 64 →
    oldTag s true port tag = false → writeOf s port tag = some w → w.use = .record q → nextRecord s q = some (c, r) →
    ∃ t, exec (.mpWriteAck port tag false) s = .next t ∧ t.mem = wrBytes s.mem w.addr w.data ∧
      findCmd t q c.tag = none ∧ (∀ k g, (k, g) ≠ (q, c.tag) → findCmd t k g = findCmd s k g) ∧
      (queue t q).ctail = ((queue s q).ctail + 1) % 2 ^ 32 ∧ (queue t q).done = (queue s q).done.drop 1 ∧
      (queue t q).writing = false ∧
      (queue t q).evidx = (if c.event || decide (0x10 ≤ r.status) then ((queue s q).ctail + 1) % 2 ^ 32
        else (queue s q).evidx) ∧
      (∀ k, k ≠ q → queue t k = queue s k) ∧ (∀ o, countsIn o = false → csrGet t o = csrGet s o) ∧
      { t with csr := s.csr, pmc := s.pmc, front := s.front, mem := s.mem } = s) ∧
  (∀ (s : State) (q port tag : Nat) (w : MpWrite) (c : Cmd) (r : Report), Working s → Inv s → q < 64 →
    oldTag s true port tag = false → writeOf s port tag = some w → w.use = .record q → nextRecord s q = some (c, r) →
    ∃ t, exec (.mpWriteAck port tag true) s = .next t ∧ qEn t q = false ∧ bit (csrGet t (oCqStatus q)) 17 = true ∧
      (queue t q).prefetch = [] ∧ findCmd t q c.tag = none ∧
      ∀ a, (∀ i, i < w.data.length → a % 2 ^ 42 ≠ (w.addr + i) % 2 ^ 42) → rdByte t.mem a = rdByte s.mem a)

/-- Answers of the memory ports (R29, R32, R86, R101, R45). The last beat of a command fetch brings its commands to the
prefetch buffer, or on an error disables the queue; that of a parameter block puts the block in force; the acknowledgement
of the last of the extended state's zeros makes the context OPEN with the next epoch. A beat that is not the last is only
noted. An answer to a request that a warm drain left unanswered is taken once. An answer to no request at all is the one
fault of the model (Fault.strayResponse), which the spec leaves out.
Completes: MP_READ_BEAT (mpReadBeat), MP_WRITE_ACK (mpWriteAck), where the answer is of a request. -/
def Obligations.MemoryAnswers : Prop :=
  (∀ (s : State) (port tag q : Nat) (r : MpRead), Working s → Inv s → q < 64 → oldTag s false port tag = false →
    readOf s port tag = some r → r.use = .fetch q → r.err = false → r.poison = false →
    ∃ t, exec (.mpReadBeat port tag 0#2 false true) s = .next t ∧ t.mem = s.mem ∧
      (queue t q).prefetch = (queue s q).prefetch ++ rdCmds s.mem r.addr (r.len / 32) ∧
      (queue t q).shead = (queue s q).shead ∧ t.front.inflight = s.front.inflight ∧
      ∀ k, k ≠ q → queue t k = queue s k) ∧
  (∀ (s : State) (port tag q : Nat) (r : MpRead) (p : BitVec 2), Working s → Inv s → q < 64 →
    oldTag s false port tag = false → readOf s port tag = some r → r.use = .fetch q →
    ∃ t, exec (.mpReadBeat port tag p true true) s = .next t ∧ t.mem = s.mem ∧ (queue t q).prefetch = [] ∧
      qEn t q = false ∧ bit (csrGet t (oCqStatus q)) 17 = true ∧ t.front.inflight = s.front.inflight) ∧
  (∀ (s : State) (port tag k q g : Nat) (r : MpRead), Working s → Inv s → oldTag s false port tag = false →
    readOf s port tag = some r → r.use = .ctxParam k q g → r.err = false → r.poison = false →
    ∃ t, exec (.mpReadBeat port tag 0#2 false true) s = .next t ∧ t.mem = s.mem ∧
      (ctx t k).pb = rdWords s.mem r.addr 4 ∧ (ctx t k).st = (ctx s k).st ∧ (∀ x, x ≠ k → ctx t x = ctx s x) ∧
      ∀ x y, (x, y) ≠ (q, g) → findCmd t x y = findCmd s x y) ∧
  (∀ (s : State) (port tag k : Nat) (w : MpWrite) (c : Cmd), Working s → oldTag s true port tag = false →
    writeOf s port tag = some w → w.use = .ctxZero k c.q c.tag → findCmd s c.q c.tag = some c → c.st = .exec →
    c.waited = false → (ctx s k).zeroTodo = [] → (ctx s k).zeroOut = 1 →
    ∃ t, exec (.mpWriteAck port tag false) s = .next t ∧ t.mem = wrBytes s.mem w.addr w.data ∧ (ctx t k).st = .open ∧
      (ctx t k).epoch = ((ctx s k).epoch + 1) % 2 ^ 16 ∧ (ctx t k).cnt = [0, 0, 0, 0, 0, 0] ∧ (ctx t k).bepoch = 0 ∧ Finished t c 0 0 ∧
      ∀ x, x ≠ k → ctx t x = ctx s x) ∧
  (∀ (s : State) (port tag : Nat) (r : MpRead) (p : BitVec 2) (e : Bool), Working s → oldTag s false port tag = false →
    readOf s port tag = some r →
    ∃ t, exec (.mpReadBeat port tag p e false) s = .next t ∧ t.mem = s.mem ∧ t.front.queues = s.front.queues ∧
      t.front.inflight = s.front.inflight ∧ t.ctxs = s.ctxs ∧ t.front.reads.length = s.front.reads.length) ∧
  (∀ (s : State) (port tag : Nat) (p : BitVec 2) (e : Bool), Working s → oldTag s false port tag = true →
    readOf s port tag = none →
    exec (.mpReadBeat port tag p e true) s =
      .next { s with front := { s.front with late := s.front.late.erase (false, port, tag) } }) ∧
  (∀ (s : State) (port tag : Nat) (p : BitVec 2) (e l : Bool), Working s → oldTag s false port tag = false →
    readOf s port tag = none → exec (.mpReadBeat port tag p e l) s = .fault .strayResponse) ∧
  (∀ (s : State) (port tag : Nat) (e : Bool), Working s → oldTag s true port tag = false →
    writeOf s port tag = none → exec (.mpWriteAck port tag e) s = .fault .strayResponse)

/-- The checks at issue (R76, R97, R99, R100, R395, Table 04.7): an instruction that one of them turns away completes at once
with that status and detail and does nothing else. A row whose command may not issue leaves the state as it is (log entry
11). The reasons of Table 04.7 in the order of R97: first the opcode (outside Table 04.2; a supervisor instruction of a user
queue; an instruction that level 2 lacks), then the context (a job without a grant; a context that is not CLOSED at CTXOPEN;
another job's context; a CLOSED or a DRAINING context), then the service level. A CTXOPEN that waited on a drain has passed
the test of its grant (R103). -/
def Obligations.ChecksAtIssue : Prop :=
  (∀ (s : State) (i : Instr) (q tag status detail : Nat) (k : Cmd → Bool) (c : Cmd), Working s →
    rowOf i = some (q, tag, k) → findCmd s q tag = some c → k c = true → c.st = .admitted → mayIssue s c = true →
    issueCheck s c = .refuse status detail →
    ∃ t, exec i s = .next t ∧ Reports s t c status detail 0 0 ∧ { t with front := s.front } = s ∧
      { t.front with inflight := s.front.inflight, queues := s.front.queues } = s.front) ∧
  (∀ (s : State) (i : Instr) (q tag : Nat) (k : Cmd → Bool), Working s → rowOf i = some (q, tag, k) →
    (∀ c, findCmd s q tag = some c → k c = false ∨ mayIssue s c = false) → exec i s = .next s) ∧
  (∀ (s : State) (c : Cmd), opcodes.contains c.opc = false → issueCheck s c = .refuse 0x3F 0x01) ∧
  (∀ (s : State) (c : Cmd), c.opc = 0x48 ∨ c.opc = 0x49 ∨ c.opc = 0x4A → qSupv s c.q = false →
    issueCheck s c = .refuse 0x3F 0x02) ∧
  (∀ (s : State) (c : Cmd), c.opc = 0x11 ∨ c.opc = 0x24 → c.level = 2 → issueCheck s c = .refuse 0x3F 0x03) ∧
  (∀ (s : State) (c : Cmd), c.opc = 0x08 → qSupv s c.q = false → c.waited = false →
    (ctx s c.ctx).grant ≠ qJob s c.q ∨ qJob s c.q = 0xFFFF → issueCheck s c = .refuse 0x3E 0x05) ∧
  (∀ (s : State) (c : Cmd), c.opc = 0x08 → qSupv s c.q = true → (ctx s c.ctx).st = .open ∨ (ctx s c.ctx).st = .opening →
    issueCheck s c = .refuse 0x3E 0x04) ∧
  (∀ (s : State) (c : Cmd), opcodes.contains c.opc = true → opSupervisor c.opc = false → c.opc ≠ 0x50 → c.opc ≠ 0x08 →
    c.level = 3 → qSupv s c.q = false → (ctx s c.ctx).st ≠ .closed → (ctx s c.ctx).job ≠ qJob s c.q →
    issueCheck s c = .refuse 0x3E 0x03) ∧
  (∀ (s : State) (c : Cmd), opcodes.contains c.opc = true → qSupv s c.q = true → c.opc ≠ 0x08 → c.level = 3 →
    (ctx s c.ctx).st = .closed → issueCheck s c = .refuse 0x3E 0x01) ∧
  (∀ (s : State) (c : Cmd), opcodes.contains c.opc = true → qSupv s c.q = true → c.opc ≠ 0x08 → c.opc ≠ 0x09 →
    c.level = 3 → (ctx s c.ctx).st = .draining → issueCheck s c = .refuse 0x3E 0x02) ∧
  (∀ (s : State) (c : Cmd), opcodes.contains c.opc = true → qSupv s c.q = true → c.opc ≠ 0x08 → c.level = 3 →
    (ctx s c.ctx).st = .open → coreCount s = 0 →
    issueCheck s c = (if opPipe c.opc then .refuse 0x3F 0x10 else if opBasic c.opc then .go else .refuse 0x3F 0x19))

/-- NOP does nothing but complete (Table 04.2); a code outside Table 04.2 completes with ILLEGAL_OPCODE, reason 0x01
(R76). WAIT and SIGNAL (R90 to R92). A WAIT on a flag that is 1 completes at once, its consuming form clearing the flag;
on a flag that is 0 it waits. SIGNAL sets or clears its flag and returns the value it had; where a consuming WAIT waits on
a flag that is 0, a set finishes the earliest such WAIT and the flag is 0 again. Undefined values of SUBOP act as 0 (R73).
Completes: NOP (nop), ILLEGAL_OPCODE (illegalOpcode), WAIT_CONSUME (waitConsume), WAIT_OBSERVE (waitObserve), SIGNAL_SET
(signalSet), SIGNAL_CLEAR (signalClear). -/
def Obligations.BasicInstructions : Prop :=
  (∀ (s : State) (c : Cmd), Issues s c 0x00 →
    ∃ t, exec (.nop c.q c.tag) s = .next t ∧ Reports s t c 0 0 0 0 ∧ { t with front := s.front } = s ∧
      { t.front with inflight := s.front.inflight, queues := s.front.queues } = s.front) ∧
  (∀ (s : State) (c : Cmd), Working s → findCmd s c.q c.tag = some c → c.st = .admitted → mayIssue s c = true →
    opcodes.contains c.opc = false →
    ∃ t, exec (.illegalOpcode c.q c.tag) s = .next t ∧ Reports s t c 0x3F 0x01 0 0 ∧ { t with front := s.front } = s ∧
      { t.front with inflight := s.front.inflight, queues := s.front.queues } = s.front) ∧
  (∀ (s : State) (c : Cmd), Issues s c 0x04 → c.subop ≠ 1 → flagOf s (absFlag s c.q c.a) = true →
    ∃ t, exec (.waitConsume c.q c.tag) s = .next t ∧ Reports s t c 0 0 0 0 ∧
      t.front.flags = flagPut s.front.flags (absFlag s c.q c.a) false ∧ { t with front := s.front } = s) ∧
  (∀ (s : State) (c : Cmd), Issues s c 0x04 → c.subop = 1 → flagOf s (absFlag s c.q c.a) = true →
    ∃ t, exec (.waitObserve c.q c.tag) s = .next t ∧ Reports s t c 0 0 0 0 ∧ t.front.flags = s.front.flags ∧
      { t with front := s.front } = s) ∧
  (∀ (s : State) (c : Cmd), Issues s c 0x04 → flagOf s (absFlag s c.q c.a) = false →
    ∃ t, exec (if c.subop = 1 then .waitObserve c.q c.tag else .waitConsume c.q c.tag) s = .next t ∧
      MovesTo s t c (.waitFlag (absFlag s c.q c.a)) ∧ { t with front := s.front } = s) ∧
  (∀ (s : State) (c : Cmd), Issues s c 0x05 → c.subop ≠ 1 →
    (∀ x ∈ s.front.inflight, x.st ≠ .waitFlag (absFlag s c.q c.a)) →
    ∃ t, exec (.signalSet c.q c.tag) s = .next t ∧ Reports s t c 0 0 (b2n (flagOf s (absFlag s c.q c.a))) 0 ∧
      flagOf t (absFlag s c.q c.a) = true ∧
      (∀ f, f ≠ absFlag s c.q c.a → flagOf t f = flagOf s f) ∧
      (∀ o, o ≠ 0x14088 → csrGet t o = csrGet s o) ∧ { t with front := s.front, csr := s.csr } = s) ∧
  (∀ (s : State) (c w : Cmd), Issues s c 0x05 → c.subop ≠ 1 → KeysDistinct s → flagOf s (absFlag s c.q c.a) = false →
    s.front.inflight.find? (waitsOn (absFlag s c.q c.a) true) = some w →
    ∃ t, exec (.signalSet c.q c.tag) s = .next t ∧ Finished t c 0 0 ∧ Finished t w 0 0 ∧
      flagOf t (absFlag s c.q c.a) = false ∧ { t with front := s.front } = s) ∧
  (∀ (s : State) (c : Cmd), Issues s c 0x05 → c.subop = 1 →
    ∃ t, exec (.signalClear c.q c.tag) s = .next t ∧ Reports s t c 0 0 (b2n (flagOf s (absFlag s c.q c.a))) 0 ∧
      t.front.flags = flagPut s.front.flags (absFlag s c.q c.a) false ∧ { t with front := s.front } = s)

/-- Contexts (R101 to R103). CTXOPEN makes a CLOSED context OPENING, with its queue's job, and requests its parameter block
at operand A as soon as the front end can read; until then it stands in its unit (R107). CTXCLOSE of an OPEN context makes it
DRAINING and ends its waiting commands with CONTEXT_CLOSED, reason 0x02. When nothing of the context executes any more the
drain ends: its batch uses and weight slots are released, it is CLOSED with no job and the same epoch, and its CTXCLOSE is
finished; the releases need their slots (R107). Completes: CTXOPEN (ctxopen), CTXCLOSE (ctxclose), CONTEXT_DRAIN_END
(contextDrainEnd). -/
def Obligations.Contexts : Prop :=
  (∀ (s : State) (c : Cmd), Issues s c 0x08 →
    let x := { ctx s c.ctx with
      st := .opening, job := qJob s c.q, supv := qSupv s c.q, ext := opAddr c.b, zeroTodo := [], zeroOut := 0 }
    (canRead s 0x08 = true →
      ∃ t p g, exec (.ctxopen c.q c.tag) s = .next t ∧ (ctx s c.ctx).st = .closed ∧ ctx t c.ctx = x ∧
        (∀ k, k ≠ c.ctx → ctx t k = ctx s k) ∧
        t.front.reads = s.front.reads ++ [{
          port := p, tag := g, addr := opAddr c.a, len := 64, use := .ctxParam c.ctx c.q c.tag }] ∧
        MovesTo s t c .exec ∧ { t with front := s.front, ctxs := s.ctxs } = s) ∧
    (canRead s 0x08 = false →
      ∃ t, exec (.ctxopen c.q c.tag) s = .next t ∧ ctx t c.ctx = x ∧ (∀ k, k ≠ c.ctx → ctx t k = ctx s k) ∧
        MovesTo s t c .stopped ∧ t.front.reads = s.front.reads ∧ { t with front := s.front, ctxs := s.ctxs } = s)) ∧
  (∀ (s : State) (c : Cmd), Issues s c 0x09 → KeysDistinct s →
    ∃ t c1, exec (.ctxclose c.q c.tag) s = .next t ∧ (ctx t c.ctx).st = .draining ∧ findCmd t c.q c.tag = some c1 ∧
      c1.st = .exec ∧ (∀ x ∈ s.front.inflight, x.ctx = c.ctx → x.waiting = true → Finished t x 0x3E 0x02) ∧
      (∀ k, k ≠ c.ctx → ctx t k = ctx s k) ∧ { t with front := s.front, ctxs := s.ctxs } = s) ∧
  (∀ (s : State) (k : Nat) (c : Cmd), Working s → Inv s → KeysDistinct s → drainer s k = some c → (ctx s k).st = .draining →
    drainIdle s k = true → drainSlotted s k = true →
    ∃ t c1 r, exec (.contextDrainEnd k) s = .next t ∧ (ctx t k).st = .closed ∧ (ctx t k).job = 0 ∧
      (ctx t k).epoch = (ctx s k).epoch ∧ (∀ u ∈ t.disp.uses, u.ctx ≠ k) ∧
      (∀ x ∈ t.slots, x.st ≠ 0 → x.ctx ≠ k) ∧ findCmd t c.q c.tag = some c1 ∧ c1.st = .finished r)

/-! ## Scoring cores: weights, selection, gradients, functions -/

/-- CTXLOAD (R101, R123, R124). LOAD makes the descriptor at operand A the next weight source: streamed where the tensor is
too large for a slot, and otherwise copied into a slot, which is NEXT. SWAP makes the next source the current one. RELEASE
clears both; they need slots of the cores only where they read a block (R107). A parameter block at operand C changes the
block in force before the weight action, but for the fields that stay those of CTXOPEN. Completes: CTXLOAD_LOAD
(ctxloadLoad), CTXLOAD_SWAP (ctxloadSwap), CTXLOAD_RELEASE (ctxloadRelease). -/
def Obligations.WeightSources : Prop :=
  (∀ (s : State) (c : Cmd), Runs s c 0x0A → Quiet s → c.subop ≠ 1 → c.subop ≠ 2 → c.a ≠ 0 → c.b = 0 → c.c = 0 →
    2621440 < packedLines (descAt s c c.a).ety (pbE (ctx s c.ctx)) (pbD (ctx s c.ctx)) * 64 →
    ∃ t, exec (.ctxloadLoad c.q c.tag) s = .next t ∧ Reports s t c 0 0 0 0 ∧
      ctx t c.ctx = { ctx s c.ctx with next := some { desc := rdNum s.mem (opAddr c.a) 64 } } ∧
      (∀ x, x ≠ c.ctx → ctx t x = ctx s x) ∧ t.slots = s.slots ∧ t.mem = s.mem ∧ t.disp = s.disp) ∧
  (∀ (s : State) (c : Cmd) (i : Nat), Runs s c 0x0A → Quiet s → c.subop = 0 → c.a ≠ 0 → c.b = 0 → c.c = 0 →
    (descAt s c c.a).dom = false →
    packedLines (descAt s c c.a).ety (pbE (ctx s c.ctx)) (pbD (ctx s c.ctx)) * 64 ≤ 2621440 →
    loadSlot s c.ctx = some i → i < s.slots.length →
    ∃ t x, exec (.ctxloadLoad c.q c.tag) s = .next t ∧ Reports s t c 0 0 0 0 ∧
      ctx t c.ctx = { ctx s c.ctx with next := some { desc := rdNum s.mem (opAddr c.a) 64, slot := some i } } ∧
      t.slots[i]? = some x ∧ x.st = 2 ∧ x.ctx = c.ctx ∧
      x.lines = packedLines (descAt s c c.a).ety (pbE (ctx s c.ctx)) (pbD (ctx s c.ctx)) ∧
      x.rows.length = pbE (ctx s c.ctx) ∧ (∀ j, j ≠ i → t.slots[j]? = s.slots[j]?) ∧ t.mem = s.mem) ∧
  (∀ (s : State) (c : Cmd) (w : WSource), Issues s c 0x0A → c.subop = 1 → c.c = 0 → (ctx s c.ctx).next = some w →
    ∃ t, exec (.ctxloadSwap c.q c.tag) s = .next t ∧ Reports s t c 0 0 0 0 ∧
      ctx t c.ctx = { ctx s c.ctx with cur := some w, next := none } ∧ (∀ x, x ≠ c.ctx → ctx t x = ctx s x) ∧
      (w.slot = none → t.slots = s.slots) ∧ { t with front := s.front, ctxs := s.ctxs, slots := s.slots } = s) ∧
  (∀ (s : State) (c : Cmd), Issues s c 0x0A → Quiet s → c.subop = 2 → (c.c ≠ 0 → Slotted s c) →
    ∃ t, exec (.ctxloadRelease c.q c.tag) s = .next t ∧ Reports s t c 0 0 0 0 ∧
      ctx t c.ctx = { ctx s c.ctx with
        cur := none, next := none,
        pb := if c.c = 0 then (ctx s c.ctx).pb else pbReload (ctx s c.ctx).pb (rdWords s.mem (opAddr c.c) 4) } ∧
      (∀ x, x ≠ c.ctx → ctx t x = ctx s x) ∧ CountsOnly { s with front := t.front, ctxs := t.ctxs } t)

/-- Where a selection instruction does not run (R137, R197, R247): under the wrong ROUTE, with function tables that do not
match their checksum, and with more assignments than the store has tickets. It opens no use and writes nothing. HASHSEL
(R135, R148, R192, R197): the record of token i holds the K experts of the hash of SEED and the token's global number, in
order of discovery, all with one gate; a use is opened and its tickets are SELECTED. Nothing but the records is written.
Completes: HASHSEL (hashsel). -/
def Obligations.SelectionStarts : Prop :=
  (∀ (s : State) (c : Cmd) (ecc : SramEcc), Issues s c 0x10 → pbRoute (ctx s c.ctx) = 3 →
    ∃ t, exec (.score c.q c.tag ecc) s = .next t ∧ Reports s t c 0x3F 0x11 0 0 ∧ { t with front := s.front } = s) ∧
  (∀ (s : State) (c : Cmd) (ecc : SramEcc), Issues s c 0x11 → pbRoute (ctx s c.ctx) ≠ 3 → tablesOk s = false →
    ∃ t, exec (.scorev c.q c.tag ecc) s = .next t ∧ Reports s t c 0x30 0x14 0 0 ∧ { t with front := s.front } = s) ∧
  (∀ (s : State) (c : Cmd), Issues s c 0x12 → pbRoute (ctx s c.ctx) ≠ 3 →
    ∃ t, exec (.hashsel c.q c.tag) s = .next t ∧ Reports s t c 0x3F 0x11 0 0 ∧ { t with front := s.front } = s) ∧
  (∀ (s : State) (c : Cmd), Runs s c 0x12 → Quiet s → pbRoute (ctx s c.ctx) = 3 →
    ringSize < (descAt s c c.a).rows * pbK (ctx s c.ctx) →
    ∃ t, exec (.hashsel c.q c.tag) s = .next t ∧ Reports s t c 0x3F 0x12 0 0 ∧ t.disp = s.disp ∧ t.mem = s.mem) ∧
  (∀ (s : State) (c : Cmd), Issues s c 0x12 → Inv s → SelReady s c → pbRoute (ctx s c.ctx) = 3 →
    ∃ t, exec (.hashsel c.q c.tag) s = .next t ∧ Selects s t c ∧
      MemOnly (areaAt (opAddr c.b + 64) (64 * (descAt s c c.a).rows)) s t ∧
      ∀ i j, i < (descAt s c c.a).rows → j < pbK (ctx s c.ctx) →
        bits (rdNum t.mem (opAddr c.b + 64 + 64 * i + 4 * j) 4) 0 12 =
          nth (hashSelect (pbSeed (ctx s c.ctx)) (bits (rdNum s.mem (opAddr c.b) 64) 0 48 + i) (pbE (ctx s c.ctx))
            (pbK (ctx s c.ctx))) j % 2 ^ 12)

/-- SCORE and SCOREV (R116, R133, R135, R146, R192, R197): they open a use, write one 64-byte record per token, the
statistics block where operand C names one, and the logits where SUBOP is 8; nothing else in host memory changes. The
numbers are those of chapters 03, 05 and 06, as Machine/Score.lean has them; corrected errors change none of them.
Completes: SCORE (score), SCOREV (scorev). -/
def Obligations.Scoring : Prop :=
  ∀ (s : State) (c : Cmd) (i : Instr), Inv s → SelReady s c → pbRoute (ctx s c.ctx) ≠ 3 → tablesOk s = true →
    (∃ n, (Issues s c 0x10 ∧ i = .score c.q c.tag { corrected := n }) ∨
      (Issues s c 0x11 ∧ i = .scorev c.q c.tag { corrected := n })) →
    ∃ t, exec i s = .next t ∧ Selects s t c ∧
      MemOnly (fun x => areaAt (opAddr c.b + 64) (64 * (descAt s c c.a).rows) x ∨
        (c.c ≠ 0 ∧ areaAt (opAddr c.c) (64 + 8 * pbE (ctx s c.ctx)) x) ∨
        (c.subop = 8 ∧ csrField s 0x40010 6 36 ≠ 0 ∧
          areaAt (csrField s 0x40010 6 36 * 64) (roundUp (4 * pbE (ctx s c.ctx)) 64 * (descAt s c c.a).rows) x)) s t

/-- The choice of experts without groups (R139, R140): the K greatest keys, NaN below every number, of equal keys that
with the lower expert index, in descending order. Hash selection (R148, Table 06.5): the experts discovered are distinct,
below EXPERTS and at most K; the list of a token has K entries, distinct and below EXPERTS, and begins with those
discovered; what the loop has not found within 2^20 steps is a free choice (log entry 27). A result of mix64 fits 64 bits.
-/
def Obligations.KeysAndHashes : Prop :=
  (∀ (g : SelCfg) (keys : List FVal), g.ngrp < 2 →
    (choose g keys).1.length = min g.k keys.length ∧ (choose g keys).1.Nodup ∧
    (∀ e ∈ (choose g keys).1, e < keys.length) ∧
    (∀ e ∈ (choose g keys).1, ∀ x, x < keys.length → x ∉ (choose g keys).1 →
      ranksAbove ((keys[x]?).getD .nan) ((keys[e]?).getD .nan) = false ∧
      (ranksAbove ((keys[e]?).getD .nan) ((keys[x]?).getD .nan) = false → e < x)) ∧
    (choose g keys).1.Pairwise (fun a b => ranksAbove ((keys[b]?).getD .nan) ((keys[a]?).getD .nan) = false ∧
      (ranksAbove ((keys[a]?).getD .nan) ((keys[b]?).getD .nan) = false → a < b))) ∧
  (∀ x, mix64 x < 2 ^ 64) ∧
  (∀ E k fuel x, 0 < E → (hashLoop E k fuel x []).Nodup ∧ (∀ e ∈ hashLoop E k fuel x [], e < E) ∧
    (hashLoop E k fuel x []).length ≤ k) ∧
  (∀ seed g E k, (hashSelect seed g E k).length = k ∧
    (hashLoop E k (2 ^ 20) ((seed ^^^ g) % 2 ^ 64) []).reverse <+: hashSelect seed g E k ∧
    (0 < E → k ≤ E → (hashSelect seed g E k).Nodup ∧ ∀ e ∈ hashSelect seed g E k, e < E))

/-- RGRAD (R127 to R129, R131, R247): on a hash-routed context it completes and writes nothing; without matching tables it
completes with ECC_UNCORRECTABLE, 0x14; otherwise, with no dX asked for, it writes the rows of SCRATCH and of DW and nothing
else. A double-bit error in core SRAM ends it after the writes that it made before, names the core that holds the word, and
frees a slot that held it. Completes: RGRAD (rgrad). -/
def Obligations.RouterGradients : Prop :=
  (∀ (s : State) (c : Cmd) (ecc : SramEcc), Issues s c 0x13 → tablesOk s = false →
    ∃ t, exec (.rgrad c.q c.tag ecc) s = .next t ∧ Reports s t c 0x30 0x14 0 0 ∧ { t with front := s.front } = s) ∧
  (∀ (s : State) (c : Cmd) (ecc : SramEcc), Issues s c 0x13 → tablesOk s = true → pbRoute (ctx s c.ctx) = 3 →
    ∃ t, exec (.rgrad c.q c.tag ecc) s = .next t ∧ Reports s t c 0 0 0 0 ∧ { t with front := s.front } = s) ∧
  (∀ (s : State) (c : Cmd) (ecc : SramEcc), Runs s c 0x13 → Quiet s → tablesOk s = true → pbRoute (ctx s c.ctx) ≠ 3 →
    pbBad (ctx s c.ctx) = false → (descAt s c c.a).dom = false → (descAt s c c.b).dom = false →
    WeightsLocal s c →
    bits (rdNum s.mem (opAddr c.c) 64) 198 36 = 0 →
    let writes := fun x =>
      areaAt (bits (rdNum s.mem (opAddr c.c) 64) 70 36 * 64)
        (roundUp (2 * pbE (ctx s c.ctx)) 64 * (descAt s c c.a).rows) x ∨
      (bits (rdNum s.mem (opAddr c.c) 64) 134 36 ≠ 0 ∧
        areaAt (bits (rdNum s.mem (opAddr c.c) 64) 134 36 * 64)
          (roundUp ((if bit (rdNum s.mem (opAddr c.c) 64) 321 then 4 else 8) * pbD (ctx s c.ctx)) 64 *
            pbE (ctx s c.ctx)) x)
    (ecc.double = none →
      ∃ t, exec (.rgrad c.q c.tag ecc) s = .next t ∧ Reports s t c 0 0 0 0 ∧ MemOnly writes s t ∧
        t.ctxs = s.ctxs ∧ t.disp = s.disp ∧ t.slots = s.slots) ∧
    (∀ x, ecc.double = some x →
      ∃ t, exec (.rgrad c.q c.tag ecc) s = .next t ∧
        Reports s t c 0x30 (0x10 + coreOf (coreActive s) x.core * 2 ^ 8) 0 0 ∧ MemOnly writes s t ∧
        (x.after = 0 → t.mem = s.mem) ∧ t.mgt.next = (s.mgt.next + 1) % 2 ^ 32 ∧ t.disp = s.disp ∧
        (x.slot = false → t.slots = s.slots ∧ t.ctxs = s.ctxs) ∧
        ∀ w i, x.slot = true → (ctx s c.ctx).cur = some w → w.slot = some i → i < s.slots.length →
          t.slots[i]? = some {}))

/-- ACT, NORM and SOFTMAX (R131, R239, R240, R242, R243, R247): each completes with OK and writes the rows of its destination,
NORM its statistics too, and nothing else in host memory; ACT returns the elements it wrote, the others the rows, of which a
row without elements has none. Without matching tables a form that needs the pipes completes with ECC_UNCORRECTABLE, 0x14; a
double-bit error in core SRAM ends the instruction, and one that it meets before its first write leaves memory as it was. RELU
of one F32 element (R54, Table 09.3): a number of sign 0, +infinity included, passes unchanged; a number of sign 1, -infinity
included, gives +0; a NaN gives the canonical NaN. Nothing but the element's four bytes is written. Completes: ACT (act), NORM
(norm), SOFTMAX (softmax). -/
def Obligations.FunctionUnits : Prop :=
  (∀ (s : State) (c : Cmd) (i : Instr) (ecc : SramEcc), Quiet s → Slotted s c → (descAt s c c.a).dom = false →
    (descAt s c c.b).dom = false →
    (Issues s c 0x30 ∧ i = .act c.q c.tag ecc ∧ c.c = 0 ∧ (fnPasses c.subop = 0 ∨ tablesOk s = true)) ∨
      (Issues s c 0x32 ∧ i = .softmax c.q c.tag ecc ∧ tablesOk s = true) →
    let d := descAt s c c.b
    ∃ t st dt r, exec i s = .next t ∧ Reports s t c st dt r 0 ∧
      MemOnly (rowArea { d with ety := sfuType d.ety }) s t ∧ t.ctxs = s.ctxs ∧ t.disp = s.disp ∧ t.slots = s.slots ∧
      (ecc.double = none → st = 0 ∧ dt = 0 ∧
        r = (if c.opc = 0x30 then d.rows * d.size 0 else if d.size 0 = 0 then 0 else d.rows)) ∧
      (∀ x, ecc.double = some x → st = 0x30 ∧ dt = 0x10 + coreOf (coreActive s) x.core * 2 ^ 8 ∧ r = 0 ∧
        t.mgt.next = (s.mgt.next + 1) % 2 ^ 32 ∧ (x.after = 0 → t.mem = s.mem))) ∧
  (∀ (s : State) (c : Cmd) (ecc : SramEcc), Runs s c 0x31 → Quiet s → tablesOk s = true → (descAt s c c.a).dom = false →
    (descAt s c c.b).dom = false → bits (rdNum s.mem (opAddr c.c) 64) 6 36 = 0 →
    bits (rdNum s.mem (opAddr c.c) 64) 70 36 = 0 →
    let d := descAt s c c.b
    ∃ t st dt r, exec (.norm c.q c.tag ecc) s = .next t ∧ Reports s t c st dt r 0 ∧
      MemOnly (fun x => rowArea { d with ety := sfuType d.ety } x ∨
        (bits (rdNum s.mem (opAddr c.c) 64) 134 36 ≠ 0 ∧
          areaAt (bits (rdNum s.mem (opAddr c.c) 64) 134 36 * 64) (8 * d.rows) x)) s t ∧
      t.ctxs = s.ctxs ∧ t.disp = s.disp ∧ t.slots = s.slots ∧
      (ecc.double = none → st = 0 ∧ dt = 0 ∧ r = (if (descAt s c c.a).size 0 = 0 ∨ d.size 0 = 0 then 0 else d.rows)) ∧
      (∀ x, ecc.double = some x → st = 0x30 ∧ dt = 0x10 + coreOf (coreActive s) x.core * 2 ^ 8 ∧ r = 0 ∧
        t.mgt.next = (s.mgt.next + 1) % 2 ^ 32 ∧ (x.after = 0 → t.mem = s.mem))) ∧
  (∀ (s : State) (c : Cmd) (i : Instr) (ecc : SramEcc), tablesOk s = false →
    (Issues s c 0x30 ∧ i = .act c.q c.tag ecc ∧ fnPasses c.subop ≠ 0) ∨ (Issues s c 0x31 ∧ i = .norm c.q c.tag ecc) ∨
      (Issues s c 0x32 ∧ i = .softmax c.q c.tag ecc) →
    ∃ t, exec i s = .next t ∧ Reports s t c 0x30 0x14 0 0 ∧ { t with front := s.front } = s) ∧
  (∀ (s : State) (c : Cmd) (x : Nat), Runs s c 0x30 → Inv s → Quiet s → c.subop = 1 → c.c = 0 →
    (descAt s c c.a).dom = false → (descAt s c c.b).dom = false → (descAt s c c.a).ety = 1 → (descAt s c c.b).ety = 1 →
    (descAt s c c.a).sizes = [1, 1, 1, 1, 1, 1] → (descAt s c c.b).sizes = [1, 1, 1, 1, 1, 1] →
    rdNum s.mem (descAt s c c.a).base 4 = x →
    ∃ t, exec (.act c.q c.tag {}) s = .next t ∧ Reports s t c 0 0 1 0 ∧
      rdNum t.mem (descAt s c c.b).base 4 =
        (if x ≤ 0x7F800000 then x else if x < 0x80000000 then 0x7FC00000 else if x ≤ 0xFF800000 then 0 else 0x7FC00000) ∧
      ∀ a, (∀ i, i < 4 → a % 2 ^ 42 ≠ ((descAt s c c.b).base + i) % 2 ^ 42) → rdByte t.mem a = rdByte s.mem a)

/-! ## The Yard -/

/-- GATHER, SCATTER, COPY and XPOSE (R165, R168, R172, R182 to R191): with local operands each writes the rows of its
destination and nothing else in host memory, and completes with OK where no access meets an error. A double-bit error in the
staging memory ends it with ECC_UNCORRECTABLE, 0x11, and one that it meets before its first write leaves memory as it was.
Two instructions of the Yard that conflict are left to log entry 140 (R175). Completes: GATHER (gather), SCATTER (scatter),
COPY (copy), XPOSE (xpose). -/
def Obligations.YardMoves : Prop :=
  (∀ (s : State) (c : Cmd) (i : Instr) (ecc : SramEcc),
    (Runs s c 0x21 ∧ i = .gather c.q c.tag ecc) ∨ (Runs s c 0x22 ∧ i = .scatter c.q c.tag ecc) → YardAlone s c →
    (descAt s c c.a).dom = false → (descAt s c c.b).dom = false → (descAt s c c.c).dom = false →
    ∃ t st dt r, exec i s = .next t ∧ Reports s t c st dt r 0 ∧
      MemOnly (rowArea (asDest (descAt s c c.a) (descAt s c c.c))) s t ∧ t.ctxs = s.ctxs ∧ t.disp = s.disp ∧
      (Quiet s → ecc.double = none → st = 0 ∧ dt = 0) ∧
      (∀ x, Quiet s → ecc.double = some x → st = 0x30 ∧ dt = 0x11 ∧ (x.after = 0 → t.mem = s.mem))) ∧
  (∀ (s : State) (c : Cmd) (x : Bool) (i : Instr) (ecc : SramEcc),
    (Runs s c 0x23 ∧ x = false ∧ i = .copy c.q c.tag ecc) ∨ (Runs s c 0x24 ∧ x = true ∧ i = .xpose c.q c.tag ecc) →
    YardAlone s c → packedType (descAt s c c.a) = false → packedType (descAt s c c.c) = false →
    (descAt s c c.a).dom = false → (descAt s c c.c).dom = false →
    ∃ t st dt r, exec i s = .next t ∧ Reports s t c st dt r 0 ∧
      MemOnly (rowArea (asDest (descAt s c c.a) (descAt s c c.c))) s t ∧ t.ctxs = s.ctxs ∧ t.disp = s.disp ∧
      (Quiet s → ecc.double = none → st = 0 ∧ dt = 0) ∧
      (∀ x, Quiet s → ecc.double = some x → st = 0x30 ∧ dt = 0x11 ∧ (x.after = 0 → t.mem = s.mem)))

/-- One row moved without conversion (R167, R168, R182, R183, R185): COPY of a row of up to 64 elements, GATHER of one row
by an index in range, and SCATTER of one row to an index in range bring exactly its bytes to the destination row; a
SCATTER whose index is out of range writes nothing. XPOSE of a tensor of one tile without conversion (R185, R186): element
e of destination row r is element r of source row e. -/
def Obligations.RowsAndTiles : Prop :=
  (∀ (s : State) (c : Cmd) (n : Nat), Runs s c 0x23 → Inv s → Quiet s → YardAlone s c →
    (descAt s c c.a).dom = false → (descAt s c c.c).dom = false → (descAt s c c.a).xpi = (descAt s c c.c).xpi →
    (descAt s c c.a).ety = (descAt s c c.c).ety → packedType (descAt s c c.a) = false →
    (descAt s c c.a).sizes = [n, 1, 1, 1, 1, 1] → (descAt s c c.c).sizes = [n, 1, 1, 1, 1, 1] → 0 < n → n ≤ 64 →
    ∃ t, exec (.copy c.q c.tag {}) s = .next t ∧
      Reports s t c 0 0 (n * (etyBits (descAt s c c.a).ety / 8)) 0 ∧
      ∀ i, i < n * (etyBits (descAt s c c.a).ety / 8) →
        rdByte t.mem ((descAt s c c.c).base + i) = rdByte s.mem ((descAt s c c.a).base + i)) ∧
  (∀ (s : State) (c : Cmd) (r : Nat), Runs s c 0x21 → Inv s → Quiet s → YardAlone s c →
    (descAt s c c.a).dom = false → (descAt s c c.b).dom = false → (descAt s c c.c).dom = false →
    (descAt s c c.a).xpi = false → (descAt s c c.b).sizes = [1, 1, 1, 1, 1, 1] →
    (descAt s c c.a).ety = (descAt s c c.c).ety → packedType (descAt s c c.a) = false →
    (descAt s c c.c).size 0 ≤ (descAt s c c.a).size 0 → 0 < (descAt s c c.c).rows →
    rdNum s.mem (descAt s c c.b).base 4 = r → r < 2 ^ 31 → r < (descAt s c c.a).rows →
    ∃ t, exec (.gather c.q c.tag {}) s = .next t ∧ Reports s t c 0 0 1 0 ∧
      ∀ i, i < (descAt s c c.c).size 0 * (etyBits (descAt s c c.a).ety / 8) →
        rdByte t.mem ((descAt s c c.c).base + i) =
          rdByte s.mem ((descAt s c c.a).rowAddr ((descAt s c c.a).coords r) + i)) ∧
  (∀ (s : State) (c : Cmd) (r : Nat), Runs s c 0x22 → Inv s → Quiet s → YardAlone s c →
    (descAt s c c.a).dom = false → (descAt s c c.b).dom = false → (descAt s c c.c).dom = false →
    (descAt s c c.c).xpi = false → (descAt s c c.b).sizes = [1, 1, 1, 1, 1, 1] →
    (descAt s c c.a).ety = (descAt s c c.c).ety → packedType (descAt s c c.a) = false →
    (descAt s c c.c).size 0 ≤ (descAt s c c.a).size 0 → 0 < (descAt s c c.a).rows →
    rdNum s.mem (descAt s c c.b).base 4 = r →
    ∃ t, exec (.scatter c.q c.tag {}) s = .next t ∧
      (if r < 2 ^ 31 ∧ r < (descAt s c c.c).rows then
        Reports s t c 0 0 1 0 ∧ ∀ i, i < (descAt s c c.c).size 0 * (etyBits (descAt s c c.a).ety / 8) →
          rdByte t.mem ((descAt s c c.c).rowAddr ((descAt s c c.c).coords r) + i) =
            rdByte s.mem ((descAt s c c.a).base + i)
       else Reports s t c 0 0 0 0 ∧ t.mem = s.mem)) ∧
  (∀ (s : State) (c : Cmd) (m n k : Nat), Runs s c 0x24 → Inv s → Quiet s → YardAlone s c →
    (descAt s c c.a).dom = false → (descAt s c c.c).dom = false → (descAt s c c.a).xpi = (descAt s c c.c).xpi →
    (descAt s c c.a).ety = (descAt s c c.c).ety → packedType (descAt s c c.a) = false →
    (descAt s c c.a).sizes = [m, n, 1, 1, 1, 1] → (descAt s c c.c).sizes = [n, m, 1, 1, 1, 1] →
    0 < m → m < 64 → 0 < n → n ≤ 64 → (descAt s c c.c).strides = [(k : Int), 0, 0, 0, 0] →
    n * (etyBits (descAt s c c.a).ety / 8) ≤ 64 * k → (descAt s c c.c).base + 64 * k * m ≤ 2 ^ 42 →
    ∃ t, exec (.xpose c.q c.tag {}) s = .next t ∧
      Reports s t c 0 0 (m * (n * (etyBits (descAt s c c.a).ety / 8))) 0 ∧
      ∀ r e, r < m → e < n →
        rdNum t.mem ((descAt s c c.c).base + 64 * k * r + etyBits (descAt s c c.a).ety / 8 * e)
            (etyBits (descAt s c c.a).ety / 8) =
          rdNum s.mem ((descAt s c c.a).rowAddr [e, 0, 0, 0, 0] + etyBits (descAt s c c.a).ety / 8 * r)
            (etyBits (descAt s c c.a).ety / 8))

/-! ## Dispatch: counting, planning, sorting, work queues -/

/-- Instructions of a use that find none, and the group conditions (R163, R180, R195, R209, R213, R218, R290, R350, R409,
Table 04.5, Table 04.7): COUNT and PLAN outside their group; no live use of the context and batch ID; PLAN before COUNT,
or once rows have left or the use runs backward; COMBINE in the wrong phase; a member of the group lost. Each completes at
once. -/
def Obligations.UseConditions : Prop :=
  (∀ (s : State) (c : Cmd) (i : Instr) (ecc : Ecc), inCtxGroup s c.ctx = false →
    (Issues s c 0x18 ∧ i = .count c.q c.tag) ∨ (Issues s c 0x19 ∧ i = .plan c.q c.tag ecc) →
    ∃ t, exec i s = .next t ∧ Reports s t c 0x3F 0x15 0 0 ∧ { t with front := s.front } = s) ∧
  (∀ (s : State) (c : Cmd) (i : Instr) (ecc : Ecc), liveUse s c.ctx c.batch = none →
    (Issues s c 0x18 ∧ i = .count c.q c.tag ∧ inCtxGroup s c.ctx = true) ∨
      (Issues s c 0x19 ∧ i = .plan c.q c.tag ecc ∧ inCtxGroup s c.ctx = true) ∨
      (Issues s c 0x28 ∧ i = (if bit c.subop 0 then .sendBackward c.q c.tag else .sendForward c.q c.tag)) ∨
      (Issues s c 0x29 ∧ i = .ret c.q c.tag) ∨
      (Issues s c 0x2A ∧ i = (if bit c.subop 0 then .combineBackward c.q c.tag else .combineForward c.q c.tag)) →
    ∃ t, exec i s = .next t ∧ Reports s t c 0x10 0x04 0 0 ∧ { t with front := s.front } = s) ∧
  (∀ (s : State) (c : Cmd) (ecc : SramEcc), Issues s c 0x20 → liveUse s c.ctx c.batch = none →
    ∃ t, exec (.sort c.q c.tag ecc) s = .next t ∧ Reports s t c 0 1 0 0 ∧ t.mem = s.mem ∧ t.disp = s.disp) ∧
  (∀ (s : State) (c : Cmd) (u : Use) (ecc : Ecc), Issues s c 0x19 → inCtxGroup s c.ctx = true →
    liveUse s c.ctx c.batch = some u →
    (u.counted = false → ∃ t, exec (.plan c.q c.tag ecc) s = .next t ∧ Reports s t c 0x3F 0x1A 0 0 ∧
      { t with front := s.front } = s) ∧
    (u.counted = true → u.backward = true ∨ u.sendIssued = true →
      ∃ t, exec (.plan c.q c.tag ecc) s = .next t ∧ Reports s t c 0x3F 0x13 0 0 ∧ { t with front := s.front } = s)) ∧
  (∀ (s : State) (c : Cmd) (u : Use), Issues s c 0x2A → liveUse s c.ctx c.batch = some u → bit c.subop 0 ≠ u.backward →
    ∃ t, exec (if bit c.subop 0 then .combineBackward c.q c.tag else .combineForward c.q c.tag) s = .next t ∧
      Reports s t c 0x3F 0x13 0 0 ∧ { t with front := s.front } = s) ∧
  (∀ (s : State) (c : Cmd) (u : Use) (i : Instr), liveUse s c.ctx c.batch = some u →
    (grp s (pbGroup (ctx s c.ctx))).lost = true →
    (Issues s c 0x28 ∧ i = (if bit c.subop 0 then .sendBackward c.q c.tag else .sendForward c.q c.tag)) ∨
      (Issues s c 0x29 ∧ i = .ret c.q c.tag) ∨
      (Issues s c 0x2A ∧ bit c.subop 0 = u.backward ∧
        i = (if bit c.subop 0 then .combineBackward c.q c.tag else .combineForward c.q c.tag)) →
    ∃ t, exec i s = .next t ∧ Reports s t c 0x13 (lostDetail s (pbGroup (ctx s c.ctx))) 0 0 ∧
      { t with front := s.front, disp := s.disp } = s ∧ (c.opc ≠ 0x28 → t.disp = s.disp))

/-- COUNT of a context that is not placed (R149 to R151, Table 06.6): it counts each assignment at the replica slot that R150
gives it, writes the histogram of 16 + K x EXPERTS words and nothing else in host memory, marks the use as counted under the
static map, LAYER_SEED and EXPERTS of its context, writes the slot into each ticket of the forward range, and returns the
assignments counted; DETAIL counts those whose EXPERT is at or above EXPERTS. With parameters out of range the histogram is
free (log entry 29). Completes: COUNT (count). -/
def Obligations.Counting : Prop :=
  ∀ (s : State) (c : Cmd) (u : Use), Issues s c 0x18 → Inv s → Quiet s → inCtxGroup s c.ctx = true →
    liveUse s c.ctx c.batch = some u → Live s u → placedSlot s c.ctx = none → countSlots s (stampIssue s c) u = true →
    let k := ctx s c.ctx
    let map := staticMap (pbE k) (boxCount (grpBox s (pbGroup k)))
    let slots := assignSlots map (grp s (pbGroup k)).midx u.tbase (pbLayerSeed k) (pbE k) u.k
      (readRecords (opAddr c.a) u.t u.k (ioStart s)).1
    let bad := (slots.filter Option.isNone).length
    ∃ t u1, exec (.count c.q c.tag) s = .next t ∧
      Reports s t c 0 (bad % 2 ^ 24) (u.t * u.k - bad) u.epoch ∧
      useAt t u.slot = some u1 ∧ u1.counted = true ∧ u1.pepoch = 0 ∧ u1.uncounted.length = bad ∧ u1.map = map ∧
      u1.lseed = pbLayerSeed k ∧ u1.experts = pbE k ∧
      MemOnly (areaAt (opAddr c.b) (4 * (16 + u.k * map.length))) s t ∧
      (pbBad k = false → u.k ≤ 16 → ∀ i, i < 16 + u.k * map.length →
        rdNum t.mem (opAddr c.b + 4 * i) 4 = nth (histogram u.t u.k map.length slots) i % 2 ^ 32) ∧
      (u.backward = false → u.t * u.k ≤ ringSize → ∀ i r, slots[i]? = some (some r) →
        (ticket s ((u.base + i) % ringSize)).bentry = u.slot → (ticket t ((u.base + i) % ringSize)).slot = r) ∧
      ((∀ i j, i < u.t → j < u.k → rdNum s.mem (opAddr c.a + 64 + 64 * i + 4 * j) 4 % 2 ^ 12 < pbE k) → bad = 0)

/-- PLAN on a member that owns no replica (R154, R155, R160, R162, R177, R225): the capacity and the fate of every assignment
are those of R154 and R155, over the slots in its tickets; it writes the positions to the position area and nothing else,
marks each ticket KEPT, DROPPED or FREE, enters the plan with its map, shows TOTAL and the capacity in YD_PLANLAST, and
completes with OK, or with OK_DROPS and the number of dropped assignments. A double-bit error in a ticket record of the use
ends the use. Completes: PLAN (plan). -/
def Obligations.Planning : Prop :=
  ∀ (s : State) (c : Cmd) (u : Use), Issues s c 0x19 → Inv s → Quiet s → inCtxGroup s c.ctx = true →
    liveUse s c.ctx c.batch = some u → Live s u → u.counted = true → u.backward = false → u.sendIssued = false →
    planSlots s (stampIssue s c) u = true →
    let k := ctx s c.ctx
    let n := 16 + u.map.length * u.k
    let x : PlanIn := {
      cf := pbCapFactor k, cmax := pbCapMax k, words := codesOf 8 (rdBytes s.mem (opAddr c.a) (8 * n)) 0 n }
    let c0 := capOf x u.k u.map.length s.draws
    let fate := fates (capMin x c0) (positions x u.k (asgOf u (slotsOf s u)))
    let drops := fate.length - (fate.filter Option.isSome).length
    (∃ t u1, exec (.plan c.q c.tag (.double true)) s = .next t ∧ Finished t c 0x30 0x12 ∧ useAt t u.slot = some u1 ∧
      u1.ended = some .ticketError) ∧
    ∀ ecc : Ecc, (∀ r, ecc ≠ .double r) → u.plan = none → ownSlots u.map (grp s (pbGroup k)).midx = [] →
    ∃ t u1 p, exec (.plan c.q c.tag ecc) s = .next t ∧
      Reports s t c (if drops = 0 then 0 else 1)
        (b2n (decide (x.low 0 ≠ u.tbase)) * 2 ^ 16 + b2n (decide (x.cmax ≠ 0 ∧ x.cmax < c0)) * 2 ^ 17) drops u.epoch ∧
      useAt t u.slot = some u1 ∧ u1.plan = some p ∧ p.cap = capMin x c0 ∧ p.shapes = [] ∧ p.scan = opAddr c.a ∧
      p.map = u.map ∧ p.slots = slotsOf s u ∧ p.pos = (if c.c = 0 then none else some (opAddr c.c)) ∧
      u1.kept = fate.map Option.isSome ∧
      csrGet t 0x60118 = x.tot 0 % 2 ^ 32 * 2 ^ 32 + capMin x c0 % 2 ^ 32 ∧
      MemOnly (fun a => c.c ≠ 0 ∧ areaAt (opAddr c.c) (4 * (u.t * u.k)) a) s t ∧
      (u.t * u.k ≤ ringSize → ∀ i, i < u.t * u.k →
        (c.c ≠ 0 → rdNum t.mem (opAddr c.c + 4 * i) 4 = nth (posWords fate) i) ∧
        (ticket t ((u.base + i) % ringSize)).st =
          (if u1.kept.getD i false then 2 else if i % max 1 u.k = 0 then 3 else 0))

/-- SORT (R178 to R181): the order of R178 is a sort of the kept assignments; without a plan entry SORT completes with DETAIL
1, without positions with DETAIL 2; a forward SORT that keeps up to 16 assignments of a class whose WQ_SEND is empty writes
their items to it in that order, with the slots and owners of the plan entry's own map, and executes until they are read, or
completes with OK where it keeps none. Completes: SORT (sort). -/
def Obligations.Sorting : Prop :=
  (∀ l : List SortKey, (sortBy SortKey.le l).Perm l ∧ (sortBy SortKey.le l).Pairwise (fun a b => a.le b = true)) ∧
  (∀ (s : State) (c : Cmd) (u : Use) (ecc : SramEcc), Issues s c 0x20 → liveUse s c.ctx c.batch = some u →
    u.plan = none →
    ∃ t, exec (.sort c.q c.tag ecc) s = .next t ∧ Reports s t c 0 1 0 u.epoch ∧ t.mem = s.mem ∧ t.disp = s.disp) ∧
  (∀ (s : State) (c : Cmd) (u : Use) (p : Plan) (ecc : SramEcc), Issues s c 0x20 → liveUse s c.ctx c.batch = some u →
    u.plan = some p → p.pos = none →
    ∃ t, exec (.sort c.q c.tag ecc) s = .next t ∧ Reports s t c 0 2 0 u.epoch ∧ t.mem = s.mem ∧ t.disp = s.disp) ∧
  (∀ (s : State) (c : Cmd) (u : Use) (p : Plan) (a : Nat), Runs s c 0x20 → Quiet s →
    liveUse s c.ctx c.batch = some u → Live s u → u.plan = some p → p.pos = some a → a < 2 ^ 42 → u.backward = false →
    u.cls < 4 → 0 < u.k → u.k ≤ 16 → s.disp.wqs.length = 4 → (wq s 0).cls.length = 4 → (wq s 0).busy = false →
    (wq s 0).at u.cls = {} → itemsLeft s 0 (cmdCode c) = false →
    p.recs = (readRecords (opAddr c.a) u.t u.k (ioStart s)).1 →
    p.posw = codesOf 1 (rdBytes s.mem a (4 * (u.t * u.k))) 0 (u.t * u.k) →
    let keys := sortKeys u p (assignSlots p.map p.midx u.tbase p.lseed p.experts u.k p.recs) p.posw
    keys.length ≤ 16 →
    ∃ t, exec (.sort c.q c.tag {}) s = .next t ∧ t.mem = s.mem ∧ t.disp.uses = s.disp.uses ∧
      ((wq t 0).at u.cls).all = keys.map (fun a => {
        w0 := headWord u 1, w1 := (sendItemWords u u.base a).1, w2 := (sendItemWords u u.base a).2, src := cmdCode c }) ∧
      (keys = [] → Reports s t c 0 0 0 u.epoch) ∧ (keys ≠ [] → MovesTo s t c .exec))

/-- TICKET_GRANT (R198): the waiting reservation of the lowest class, and of that class the one admitted first, takes its
tickets where they fit, and its selection runs, its SRAM reads meeting what its row gave (log entry 24); where they do not fit, or nothing waits, nothing happens. Completes:
TICKET_GRANT (ticketGrant). -/
def Obligations.TicketGrants : Prop :=
  (∀ s : State, Working s → (∀ x ∈ s.front.inflight, ∀ n, x.st ≠ .waitTicket n) →
    exec .ticketGrant s = .next s) ∧
  (∀ (s : State) (c : Cmd) (rest : List Cmd), Working s →
    (∀ x ∈ s.front.inflight, x.st ≠ .waitTicket 0) → waitOrder s = c :: rest → ringFree s < waitN c →
    exec .ticketGrant s = .next s) ∧
  (∀ (s : State) (c : Cmd) (rest : List Cmd) (u : Use), Working s → Quiet s → KeysDistinct s →
    (∀ x ∈ s.front.inflight, x.st ≠ .waitTicket 0) → waitOrder s = c :: rest → waitN c ≤ ringFree s →
    reserveSlots s c (waitN c) = true → c.opc = 0x12 → c.ecc = {} →
    liveUse s c.ctx c.batch = some u → waitN c = u.t * u.k → pbBad (ctx s c.ctx) = false →
    ∃ t, exec .ticketGrant s = .next t ∧ Finished t c 0 0 ∧
      ∀ i, i < u.t * u.k → (ticket t ((s.disp.nextTicket + i) % ringSize)).st = 1)

/-- Work queues (R204, R205, R208). A refill moves the oldest entry of a spill ring to the head, so that the order of the
class stays. A reset request makes the queue busy, discards its items, counts them, and ends their uses; a request during a
reset is pending; the reset's end makes the queue serve again, or starts the reset that is pending. Completes: WQ_REFILL
(wqRefill), WQ_RESET (wqReset), WQ_RESET_DONE (wqResetDone). -/
def Obligations.WorkQueues : Prop :=
  (∀ (s : State) (w k : Nat) (it : Item) (rest : List Item), Working s → Quiet s → w < 4 → k < 4 → QueueReads s w →
    holdsMp s (0x20 + w) = true → ((wq s w).at k).head.length < 16 → ((wq s w).at k).spill = it :: rest →
    ∃ t, exec (.wqRefill w k .none) s = .next t ∧ t.mem = s.mem ∧
      ((wq t w).at k).all = ((wq s w).at k).head ++
        spillRead s w k ((nth (wq s w).spillWr k + 2 ^ 32 - (rest.length + 1)) % 2 ^ 32) it ::
        (rest ++ ((wq s w).at k).tail) ∧
      (∀ j, j ≠ k → (wq t w).at j = (wq s w).at j)) ∧
  (∀ (s : State) (w : Nat), Working s → Inv s → w < 4 → s.disp.wqs.length = 4 → (wq s w).busy = false →
    ∃ t, exec (.wqReset (BitVec.ofNat 64 (2 ^ w)) true) s = .next t ∧ (wq t w).busy = true ∧ (wq t w).pend = false ∧
      (∀ k, ((wq t w).at k).all = []) ∧
      csrField t 0x80238 0 48 = min (csrField s 0x80238 0 48 + wqItems s w) (2 ^ 48 - 1) ∧
      (∀ u ∈ usesOf s ((wq s w).cls.map WqClass.all).flatten,
        ∃ v ∈ t.disp.uses, v.slot = u.slot ∧ v.ended = some .wqReset) ∧
      (∀ j, j ≠ w → wq t j = wq s j)) ∧
  (∀ (s : State) (w : Nat), Working s → Inv s → w < 4 → s.disp.wqs.length = 4 → (wq s w).busy = true →
    ∃ t, exec (.wqReset (BitVec.ofNat 64 (2 ^ w)) true) s = .next t ∧ (wq t w).pend = true ∧ (wq t w).busy = true ∧
      t.disp.uses = s.disp.uses ∧ t.mem = s.mem) ∧
  (∀ (s : State) (w : Nat), Working s → w < 4 → s.disp.wqs.length = 4 → (wq s w).busy = true →
    ∃ t, exec (.wqResetDone w) s = .next t ∧ (wq t w).busy = (wq s w).pend ∧ (wq t w).pend = false)

/-! ## Dispatch: rows and answers -/

/-- SEND (R10, R11, R163, R209 to R211): without a plan, and a backward SEND before the backward phase, it is held; where
the PLAN of its use failed it ends as that PLAN did; once its use has a plan it executes, and is done at once where the
rows of its use up to its phase are all acknowledged and its own receive buffers filled. A held SEND goes on in the same
way, and ends with CANCELLED, 0x04, once its use is gone. That a hold ends with the unit's report, and that rows carry no
phase, are the model's (log entries 131, 132). Completes: SEND_FORWARD (sendForward), SEND_BACKWARD (sendBackward),
SEND_HOLD_RELEASE (sendHoldRelease). -/
def Obligations.Sends : Prop :=
  (∀ (s : State) (c : Cmd) (u : Use), Runs s c 0x28 → Quiet s → liveUse s c.ctx c.batch = some u →
    (grp s (pbGroup (ctx s c.ctx))).lost = false → u.planFail = none → u.sendFail = none →
    (u.plan = none ∨ (bit c.subop 0 = true ∧ u.backward = false)) →
    ∃ t, exec (if bit c.subop 0 then .sendBackward c.q c.tag else .sendForward c.q c.tag) s = .next t ∧
      MovesTo s t c .held ∧ t.mem = s.mem ∧ t.disp = s.disp) ∧
  (∀ (s : State) (c : Cmd) (u : Use) (st dt : Nat), Runs s c 0x28 → Quiet s → liveUse s c.ctx c.batch = some u →
    (grp s (pbGroup (ctx s c.ctx))).lost = false → u.plan = none → u.planFail = some (st, dt) →
    ∃ t, exec (if bit c.subop 0 then .sendBackward c.q c.tag else .sendForward c.q c.tag) s = .next t ∧
      Reports s t c st dt 0 u.epoch ∧ t.mem = s.mem ∧ t.disp.tickets = s.disp.tickets) ∧
  (∀ (s : State) (c : Cmd) (u : Use) (p : Plan) (i : Instr), Quiet s → KeysDistinct s →
    liveUse s c.ctx c.batch = some u → Live s u → u.plan = some p → u.sendFail = none → bit c.subop 0 = u.backward →
    (bit c.subop 0 = false → hasCbufs u = true) → Settled s →
    (Runs s c 0x28 ∧ (grp s (pbGroup (ctx s c.ctx))).lost = false ∧
        i = (if bit c.subop 0 then .sendBackward c.q c.tag else .sendForward c.q c.tag)) ∨
      (Working s ∧ findCmd s c.q c.tag = some c ∧ c.opc = 0x28 ∧ c.st = .held ∧ c.saved ≠ [] ∧
        i = .sendHoldRelease c.q c.tag) →
    ∃ t u1 c1, exec i s = .next t ∧ useAt t u.slot = some u1 ∧ (bit c.subop 0 = false → u1.sendIssued = true) ∧
      findCmd t c.q c.tag = some c1 ∧ t.mem = s.mem ∧
      (if sendLeft u c = 0 then Finished t c 0 0 ∧ u1.sendDone = true else c1.st = .exec)) ∧
  (∀ (s : State) (c : Cmd), Working s → findCmd s c.q c.tag = some c → c.opc = 0x28 → c.st = .held →
    liveUse s c.ctx c.batch = none →
    ∃ t, exec (.sendHoldRelease c.q c.tag) s = .next t ∧ Finished t c 0x10 0x04 ∧ { t with front := s.front } = s)

/-- Rows on their way (R195, R200, R201, R204, R211, R212). The item at the head of WQ_SEND under an executing SEND leaves
as a row, and one of no live use is discarded and counted. A row at the head of WQ_RECV whose plan is there is written to
its receive buffer and its origin entry, and nothing else is. A row whose plan never came is discarded and counted. A
row's acknowledgement takes its ticket from KEPT to SENT. Completes: SEND_ITEM (sendItem), ROW_ARRIVAL (rowArrival),
ROW_PLAN_TIMEOUT (rowPlanTimeout), DACK_RECEIVE (dackReceive). -/
def Obligations.RowTraffic : Prop :=
  (∀ (s : State) (u : Use) (p : Plan) (c : Cmd) (it : Item) (rest : List Item), Working s → Inv s → Quiet s →
    KeysDistinct s → QueueReads s 0 → ((wq s 0).at 0).head = it :: rest → matchUse s it.w0 = some u → Live s u →
    u.plan = some p → senderOf s u it = some c → bit c.subop 0 = false → (descOf c.level (nth c.saved 1)).dom = false →
    ∃ t u1 c1, exec (.sendItem .none .none) s = .next t ∧ useAt t u.slot = some u1 ∧ u1.sent = u.sent + 1 ∧
      findCmd t c.q c.tag = some c1 ∧ nth c1.saved 2 = nth c.saved 2 + 1 ∧
      ((wq t 0).at 0).all = ((wq s 0).at 0).all.drop 1) ∧
  (∀ (s : State) (it : Item) (rest : List Item), Working s → Inv s → QueueReads s 0 →
    ((wq s 0).at 0).head = it :: rest → matchUse s it.w0 = none →
    ∃ t, exec (.sendItem .none .none) s = .next t ∧ ((wq t 0).at 0).all = ((wq s 0).at 0).all.drop 1 ∧
      csrField t 0x80208 0 48 = min (csrField s 0x80208 0 48 + 1) (2 ^ 48 - 1) ∧ t.mem = s.mem ∧
      t.disp.uses = s.disp.uses ∧ t.fab = (freeHold s it.hold).fab) ∧
  (∀ (s : State) (u : Use) (p : Plan) (it : Item) (rest : List Item) (x : Shape) (before : Nat) (b : Buf), Working s →
    Inv s → Quiet s → QueueReads s 1 → ((wq s 1).at 0).head = it :: rest → matchUse s it.w0 = some u → Live s u →
    u.plan = some p → holdsMp s 0x14 = true → shapeOf (bits it.w1 14 18) 0 p.shapes = some (x, before) →
    x.buf = some b → bits it.w1 32 32 < x.rows →
    ∃ t u1, exec (.rowArrival .none) s = .next t ∧ useAt t u.slot = some u1 ∧ u1.received = u.received + 1 ∧
      ((wq t 1).at 0).all = ((wq s 1).at 0).all.drop 1 ∧
      MemOnly (fun a => areaAt (bufAddr s b + bits it.w1 32 32 * strideOf p.fmt u.d) it.payload.length a ∨
        areaAt (origAt s (p.origBase + before + bits it.w1 32 32)) 8 a) s t) ∧
  (∀ (s : State) (k : Nat) (u : Use) (it : Item) (rest : List Item), Working s → Inv s → k < 4 → QueueReads s 1 →
    ((wq s 1).at k).head = it :: rest → matchUse s it.w0 = some u → u.plan = none → u.planFail = none →
    ∃ t, exec (.rowPlanTimeout k) s = .next t ∧ ((wq t 1).at k).all = ((wq s 1).at k).all.drop 1 ∧
      csrField t 0x80218 0 48 = min (csrField s 0x80218 0 48 + 1) (2 ^ 48 - 1) ∧ t.mem = s.mem ∧
      t.disp.uses = s.disp.uses) ∧
  (∀ (s : State) (m : Msg) (u : Use), Working s → FirstMsg s (fun m => m.kind == 3 && dackSlots s m) m →
    matchUse s (bits m.hdr 64 64) = some u → Live s u → bits m.hdr 64 64 % 4 = 1 →
    (ticketAt u (bits m.hdr 128 21)).isSome = true → (ticket s (bits m.hdr 128 21)).st = 2 →
    ∃ t u1, exec (.dackReceive .none) s = .next t ∧ (ticket t (bits m.hdr 128 21)).st = 4 ∧
      useAt t u.slot = some u1 ∧ u1.acked = u.acked + 1 ∧ t.mem = s.mem ∧ TakesMsg s t m) ∧
  (∀ s : State, Working s → (∀ m ∈ s.fab.inbox, m.kind ≠ 3) → exec (.dackReceive .none) s = .next s)

/-- RETURN and answers (R195, R213 to R215). A RETURN is held until a SEND of the phase has completed; without a plan it then
completes with DETAIL bit 24, with a plan that gives the member no rows with nothing to send; a held one goes on in the same
way. The item at the head of WQ_RET leaves as an answer of its RETURN. An answer to no live use is discarded and counted; one
that awaits its place is written there, its ticket is ANSWERED, and its token waits for one answer less. Completes: RETURN
(ret), RETURN_HOLD_RELEASE (returnHoldRelease), RETURN_ITEM (returnItem), ANSWER_ARRIVAL (answerArrival). -/
def Obligations.Answers : Prop :=
  (∀ (s : State) (c : Cmd) (u : Use), Runs s c 0x29 → Quiet s → liveUse s c.ctx c.batch = some u →
    (grp s (pbGroup (ctx s c.ctx))).lost = false →
    (u.sendDone = false → ∃ t, exec (.ret c.q c.tag) s = .next t ∧ MovesTo s t c .held ∧ t.mem = s.mem ∧
      t.disp = s.disp) ∧
    (u.sendDone = true → s.front.inflight.any (isSending u) = false → u.plan = none →
      ∃ t, exec (.ret c.q c.tag) s = .next t ∧ Reports s t c 0 (2 ^ 24) 0 u.epoch ∧ t.mem = s.mem ∧ t.disp = s.disp) ∧
    (∀ p, u.sendDone = true → s.front.inflight.any (isSending u) = false → u.plan = some p →
      (∀ x ∈ p.shapes, x.rows = 0) →
      ∃ t, exec (.ret c.q c.tag) s = .next t ∧ Finished t c 0 0 ∧ t.mem = s.mem ∧ t.disp = s.disp)) ∧
  (∀ (s : State) (c : Cmd), Working s → findCmd s c.q c.tag = some c → c.opc = 0x29 → c.st = .held →
    (liveUse s c.ctx c.batch = none →
      ∃ t, exec (.returnHoldRelease c.q c.tag) s = .next t ∧ Finished t c 0x10 0x04 ∧ { t with front := s.front } = s) ∧
    (∀ u, liveUse s c.ctx c.batch = some u → u.sendDone = true → s.front.inflight.any (isSending u) = false →
      u.plan = none →
      ∃ t, exec (.returnHoldRelease c.q c.tag) s = .next t ∧ Finished t c 0 (2 ^ 24) ∧ { t with front := s.front } = s)) ∧
  (∀ (s : State) (u : Use) (p : Plan) (c : Cmd) (it : Item) (rest : List Item), Working s → Inv s → Quiet s →
    KeysDistinct s → QueueReads s 2 → ((wq s 2).at 0).head = it :: rest → matchUse s it.w0 = some u → Live s u →
    u.plan = some p → returnerOf s u it = some c →
    (descOf c.level (nth (retRaws c) ((p.shapes.map (·.slot)).idxOf (bits it.w1 14 18)))).dom = false →
    ∃ t c1, exec (.returnItem .none) s = .next t ∧ findCmd t c.q c.tag = some c1 ∧ retSent c1 = retSent c + 1 ∧
      retAcked c1 = retAcked c ∧ ((wq t 2).at 0).all = ((wq s 2).at 0).all.drop 1) ∧
  (∀ (s : State) (it : Item) (rest : List Item), Working s → Inv s → QueueReads s 3 →
    ((wq s 3).at 0).head = it :: rest → matchUse s it.w0 = none → answerSlots s it = true →
    ∃ t, exec (.answerArrival .none .none) s = .next t ∧ ((wq t 3).at 0).all = ((wq s 3).at 0).all.drop 1 ∧
      csrField t 0x80210 0 48 = min (csrField s 0x80210 0 48 + 1) (2 ^ 48 - 1) ∧ t.mem = s.mem ∧
      t.disp.uses = s.disp.uses) ∧
  (∀ (s : State) (u : Use) (it : Item) (rest : List Item) (b x j : Nat), Working s → Inv s → Quiet s → QueueReads s 3 →
    ((wq s 3).at 0).head = it :: rest → matchUse s it.w0 = some u → Live s u → answerSlots s it = true →
    hasCbufs u = true → u.combined.length ≠ u.t → curBase u = some b → ticketAt u (bits it.w2 22 21) = some (x, j) →
    (ticket s (bits it.w2 22 21)).st = 4 → bits it.w2 20 2 = 0 → 2 ≤ (ticket s (ticketNo b u.k x 0)).pend →
    ∃ t, exec (.answerArrival .none .none) s = .next t ∧ (ticket t (bits it.w2 22 21)).st = 5 ∧
      (ticket t (ticketNo b u.k x 0)).pend = (ticket s (ticketNo b u.k x 0)).pend - 1 ∧
      ((wq t 3).at 0).all = ((wq s 3).at 0).all.drop 1 ∧ MemOnly (areaAt (answerAt s u x j) (2 * u.d)) s t)

/-- COMBINE (R217 to R220). With a token not combined yet it waits. With every token combined it writes the rows of its
destination and, where operand A names an area, the gates or gate gradients, and nothing else in host memory; it returns the
local rows, counts dropped assignments, and a forward one turns the use to its backward phase. With END the use ends.
Completes: COMBINE_FORWARD (combineForward), COMBINE_BACKWARD (combineBackward). -/
def Obligations.Combining : Prop :=
  (∀ (s : State) (c : Cmd) (u : Use), Runs s c 0x2A → Quiet s → liveUse s c.ctx c.batch = some u →
    bit c.subop 0 = u.backward → (grp s (pbGroup (ctx s c.ctx))).lost = false → u.combined.length ≠ u.t →
    ∃ t, exec (if bit c.subop 0 then .combineBackward c.q c.tag else .combineForward c.q c.tag) s = .next t ∧
      MovesTo s t c .waitTokens ∧ t.mem = s.mem ∧ t.disp = s.disp) ∧
  (∀ (s : State) (c : Cmd) (u : Use), Runs s c 0x2A → Quiet s → liveUse s c.ctx c.batch = some u → Live s u →
    bit c.subop 0 = u.backward → (grp s (pbGroup (ctx s c.ctx))).lost = false → u.combined.length = u.t →
    u.cerr = none → (descAt s c c.b).dom = false →
    ∃ t u1, exec (if bit c.subop 0 then .combineBackward c.q c.tag else .combineForward c.q c.tag) s = .next t ∧
      useAt t u.slot = some u1 ∧ u1.backward = true ∧
      (bit c.subop 1 = false →
        Reports s t c (if dropsOf u = 0 then 0 else 1) (min (dropsOf u) 0xFFFFFFFF) u.t u.epoch ∧ u1.ended = none) ∧
      (bit c.subop 1 = true → u1.ended = some .combineEnd ∧
        Finished t c (if dropsOf u = 0 then 0 else 1) (min (dropsOf u) 0xFFFFFFFF)) ∧
      MemOnly (fun x => rowArea { descAt s c c.b with ety := cmbType (descAt s c c.b).ety } x ∨
        (c.a ≠ 0 ∧ areaAt (opAddr c.a) (u.t * (u.k * (if u.backward then 4 else 2))) x)) s t)

/-- CANCEL and the end of a use (R194, R222). CANCEL of a batch ID with no live use, or with another epoch than the live
one and ANY = 0, completes and does nothing. Otherwise the use ends: every instruction of it stops with CANCELLED, 0x02.
The oldest ended use whose releases have their slots is then released: its entry is free, it holds no ticket, and the
CANCEL that ended it completes. Waits that end by a timer (R224, R261): a SEND that executes, a RETURN, and a COMBINE that
waits, complete with STALLED and what is still outstanding; an ALLOC that waits under STRICT for a free buffer completes
with SHED_EXHAUSTED, reason 2. Completes: CANCEL (cancel), USE_RELEASE (useRelease), STALL_TIMEOUT (stallTimeout),
SHED_WAIT_TIMEOUT (shedWaitTimeout). -/
def Obligations.EndsAndStalls : Prop :=
  (∀ (s : State) (c : Cmd), Issues s c 0x2B →
    (∀ u, liveUse s c.ctx c.batch = some u → bit c.a 16 = false ∧ bits c.a 0 16 ≠ u.epoch) →
    ∃ t, exec (.cancel c.q c.tag) s = .next t ∧ Reports s t c 0 0 0 0 ∧ { t with front := s.front } = s) ∧
  (∀ (s : State) (c : Cmd) (u : Use), Issues s c 0x2B → KeysDistinct s → liveUse s c.ctx c.batch = some u → Live s u →
    bit c.a 16 = true ∨ bits c.a 0 16 = u.epoch →
    ∃ t u1 c1, exec (.cancel c.q c.tag) s = .next t ∧ useAt t u.slot = some u1 ∧ u1.ended = some .cancel ∧
      u1.canceller = some (c.q, c.tag) ∧ findCmd t c.q c.tag = some c1 ∧ c1.st = .exec ∧
      ∀ x ∈ s.front.inflight, ofUse u x = true → Finished t x 0x10 0x02) ∧
  (∀ (s : State) (u : Use), Working s → s.disp.uses.find? (fun u => u.ended.isSome && canDrop s u) = some u →
    ∃ t, exec .useRelease s = .next t ∧ (∀ v ∈ t.disp.uses, v.slot ≠ u.slot) ∧
      (∀ n, (ticket t n).st ≠ 0 → (ticket t n).bentry ≠ u.slot) ∧
      (∀ c, u.canceller = some (c.q, c.tag) → findCmd s c.q c.tag = some c → c.isFinished = false → Finished t c 0 0)) ∧
  (∀ s : State, Working s → (∀ u ∈ s.disp.uses, u.ended = none) → exec .useRelease s = .next s) ∧
  (∀ (s : State) (c : Cmd) (u : Use), Working s → Inv s → findCmd s c.q c.tag = some c →
    liveUse s c.ctx c.batch = some u →
    (c.opc = 0x28 ∧ c.st = .exec ∧ c.saved ≠ []) ∨ (c.opc = 0x29 ∧ c.st = .exec ∧ c.saved ≠ []) ∨
      (c.opc = 0x2A ∧ c.st = .waitTokens) →
    ∃ t, exec (.stallTimeout c.q c.tag) s = .next t ∧
      Finished t c 0x12 ((if c.opc = 0x28 then sendLeft u c else if c.opc = 0x29 then retTotal c - retAcked c
        else pendSum s u) % 2 ^ 24) ∧
      csrField t 0x91130 0 48 = min (csrField s 0x91130 0 48 + 1) (2 ^ 48 - 1) ∧
      { t with front := s.front, csr := s.csr, disp := s.disp } = s ∧ (c.opc ≠ 0x28 → t.disp = s.disp)) ∧
  (∀ (s : State) (c : Cmd) (sh cls : Nat), Working s → findCmd s c.q c.tag = some c → c.opc = 0x38 →
    c.st = .waitShed sh cls → c.strict = true → bankReady s sh c = false →
    ∃ t, exec (.shedWaitTimeout c.q c.tag) s = .next t ∧ Finished t c 0x20 (shdDetail c.qcls 2 sh) ∧
      { t with front := s.front, csr := s.csr } = s)

/-! ## Sheds, sampling and counters -/

/-- Shed initialisation and cache moves (R251, R252, R258). INIT written while buffers are allocated sets BADINIT and does
nothing else; while the Shed is busy it is pending; else the Shed is busy. At the end of the initialisation the free ring
holds every buffer index, every owner word is 0, and all buffers are free. A refill moves ring entries below the cache,
and a writeback moves the 16 bottom entries of a cache of more than 48 to the ring tail; each does nothing where it has no
cause. Completes: SHED_INIT (shedInit), SHED_INIT_DONE (shedInitDone), SHED_CACHE_REFILL (shedCacheRefill),
SHED_CACHE_WRITEBACK (shedCacheWriteback). -/
def Obligations.ShedMaintenance : Prop :=
  (∀ (s : State) (i : Nat) (v : Word64), Working s → Inv s → i < 8 →
    ∃ t, exec (.shedInit i v true) s = .next t ∧ t.mem = s.mem ∧ (∀ j, j ≠ i → shed t j = shed s j) ∧
      (if (shed s i).used ≠ 0 then shed t i = shed s i ∧ bit (csrGet t (oShdStat i)) 62 = true
       else if (shed s i).busy then shed t i = { shed s i with pend := true }
       else shed t i = if shdNbuf t i = 0 then {} else { shed s i with busy := true })) ∧
  (∀ (s : State) (i : Nat), Working s → Inv s → Quiet s → i < 8 → (shed s i).busy = true → holdsMp s 0x1C = true →
    ∃ t, exec (.shedInitDone i) s = .next t ∧
      shed t i = { busy := (shed s i).pend && decide (shdNbuf s i ≠ 0), tail := shdNbuf s i, free := shdNbuf s i } ∧
      (∀ k, k < shdNbuf s i → rdNum t.mem (shdRingAt s i k) 4 = k ∧ rdNum t.mem (shdOwnerAt s i k) 8 = 0) ∧
      MemOnly (areaAt (shdArea s i) (roundUp (4 * shdNbuf s i) 64 + 8 * shdNbuf s i)) s t) ∧
  (∀ (s : State) (i : Nat), Working s → Inv s → Quiet s → cacheMoves s i = true →
    let n := min 16 (((shed s i).tail + 2 ^ 32 - (shed s i).head) % 2 ^ 32)
    ((shed s i).cache.length < 16 → n ≠ 0 →
      ∃ t, exec (.shedCacheRefill i) s = .next t ∧ t.mem = s.mem ∧
        shed t i = { shed s i with cache := (shed s i).cache ++ (readRing s i (shed s i).head n).1,
                                   head := ((shed s i).head + n) % 2 ^ 32 } ∧ (∀ j, j ≠ i → shed t j = shed s j)) ∧
    (16 ≤ (shed s i).cache.length ∨ n = 0 → exec (.shedCacheRefill i) s = .next s)) ∧
  (∀ (s : State) (i : Nat), Working s → Inv s → Quiet s → cacheMoves s i = true →
    (48 < (shed s i).cache.length →
      ∃ t, exec (.shedCacheWriteback i) s = .next t ∧
        t.mem = (writeRing s i (shed s i).tail ((shed s i).cache.drop ((shed s i).cache.length - 16)) s.mem).1 ∧
        shed t i = { shed s i with cache := (shed s i).cache.take ((shed s i).cache.length - 16),
                                   tail := ((shed s i).tail + 16) % 2 ^ 32 } ∧ (∀ j, j ≠ i → shed t j = shed s j)) ∧
    ((shed s i).cache.length ≤ 48 → exec (.shedCacheWriteback i) s = .next s))

/-- ALLOC (R254 to R257, R261, R263). It takes the top buffer of the smallest fitting Shed, writes its owner word, charges its
quota and answers its domain address, at operand B too. With no buffer in any fitting Shed, more than the largest buffer
asked for, or the quota exceeded it completes with SHED_EXHAUSTED or QUOTA_EXCEEDED, is counted, and takes nothing. Under
STRICT it waits for its own Shed. FREE (R260, R263). An address of another chip, of no buffer, of a free buffer or one of
the engine, or of another context releases nothing, is counted, and completes OK with DETAIL 1 to 4. A buffer of the context
is released: its owner word is 0, it is on top of its Shed's cache, and its quota is given back. Completes: ALLOC (alloc),
FREE (free). -/
def Obligations.AllocationAndRelease : Prop :=
  (∀ (s : State) (c : Cmd) (b : Nat) (rest : List Nat), Runs s c 0x38 → Inv s → Quiet s → bits c.a 0 40 ≤ 67108864 →
    let i := smallestShed (bits c.a 0 40)
    quse s (allocClass s c) + shdUnits i ≤ qlim s (allocClass s c) → rotaHolds s (40 + i) 0x08 = true →
    firstAtBank (begun s c) i (stampIssue s c) = true → shedServes s i = true → (shed s i).free ≠ 0 → (shed s i).cache = b :: rest →
    ∃ t, exec (.alloc c.q c.tag) s = .next t ∧ Reports s t c 0 i (bufDomain s ⟨i, b, allocClass s c⟩) 0 ∧
      shed t i = { shed s i with cache := rest, used := (shed s i).used + 1, free := (shed s i).free - 1 } ∧
      quse t (allocClass s c) = quse s (allocClass s c) + shdUnits i ∧
      (absent c.b = true → rdNum t.mem (shdOwnerAt s i b) 8 =
        ownerWord false (ctx s c.ctx).epoch c.ctx (allocClass s c) % 2 ^ 64) ∧
      (absent c.b = false → rdNum t.mem (opAddr c.b) 8 = bufDomain s ⟨i, b, allocClass s c⟩) ∧
      MemOnly (fun a => areaAt (shdOwnerAt s i b) 8 a ∨ (absent c.b = false ∧ areaAt (opAddr c.b) 8 a)) s t) ∧
  (∀ (s : State) (c : Cmd) (status detail off : Nat), Runs s c 0x38 → Inv s →
    let i := smallestShed (bits c.a 0 40)
    (67108864 < bits c.a 0 40 ∧ status = 0x20 ∧ off = 0x70420 ∧ detail = shdDetail (allocClass s c) 1 0xF) ∨
    (bits c.a 0 40 ≤ 67108864 ∧ qlim s (allocClass s c) < quse s (allocClass s c) + shdUnits i ∧ status = 0x21 ∧
      off = 0x70428 ∧ detail = shdDetail (allocClass s c) 0 i) ∨
    (bits c.a 0 40 ≤ 67108864 ∧ quse s (allocClass s c) + shdUnits i ≤ qlim s (allocClass s c) ∧
      bit (csrGet s 0xE0000) 0 = false ∧ (∀ j, i ≤ j → j < 8 → rotaHolds s (40 + j) 0x08 = true ∧
        firstAtBank (begun s c) j (stampIssue s c) = true ∧ (shedServes s j = false ∨ (shed s j).free = 0)) ∧
      status = 0x20 ∧ off = 0x70420 ∧ detail = shdDetail (allocClass s c) 0 i) →
    ∃ t, exec (.alloc c.q c.tag) s = .next t ∧ Reports s t c status detail 0 0 ∧
      csrField t off 0 48 = min (csrField s off 0 48 + 1) (2 ^ 48 - 1) ∧
      { t with front := s.front, csr := s.csr } = s) ∧
  (∀ (s : State) (c : Cmd), Runs s c 0x38 → bits c.a 0 40 ≤ 67108864 →
    let i := smallestShed (bits c.a 0 40)
    quse s (allocClass s c) + shdUnits i ≤ qlim s (allocClass s c) → bit (csrGet s 0xE0000) 0 = true →
    (shedServes s i = false ∨ (shed s i).free = 0) →
    ∃ t, exec (.alloc c.q c.tag) s = .next t ∧ MovesTo s t c (.waitShed i (allocClass s c)) ∧
      { t with front := s.front } = s) ∧
  (∀ (s : State) (c : Cmd) (detail : Nat), Runs s c 0x39 → Inv s → Quiet s →
    (bits c.a 42 15 ≠ ownChip s ∧ detail = 1) ∨
    (bits c.a 42 15 = ownChip s ∧ bufAt s (c.a % 2 ^ 42) = none ∧ detail = 2) ∨
    (bits c.a 42 15 = ownChip s ∧ ∃ i b, bufAt s (c.a % 2 ^ 42) = some (i, b) ∧ canRelease s i 0x08 1 = true ∧
      firstAtBank (begun s c) i (stampIssue s c) = true ∧
      let w := rdNum s.mem (shdOwnerAt s i b) 8
      ((bit w 63 = false ∨ bit w 62 = true) ∧ detail = 3) ∨
      (bit w 63 = true ∧ bit w 62 = false ∧
        (bits w 32 14 ≠ c.ctx ∨ bits w 46 16 ≠ (ctx s c.ctx).epoch) ∧ detail = 4)) →
    ∃ t, exec (.free c.q c.tag) s = .next t ∧ Reports s t c 0 detail 0 0 ∧
      csrField t 0x70418 0 48 = min (csrField s 0x70418 0 48 + 1) (2 ^ 48 - 1) ∧
      { t with front := s.front, csr := s.csr } = s) ∧
  (∀ (s : State) (c : Cmd) (i b : Nat), Runs s c 0x39 → Inv s → Quiet s → bits c.a 42 15 = ownChip s →
    bufAt s (c.a % 2 ^ 42) = some (i, b) → canRelease s i 0x08 1 = true →
    firstAtBank (begun s c) i (stampIssue s c) = true → (shed s i).failed = false →
    let w := rdNum s.mem (shdOwnerAt s i b) 8
    bit w 63 = true → bit w 62 = false → bits w 32 14 = c.ctx → bits w 46 16 = (ctx s c.ctx).epoch →
    ∃ t, exec (.free c.q c.tag) s = .next t ∧ Reports s t c 0 0 0 0 ∧
      (shed t i).free = (shed s i).free + 1 ∧ (shed t i).used = (shed s i).used - 1 ∧ (shed t i).cache.head? = some b ∧
      quse t (bits w 24 8) = quse s (bits w 24 8) - shdUnits i ∧
      ((shed s i).cache.length < 64 → (shed t i).cache = b :: (shed s i).cache ∧
        rdNum t.mem (shdOwnerAt s i b) 8 = 0 ∧ MemOnly (areaAt (shdOwnerAt s i b) 8) s t))

/-- SAMPLE (R369 to R375, Table 15.4) and the bandwidth windows (R365). ARM puts its block in force and clears the count of
skipped commands; STOP disarms and answers the records held; DRAIN hands over the oldest records, up to the number that the
block at operand B asks for, and clears the count of lost ones; each is refused where another job's sampling is in force
(ARM excepted). XDUMP writes a row for each expert of the watched context, and clears the counters where bit 0 of operand A
asks for it. The end of a bandwidth window shows its bytes and opens the next one. Completes:
SAMPLE_ARM (sampleArm), SAMPLE_DRAIN (sampleDrain), SAMPLE_STOP (sampleStop), SAMPLE_XDUMP (sampleXdump), BW_WINDOW_END
(bwWindowEnd). -/
def Obligations.SamplingAndWindows : Prop :=
  (∀ (s : State) (c : Cmd), Issues s c 0x50 → Quiet s → isSub 0x50 0 [0, 1, 2, 3] c = true →
    (absent c.a = true ∨ Slotted s c) →
    let w := if absent c.a then smpDefault else (List.range 3).map (fun i => rdNum s.mem (opAddr c.a + 8 * i) 8)
    ∃ t, exec (.sampleArm c.q c.tag) s = .next t ∧ Reports s t c 0 0 0 0 ∧ t.mem = s.mem ∧ t.pmc.skipped = 0 ∧
      t.pmc.buf = s.pmc.buf ∧ t.pmc.cfg.armed = true ∧ t.pmc.cfg.period = max 1 (bits (nth w 0) 0 32) ∧
      t.pmc.cfg.clsMask = bits (nth w 0) 32 4 ∧ t.pmc.cfg.qmask = nth w 1 ∧ t.pmc.cfg.minlat = bits (nth w 2) 32 32 ∧
      t.pmc.cfg.ctxen = bit (nth w 2) 31 ∧ t.pmc.cfg.ctx = bits (nth w 2) 16 14 ∧ t.pmc.cfg.opcen = bit (nth w 2) 8 ∧
      t.pmc.cfg.opc = bits (nth w 2) 0 8 ∧ t.pmc.cfg.user = !qSupv s c.q) ∧
  (∀ (s : State) (c : Cmd) (i : Instr), Issues s c 0x50 → smpForeign s c = true →
    (c.subop = 1 ∧ i = .sampleDrain c.q c.tag) ∨ (c.subop = 2 ∧ i = .sampleStop c.q c.tag) →
    ∃ t, exec i s = .next t ∧ Reports s t c 0x3F 0x18 0 0 ∧ { t with front := s.front } = s) ∧
  (∀ (s : State) (c : Cmd), Issues s c 0x50 → smpForeign s c = false → c.subop = 2 →
    ∃ t, exec (.sampleStop c.q c.tag) s = .next t ∧ Reports s t c 0 0 s.pmc.buf.length 0 ∧
      t.pmc = { s.pmc with cfg := { s.pmc.cfg with armed := false } } ∧
      { t with front := s.front, pmc := s.pmc } = s) ∧
  (∀ (s : State) (c : Cmd), Runs s c 0x50 → Inv s → Quiet s → smpForeign s c = false → c.subop = 1 →
    let n := min (rdNum s.mem (opAddr c.b) 4) s.pmc.buf.length
    ∃ t, exec (.sampleDrain c.q c.tag) s = .next t ∧ Reports s t c 0 0 n 0 ∧ t.pmc.buf = s.pmc.buf.drop n ∧
      t.pmc.cfg = s.pmc.cfg ∧ csrField t 0xC1608 0 48 = 0 ∧ rdNum t.mem (opAddr c.b + 8) 8 = n ∧
      (∀ k r, k < n → s.pmc.buf[k]? = some r → rdBytes t.mem (opAddr c.b + 64 + 32 * k) 32 = smpBytes r) ∧
      MemOnly (fun a => areaAt (opAddr c.b + 8) 16 a ∨ areaAt (opAddr c.b + 64) (32 * n) a) s t) ∧
  (∀ (s : State) (c : Cmd), Issues s c 0x50 → c.subop = 3 → bit (csrGet s 0xC1400) 63 = false →
    (qSupv s c.q = true ∨
      ((ctx s (csrField s 0xC1400 0 14)).st ≠ .closed ∧ (ctx s (csrField s 0xC1400 0 14)).job = qJob s c.q)) →
    ∃ t, exec (.sampleXdump c.q c.tag) s = .next t ∧ Reports s t c 0 0 0 0 ∧ { t with front := s.front } = s) ∧
  (∀ (s : State) (c : Cmd), Runs s c 0x50 → Quiet s → c.subop = 3 → bit (csrGet s 0xC1400) 63 = true →
    (qSupv s c.q = true ∨
      ((ctx s (csrField s 0xC1400 0 14)).st ≠ .closed ∧ (ctx s (csrField s 0xC1400 0 14)).job = qJob s c.q)) →
    let n := pbE (ctx s (csrField s 0xC1400 0 14))
    ∃ t, exec (.sampleXdump c.q c.tag) s = .next t ∧ Reports s t c 0 0 n 0 ∧
      t.pmc.xcnt = (if bit c.a 0 then [] else s.pmc.xcnt) ∧
      (∀ e, e < n → rdNum t.mem (opAddr c.b + 32 * e) 8 = (slook (fun _ => (0, 0, 0)) s.pmc.xcnt e).1 % 2 ^ 64) ∧
      MemOnly (areaAt (opAddr c.b) (32 * n)) s t) ∧
  (∀ s : State, Working s →
    (bit (csrGet s 0xC1100) 63 = false → exec .bwWindowEnd s = .next s) ∧
    (bit (csrGet s 0xC1100) 63 = true →
      ∃ t, exec .bwWindowEnd s = .next t ∧ t.pmc.bwAcc = [] ∧ t.pmc.bwSeq = (s.pmc.bwSeq + 1) % 2 ^ 16 ∧
        (∀ k, slook (fun _ => 0) t.pmc.bwLast k = slook (fun _ => 0) s.pmc.bwAcc k % 2 ^ 48) ∧
        { t with pmc := s.pmc } = s))

/-! ## Collectives -/

/-- Groups and the start of collectives (R268 to R272, R283, R284, R290). Enabling a group stores its box, places this
chip in it, and starts its sequence numbers at 0; a disable takes effect when no collective executes. A reduction of
another element type, a collective of a group that is not enabled or does not contain this chip, and one of a group that
has lost a member complete at once. In a group of more members a collective takes the next sequence number and sends its
signature to the successor on the first ring; in a group of one, all but CAIRN complete at once, with slots of the memory
ports. That the signature record holds ETYPE as the immediate gives it is the model's (log entry 148). Completes:
GROUP_ENABLE (groupEnable), GROUP_DISABLE (groupDisable), ALLREDUCE (allreduce), REDSCAT (redscat), ALLGATHER (allgather),
XSCAN (xscan), and CAIRN (cairn), which begins. -/
def Obligations.CollectivesBegin : Prop :=
  (∀ (s : State) (g : Nat) (v : Word64), Working s → Inv s → g < 64 → (grp s g).en = false →
    ∃ t, exec (.groupEnable g v true) s = .next t ∧ (grp t g).en = true ∧ (grp t g).seq = 0 ∧ (grp t g).lost = false ∧
      (grp t g).notin = !inBox s (grpBox t g) (ownChip s) ∧
      (inBox s (grpBox t g) (ownChip s) = true → (grp t g).midx = idxIn s (grpBox t g) (ownChip s)) ∧
      (∀ r, regInfo (oColGrp g) = some r → ∀ b, b < 64 →
        bit (grpBox t g) b = if bit r.rw b then (bit v.toNat b || b == 63) else bit (grpBox s g) b) ∧
      (∀ k, k ≠ g → grp t k = grp s k) ∧ t.mem = s.mem ∧ t.front = s.front) ∧
  (∀ (s : State) (g : Nat) (v : Word64), Working s → Inv s → g < 64 → (grp s g).en = true →
    ∃ t, exec (.groupDisable g v true) s = .next t ∧ (∀ k, k ≠ g → grp t k = grp s k) ∧ t.mem = s.mem ∧
      (if (grp s g).active.isSome then grp t g = { grp s g with offPend := true, onPend := false } ∧ t.csr = s.csr
       else grp t g = { grp s g with en := false, offPend := false } ∧ bit (grpBox t g) 63 = false)) ∧
  (∀ (s : State) (c : Cmd) (i : Instr) (status detail : Nat), IssuesColl s c i →
    ((c.opc = 0x40 ∨ c.opc = 0x41) ∧ etypeOf (bits c.c 44 4) ∉ [0, 1, 8, 9] ∧ status = 0x3F ∧ detail = 0x14) ∨
    ((c.opc = 0x40 ∨ c.opc = 0x41 → etypeOf (bits c.c 44 4) ∈ [0, 1, 8, 9]) ∧
      ((inGroup s (groupOf c) = false ∧ status = 0x3F ∧ detail = 0x15) ∨
       (inGroup s (groupOf c) = true ∧ (grp s (groupOf c)).lost = true ∧ status = 0x13 ∧
        detail = lostDetail s (groupOf c)))) →
    ∃ t, exec i s = .next t ∧ Reports s t c status detail 0 0 ∧ { t with front := s.front } = s) ∧
  (∀ (s : State) (c : Cmd) (i : Instr) (a : Nat) (rest : List Nat), IssuesColl s c i → Inv s → CollReady s c →
    let g := groupOf c
    let box := grpBox s g
    ringAxes box = a :: rest →
    ∃ t o m, exec i s = .next t ∧ MovesTo s t c .exec ∧ (grp t g).active = some o ∧
      (grp t g).seq = ((grp s g).seq + 1) % 2 ^ 32 ∧ o.q = c.q ∧ o.tag = c.tag ∧ o.opc = c.opc ∧ o.seq = (grp s g).seq ∧
      o.sigDone = false ∧ o.sig = signature box g c.opc (if c.opc = 0x40 ∨ c.opc = 0x41 then (collOf s c).subop else 0)
        (if c.opc = 0x43 then 9 else if c.opc = 0x44 then 0 else bits c.c 44 4) (collOf s c).n (grp s g).seq ∧
      t.fab = (post s m).fab ∧ m.kind = 7 ∧ m.sub = 0 ∧ m.grp = g ∧ m.seq = (grp s g).seq % 2 ^ 32 ∧
      m.dst = memberChip s box (ringNext s box (grp s g).midx a 1) ∧ m.data = leBytes 8 o.sig ++ leBytes 8 1 ∧
      csrField t 0x91100 0 48 = min (csrField s 0x91100 0 48 + 1) (2 ^ 48 - 1) ∧
      { t with front := s.front, col := s.col, fab := s.fab, csr := s.csr, pmc := s.pmc } = s) ∧
  (∀ (s : State) (c : Cmd) (i : Instr), IssuesColl s c i → Inv s → Quiet s → CollReady s c → c.opc ≠ 0x44 →
    let g := groupOf c
    ringAxes (grpBox s g) = [] → (grp s g).midx = 0 → csrField s (oColProg g) 6 36 = 0 → collSlots s g = true →
    ∃ t, exec i s = .next t ∧ Finished t c 0 0 ∧ (grp t g).active = none ∧
      MemOnly (areaAt (opAddr c.b) (if c.opc = 0x43 then 8 * bits c.c 0 32
        else if (collOf s c).etype = 5 then 64 * (collOf s c).lines else (collOf s c).bytes)) s t)

/-- Messages of collectives (R205, R277, R279, R284 to R286, R291). A message of a completed sequence number is discarded
and counted; with no message late or due, and no collective that can go on without one, nothing happens. A signature that
is due is compared and passed on; where the round ends with a mismatch the collective completes with SIGNATURE_MISMATCH
and no byte written. A piece that is due advances the step of its chunk and is passed on; a residue fault in its additions
ends the collective with RESIDUE_FAULT. Completes: COLL_MESSAGE (collMessage), SIGNATURE_MESSAGE (signatureMessage),
ABORT_NOTICE (abortNotice). -/
def Obligations.CollectiveMessages : Prop :=
  (∀ (s : State) (i : Instr) (f : Msg → Bool), Working s →
    (∃ res, i = .collMessage res ∧ CollsRest s ∧ f = fun m => m.kind == 6 && (isLate s m || isNextColl s m)) ∨
    (i = .signatureMessage ∧ f = fun m => m.kind == 7 && m.sub == 0 && (isLate s m || isNextSig s m)) ∨
    (i = .abortNotice ∧ f = fun m => m.kind == 7 && m.sub == 1 &&
      (isLate s m || (grp s m.grp).active.any (fun o => o.seq == m.seq))) →
    (NoMsg s f → exec i s = .next s) ∧
    (∀ m, Inv s → FirstMsg s f m → isLate s m = true →
      ∃ t, exec i s = .next t ∧ TakesMsg s t m ∧
        csrField t 0x91138 0 48 = min (csrField s 0x91138 0 48 + max 1 (ceilDiv m.data.length 352)) (2 ^ 48 - 1) ∧
        { t with fab := s.fab, csr := s.csr } = s)) ∧
  (∀ (s : State) (m : Msg) (o : CollOp) (a : Nat), Working s → Inv s →
    FirstMsg s (fun m => m.kind == 7 && m.sub == 0 && (isLate s m || isNextSig s m)) m → isLate s m = false →
    (grp s m.grp).active = some o → (ringAxes (grpBox s m.grp))[o.phase]? = some a →
    let ok := o.ok && leNat (m.data.take 8) == o.sig && leNat ((m.data.drop 8).take 8) == 1
    (o.sigStep + 2 < boxSize (grpBox s m.grp) a →
      ∃ t u v, exec .signatureMessage s = .next t ∧ t.front = s.front ∧ t.mem = s.mem ∧ TakesMsg s v m ∧
        (grp t m.grp).active = some { o with ok := ok, sigStep := o.sigStep + 1 } ∧ u.kind = 7 ∧ u.data = m.data ∧
        t.fab = (post { s with fab := v.fab } u).fab) ∧
    (∀ c, boxSize (grpBox s m.grp) a ≤ o.sigStep + 2 → (ringAxes (grpBox s m.grp))[o.phase + 1]? = none → ok = false →
      noSig s = false → findCmd s o.q o.tag = some c → c.isFinished = false →
      ∃ t, exec .signatureMessage s = .next t ∧ Finished t c 0x11 o.sig ∧ (grp t m.grp).active = none ∧
        csrField t 0x91128 0 48 = min (csrField s 0x91128 0 48 + 1) (2 ^ 48 - 1) ∧ t.mem = s.mem ∧
        TakesMsg s t m)) ∧
  (∀ (s : State) (m : Msg) (o : CollOp) (r : ChunkRun) (res : Residue), Working s → Inv s → Quiet s →
    FirstMsg s (fun m => m.kind == 6 && (isLate s m || isNextColl s m)) m → isLate s m = false →
    nextRun s m = some (o, r) →
    let box := grpBox s m.grp
    let a := runAxis s m.grp o r
    (res.fault = false → r.step + 2 < boxSize box a → CollsRest s →
      ∃ t o1 r1, exec (.collMessage res) s = .next t ∧ (grp t m.grp).active = some o1 ∧ o1.run r.chunk = some r1 ∧
        r1.step = r.step + 1 ∧ r1.phase = r.phase ∧ r1.done = false ∧ o1.signalled = o.signalled ∧ o1.next = o.next ∧
        t.front = s.front ∧ (gathering (o.view r) box = false ∨ o.scans = true → t.mem = s.mem) ∧
        t.fab.inbox.length + t.fab.outbox.length = s.fab.inbox.length + s.fab.outbox.length) ∧
    (∀ c, res.fault = true → gathering (o.view r) box = false → o.subop ≠ 1 → o.subop ≠ 2 →
      stepKeys s m.grp a (r.step + 1) (o.view r) ≠ [] → findCmd s o.q o.tag = some c → c.isFinished = false →
      ∃ t, exec (.collMessage res) s = .next t ∧
        Finished t c 0x31 ((grp s m.grp).midx % 2 ^ 15 + 2 ^ 16 * phaseAxis o (nth (phaseAxes box o.opc))) ∧
        (grp t m.grp).active = none ∧
        csrField t 0x91120 0 48 = min (csrField s 0x91120 0 48 + 1) (2 ^ 48 - 1)))

/-- How collectives end early, and CAIRN (R287, R288, R293, R294). A notice of the executing collective ends it with the
status that the notice carries, the index of the detecting member, or for MEMBER_LOST of the member that the group has
recorded as lost (log entry 137), and the phase; the stall timer ends it with STALLED. The mark of a CAIRN is noted once; a
release whose wait has run out completes the CAIRN with GLB_TIME and sets its flag. Completes: CAIRN_MARKER (cairnMarker),
CAIRN_RELEASE (cairnRelease). -/
def Obligations.CollectiveEnds : Prop :=
  (∀ (s : State) (m : Msg) (o : CollOp) (c : Cmd), Working s → Inv s →
    FirstMsg s (fun m => m.kind == 7 && m.sub == 1 &&
      (isLate s m || (grp s m.grp).active.any (fun o => o.seq == m.seq))) m → isLate s m = false →
    (grp s m.grp).active = some o → findCmd s o.q o.tag = some c → c.isFinished = false →
    ∃ t, exec .abortNotice s = .next t ∧
      Finished t c (leNat (m.data.take 8))
        (abortIdx s m.grp (leNat (m.data.take 8)) (leNat ((m.data.drop 8).take 8)) % 2 ^ 15 +
          2 ^ 16 * phaseAxis o (nth (phaseAxes (grpBox s m.grp) o.opc))) ∧ (grp t m.grp).active = none ∧
      (leNat (m.data.take 8) = 0x11 ∨ leNat (m.data.take 8) = 0x30 → t.mem = s.mem)) ∧
  (∀ (s : State) (g : Nat) (o : CollOp) (c : Cmd), Working s → Inv s → findCmd s c.q c.tag = some c →
    c.isFinished = false → 0x40 ≤ c.opc → c.opc ≤ 0x44 → groupBusyWith s c.q c.tag = some g →
    (grp s g).active = some o →
    ∃ t, exec (.stallTimeout c.q c.tag) s = .next t ∧
      Finished t c 0x12 ((grp s g).midx % 2 ^ 15 + 2 ^ 16 * phaseAxis o (nth (phaseAxes (grpBox s g) o.opc))) ∧
      (grp t g).active = none ∧ csrField t 0x91130 0 48 = min (csrField s 0x91130 0 48 + 1) (2 ^ 48 - 1)) ∧
  (∀ (s : State) (n g md : Nat), Working s → (portUp s n = false → exec (.cairnMarker n g md) s = .next s) ∧
    (∀ o, Inv s → portUp s n = true → (grp s g).active = some o → o.cairn = true → o.mark = none →
      (∀ m ∈ s.fab.inbox, m.kind = 7 → m.sub ≠ 2) →
      ∃ t, exec (.cairnMarker n g md) s = .next t ∧ (grp t g).active = some { o with mark := some md } ∧
        t.front = s.front ∧ t.mem = s.mem ∧ t.fab.inbox = s.fab.inbox ∧ t.fab.outbox = s.fab.outbox)) ∧
  (∀ (s : State) (g : Nat), Working s →
    ((∀ o, (grp s g).active = some o → o.cairn = false ∨ o.waiting = false) → exec (.cairnRelease g) s = .next s) ∧
    (∀ o c, Inv s → (grp s g).active = some o → o.cairn = true → o.waiting = true → findCmd s o.q o.tag = some c →
      c.st = .exec →
      ∃ t c1 r, exec (.cairnRelease g) s = .next t ∧ (grp t g).active = none ∧ findCmd t o.q o.tag = some c1 ∧
        c1.st = .finished r ∧ r.status = 0 ∧ r.detail = 0 ∧ r.result = now s ∧ t.mem = s.mem ∧
        (∀ f, o.flag = some f → f < 1024 → (∀ x ∈ s.front.inflight, x.st ≠ .waitFlag f) → flagOf t f = true)))

/-! ## The fabric -/

/-- The states of a port (R35, R297 to R302, R308, R324, R325, Table 12.1): enables and disables, PHY_RDY, the stages of
training with their failures, the wait before the next training, and the end of a drain. Completes: PORT_ENABLE (portEnable),
PORT_DISABLE (portDisable), PHY_RDY_RISE (phyRdyRise), PHY_RDY_FALL (phyRdyFall), LANE_REPORT (laneReport), IDENTITY_EXCHANGE
(identityExchange), CAL_COMPLETE (calComplete), TRAINING_TIMEOUT (trainingTimeout), PORT_RETRAIN (portRetrain), PORT_DRAIN_END
(portDrainEnd). -/
def Obligations.PortStates : Prop :=
  (∀ (s : State) (n : Nat), Working s → Inv s → n < 6 →
    (∃ t, exec (.portEnable n true) s = .next t ∧ portEn t n = true ∧ (∀ k, k ≠ n → port t k = port s k) ∧ t.mem = s.mem ∧
      (port t n).st = (if (port s n).st = 0 ∧ portEn s n = false ∧ portFused s n = false then
          (if (port s n).phyRdy then 2 else 1) else (port s n).st) ∧
      ((port s n).st = 6 → (port t n).pend = true)) ∧
    (((port s n).st = 0 ∨ 5 ≤ (port s n).st ∨ (port s n).pend = false) →
      ∃ t, exec (.portDisable n true) s = .next t ∧ portEn t n = false ∧ (∀ k, k ≠ n → port t k = port s k) ∧
        t.mem = s.mem ∧
        (port t n).st = (if 1 ≤ (port s n).st ∧ (port s n).st ≤ 4 then 0 else if (port s n).st = 5 then 6
          else (port s n).st) ∧
        ((port s n).st = 5 → (port t n).txq = (port s n).txq.filter (·.started)))) ∧
  (∀ (s : State) (n : Nat), Served s →
    ∃ t, exec (.phyRdyRise n) s = .next t ∧ { t with fab := s.fab } = s ∧
      port t n = { port s n with phyRdy := true, st := if (port s n).st = 1 then 2 else (port s n).st } ∧
      ∀ k, k ≠ n → port t k = port s k) ∧
  (∀ (s : State) (n : Nat), Served s → Inv s → n < 6 →
    ∃ t, exec (.phyRdyFall n) s = .next t ∧ (port t n).phyRdy = false ∧ t.mem = s.mem ∧
      bit t.rotaPend (32 + n) = false ∧
      (if 2 ≤ (port s n).st then LinkLost s t n 0x09 else (port t n).st = (port s n).st ∧ t.csr = s.csr)) ∧
  (∀ (s : State) (n : Nat) (mine peer : BitVec 32), Working s → Inv s → n < 6 →
    let good := mine.toNat &&& peer.toNat &&& (span 31 0 ^^^ (nth s.glb.fuses.lanes n &&& span 31 0))
    ((port s n).st ≠ 2 → exec (.laneReport n mine peer) s = .next s) ∧
    ((port s n).st = 2 → (∀ g, g < 4 → (groupLanes good g).length < 6) →
      ∃ t, exec (.laneReport n mine peer) s = .next t ∧ TrainingFails s t n 0x02 ∧ t.mem = s.mem) ∧
    ((port s n).st = 2 → (∃ g, g < 4 ∧ 6 ≤ (groupLanes good g).length) →
      ∃ t, exec (.laneReport n mine peer) s = .next t ∧ (port t n).st = 3 ∧ { t with fab := s.fab } = s ∧
        ∀ g, g < 4 → bit (port t n).groups g = decide (6 ≤ (groupLanes good g).length))) ∧
  (∀ (s : State) (n : Nat) (w : Ident), Working s → Inv s → n < 6 →
    ((port s n).st ≠ 3 → exec (.identityExchange n w) s = .next s) ∧
    ((port s n).st = 3 → identCheck s n w = 0 →
      ∃ t, exec (.identityExchange n w) s = .next t ∧ { t with fab := s.fab } = s ∧
        port t n = { port s n with st := 4, ver := min 2 (max 1 w.ver) }) ∧
    ((port s n).st = 3 → identCheck s n w ≠ 0 →
      ∃ t, exec (.identityExchange n w) s = .next t ∧ TrainingFails s t n (identCheck s n w))) ∧
  (∀ (s : State) (n echoes rtt : Nat), Working s → Inv s → n < 6 →
    ((port s n).st ≠ 4 → exec (.calComplete n echoes rtt) s = .next s) ∧
    ((port s n).st = 4 → echoes < 32 →
      ∃ t, exec (.calComplete n echoes rtt) s = .next t ∧ TrainingFails s t n 0x07) ∧
    ((port s n).st = 4 → 32 ≤ echoes →
      ∃ t, exec (.calComplete n echoes rtt) s = .next t ∧ { t with fab := s.fab } = s ∧ (port t n).st = 5 ∧
        (port t n).delay = ceilDiv rtt 2 % 2 ^ 16 ∧ (port t n).sentVc = [0, 0, 0, 0] ∧ (port t n).ctot = [0, 0, 0, 0] ∧
        (port t n).freedVc = [0, 0, 0, 0])) ∧
  (∀ (s : State) (n : Nat), Working s → Inv s → n < 6 →
    ((port s n).st = 0 ∨ 5 ≤ (port s n).st → exec (.trainingTimeout n) s = .next s) ∧
    (1 ≤ (port s n).st → (port s n).st ≤ 4 → ∃ t code, exec (.trainingTimeout n) s = .next t ∧
      TrainingFails s t n code ∧ ((port s n).st = 1 → code = 1) ∧ ((port s n).st = 2 → code = 2) ∧
      ((port s n).st = 3 → 3 ≤ code ∧ code ≤ 6) ∧ ((port s n).st = 4 → code = 7))) ∧
  (∀ (s : State) (n : Nat), Working s → Inv s →
    ((port s n).st = 0 → (port s n).retrain = true → portEn s n = true → portFused s n = false →
      ∃ t, exec (.portRetrain n) s = .next t ∧ (port t n).st = (if (port s n).phyRdy then 2 else 1) ∧
        (port t n).retrain = false ∧ t.csr = s.csr ∧ t.mem = s.mem) ∧
    ((port s n).st ≠ 0 ∨ (port s n).retrain = false ∨ portEn s n = false ∨ portFused s n = true →
      exec (.portRetrain n) s = .next s)) ∧
  (∀ (s : State) (n : Nat), Working s → Inv s → n < 6 →
    ((port s n).st ≠ 6 → exec (.portDrainEnd n) s = .next s) ∧
    ((port s n).st = 6 → ∃ t f more, exec (.portDrainEnd n) s = .next t ∧ LinkLost s t n (port s n).failcode ∧
      t.fab.wire = more ++ (n, f) :: s.fab.wire ∧ bits f.hdr.toNat 8 4 = 0xA ∧
      ((port s n).ver ≠ 1 → bits f.hdr.toNat 64 4 = 1)))

/-- Flits, replay, and the ends and lanes of a link (R303 to R305, R308, R309, R315). A port that carries no flits takes none.
A flit that fails its CRC is counted, and asked for again where it is sequenced; the eighth failure in a row of one sequence
number, that of the flit's own control word (log entry 143), loses the link. A flit in order advances the sequence number, and
a message that it completes goes to this chip's units or on its way; one received before changes nothing, and one that comes
too early is asked for again. A replay sends the flits not acknowledged again, after the marks that wait for a good control
word. A lane that fails is retired at both ends, and a spare takes its place. Completes: FLIT_RECEIVE (flitReceive),
NAK_REPLAY (nakReplay), LINK_LOSS_TIMEOUT (linkLossTimeout), LINK_DOWN_FLIT (linkDownFlit), LANE_OK_FALL (laneOkFall),
LANE_ERROR_LIMIT (laneErrorLimit), LANE_RETIRE_FLIT (laneRetireFlit). -/
def Obligations.FlitTraffic : Prop :=
  (∀ (s : State) (n ack : Nat) (f : Flit), Working s → carries s n = false →
    exec (.flitReceive n f) s = .next s ∧ exec (.nakReplay n ack) s = .next s ∧
    exec (.linkLossTimeout n) s = .next s ∧ exec (.linkDownFlit n) s = .next s) ∧
  (∀ (s : State) (n : Nat), Working s → Inv s → n < 6 → carries s n = true →
    (∃ t, exec (.linkLossTimeout n) s = .next t ∧ LinkLost s t n 0x08) ∧
    (∃ t, exec (.linkDownFlit n) s = .next t ∧ LinkLost s t n 0x0B)) ∧
  (∀ (s : State) (n : Nat) (f : Flit), Working s → Inv s → n < 6 → carries s n = true → flitOk f = false →
    let seq := bits f.ctl.toNat 52 12
    let k := slook (fun _ => 0) (port s n).fails seq
    (bit f.ctl.toNat 38 = false → ∃ t, exec (.flitReceive n f) s = .next t ∧ { t with csr := s.csr } = s ∧
      csrField t (oFabPerr n) 0 24 = min (csrField s (oFabPerr n) 0 24 + 1) (2 ^ 24 - 1)) ∧
    (bit f.ctl.toNat 38 = true → k < 7 → ∃ t g, exec (.flitReceive n f) s = .next t ∧
      csrField t (oFabPerr n) 0 24 = min (csrField s (oFabPerr n) 0 24 + 1) (2 ^ 24 - 1) ∧
      port t n = { port s n with fails := sput (fun _ => 0) (port s n).fails seq (k + 1) } ∧
      t.fab.wire = (n, g) :: s.fab.wire ∧ bit g.ctl.toNat 39 = true ∧ bit g.ctl.toNat 38 = false ∧ t.mem = s.mem) ∧
    (bit f.ctl.toNat 38 = true → 7 ≤ k → ∃ t, exec (.flitReceive n f) s = .next t ∧ LinkLost s t n 0x08)) ∧
  (∀ (s : State) (n : Nat) (f : Flit), Working s → Inv s → n < 6 → carries s n = true → flitOk f = true →
    bit f.ctl.toNat 38 = true → s.fab.inbox = [] →
    let seq := bits f.ctl.toNat 52 12
    let d := (seq + 4096 - (port s n).rxSeq) % 4096
    let h := f.hdr.toNat
    let passed := sput (fun _ => 0) (port s n).fails seq 0
    (d = 1 → bit h 14 = true → bit h 15 = true → bits h 8 4 ∈ [3, 4, 5, 6, 8, 9] → (port s n).ver ≠ 1 →
      ∃ t, exec (.flitReceive n f) s = .next t ∧ (port t n).rxSeq = ((port s n).rxSeq + 1) % 4096 ∧
        (port t n).fails = passed ∧ t.mem = s.mem ∧ t.front = s.front ∧
        let m : Msg := {
          hdr := h, data := f.payload.take (min 352 (bits h 52 9)),
          hold := { port := some n, vc := vcOf h, bufs := 1, gen := (port s n).gen } }
        if bits h 16 15 = ownChip s then t.fab.inbox = [m] ∧ t.fab.outbox = s.fab.outbox
        else t.fab.inbox = [] ∧ t.fab.outbox = s.fab.outbox ++ [m]) ∧
    (d = 0 ∨ 2048 < d → ∃ t, exec (.flitReceive n f) s = .next t ∧ (port t n).rxSeq = (port s n).rxSeq ∧
      (port t n).fails = passed ∧ t.fab.inbox = [] ∧ t.fab.outbox = s.fab.outbox ∧ t.mem = s.mem) ∧
    (1 < d → d ≤ 2048 → ∃ t g more, exec (.flitReceive n f) s = .next t ∧
      (port t n).rxSeq = (port s n).rxSeq ∧ t.fab.wire = more ++ (n, g) :: s.fab.wire ∧ bit g.ctl.toNat 39 = true ∧
      t.fab.inbox = [] ∧ t.mem = s.mem)) ∧
  (∀ (s : State) (n ack : Nat), Working s → Inv s → n < 6 → carries s n = true →
    ∃ t more marks new, exec (.nakReplay n ack) s = .next t ∧
      (port t n).retry = dropAcked (port s n).retry ack ++ new ∧
      t.fab.wire = more ++ (dropAcked (port s n).retry ack).reverse.map (fun f => (n, f)) ++ marks ++ s.fab.wire ∧
      marks.length = (port s n).marks.length ∧
      csrField t (oFabPerr n) 24 24 =
        min (csrField s (oFabPerr n) 24 24 + (dropAcked (port s n).retry ack).length) (2 ^ 24 - 1) ∧
      t.mem = s.mem ∧ t.fab.inbox = s.fab.inbox) ∧
  (∀ (s : State) (n lane : Nat) (i : Instr), Working s → Inv s → n < 6 → lane < 32 →
    i = .laneOkFall n lane ∨ i = .laneErrorLimit n lane ∨ i = .laneRetireFlit n lane →
    (carries s n = false ∨ bit (port s n).retired lane = true → exec i s = .next s) ∧
    (carries s n = true → bit (port s n).retired lane = false → (port s n).pend = false →
      ∃ t more, exec i s = .next t ∧ bit (port t n).retired lane = true ∧ bit (port t n).active lane = false ∧
        csrField t 0xA0400 0 48 = min (csrField s 0xA0400 0 48 + 1) (2 ^ 48 - 1) ∧ t.mem = s.mem ∧
        (if i = .laneRetireFlit n lane then t.fab.wire = more ++ s.fab.wire
         else ∃ g, t.fab.wire = more ++ (n, g) :: s.fab.wire ∧ bits g.hdr.toNat 8 4 = 0xA) ∧
        let off := (port s n).active &&& (span 31 0 ^^^ 2 ^ lane)
        let good := (port s n).good &&& (span 31 0 ^^^ 2 ^ lane)
        ∀ j, bit (port s n).active lane = true → (groupLanes good (lane / 8)).find? (fun j => !bit off j) = some j →
          (port t n).active = off ||| 2 ^ j ∧ (port t n).st = (port s n).st ∧ more = []))

/-- Messages on their way (R205, R290, R296, R310 to R314). The oldest waiting message whose port's ingress is not stopped
is delivered here, sent on the port that R310 gives it, or, with no route, discarded and counted, its source hearing of
it. A message that has detoured and waits too long is discarded likewise. A chip reported unreachable is counted, raises
its fault bit and marks every enabled group that contains it as LOST, and what the message was for ends. Completes:
MESSAGE_FORWARD (messageForward), DETOUR_TIMEOUT (detourTimeout), UNREACH_RECEIVE (unreachReceive). -/
def Obligations.Routing : Prop :=
  (∀ s : State, Working s → (∀ m ∈ s.fab.outbox, portStuck s m.hold.port = true) → exec .messageForward s = .next s) ∧
  (∀ (s : State) (m : Msg), Working s → Inv s → s.fab.outbox.find? (fun m => !portStuck s m.hold.port) = some m →
    let rest := s.fab.outbox.erase m
    let s0 := freeHold { s with fab := { s.fab with outbox := rest } } m.hold
    (decideHop s (routeHdr m.hdr) = .deliver →
      ∃ t, exec .messageForward s = .next t ∧ t.fab = { s.fab with inbox := s.fab.inbox ++ [m], outbox := rest } ∧
        t.mem = s.mem) ∧
    (decideHop s (routeHdr m.hdr) = .blocked →
      ∃ t, exec .messageForward s = .next t ∧ t.mem = s.mem ∧
        csrField t 0xA0410 0 48 = min (csrField s 0xA0410 0 48 + 1) (2 ^ 48 - 1) ∧
        t.fab = (if m.kind = 9 then s0.fab else (post s0 (unreachOf s m)).fab)) ∧
    (∀ n q d, decideHop s (routeHdr m.hdr) = .send n q d → (port s n).txq = [] → m.kind ≠ 7 ∨ m.sub ≠ 2 →
      let x : TxMsg := { orig := m, hdr := setBits (putRoute m.hdr q) 12 2 (hopVc s m n), left := m.data }
      ∃ t, exec .messageForward s = .next t ∧ t.fab.outbox = rest ∧ t.fab.inbox = s.fab.inbox ∧ t.mem = s.mem ∧
        csrField t 0xA0408 0 48 = min (csrField s 0xA0408 0 48 + b2n d) (2 ^ 48 - 1) ∧
        (mayLeave s n [] x = false → (port t n).txq = [x] ∧ t.fab.wire = s.fab.wire) ∧
        (mayLeave s n [] x = true → m.data.length ≤ 352 → (port t n).txq = [] ∧
          ∃ f more, t.fab.wire = more ++ (n, f) :: s.fab.wire ∧ (port t n).retry = (port s n).retry ++ [f] ∧
            (port t n).txSeq = ((port s n).txSeq + 1) % 4096 ∧ f.payload.take m.data.length = m.data))) ∧
  (∀ s : State, Working s → ((List.range 6).all (fun n => (port s n).txq.all (fun x => !detourWaits x)) = true →
      exec .detourTimeout s = .next s) ∧
    (∀ n x, Inv s → (List.range 6).find? (fun n => (port s n).txq.any detourWaits) = some n →
      (port s n).txq.find? detourWaits = some x →
      ∃ t, exec .detourTimeout s = .next t ∧ (port t n).txq = (port s n).txq.erase x ∧
        csrField t 0xA0410 0 48 = min (csrField s 0xA0410 0 48 + 1) (2 ^ 48 - 1) ∧ t.mem = s.mem)) ∧
  (∀ s : State, Working s → (∀ m ∈ s.fab.inbox, m.kind ≠ 9) → exec .unreachReceive s = .next s) ∧
  (∀ (s : State) (m : Msg), Working s → Inv s → FirstMsg s (fun m => m.kind == 9) m → bits m.hdr 64 4 ≠ 8 →
    ∃ t, exec .unreachReceive s = .next t ∧
      csrField t 0xA0410 0 48 = min (csrField s 0xA0410 0 48 + 1) (2 ^ 48 - 1) ∧ bit (csrGet t 0xD0050) 9 = true ∧
      (∀ g, g < 64 → (grp s g).en = true → inBox s (grpBox s g) (bits m.hdr 83 15) = true → (grp s g).offPend = false →
        (grp t g).lost = true) ∧
      (∀ r, bits m.hdr 64 4 = 4 → s.fab.dp.find? (fun x => x.id == bits m.hdr 98 16 && x.sent) = some r →
        ∃ more, t.fab.rsp = more ++ { port := r.port, tag := r.tag, status := 2, data := 0 } :: s.fab.rsp)) ∧
  (∀ (s : State) (m : Msg) (x : ListRun) (c : Cmd), Working s → FirstMsg s (fun m => m.kind == 9) m →
    bits m.hdr 64 4 = 8 → (migrOf (bits m.hdr 98 62 * 2 ^ 64)).op = 5 → s.plc.list = some x →
    findCmd s x.q x.tag = some c → c.isFinished = false →
    ∃ t, exec .unreachReceive s = .next t ∧ Finished t c 0x40 (bits m.hdr 83 15 * 2 ^ 8) ∧ t.plc.list = none)

/-- The DP ports (R34, R317 to R320). A port takes up to 256 requests, none in cold reset. A fence waits until every
earlier request of its port is answered. A request that no earlier one holds back is answered at once: BAD_OP, MISALIGNED
and UNREACHABLE in this order; a local load, store, fetch-and-add or compare-and-swap with its effect on memory; one to
another chip leaves as a DPREQ. A DPREQ that arrives is answered with a DPRSP, whose arrival answers its request; without
one the timeout answers UNREACHABLE, and a response that comes later is counted. Completes: DP_REQUEST (dpRequest),
DP_FENCE (dpFence), DPREQ_RECEIVE (dpreqReceive), DPRSP_RECEIVE (dprspReceive), DP_TIMEOUT (dpTimeout). -/
def Obligations.DataPorts : Prop :=
  (∀ (s : State) (p : Nat) (op : BitVec 3) (addr : BitVec 57) (sz : BitVec 2) (data : BitVec 512) (tag : BitVec 8),
    Served s → s.glb.boot = .coldReset ∨ 256 ≤ (s.fab.dp.filter (fun x => x.port == p)).length →
    exec (.dpRequest p op addr sz data tag) s = .next s) ∧
  (∀ (s : State) (p : Nat) (op : BitVec 3) (addr : BitVec 57) (sz : BitVec 2) (data : BitVec 512) (tag : BitVec 8),
    Served s → s.glb.boot ≠ .coldReset → (s.fab.dp.filter (fun x => x.port == p)).length < 256 →
    DpClear s p addr.toNat →
    let size := 8 * 2 ^ sz.toNat
    let bad := 5 ≤ op.toNat ∨ ((op = 2 ∨ op = 3) ∧ size ≠ 8)
    let here := bits addr.toNat 42 15 = ownChip s
    let old := rdNum s.mem (addr.toNat % 2 ^ 42) size
    let ans := fun st d => { port := p, tag := tag.toNat, status := st, data := d } :: s.fab.rsp
    (op = 4 → isReady s = true → ∃ t r, exec (.dpRequest p op addr sz data tag) s = .next t ∧ t.fab.rsp = s.fab.rsp ∧
      t.fab.dp = s.fab.dp ++ [r] ∧ r.op = 4 ∧ r.port = p ∧ t.mem = s.mem) ∧
    (op ≠ 4 → (bad ∨ addr.toNat % size ≠ 0 ∨ isReady s = false) →
      ∃ t, exec (.dpRequest p op addr sz data tag) s = .next t ∧ t.mem = s.mem ∧
        t.fab.rsp = ans (if bad then 4 else if addr.toNat % size ≠ 0 then 3 else 2) 0) ∧
    (isReady s = true → Quiet s → holdsMp s 0x28 = true → here → addr.toNat % size = 0 →
      (op = 0 → ∃ t, exec (.dpRequest p op addr sz data tag) s = .next t ∧ t.mem = s.mem ∧ t.fab.rsp = ans 0 old) ∧
      (op = 1 → ∃ t, exec (.dpRequest p op addr sz data tag) s = .next t ∧ t.fab.rsp = ans 0 0 ∧
        rdNum t.mem (addr.toNat % 2 ^ 42) size = data.toNat % 2 ^ (8 * size) ∧
        MemOnly (areaAt (addr.toNat % 2 ^ 42) size) s t) ∧
      (op = 2 → size = 8 → ∃ t, exec (.dpRequest p op addr sz data tag) s = .next t ∧ t.fab.rsp = ans 0 old ∧
        rdNum t.mem (addr.toNat % 2 ^ 42) 8 = (old + data.toNat % 2 ^ 64) % 2 ^ 64 ∧
        MemOnly (areaAt (addr.toNat % 2 ^ 42) 8) s t) ∧
      (op = 3 → size = 8 → ∃ t, exec (.dpRequest p op addr sz data tag) s = .next t ∧ t.fab.rsp = ans 0 old ∧
        (if old = data.toNat % 2 ^ 64 then rdNum t.mem (addr.toNat % 2 ^ 42) 8 = bits data.toNat 64 64
         else t.mem = s.mem) ∧
        MemOnly (areaAt (addr.toNat % 2 ^ 42) 8) s t)) ∧
    (isReady s = true → op ≠ 4 → ¬ bad → addr.toNat % size = 0 → ¬ here →
      ∃ t m, exec (.dpRequest p op addr sz data tag) s = .next t ∧ t.fab.rsp = s.fab.rsp ∧ t.mem = s.mem ∧
        m.kind = 4 ∧ m.dst = bits addr.toNat 42 15 ∧
        (inDomain s (bits addr.toNat 42 15) = true → t.fab.outbox = s.fab.outbox ++ [m]))) ∧
  (∀ (s : State) (p : Nat), Working s →
    ((∀ r, s.fab.dp.find? (fun x => x.port == p) = some r → r.op ≠ 4) → exec (.dpFence p) s = .next s) ∧
    (∀ r, s.fab.dp.find? (fun x => x.port == p) = some r → r.op = 4 →
      ∃ t more, exec (.dpFence p) s = .next t ∧
        t.fab.rsp = more ++ { port := p, tag := r.tag, status := 0, data := 0 } :: s.fab.rsp)) ∧
  (∀ s : State, Working s →
    (holdsMp s 0x28 = false ∨ (∀ m ∈ s.fab.inbox, m.kind ≠ 4) → exec .dpreqReceive s = .next s) ∧
    (∀ m, Quiet s → holdsMp s 0x28 = true → FirstMsg s (fun m => m.kind == 4) m → bits m.hdr 80 3 ≤ 1 →
      let a := bits m.hdr 85 57 % 2 ^ 42
      let size := 8 * 2 ^ bits m.hdr 83 2
      ∃ t u, exec .dpreqReceive s = .next t ∧ t.fab = (post (without s m) u).fab ∧ u.kind = 5 ∧ u.dst = m.src ∧
        bits u.hdr 64 16 = bits m.hdr 64 16 ∧ bits u.hdr 80 3 = 0 ∧
        (bits m.hdr 80 3 = 0 → u.data = leBytes size (rdNum s.mem a size) ∧ t.mem = s.mem) ∧
        (bits m.hdr 80 3 = 1 → u.data = [] ∧ rdNum t.mem a size = leNat m.data % 2 ^ (8 * size) ∧
          MemOnly (areaAt a size) s t))) ∧
  (∀ s : State, Working s →
    ((∀ m ∈ s.fab.inbox, m.kind ≠ 5) → exec .dprspReceive s = .next s) ∧
    (∀ m r, FirstMsg s (fun m => m.kind == 5) m → s.fab.dp.find? (fun x => x.id == bits m.hdr 64 16 && x.sent) = some r →
      ∃ t more, exec .dprspReceive s = .next t ∧ t.fab.rsp = more ++
        { port := r.port, tag := r.tag, status := bits m.hdr 80 3, data := leNat m.data } :: s.fab.rsp) ∧
    (∀ m, Inv s → FirstMsg s (fun m => m.kind == 5) m → s.fab.dp.find? (fun x => x.id == bits m.hdr 64 16 && x.sent) = none →
      ∃ t, exec .dprspReceive s = .next t ∧ t.fab.rsp = s.fab.rsp ∧ t.mem = s.mem ∧
        csrField t 0xA0420 0 48 = (if s.fab.dpLate.contains (bits m.hdr 64 16) then
          min (csrField s 0xA0420 0 48 + 1) (2 ^ 48 - 1) else csrField s 0xA0420 0 48))) ∧
  (∀ (s : State) (id : Nat), Working s → ((∀ r ∈ s.fab.dp, r.id ≠ id) → exec (.dpTimeout id) s = .next s) ∧
    (∀ r, Inv s → s.fab.dp.find? (fun x => x.id == id) = some r →
      ∃ t more, exec (.dpTimeout id) s = .next t ∧
        t.fab.rsp = more ++ { port := r.port, tag := r.tag, status := 2, data := 0 } :: s.fab.rsp ∧
        csrField t 0xA0418 0 48 = min (csrField s 0xA0418 0 48 + 1) (2 ^ 48 - 1) ∧
        (r.sent = true → id ∈ t.fab.dpLate)))

/-! ## Placement -/

/-- PLACE (R326, R329, R330, R332, R340). STEP and LEAVE of a context that is not placed, STEP of a suspended one, ENROL of a
placed one or without a free slot, and a group that is unusable or lost a member are refused. STEP samples and resets the step
counters, writes this member's record and begins the exchange; under STRICT it waits for a due copy that has not ended. ENROL
takes the lowest free slot with its policy block and begins the exchange. LEAVE frees the slot. Completes: PLACE_STEP
(placeStep) and PLACE_ENROL (placeEnrol), whose exchanges begin, PLACE_LEAVE (placeLeave). -/
def Obligations.PlaceCommands : Prop :=
  (∀ (s : State) (c : Cmd) (i : Instr) (status detail : Nat), Issues s c 0x48 →
    let g := pbGroup (ctx s c.ctx)
    let step := isSub 0x48 0 [0, 1, 2] c = true ∧ i = .placeStep c.q c.tag
    let enrol := c.subop = 1 ∧ i = .placeEnrol c.q c.tag
    let leave := c.subop = 2 ∧ i = .placeLeave c.q c.tag
    (step ∧ (∀ k, placedSlot s c.ctx = some k → (pslot s k).st = 2) ∧ status = 0x3F ∧ detail = 0x16) ∨
    (enrol ∧ ((placedSlot s c.ctx).isSome = true ∨ (List.range 32).find? (slotFreeFor s c.q c.tag) = none) ∧ status = 0x3F ∧
      detail = 0x17) ∨
    (leave ∧ placedSlot s c.ctx = none ∧ status = 0x3F ∧ detail = 0x16) ∨
    (((step ∧ ∃ k, placedSlot s c.ctx = some k ∧ (pslot s k).st ≠ 2) ∨
      (enrol ∧ placedSlot s c.ctx = none ∧ ((List.range 32).find? (slotFreeFor s c.q c.tag)).isSome = true)) ∧
      ((inGroup s g = false ∧ status = 0x3F ∧ detail = 0x15) ∨
       (inGroup s g = true ∧ (grp s g).lost = true ∧ status = 0x13 ∧ detail = lostDetail s g))) →
    ∃ t, exec i s = .next t ∧ Reports s t c status detail 0 0 ∧ { t with front := s.front } = s) ∧
  (∀ (s : State) (c : Cmd) (k : Nat), Runs s c 0x48 → Inv s → c.saved = [] → isSub 0x48 0 [0, 1, 2] c = true →
    placedSlot s c.ctx = some k → (pslot s k).st = 1 → absent c.a = true →
    let g := pbGroup (ctx s c.ctx)
    let p := pslot s k
    inGroup s g = true → (grp s g).lost = false →
    (Quiet s → (∀ d ∈ p.decisions, d.copies = false ∨ d.done = true ∨ d.fail = true) → ringAxes (grpBox s g) ≠ [] →
      ∃ t o run, exec (.placeStep c.q c.tag) s = .next t ∧ MovesTo s t c .exec ∧ (grp t g).active = some o ∧
        o.opc = 0x48 ∧ o.q = c.q ∧ o.tag = c.tag ∧ (grp t g).seq = ((grp s g).seq + 1) % 2 ^ 32 ∧
        run ∈ t.plc.places ∧ run.q = c.q ∧ run.tag = c.tag ∧ run.slot = k ∧ run.waiting = false ∧
        (pslot t k).sampled = (List.range (pbE (ctx s c.ctx))).map (fun e =>
          (slook (fun _ => 0) p.sel e, slook (fun _ => 0) p.kept e, slook (fun _ => 0) p.drop e)) ∧
        (pslot t k).sel = [] ∧ (pslot t k).kept = [] ∧ (pslot t k).drop = [] ∧ (pslot t k).step = p.step ∧
        MemOnly (areaAt (polX p + (grp s g).midx * recSize (pbE (ctx s c.ctx))) (recSize (pbE (ctx s c.ctx)))) s t) ∧
    (bit (csrGet s 0xE0000) 0 = true →
      (∃ d ∈ p.decisions, d.copies = true ∧ d.done = false ∧ d.fail = false ∧ d.step + polLag p ≤ p.step) →
      ∃ t run, exec (.placeStep c.q c.tag) s = .next t ∧ MovesTo s t c .exec ∧ run ∈ t.plc.places ∧ run.q = c.q ∧
        run.tag = c.tag ∧ run.waiting = true ∧ t.col = s.col ∧ t.fab = s.fab ∧ t.mem = s.mem)) ∧
  (∀ (s : State) (c : Cmd) (k : Nat), Runs s c 0x48 → Inv s → Quiet s → c.subop = 1 → placedSlot s c.ctx = none →
    (List.range 32).find? (slotFreeFor s c.q c.tag) = some k →
    let g := pbGroup (ctx s c.ctx)
    inGroup s g = true → (grp s g).lost = false → ringAxes (grpBox s g) ≠ [] →
    ∃ t o, exec (.placeEnrol c.q c.tag) s = .next t ∧ MovesTo s t c .exec ∧ (grp t g).active = some o ∧
      o.opc = 0x48 ∧ o.q = c.q ∧ o.tag = c.tag ∧ (pslot t k).st = 3 ∧ (pslot t k).ctx = c.ctx ∧ (pslot t k).step = 0 ∧
      (pslot t k).pepoch = 0 ∧ (pslot t k).decisions = [] ∧
      ∀ w, w < 8 → polW (pslot t k) w = rdNum s.mem (opAddr c.a + 8 * w) 8) ∧
  (∀ (s : State) (c : Cmd) (k : Nat), Runs s c 0x48 → Inv s → c.subop = 2 → placedSlot s c.ctx = some k →
    (grp s (pbGroup (ctx s c.ctx))).lost = false → (pslot s k).decisions = [] →
    ∃ t, exec (.placeLeave c.q c.tag) s = .next t ∧ Reports s t c 0 0 0 0 ∧ pslot t k = {} ∧
      (∀ j, j ≠ k → pslot t j = pslot s j) ∧ t.mem = s.mem ∧ t.col = s.col)

/-- Migration (R337 to R339, R342, R343). MIGRATE of a context that is not placed is refused. LIST of no entries ends at
once; a first entry of at most one piece is sent to its destination chip. GSUM without a gradient companion ends at once,
and one that starts no chain waits for its partners. A piece that arrives is written at its place and acknowledged; one
that matches nothing is discarded and counted; an acknowledgement counts for its copy or its list. A joining chip counts
the STATE messages that it takes.
Completes: MIGRATE LIST (migrateList), MIGRATE GSUM (migrateGsum), MIGR_LIST_MESSAGE (migrListMessage), MIGR_COPY_PIECE
(migrCopyPiece), MIGR_ACK (migrAck), MIGR_GSUM_MESSAGE (migrGsumMessage), MIGR_STATE (migrState). -/
def Obligations.Migration : Prop :=
  (∀ (s : State) (c : Cmd) (i : Instr), Issues s c 0x49 → placedCheck s c.ctx = none →
    (isSub 0x49 0 [0, 1] c = true ∧ i = .migrateList c.q c.tag) ∨ (c.subop = 1 ∧ i = .migrateGsum c.q c.tag) →
    ∃ t, exec i s = .next t ∧ Reports s t c 0x3F 0x16 0 0 ∧ { t with front := s.front } = s) ∧
  (∀ (s : State) (c : Cmd) (k : Nat), Runs s c 0x49 → Inv s → Quiet s → isSub 0x49 0 [0, 1] c = true →
    placedCheck s c.ctx = some k →
    let w := fun i => rdNum s.mem (opAddr c.a + 64 + 8 * i) 8
    (rdNum s.mem (opAddr c.a) 4 = 0 →
      ∃ t, exec (.migrateList c.q c.tag) s = .next t ∧ Reports s t c 0 0 0 0 ∧ t.mem = s.mem ∧ t.plc = s.plc) ∧
    (rdNum s.mem (opAddr c.a) 4 = 1 → bits (w 0) 42 15 = ownChip s → 0 < bits (w 2) 0 32 → bits (w 2) 0 32 ≤ 65536 →
      ∃ t m x, exec (.migrateList c.q c.tag) s = .next t ∧ MovesTo s t c .exec ∧ t.mem = s.mem ∧
        t.fab = (post s m).fab ∧ m.kind = 8 ∧ m.dst = bits (w 1) 42 15 ∧
        m.data = listHead (w 1 % 2 ^ 57) (bits (w 2) 0 32) ++ rdBytes s.mem (w 0 % 2 ^ 42) (bits (w 2) 0 32) ∧
        t.plc.list = some x ∧ x.q = c.q ∧ x.tag = c.tag ∧ x.todo = [] ∧ x.out = 1)) ∧
  (∀ (s : State) (c : Cmd) (k : Nat), Issues s c 0x49 → Inv s → c.subop = 1 → placedCheck s c.ctx = some k →
    let g := pbGroup (ctx s c.ctx)
    (inGroup s g = false → ∃ t, exec (.migrateGsum c.q c.tag) s = .next t ∧ Reports s t c 0x3F 0x15 0 0) ∧
    (inGroup s g = true → (grp s g).lost = false → polG (pslot s k) = 0xF →
      ∃ t, exec (.migrateGsum c.q c.tag) s = .next t ∧ Reports s t c 0 0 0 0 ∧ { t with front := s.front } = s) ∧
    (∀ n u, Slotted s c → inGroup s g = true → (grp s g).lost = false → polG (pslot s k) ≠ 0xF →
      (gsumParts (pslot s k) (pbE (ctx s c.ctx))).run (begun s c) = (.ok (n + 1, []), u) →
      ∃ t x, exec (.migrateGsum c.q c.tag) s = .next t ∧ MovesTo s t c .exec ∧ t.plc.gsum = some x ∧ x.q = c.q ∧
        x.tag = c.tag ∧ x.slot = k ∧ x.left = n + 1 ∧ x.todo = [] ∧ t.mem = s.mem)) ∧
  (∀ s : State, Working s →
    ((∀ m ∈ s.fab.inbox, m.kind = 8 → (migrOf m.hdr).op ≠ 5) → exec .migrListMessage s = .next s) ∧
    (∀ m, Quiet s → FirstMsg s (fun m => m.kind == 8 && (migrOf m.hdr).op == 5) m →
      let a := leNat (m.data.take 8)
      ∃ t u, exec .migrListMessage s = .next t ∧ t.fab = (post (without s m) u).fab ∧ u.kind = 8 ∧ u.dst = m.src ∧
        (migrOf u.hdr).op = 1 ∧ u.data = m.data.take 64 ∧
        t.mem = wrBytes s.mem (a % 2 ^ 42) (m.data.drop 64) ∧ t.front = s.front)) ∧
  (∀ s : State, Working s →
    ((∀ m ∈ s.fab.inbox, m.kind = 8 → (migrOf m.hdr).op ≠ 0) → exec .migrCopyPiece s = .next s) ∧
    (∀ m, Inv s → FirstMsg s (fun m => m.kind == 8 && (migrOf m.hdr).op == 0) m → decOf s (migrOf m.hdr) true = none →
      s.plc.members = none → ∃ t, exec .migrCopyPiece s = .next t ∧ TakesMsg s t m ∧
        csrField t 0xB0120 0 48 = min (csrField s 0xB0120 0 48 + 1) (2 ^ 48 - 1) ∧
        { t with fab := s.fab, csr := s.csr } = s) ∧
    (∀ m d b ci, Inv s → Quiet s → s.plc.places = [] → FirstMsg s (fun m => m.kind == 8 && (migrOf m.hdr).op == 0) m →
      decOf s (migrOf m.hdr) true = some d → d.run = some b →
      let h := migrOf m.hdr
      let p := pslot s h.pslot
      placeOfBlock p d.expert h.block = some ci → p.decisions = [d] →
      ∃ t u, exec .migrCopyPiece s = .next t ∧ t.fab = (post (without s m) u).fab ∧ u.kind = 8 ∧ u.dst = m.src ∧
        (migrOf u.hdr).op = 1 ∧ u.data = [] ∧
        (pslot t h.pslot).decisions =
          [{ d with recvP := d.recvP + 1, done := d.done || decide (d.pieces ≤ d.recvP + 1) }] ∧
        t.mem = wrBytes s.mem (((b + ci.1 * polNB p + ci.2) * 2 ^ 21 + h.offset * 64) % 2 ^ 42) m.data)) ∧
  (∀ s : State, Working s →
    ((∀ m ∈ s.fab.inbox, m.kind = 8 → (migrOf m.hdr).op ≠ 1) → exec .migrAck s = .next s) ∧
    (∀ m, Inv s → FirstMsg s (fun m => m.kind == 8 && (migrOf m.hdr).op == 1) m → m.data = [] →
      decOf s (migrOf m.hdr) false = none → s.plc.members = none →
      ∃ t, exec .migrAck s = .next t ∧ TakesMsg s t m ∧
        csrField t 0xB0120 0 48 = min (csrField s 0xB0120 0 48 + 1) (2 ^ 48 - 1) ∧
        { t with fab := s.fab, csr := s.csr } = s) ∧
    (∀ m d, Inv s → s.plc.places = [] → FirstMsg s (fun m => m.kind == 8 && (migrOf m.hdr).op == 1) m → m.data = [] →
      let h := migrOf m.hdr
      decOf s h false = some d → (pslot s h.pslot).decisions = [d] → d.pieces ≤ d.sentP →
      ∃ t, exec .migrAck s = .next t ∧ TakesMsg s t m ∧ t.mem = s.mem ∧
        (pslot t h.pslot).decisions =
          [{ d with ackP := d.ackP + 1, done := d.done || decide (d.pieces ≤ d.ackP + 1) }] ∧
        (pslot t h.pslot).ackBytes = (pslot s h.pslot).ackBytes + 65536) ∧
    (∀ m x, FirstMsg s (fun m => m.kind == 8 && (migrOf m.hdr).op == 1) m → m.data ≠ [] → s.plc.list = some x →
      x.todo = [] →
      (x.out ≠ 1 → x.out ≠ 0 → ∃ t, exec .migrAck s = .next t ∧ TakesMsg s t m ∧ t.mem = s.mem ∧ t.front = s.front ∧
        t.plc.list = some { x with out := x.out - 1, bytes := x.bytes + leNat ((m.data.drop 8).take 8) }) ∧
      (∀ c, x.out = 1 → findCmd s x.q x.tag = some c → c.isFinished = false →
        ∃ t, exec .migrAck s = .next t ∧ Finished t c 0 (x.skipped % 2 ^ 24) ∧ t.plc.list = none ∧ t.mem = s.mem))) ∧
  (∀ (s : State) (res : Residue), Working s →
    let f := fun (m : Msg) => (m.kind == 8 && ((migrOf m.hdr).op == 2 || (migrOf m.hdr).op == 3)) &&
      (gsumMatch s m || gsumStale s m)
    (NoMsg s f → exec (.migrGsumMessage res) s = .next s) ∧
    (∀ m, Inv s → FirstMsg s f m → gsumMatch s m = false →
      ∃ t, exec (.migrGsumMessage res) s = .next t ∧ TakesMsg s t m ∧
        csrField t 0xB0120 0 48 = min (csrField s 0xB0120 0 48 + 1) (2 ^ 48 - 1) ∧
        { t with fab := s.fab, csr := s.csr } = s) ∧
    (∀ m x c, FirstMsg s f m → s.plc.gsum = some x → gsumMatch s m = true → (migrOf m.hdr).op = 2 →
      res.fault = true → m.data ≠ [] → findCmd s x.q x.tag = some c → c.isFinished = false →
      ∃ t, exec (.migrGsumMessage res) s = .next t ∧
        Finished t c 0x31 (grp s (pbGroup (ctx s x.ctx))).midx ∧ t.plc.gsum = none ∧ t.mem = s.mem) ∧
    (∀ m x l r a, Quiet s → FirstMsg s f m → s.plc.gsum = some x → gsumMatch s m = true → (migrOf m.hdr).op = 3 →
      (blockReplicas (without s m) (migrOf m.hdr).block).2 = .ok l → ownReplica s l = some (r, a) → r + 1 ≠ l.length →
      2 ≤ x.left →
      ∃ t, exec (.migrGsumMessage res) s = .next t ∧ t.plc.gsum = some { x with left := x.left - 1 } ∧
        t.mem = wrBytes s.mem ((a + (migrOf m.hdr).offset * 64) % 2 ^ 42) m.data ∧ t.front = s.front)) ∧
  (∀ s : State, Working s →
    ((s.plc.members = none ∨ (∀ m ∈ s.fab.inbox, m.kind = 8 → (migrOf m.hdr).op ≠ 4)) → exec .migrState s = .next s) ∧
    (∀ m x n, Inv s → Quiet s → s.plc.members = some x → x.role = .joining → x.stage ≤ 2 → x.states = some (n + 2) →
      FirstMsg s (fun m => m.kind == 8 && (migrOf m.hdr).op == 4) m →
      let w := fun i => nth ((runs 8 16 m.data).map leNat) i
      ∃ t, exec .migrState s = .next t ∧ t.plc.members = some { x with states := some (n + 1) } ∧ t.front = s.front ∧
        TakesMsg { s with fab := { s.fab with ownCache := t.fab.ownCache } } t m ∧
        (w 3 = 0 → t.plc.slots = s.plc.slots ∧ t.mem = s.mem) ∧
        (∀ k, w 3 ≠ 0 → (List.range 32).find? (slotFree s) = some k →
          pslot t k = { st := 1, ctx := w 0 % 2 ^ 14, step := bits (w 1) 0 32, pepoch := bits (w 1) 32 16,
                        policy := (((runs 8 16 m.data).map leNat).drop 8).take 8 })))

/-- MEMBERS and the placement timeout (R330, R340, R343, R346 to R348). A member list that names another group, and a chip
that is in neither box or named as lost, are refused, the chip by the model's choice (log entry 152). A chip that departs with no placed context leaves the group at once: the
group is disabled and the epoch of each of its OPEN contexts rises. A PLACE, MEMBERS or MIGRATE LIST that waits too long ends
with STALLED, the MEMBERS keeping what it has done.
Completes: MEMBERS (members), PLACEMENT_TIMEOUT (placementTimeout). -/
def Obligations.MembersAndTimeout : Prop :=
  (∀ (s : State) (c : Cmd), Runs s c 0x4A → Quiet s →
    let w := fun i => rdNum s.mem (opAddr c.a + 8 * i) 8
    let x : MembersSt := { q := c.q, tag := c.tag, ctx := c.ctx, g := pbGroup (ctx s c.ctx), list := (List.range 8).map w }
    (bits (w 1) 0 6 ≠ pbGroup (ctx s c.ctx) ∨ groupTaken (begun s c) (pbGroup (ctx s c.ctx)) = true ∨
      (s.plc.members = none ∧ roleOf s x = none)) →
    ∃ t, exec (.members c.q c.tag) s = .next t ∧ Reports s t c 0x3F 0x15 0 0 ∧ t.mem = s.mem ∧ t.plc = s.plc ∧
      t.col = s.col ∧ t.ctxs = s.ctxs) ∧
  (∀ (s : State) (c : Cmd), Runs s c 0x4A → Inv s → Quiet s →
    let g := pbGroup (ctx s c.ctx)
    let w := fun i => rdNum s.mem (opAddr c.a + 8 * i) 8
    let x : MembersSt := { q := c.q, tag := c.tag, ctx := c.ctx, g := g, list := (List.range 8).map w }
    bits (w 1) 0 6 = g → groupTaken (begun s c) g = false → s.plc.members = none → roleOf s x = some .departing →
    (∀ k ∈ ctxsOf s g, placedSlot s k = none) → (∀ u ∈ s.disp.uses, u.ctx ∈ ctxsOf s g → u.ended.isSome = true) →
    ∃ t, exec (.members c.q c.tag) s = .next t ∧ Finished t c 0 0 ∧ (grp t g).en = false ∧ t.plc.members = none ∧
      bit (csrGet t 0xB0068) 3 = true ∧ t.mem = s.mem ∧ t.disp = s.disp ∧
      (∀ k, (ctx t k).epoch = (if k ∈ ctxsOf s g ∧ (ctx s k).st = .open then ((ctx s k).epoch + 1) % 2 ^ 16
        else (ctx s k).epoch))) ∧
  (∀ (s : State) (q tag : Nat), Working s → (∀ c, findCmd s q tag = some c → c.executing = false) →
    exec (.placementTimeout q tag) s = .next s) ∧
  (∀ (s : State) (c : Cmd), Working s → findCmd s c.q c.tag = some c → c.executing = true →
    (∀ r, groupBusyWith s c.q c.tag = none → c.opc = 0x48 → placeRun s c.q c.tag = some r → r.waiting = true →
      ∃ t, exec (.placementTimeout c.q c.tag) s = .next t ∧
        Finished t c 0x12 (grp s (pbGroup (ctx s r.ctx))).midx ∧ placeRun t c.q c.tag = none ∧ t.mem = s.mem) ∧
    (∀ x, groupBusyWith s c.q c.tag = none → c.opc = 0x4A → s.plc.members = some x → x.q = c.q → x.tag = c.tag →
      ∃ t, exec (.placementTimeout c.q c.tag) s = .next t ∧ Finished t c 0x12 (grp s x.g).midx ∧
        { t with front := s.front } = s) ∧
    (∀ g o, Inv s → groupBusyWith s c.q c.tag = some g → c.opc = 0x48 ∨ c.opc = 0x4A → (grp s g).active = some o →
      ∃ t, exec (.placementTimeout c.q c.tag) s = .next t ∧
        Finished t c 0x12 ((grp s g).midx % 2 ^ 15 + 2 ^ 16 * phaseAxis o (nth (phaseAxes (grpBox s g) o.opc))) ∧
        (grp t g).active = none) ∧
    (∀ x, c.opc = 0x49 → s.plc.list = some x → x.q = c.q → x.tag = c.tag →
      ∃ t, exec (.placementTimeout c.q c.tag) s = .next t ∧
        Finished t c 0x12 (grp s (pbGroup (ctx s x.ctx))).midx ∧ t.plc.list = none ∧ t.mem = s.mem))
end

