-- ==== Sys2Proof/Laws/Sparse.lean ====
section
/-! SUPPORT. Laws of the sparse stores: reading what was written, and the canonical form. -/

namespace Sys2Proof

/-- A read of another key than the one written sees what stood before. -/
theorem slook_sput_ne {α : Type} [DecidableEq α] {d : Nat → α} {l : List (Nat × α)} {a b : Nat} {v : α} (h : b ≠ a) :
    slook d (sput d l a v) b = slook d l b := by
  induction l with
  | nil => unfold sput; split <;> simp [slook, h]
  | cons p r ih =>
    obtain ⟨k, w⟩ := p
    unfold sput
    split
    · split <;> simp [slook, h]
    · split
      · rename_i e; subst e
        split <;> simp [slook, h]
      · simp [slook, ih]

/-- A read of the key written sees the value, where the value is not the key's default. -/
theorem slook_sput_of_ne_default {α : Type} [DecidableEq α] {d : Nat → α} {l : List (Nat × α)} {a : Nat} {v : α}
    (h : v ≠ d a) : slook d (sput d l a v) a = v := by
  induction l with
  | nil => simp [sput, slook, h]
  | cons p r ih =>
    obtain ⟨k, w⟩ := p
    unfold sput
    split
    · simp [slook]
    · split
      · rename_i e; subst e; simp [slook]
      · rename_i e; simp [slook, e, ih]

/-- Every key of a list is above `n`. -/
def keysAbove {α : Type} (n : Nat) (l : List (Nat × α)) : Prop := ∀ p ∈ l, n < p.1

/-- The canonical form of a nonempty store, by its head. -/
theorem swf_cons {α : Type} [DecidableEq α] {d : Nat → α} {k : Nat} {v : α} {r : List (Nat × α)} :
    swf d ((k, v) :: r) = true ↔ v ≠ d k ∧ keysAbove k r ∧ swf d r = true := by
  induction r generalizing k v with
  | nil => simp [swf, keysAbove]
  | cons p r ih =>
    obtain ⟨k2, v2⟩ := p
    have h2 := ih (k := k2) (v := v2)
    simp only [swf, Bool.and_eq_true, decide_eq_true_eq, keysAbove, List.mem_cons, forall_eq_or_imp] at h2 ⊢
    constructor
    · rintro ⟨⟨hv, hk⟩, hw⟩
      exact ⟨hv, ⟨hk, fun p hp => Nat.lt_trans hk ((h2.mp hw).2.1 p hp)⟩, hw⟩
    · rintro ⟨hv, ⟨hk, -⟩, hw⟩
      exact ⟨⟨hv, hk⟩, hw⟩

/-- Writing keeps keys above a bound that the written key is above. -/
theorem keysAbove_sput {α : Type} [DecidableEq α] {d : Nat → α} {l : List (Nat × α)} {n a : Nat} {v : α}
    (h : keysAbove n l) (ha : n < a) : keysAbove n (sput d l a v) := by
  induction l with
  | nil => unfold sput; split <;> simp [keysAbove, ha]
  | cons p r ih =>
    obtain ⟨k, w⟩ := p
    have hr : keysAbove n r := fun p hp => h p (List.mem_cons_of_mem _ hp)
    have hk : n < k := h (k, w) List.mem_cons_self
    unfold sput
    split
    · split
      · exact h
      · intro p hp; rcases List.mem_cons.mp hp with rfl | hp
        · exact ha
        · exact h p hp
    · split
      · split
        · exact hr
        · intro p hp; rcases List.mem_cons.mp hp with rfl | hp
          · exact ha
          · exact hr p hp
      · intro p hp; rcases List.mem_cons.mp hp with rfl | hp
        · exact hk
        · exact ih hr p hp

/-- Writing keeps the canonical form. -/
theorem swf_sput {α : Type} [DecidableEq α] {d : Nat → α} {l : List (Nat × α)} {a : Nat} {v : α}
    (h : swf d l = true) : swf d (sput d l a v) = true := by
  induction l with
  | nil => unfold sput; split <;> simp_all [swf]
  | cons p r ih =>
    obtain ⟨k, w⟩ := p
    obtain ⟨hw, hk, hr⟩ := swf_cons.mp h
    unfold sput
    split
    · rename_i hlt
      split
      · exact h
      · rename_i hv
        exact swf_cons.mpr ⟨hv, fun p hp => by
          rcases List.mem_cons.mp hp with rfl | hp
          · exact hlt
          · exact Nat.lt_trans hlt (hk p hp), h⟩
    · rename_i hlt
      split
      · rename_i e; subst e
        split
        · exact hr
        · rename_i hv; exact swf_cons.mpr ⟨hv, hk, hr⟩
      · rename_i e
        exact swf_cons.mpr ⟨hw, keysAbove_sput hk (by omega), ih hr⟩

/-- A key below every key of a canonical store reads as its default. -/
theorem slook_below {α : Type} {d : Nat → α} {l : List (Nat × α)} {n a : Nat} (h : keysAbove n l) (ha : a ≤ n) :
    slook d l a = d a := by
  induction l with
  | nil => rfl
  | cons p r ih =>
    obtain ⟨k, w⟩ := p
    have hk : n < k := h (k, w) List.mem_cons_self
    have : a ≠ k := by omega
    simp only [slook, this, if_false]
    exact ih (fun p hp => h p (List.mem_cons_of_mem _ hp))

/-- In a canonical store a read of the key written sees the value written. -/
theorem slook_sput {α : Type} [DecidableEq α] {d : Nat → α} {l : List (Nat × α)} {a : Nat} {v : α}
    (h : swf d l = true) : slook d (sput d l a v) a = v := by
  by_cases hv : v = d a
  · induction l with
    | nil => simp [sput, slook, hv]
    | cons p r ih =>
      obtain ⟨k, w⟩ := p
      obtain ⟨-, hk, hr⟩ := swf_cons.mp h
      unfold sput
      split
      · rename_i hlt
        have : a ≠ k := by omega
        simp only [hv, slook, this, if_false]
        exact slook_below hk (by omega)
      · split
        · rename_i e; subst e
          simp only [hv]
          exact slook_below hk (Nat.le_refl _)
        · rename_i e
          simp only [slook, e, if_false]
          exact ih hr
  · exact slook_sput_of_ne_default hv

/-- The empty store is canonical. -/
theorem swf_nil {α : Type} [DecidableEq α] {d : Nat → α} : swf d [] = true := rfl

/-- A filtered canonical store is canonical. -/
theorem swf_filter {α : Type} [DecidableEq α] {d : Nat → α} {l : List (Nat × α)} (f : Nat × α → Bool)
    (h : swf d l = true) : swf d (l.filter f) = true := by
  induction l with
  | nil => rfl
  | cons p r ih =>
    obtain ⟨k, v⟩ := p
    obtain ⟨hv, hk, hr⟩ := swf_cons.mp h
    by_cases hf : f (k, v)
    · rw [List.filter_cons_of_pos hf]
      exact swf_cons.mpr ⟨hv, fun p hp => hk p (List.mem_of_mem_filter hp), ih hr⟩
    · rw [List.filter_cons_of_neg hf]
      exact ih hr

end Sys2Proof
end

