-- ==== Sys2Proof/Laws/State.lean ====
section
/-! SUPPORT. What each update of State leaves as it was, field by field, and what the tables read after it. -/

namespace Sys2Proof.Machine

/-! ## csrPut -/

@[simp] theorem csrPut_pending (s : State) (o v : Nat) : (csrPut s o v).pending = s.pending := rfl
@[simp] theorem csrPut_mem (s : State) (o v : Nat) : (csrPut s o v).mem = s.mem := rfl
@[simp] theorem csrPut_glb (s : State) (o v : Nat) : (csrPut s o v).glb = s.glb := rfl
@[simp] theorem csrPut_pins (s : State) (o v : Nat) : (csrPut s o v).pins = s.pins := rfl
@[simp] theorem csrPut_front (s : State) (o v : Nat) : (csrPut s o v).front = s.front := rfl
@[simp] theorem csrPut_ctxs (s : State) (o v : Nat) : (csrPut s o v).ctxs = s.ctxs := rfl
@[simp] theorem csrPut_slots (s : State) (o v : Nat) : (csrPut s o v).slots = s.slots := rfl
@[simp] theorem csrPut_disp (s : State) (o v : Nat) : (csrPut s o v).disp = s.disp := rfl
@[simp] theorem csrPut_shd (s : State) (o v : Nat) : (csrPut s o v).shd = s.shd := rfl
@[simp] theorem csrPut_col (s : State) (o v : Nat) : (csrPut s o v).col = s.col := rfl
@[simp] theorem csrPut_fab (s : State) (o v : Nat) : (csrPut s o v).fab = s.fab := rfl
@[simp] theorem csrPut_plc (s : State) (o v : Nat) : (csrPut s o v).plc = s.plc := rfl
@[simp] theorem csrPut_pmc (s : State) (o v : Nat) : (csrPut s o v).pmc = s.pmc := rfl
@[simp] theorem csrPut_mgt (s : State) (o v : Nat) : (csrPut s o v).mgt = s.mgt := rfl
@[simp] theorem csrPut_test (s : State) (o v : Nat) : (csrPut s o v).test = s.test := rfl
@[simp] theorem csrPut_rotaActive (s : State) (o v : Nat) : (csrPut s o v).rotaActive = s.rotaActive := rfl
@[simp] theorem csrPut_rotaPend (s : State) (o v : Nat) : (csrPut s o v).rotaPend = s.rotaPend := rfl
@[simp] theorem csrPut_draws (s : State) (o v : Nat) : (csrPut s o v).draws = s.draws := rfl
@[simp] theorem ctx_csrPut (s : State) (o v : Nat) (k : Nat) : ctx (csrPut s o v) k = ctx s k := rfl
@[simp] theorem queue_csrPut (s : State) (o v : Nat) (k : Nat) : queue (csrPut s o v) k = queue s k := rfl
@[simp] theorem findCmd_csrPut (s : State) (o v : Nat) (k t : Nat) : findCmd (csrPut s o v) k t = findCmd s k t := rfl
@[simp] theorem shed_csrPut (s : State) (o v : Nat) (k : Nat) : shed (csrPut s o v) k = shed s k := rfl
@[simp] theorem quse_csrPut (s : State) (o v : Nat) (k : Nat) : quse (csrPut s o v) k = quse s k := rfl
@[simp] theorem grp_csrPut (s : State) (o v : Nat) (k : Nat) : grp (csrPut s o v) k = grp s k := rfl
@[simp] theorem port_csrPut (s : State) (o v : Nat) (k : Nat) : port (csrPut s o v) k = port s k := rfl
@[simp] theorem pslot_csrPut (s : State) (o v : Nat) (k : Nat) : pslot (csrPut s o v) k = pslot s k := rfl
@[simp] theorem ticket_csrPut (s : State) (o v : Nat) (k : Nat) : ticket (csrPut s o v) k = ticket s k := rfl
@[simp] theorem useAt_csrPut (s : State) (o v : Nat) (k : Nat) : useAt (csrPut s o v) k = useAt s k := rfl
@[simp] theorem liveUse_csrPut (s : State) (o v : Nat) (k t : Nat) : liveUse (csrPut s o v) k t = liveUse s k t := rfl
@[simp] theorem now_csrPut (s : State) (o v : Nat) : now (csrPut s o v) = now s := rfl
@[simp] theorem isReady_csrPut (s : State) (o v : Nat) : isReady (csrPut s o v) = isReady s := rfl
@[simp] theorem flagOf_csrPut (s : State) (o v : Nat) (k : Nat) : flagOf (csrPut s o v) k = flagOf s k := rfl
@[simp] theorem mpLvl2_csrPut (s : State) (o v : Nat) : mpLvl2 (csrPut s o v) = mpLvl2 s := rfl

/-! ## csrSet -/

@[simp] theorem csrSet_pending (s : State) (o m : Nat) : (csrSet s o m).pending = s.pending := rfl
@[simp] theorem csrSet_mem (s : State) (o m : Nat) : (csrSet s o m).mem = s.mem := rfl
@[simp] theorem csrSet_glb (s : State) (o m : Nat) : (csrSet s o m).glb = s.glb := rfl
@[simp] theorem csrSet_pins (s : State) (o m : Nat) : (csrSet s o m).pins = s.pins := rfl
@[simp] theorem csrSet_front (s : State) (o m : Nat) : (csrSet s o m).front = s.front := rfl
@[simp] theorem csrSet_ctxs (s : State) (o m : Nat) : (csrSet s o m).ctxs = s.ctxs := rfl
@[simp] theorem csrSet_slots (s : State) (o m : Nat) : (csrSet s o m).slots = s.slots := rfl
@[simp] theorem csrSet_disp (s : State) (o m : Nat) : (csrSet s o m).disp = s.disp := rfl
@[simp] theorem csrSet_shd (s : State) (o m : Nat) : (csrSet s o m).shd = s.shd := rfl
@[simp] theorem csrSet_col (s : State) (o m : Nat) : (csrSet s o m).col = s.col := rfl
@[simp] theorem csrSet_fab (s : State) (o m : Nat) : (csrSet s o m).fab = s.fab := rfl
@[simp] theorem csrSet_plc (s : State) (o m : Nat) : (csrSet s o m).plc = s.plc := rfl
@[simp] theorem csrSet_pmc (s : State) (o m : Nat) : (csrSet s o m).pmc = s.pmc := rfl
@[simp] theorem csrSet_mgt (s : State) (o m : Nat) : (csrSet s o m).mgt = s.mgt := rfl
@[simp] theorem csrSet_test (s : State) (o m : Nat) : (csrSet s o m).test = s.test := rfl
@[simp] theorem csrSet_rotaActive (s : State) (o m : Nat) : (csrSet s o m).rotaActive = s.rotaActive := rfl
@[simp] theorem csrSet_rotaPend (s : State) (o m : Nat) : (csrSet s o m).rotaPend = s.rotaPend := rfl
@[simp] theorem csrSet_draws (s : State) (o m : Nat) : (csrSet s o m).draws = s.draws := rfl
@[simp] theorem ctx_csrSet (s : State) (o m : Nat) (k : Nat) : ctx (csrSet s o m) k = ctx s k := rfl
@[simp] theorem queue_csrSet (s : State) (o m : Nat) (k : Nat) : queue (csrSet s o m) k = queue s k := rfl
@[simp] theorem findCmd_csrSet (s : State) (o m : Nat) (k t : Nat) : findCmd (csrSet s o m) k t = findCmd s k t := rfl
@[simp] theorem shed_csrSet (s : State) (o m : Nat) (k : Nat) : shed (csrSet s o m) k = shed s k := rfl
@[simp] theorem quse_csrSet (s : State) (o m : Nat) (k : Nat) : quse (csrSet s o m) k = quse s k := rfl
@[simp] theorem grp_csrSet (s : State) (o m : Nat) (k : Nat) : grp (csrSet s o m) k = grp s k := rfl
@[simp] theorem port_csrSet (s : State) (o m : Nat) (k : Nat) : port (csrSet s o m) k = port s k := rfl
@[simp] theorem pslot_csrSet (s : State) (o m : Nat) (k : Nat) : pslot (csrSet s o m) k = pslot s k := rfl
@[simp] theorem ticket_csrSet (s : State) (o m : Nat) (k : Nat) : ticket (csrSet s o m) k = ticket s k := rfl
@[simp] theorem useAt_csrSet (s : State) (o m : Nat) (k : Nat) : useAt (csrSet s o m) k = useAt s k := rfl
@[simp] theorem liveUse_csrSet (s : State) (o m : Nat) (k t : Nat) : liveUse (csrSet s o m) k t = liveUse s k t := rfl
@[simp] theorem now_csrSet (s : State) (o m : Nat) : now (csrSet s o m) = now s := rfl
@[simp] theorem isReady_csrSet (s : State) (o m : Nat) : isReady (csrSet s o m) = isReady s := rfl
@[simp] theorem flagOf_csrSet (s : State) (o m : Nat) (k : Nat) : flagOf (csrSet s o m) k = flagOf s k := rfl
@[simp] theorem mpLvl2_csrSet (s : State) (o m : Nat) : mpLvl2 (csrSet s o m) = mpLvl2 s := rfl

/-! ## csrClr -/

@[simp] theorem csrClr_pending (s : State) (o m : Nat) : (csrClr s o m).pending = s.pending := rfl
@[simp] theorem csrClr_mem (s : State) (o m : Nat) : (csrClr s o m).mem = s.mem := rfl
@[simp] theorem csrClr_glb (s : State) (o m : Nat) : (csrClr s o m).glb = s.glb := rfl
@[simp] theorem csrClr_pins (s : State) (o m : Nat) : (csrClr s o m).pins = s.pins := rfl
@[simp] theorem csrClr_front (s : State) (o m : Nat) : (csrClr s o m).front = s.front := rfl
@[simp] theorem csrClr_ctxs (s : State) (o m : Nat) : (csrClr s o m).ctxs = s.ctxs := rfl
@[simp] theorem csrClr_slots (s : State) (o m : Nat) : (csrClr s o m).slots = s.slots := rfl
@[simp] theorem csrClr_disp (s : State) (o m : Nat) : (csrClr s o m).disp = s.disp := rfl
@[simp] theorem csrClr_shd (s : State) (o m : Nat) : (csrClr s o m).shd = s.shd := rfl
@[simp] theorem csrClr_col (s : State) (o m : Nat) : (csrClr s o m).col = s.col := rfl
@[simp] theorem csrClr_fab (s : State) (o m : Nat) : (csrClr s o m).fab = s.fab := rfl
@[simp] theorem csrClr_plc (s : State) (o m : Nat) : (csrClr s o m).plc = s.plc := rfl
@[simp] theorem csrClr_pmc (s : State) (o m : Nat) : (csrClr s o m).pmc = s.pmc := rfl
@[simp] theorem csrClr_mgt (s : State) (o m : Nat) : (csrClr s o m).mgt = s.mgt := rfl
@[simp] theorem csrClr_test (s : State) (o m : Nat) : (csrClr s o m).test = s.test := rfl
@[simp] theorem csrClr_rotaActive (s : State) (o m : Nat) : (csrClr s o m).rotaActive = s.rotaActive := rfl
@[simp] theorem csrClr_rotaPend (s : State) (o m : Nat) : (csrClr s o m).rotaPend = s.rotaPend := rfl
@[simp] theorem csrClr_draws (s : State) (o m : Nat) : (csrClr s o m).draws = s.draws := rfl
@[simp] theorem ctx_csrClr (s : State) (o m : Nat) (k : Nat) : ctx (csrClr s o m) k = ctx s k := rfl
@[simp] theorem queue_csrClr (s : State) (o m : Nat) (k : Nat) : queue (csrClr s o m) k = queue s k := rfl
@[simp] theorem findCmd_csrClr (s : State) (o m : Nat) (k t : Nat) : findCmd (csrClr s o m) k t = findCmd s k t := rfl
@[simp] theorem shed_csrClr (s : State) (o m : Nat) (k : Nat) : shed (csrClr s o m) k = shed s k := rfl
@[simp] theorem quse_csrClr (s : State) (o m : Nat) (k : Nat) : quse (csrClr s o m) k = quse s k := rfl
@[simp] theorem grp_csrClr (s : State) (o m : Nat) (k : Nat) : grp (csrClr s o m) k = grp s k := rfl
@[simp] theorem port_csrClr (s : State) (o m : Nat) (k : Nat) : port (csrClr s o m) k = port s k := rfl
@[simp] theorem pslot_csrClr (s : State) (o m : Nat) (k : Nat) : pslot (csrClr s o m) k = pslot s k := rfl
@[simp] theorem ticket_csrClr (s : State) (o m : Nat) (k : Nat) : ticket (csrClr s o m) k = ticket s k := rfl
@[simp] theorem useAt_csrClr (s : State) (o m : Nat) (k : Nat) : useAt (csrClr s o m) k = useAt s k := rfl
@[simp] theorem liveUse_csrClr (s : State) (o m : Nat) (k t : Nat) : liveUse (csrClr s o m) k t = liveUse s k t := rfl
@[simp] theorem now_csrClr (s : State) (o m : Nat) : now (csrClr s o m) = now s := rfl
@[simp] theorem isReady_csrClr (s : State) (o m : Nat) : isReady (csrClr s o m) = isReady s := rfl
@[simp] theorem flagOf_csrClr (s : State) (o m : Nat) (k : Nat) : flagOf (csrClr s o m) k = flagOf s k := rfl
@[simp] theorem mpLvl2_csrClr (s : State) (o m : Nat) : mpLvl2 (csrClr s o m) = mpLvl2 s := rfl

/-! ## setQueue -/

@[simp] theorem setQueue_pending (s : State) (q : Nat) (x : Queue) : (setQueue s q x).pending = s.pending := rfl
@[simp] theorem setQueue_mem (s : State) (q : Nat) (x : Queue) : (setQueue s q x).mem = s.mem := rfl
@[simp] theorem setQueue_glb (s : State) (q : Nat) (x : Queue) : (setQueue s q x).glb = s.glb := rfl
@[simp] theorem setQueue_pins (s : State) (q : Nat) (x : Queue) : (setQueue s q x).pins = s.pins := rfl
@[simp] theorem setQueue_csr (s : State) (q : Nat) (x : Queue) : (setQueue s q x).csr = s.csr := rfl
@[simp] theorem setQueue_ctxs (s : State) (q : Nat) (x : Queue) : (setQueue s q x).ctxs = s.ctxs := rfl
@[simp] theorem setQueue_slots (s : State) (q : Nat) (x : Queue) : (setQueue s q x).slots = s.slots := rfl
@[simp] theorem setQueue_disp (s : State) (q : Nat) (x : Queue) : (setQueue s q x).disp = s.disp := rfl
@[simp] theorem setQueue_shd (s : State) (q : Nat) (x : Queue) : (setQueue s q x).shd = s.shd := rfl
@[simp] theorem setQueue_col (s : State) (q : Nat) (x : Queue) : (setQueue s q x).col = s.col := rfl
@[simp] theorem setQueue_fab (s : State) (q : Nat) (x : Queue) : (setQueue s q x).fab = s.fab := rfl
@[simp] theorem setQueue_plc (s : State) (q : Nat) (x : Queue) : (setQueue s q x).plc = s.plc := rfl
@[simp] theorem setQueue_pmc (s : State) (q : Nat) (x : Queue) : (setQueue s q x).pmc = s.pmc := rfl
@[simp] theorem setQueue_mgt (s : State) (q : Nat) (x : Queue) : (setQueue s q x).mgt = s.mgt := rfl
@[simp] theorem setQueue_test (s : State) (q : Nat) (x : Queue) : (setQueue s q x).test = s.test := rfl
@[simp] theorem setQueue_rotaActive (s : State) (q : Nat) (x : Queue) : (setQueue s q x).rotaActive = s.rotaActive := rfl
@[simp] theorem setQueue_rotaPend (s : State) (q : Nat) (x : Queue) : (setQueue s q x).rotaPend = s.rotaPend := rfl
@[simp] theorem setQueue_draws (s : State) (q : Nat) (x : Queue) : (setQueue s q x).draws = s.draws := rfl
@[simp] theorem setQueue_front_inflight (s : State) (q : Nat) (x : Queue) : (setQueue s q x).front.inflight = s.front.inflight := rfl
@[simp] theorem setQueue_front_lastAdmit (s : State) (q : Nat) (x : Queue) : (setQueue s q x).front.lastAdmit = s.front.lastAdmit := rfl
@[simp] theorem setQueue_front_flags (s : State) (q : Nat) (x : Queue) : (setQueue s q x).front.flags = s.front.flags := rfl
@[simp] theorem setQueue_front_reads (s : State) (q : Nat) (x : Queue) : (setQueue s q x).front.reads = s.front.reads := rfl
@[simp] theorem setQueue_front_writes (s : State) (q : Nat) (x : Queue) : (setQueue s q x).front.writes = s.front.writes := rfl
@[simp] theorem setQueue_front_late (s : State) (q : Nat) (x : Queue) : (setQueue s q x).front.late = s.front.late := rfl
@[simp] theorem csrGet_setQueue (s : State) (q : Nat) (x : Queue) (k : Nat) : csrGet (setQueue s q x) k = csrGet s k := rfl
@[simp] theorem ctx_setQueue (s : State) (q : Nat) (x : Queue) (k : Nat) : ctx (setQueue s q x) k = ctx s k := rfl
@[simp] theorem findCmd_setQueue (s : State) (q : Nat) (x : Queue) (k t : Nat) : findCmd (setQueue s q x) k t = findCmd s k t := rfl
@[simp] theorem shed_setQueue (s : State) (q : Nat) (x : Queue) (k : Nat) : shed (setQueue s q x) k = shed s k := rfl
@[simp] theorem quse_setQueue (s : State) (q : Nat) (x : Queue) (k : Nat) : quse (setQueue s q x) k = quse s k := rfl
@[simp] theorem grp_setQueue (s : State) (q : Nat) (x : Queue) (k : Nat) : grp (setQueue s q x) k = grp s k := rfl
@[simp] theorem port_setQueue (s : State) (q : Nat) (x : Queue) (k : Nat) : port (setQueue s q x) k = port s k := rfl
@[simp] theorem pslot_setQueue (s : State) (q : Nat) (x : Queue) (k : Nat) : pslot (setQueue s q x) k = pslot s k := rfl
@[simp] theorem ticket_setQueue (s : State) (q : Nat) (x : Queue) (k : Nat) : ticket (setQueue s q x) k = ticket s k := rfl
@[simp] theorem useAt_setQueue (s : State) (q : Nat) (x : Queue) (k : Nat) : useAt (setQueue s q x) k = useAt s k := rfl
@[simp] theorem liveUse_setQueue (s : State) (q : Nat) (x : Queue) (k t : Nat) : liveUse (setQueue s q x) k t = liveUse s k t := rfl
@[simp] theorem now_setQueue (s : State) (q : Nat) (x : Queue) : now (setQueue s q x) = now s := rfl
@[simp] theorem isReady_setQueue (s : State) (q : Nat) (x : Queue) : isReady (setQueue s q x) = isReady s := rfl
@[simp] theorem flagOf_setQueue (s : State) (q : Nat) (x : Queue) (k : Nat) : flagOf (setQueue s q x) k = flagOf s k := rfl
@[simp] theorem mpLvl2_setQueue (s : State) (q : Nat) (x : Queue) : mpLvl2 (setQueue s q x) = mpLvl2 s := rfl

/-! ## setCtx -/

@[simp] theorem setCtx_pending (s : State) (c : Nat) (x : Ctx) : (setCtx s c x).pending = s.pending := rfl
@[simp] theorem setCtx_mem (s : State) (c : Nat) (x : Ctx) : (setCtx s c x).mem = s.mem := rfl
@[simp] theorem setCtx_glb (s : State) (c : Nat) (x : Ctx) : (setCtx s c x).glb = s.glb := rfl
@[simp] theorem setCtx_pins (s : State) (c : Nat) (x : Ctx) : (setCtx s c x).pins = s.pins := rfl
@[simp] theorem setCtx_csr (s : State) (c : Nat) (x : Ctx) : (setCtx s c x).csr = s.csr := rfl
@[simp] theorem setCtx_front (s : State) (c : Nat) (x : Ctx) : (setCtx s c x).front = s.front := rfl
@[simp] theorem setCtx_slots (s : State) (c : Nat) (x : Ctx) : (setCtx s c x).slots = s.slots := rfl
@[simp] theorem setCtx_disp (s : State) (c : Nat) (x : Ctx) : (setCtx s c x).disp = s.disp := rfl
@[simp] theorem setCtx_shd (s : State) (c : Nat) (x : Ctx) : (setCtx s c x).shd = s.shd := rfl
@[simp] theorem setCtx_col (s : State) (c : Nat) (x : Ctx) : (setCtx s c x).col = s.col := rfl
@[simp] theorem setCtx_fab (s : State) (c : Nat) (x : Ctx) : (setCtx s c x).fab = s.fab := rfl
@[simp] theorem setCtx_plc (s : State) (c : Nat) (x : Ctx) : (setCtx s c x).plc = s.plc := rfl
@[simp] theorem setCtx_pmc (s : State) (c : Nat) (x : Ctx) : (setCtx s c x).pmc = s.pmc := rfl
@[simp] theorem setCtx_mgt (s : State) (c : Nat) (x : Ctx) : (setCtx s c x).mgt = s.mgt := rfl
@[simp] theorem setCtx_test (s : State) (c : Nat) (x : Ctx) : (setCtx s c x).test = s.test := rfl
@[simp] theorem setCtx_rotaActive (s : State) (c : Nat) (x : Ctx) : (setCtx s c x).rotaActive = s.rotaActive := rfl
@[simp] theorem setCtx_rotaPend (s : State) (c : Nat) (x : Ctx) : (setCtx s c x).rotaPend = s.rotaPend := rfl
@[simp] theorem setCtx_draws (s : State) (c : Nat) (x : Ctx) : (setCtx s c x).draws = s.draws := rfl
@[simp] theorem csrGet_setCtx (s : State) (c : Nat) (x : Ctx) (k : Nat) : csrGet (setCtx s c x) k = csrGet s k := rfl
@[simp] theorem queue_setCtx (s : State) (c : Nat) (x : Ctx) (k : Nat) : queue (setCtx s c x) k = queue s k := rfl
@[simp] theorem findCmd_setCtx (s : State) (c : Nat) (x : Ctx) (k t : Nat) : findCmd (setCtx s c x) k t = findCmd s k t := rfl
@[simp] theorem shed_setCtx (s : State) (c : Nat) (x : Ctx) (k : Nat) : shed (setCtx s c x) k = shed s k := rfl
@[simp] theorem quse_setCtx (s : State) (c : Nat) (x : Ctx) (k : Nat) : quse (setCtx s c x) k = quse s k := rfl
@[simp] theorem grp_setCtx (s : State) (c : Nat) (x : Ctx) (k : Nat) : grp (setCtx s c x) k = grp s k := rfl
@[simp] theorem port_setCtx (s : State) (c : Nat) (x : Ctx) (k : Nat) : port (setCtx s c x) k = port s k := rfl
@[simp] theorem pslot_setCtx (s : State) (c : Nat) (x : Ctx) (k : Nat) : pslot (setCtx s c x) k = pslot s k := rfl
@[simp] theorem ticket_setCtx (s : State) (c : Nat) (x : Ctx) (k : Nat) : ticket (setCtx s c x) k = ticket s k := rfl
@[simp] theorem useAt_setCtx (s : State) (c : Nat) (x : Ctx) (k : Nat) : useAt (setCtx s c x) k = useAt s k := rfl
@[simp] theorem liveUse_setCtx (s : State) (c : Nat) (x : Ctx) (k t : Nat) : liveUse (setCtx s c x) k t = liveUse s k t := rfl
@[simp] theorem now_setCtx (s : State) (c : Nat) (x : Ctx) : now (setCtx s c x) = now s := rfl
@[simp] theorem isReady_setCtx (s : State) (c : Nat) (x : Ctx) : isReady (setCtx s c x) = isReady s := rfl
@[simp] theorem flagOf_setCtx (s : State) (c : Nat) (x : Ctx) (k : Nat) : flagOf (setCtx s c x) k = flagOf s k := rfl
@[simp] theorem mpLvl2_setCtx (s : State) (c : Nat) (x : Ctx) : mpLvl2 (setCtx s c x) = mpLvl2 s := rfl

/-! ## setShed -/

@[simp] theorem setShed_pending (s : State) (i : Nat) (x : Shed) : (setShed s i x).pending = s.pending := rfl
@[simp] theorem setShed_mem (s : State) (i : Nat) (x : Shed) : (setShed s i x).mem = s.mem := rfl
@[simp] theorem setShed_glb (s : State) (i : Nat) (x : Shed) : (setShed s i x).glb = s.glb := rfl
@[simp] theorem setShed_pins (s : State) (i : Nat) (x : Shed) : (setShed s i x).pins = s.pins := rfl
@[simp] theorem setShed_csr (s : State) (i : Nat) (x : Shed) : (setShed s i x).csr = s.csr := rfl
@[simp] theorem setShed_front (s : State) (i : Nat) (x : Shed) : (setShed s i x).front = s.front := rfl
@[simp] theorem setShed_ctxs (s : State) (i : Nat) (x : Shed) : (setShed s i x).ctxs = s.ctxs := rfl
@[simp] theorem setShed_slots (s : State) (i : Nat) (x : Shed) : (setShed s i x).slots = s.slots := rfl
@[simp] theorem setShed_disp (s : State) (i : Nat) (x : Shed) : (setShed s i x).disp = s.disp := rfl
@[simp] theorem setShed_col (s : State) (i : Nat) (x : Shed) : (setShed s i x).col = s.col := rfl
@[simp] theorem setShed_fab (s : State) (i : Nat) (x : Shed) : (setShed s i x).fab = s.fab := rfl
@[simp] theorem setShed_plc (s : State) (i : Nat) (x : Shed) : (setShed s i x).plc = s.plc := rfl
@[simp] theorem setShed_pmc (s : State) (i : Nat) (x : Shed) : (setShed s i x).pmc = s.pmc := rfl
@[simp] theorem setShed_mgt (s : State) (i : Nat) (x : Shed) : (setShed s i x).mgt = s.mgt := rfl
@[simp] theorem setShed_test (s : State) (i : Nat) (x : Shed) : (setShed s i x).test = s.test := rfl
@[simp] theorem setShed_rotaActive (s : State) (i : Nat) (x : Shed) : (setShed s i x).rotaActive = s.rotaActive := rfl
@[simp] theorem setShed_rotaPend (s : State) (i : Nat) (x : Shed) : (setShed s i x).rotaPend = s.rotaPend := rfl
@[simp] theorem setShed_draws (s : State) (i : Nat) (x : Shed) : (setShed s i x).draws = s.draws := rfl
@[simp] theorem setShed_shd_quse (s : State) (i : Nat) (x : Shed) : (setShed s i x).shd.quse = s.shd.quse := rfl
@[simp] theorem csrGet_setShed (s : State) (i : Nat) (x : Shed) (k : Nat) : csrGet (setShed s i x) k = csrGet s k := rfl
@[simp] theorem ctx_setShed (s : State) (i : Nat) (x : Shed) (k : Nat) : ctx (setShed s i x) k = ctx s k := rfl
@[simp] theorem queue_setShed (s : State) (i : Nat) (x : Shed) (k : Nat) : queue (setShed s i x) k = queue s k := rfl
@[simp] theorem findCmd_setShed (s : State) (i : Nat) (x : Shed) (k t : Nat) : findCmd (setShed s i x) k t = findCmd s k t := rfl
@[simp] theorem quse_setShed (s : State) (i : Nat) (x : Shed) (k : Nat) : quse (setShed s i x) k = quse s k := rfl
@[simp] theorem grp_setShed (s : State) (i : Nat) (x : Shed) (k : Nat) : grp (setShed s i x) k = grp s k := rfl
@[simp] theorem port_setShed (s : State) (i : Nat) (x : Shed) (k : Nat) : port (setShed s i x) k = port s k := rfl
@[simp] theorem pslot_setShed (s : State) (i : Nat) (x : Shed) (k : Nat) : pslot (setShed s i x) k = pslot s k := rfl
@[simp] theorem ticket_setShed (s : State) (i : Nat) (x : Shed) (k : Nat) : ticket (setShed s i x) k = ticket s k := rfl
@[simp] theorem useAt_setShed (s : State) (i : Nat) (x : Shed) (k : Nat) : useAt (setShed s i x) k = useAt s k := rfl
@[simp] theorem liveUse_setShed (s : State) (i : Nat) (x : Shed) (k t : Nat) : liveUse (setShed s i x) k t = liveUse s k t := rfl
@[simp] theorem now_setShed (s : State) (i : Nat) (x : Shed) : now (setShed s i x) = now s := rfl
@[simp] theorem isReady_setShed (s : State) (i : Nat) (x : Shed) : isReady (setShed s i x) = isReady s := rfl
@[simp] theorem flagOf_setShed (s : State) (i : Nat) (x : Shed) (k : Nat) : flagOf (setShed s i x) k = flagOf s k := rfl
@[simp] theorem mpLvl2_setShed (s : State) (i : Nat) (x : Shed) : mpLvl2 (setShed s i x) = mpLvl2 s := rfl

/-! ## setQuse -/

@[simp] theorem setQuse_pending (s : State) (c v : Nat) : (setQuse s c v).pending = s.pending := rfl
@[simp] theorem setQuse_mem (s : State) (c v : Nat) : (setQuse s c v).mem = s.mem := rfl
@[simp] theorem setQuse_glb (s : State) (c v : Nat) : (setQuse s c v).glb = s.glb := rfl
@[simp] theorem setQuse_pins (s : State) (c v : Nat) : (setQuse s c v).pins = s.pins := rfl
@[simp] theorem setQuse_csr (s : State) (c v : Nat) : (setQuse s c v).csr = s.csr := rfl
@[simp] theorem setQuse_front (s : State) (c v : Nat) : (setQuse s c v).front = s.front := rfl
@[simp] theorem setQuse_ctxs (s : State) (c v : Nat) : (setQuse s c v).ctxs = s.ctxs := rfl
@[simp] theorem setQuse_slots (s : State) (c v : Nat) : (setQuse s c v).slots = s.slots := rfl
@[simp] theorem setQuse_disp (s : State) (c v : Nat) : (setQuse s c v).disp = s.disp := rfl
@[simp] theorem setQuse_col (s : State) (c v : Nat) : (setQuse s c v).col = s.col := rfl
@[simp] theorem setQuse_fab (s : State) (c v : Nat) : (setQuse s c v).fab = s.fab := rfl
@[simp] theorem setQuse_plc (s : State) (c v : Nat) : (setQuse s c v).plc = s.plc := rfl
@[simp] theorem setQuse_pmc (s : State) (c v : Nat) : (setQuse s c v).pmc = s.pmc := rfl
@[simp] theorem setQuse_mgt (s : State) (c v : Nat) : (setQuse s c v).mgt = s.mgt := rfl
@[simp] theorem setQuse_test (s : State) (c v : Nat) : (setQuse s c v).test = s.test := rfl
@[simp] theorem setQuse_rotaActive (s : State) (c v : Nat) : (setQuse s c v).rotaActive = s.rotaActive := rfl
@[simp] theorem setQuse_rotaPend (s : State) (c v : Nat) : (setQuse s c v).rotaPend = s.rotaPend := rfl
@[simp] theorem setQuse_draws (s : State) (c v : Nat) : (setQuse s c v).draws = s.draws := rfl
@[simp] theorem setQuse_shd_sheds (s : State) (c v : Nat) : (setQuse s c v).shd.sheds = s.shd.sheds := rfl
@[simp] theorem csrGet_setQuse (s : State) (c v : Nat) (k : Nat) : csrGet (setQuse s c v) k = csrGet s k := rfl
@[simp] theorem ctx_setQuse (s : State) (c v : Nat) (k : Nat) : ctx (setQuse s c v) k = ctx s k := rfl
@[simp] theorem queue_setQuse (s : State) (c v : Nat) (k : Nat) : queue (setQuse s c v) k = queue s k := rfl
@[simp] theorem findCmd_setQuse (s : State) (c v : Nat) (k t : Nat) : findCmd (setQuse s c v) k t = findCmd s k t := rfl
@[simp] theorem shed_setQuse (s : State) (c v : Nat) (k : Nat) : shed (setQuse s c v) k = shed s k := rfl
@[simp] theorem grp_setQuse (s : State) (c v : Nat) (k : Nat) : grp (setQuse s c v) k = grp s k := rfl
@[simp] theorem port_setQuse (s : State) (c v : Nat) (k : Nat) : port (setQuse s c v) k = port s k := rfl
@[simp] theorem pslot_setQuse (s : State) (c v : Nat) (k : Nat) : pslot (setQuse s c v) k = pslot s k := rfl
@[simp] theorem ticket_setQuse (s : State) (c v : Nat) (k : Nat) : ticket (setQuse s c v) k = ticket s k := rfl
@[simp] theorem useAt_setQuse (s : State) (c v : Nat) (k : Nat) : useAt (setQuse s c v) k = useAt s k := rfl
@[simp] theorem liveUse_setQuse (s : State) (c v : Nat) (k t : Nat) : liveUse (setQuse s c v) k t = liveUse s k t := rfl
@[simp] theorem now_setQuse (s : State) (c v : Nat) : now (setQuse s c v) = now s := rfl
@[simp] theorem isReady_setQuse (s : State) (c v : Nat) : isReady (setQuse s c v) = isReady s := rfl
@[simp] theorem flagOf_setQuse (s : State) (c v : Nat) (k : Nat) : flagOf (setQuse s c v) k = flagOf s k := rfl
@[simp] theorem mpLvl2_setQuse (s : State) (c v : Nat) : mpLvl2 (setQuse s c v) = mpLvl2 s := rfl

/-! ## setGrp -/

@[simp] theorem setGrp_pending (s : State) (g : Nat) (x : Grp) : (setGrp s g x).pending = s.pending := rfl
@[simp] theorem setGrp_mem (s : State) (g : Nat) (x : Grp) : (setGrp s g x).mem = s.mem := rfl
@[simp] theorem setGrp_glb (s : State) (g : Nat) (x : Grp) : (setGrp s g x).glb = s.glb := rfl
@[simp] theorem setGrp_pins (s : State) (g : Nat) (x : Grp) : (setGrp s g x).pins = s.pins := rfl
@[simp] theorem setGrp_csr (s : State) (g : Nat) (x : Grp) : (setGrp s g x).csr = s.csr := rfl
@[simp] theorem setGrp_front (s : State) (g : Nat) (x : Grp) : (setGrp s g x).front = s.front := rfl
@[simp] theorem setGrp_ctxs (s : State) (g : Nat) (x : Grp) : (setGrp s g x).ctxs = s.ctxs := rfl
@[simp] theorem setGrp_slots (s : State) (g : Nat) (x : Grp) : (setGrp s g x).slots = s.slots := rfl
@[simp] theorem setGrp_disp (s : State) (g : Nat) (x : Grp) : (setGrp s g x).disp = s.disp := rfl
@[simp] theorem setGrp_shd (s : State) (g : Nat) (x : Grp) : (setGrp s g x).shd = s.shd := rfl
@[simp] theorem setGrp_fab (s : State) (g : Nat) (x : Grp) : (setGrp s g x).fab = s.fab := rfl
@[simp] theorem setGrp_plc (s : State) (g : Nat) (x : Grp) : (setGrp s g x).plc = s.plc := rfl
@[simp] theorem setGrp_pmc (s : State) (g : Nat) (x : Grp) : (setGrp s g x).pmc = s.pmc := rfl
@[simp] theorem setGrp_mgt (s : State) (g : Nat) (x : Grp) : (setGrp s g x).mgt = s.mgt := rfl
@[simp] theorem setGrp_test (s : State) (g : Nat) (x : Grp) : (setGrp s g x).test = s.test := rfl
@[simp] theorem setGrp_rotaActive (s : State) (g : Nat) (x : Grp) : (setGrp s g x).rotaActive = s.rotaActive := rfl
@[simp] theorem setGrp_rotaPend (s : State) (g : Nat) (x : Grp) : (setGrp s g x).rotaPend = s.rotaPend := rfl
@[simp] theorem setGrp_draws (s : State) (g : Nat) (x : Grp) : (setGrp s g x).draws = s.draws := rfl
@[simp] theorem csrGet_setGrp (s : State) (g : Nat) (x : Grp) (k : Nat) : csrGet (setGrp s g x) k = csrGet s k := rfl
@[simp] theorem ctx_setGrp (s : State) (g : Nat) (x : Grp) (k : Nat) : ctx (setGrp s g x) k = ctx s k := rfl
@[simp] theorem queue_setGrp (s : State) (g : Nat) (x : Grp) (k : Nat) : queue (setGrp s g x) k = queue s k := rfl
@[simp] theorem findCmd_setGrp (s : State) (g : Nat) (x : Grp) (k t : Nat) : findCmd (setGrp s g x) k t = findCmd s k t := rfl
@[simp] theorem shed_setGrp (s : State) (g : Nat) (x : Grp) (k : Nat) : shed (setGrp s g x) k = shed s k := rfl
@[simp] theorem quse_setGrp (s : State) (g : Nat) (x : Grp) (k : Nat) : quse (setGrp s g x) k = quse s k := rfl
@[simp] theorem port_setGrp (s : State) (g : Nat) (x : Grp) (k : Nat) : port (setGrp s g x) k = port s k := rfl
@[simp] theorem pslot_setGrp (s : State) (g : Nat) (x : Grp) (k : Nat) : pslot (setGrp s g x) k = pslot s k := rfl
@[simp] theorem ticket_setGrp (s : State) (g : Nat) (x : Grp) (k : Nat) : ticket (setGrp s g x) k = ticket s k := rfl
@[simp] theorem useAt_setGrp (s : State) (g : Nat) (x : Grp) (k : Nat) : useAt (setGrp s g x) k = useAt s k := rfl
@[simp] theorem liveUse_setGrp (s : State) (g : Nat) (x : Grp) (k t : Nat) : liveUse (setGrp s g x) k t = liveUse s k t := rfl
@[simp] theorem now_setGrp (s : State) (g : Nat) (x : Grp) : now (setGrp s g x) = now s := rfl
@[simp] theorem isReady_setGrp (s : State) (g : Nat) (x : Grp) : isReady (setGrp s g x) = isReady s := rfl
@[simp] theorem flagOf_setGrp (s : State) (g : Nat) (x : Grp) (k : Nat) : flagOf (setGrp s g x) k = flagOf s k := rfl
@[simp] theorem mpLvl2_setGrp (s : State) (g : Nat) (x : Grp) : mpLvl2 (setGrp s g x) = mpLvl2 s := rfl

/-! ## setPort -/

@[simp] theorem setPort_pending (s : State) (n : Nat) (x : Port) : (setPort s n x).pending = s.pending := rfl
@[simp] theorem setPort_mem (s : State) (n : Nat) (x : Port) : (setPort s n x).mem = s.mem := rfl
@[simp] theorem setPort_glb (s : State) (n : Nat) (x : Port) : (setPort s n x).glb = s.glb := rfl
@[simp] theorem setPort_pins (s : State) (n : Nat) (x : Port) : (setPort s n x).pins = s.pins := rfl
@[simp] theorem setPort_csr (s : State) (n : Nat) (x : Port) : (setPort s n x).csr = s.csr := rfl
@[simp] theorem setPort_front (s : State) (n : Nat) (x : Port) : (setPort s n x).front = s.front := rfl
@[simp] theorem setPort_ctxs (s : State) (n : Nat) (x : Port) : (setPort s n x).ctxs = s.ctxs := rfl
@[simp] theorem setPort_slots (s : State) (n : Nat) (x : Port) : (setPort s n x).slots = s.slots := rfl
@[simp] theorem setPort_disp (s : State) (n : Nat) (x : Port) : (setPort s n x).disp = s.disp := rfl
@[simp] theorem setPort_shd (s : State) (n : Nat) (x : Port) : (setPort s n x).shd = s.shd := rfl
@[simp] theorem setPort_col (s : State) (n : Nat) (x : Port) : (setPort s n x).col = s.col := rfl
@[simp] theorem setPort_plc (s : State) (n : Nat) (x : Port) : (setPort s n x).plc = s.plc := rfl
@[simp] theorem setPort_pmc (s : State) (n : Nat) (x : Port) : (setPort s n x).pmc = s.pmc := rfl
@[simp] theorem setPort_mgt (s : State) (n : Nat) (x : Port) : (setPort s n x).mgt = s.mgt := rfl
@[simp] theorem setPort_test (s : State) (n : Nat) (x : Port) : (setPort s n x).test = s.test := rfl
@[simp] theorem setPort_rotaActive (s : State) (n : Nat) (x : Port) : (setPort s n x).rotaActive = s.rotaActive := rfl
@[simp] theorem setPort_rotaPend (s : State) (n : Nat) (x : Port) : (setPort s n x).rotaPend = s.rotaPend := rfl
@[simp] theorem setPort_draws (s : State) (n : Nat) (x : Port) : (setPort s n x).draws = s.draws := rfl
@[simp] theorem csrGet_setPort (s : State) (n : Nat) (x : Port) (k : Nat) : csrGet (setPort s n x) k = csrGet s k := rfl
@[simp] theorem ctx_setPort (s : State) (n : Nat) (x : Port) (k : Nat) : ctx (setPort s n x) k = ctx s k := rfl
@[simp] theorem queue_setPort (s : State) (n : Nat) (x : Port) (k : Nat) : queue (setPort s n x) k = queue s k := rfl
@[simp] theorem findCmd_setPort (s : State) (n : Nat) (x : Port) (k t : Nat) : findCmd (setPort s n x) k t = findCmd s k t := rfl
@[simp] theorem shed_setPort (s : State) (n : Nat) (x : Port) (k : Nat) : shed (setPort s n x) k = shed s k := rfl
@[simp] theorem quse_setPort (s : State) (n : Nat) (x : Port) (k : Nat) : quse (setPort s n x) k = quse s k := rfl
@[simp] theorem grp_setPort (s : State) (n : Nat) (x : Port) (k : Nat) : grp (setPort s n x) k = grp s k := rfl
@[simp] theorem pslot_setPort (s : State) (n : Nat) (x : Port) (k : Nat) : pslot (setPort s n x) k = pslot s k := rfl
@[simp] theorem ticket_setPort (s : State) (n : Nat) (x : Port) (k : Nat) : ticket (setPort s n x) k = ticket s k := rfl
@[simp] theorem useAt_setPort (s : State) (n : Nat) (x : Port) (k : Nat) : useAt (setPort s n x) k = useAt s k := rfl
@[simp] theorem liveUse_setPort (s : State) (n : Nat) (x : Port) (k t : Nat) : liveUse (setPort s n x) k t = liveUse s k t := rfl
@[simp] theorem now_setPort (s : State) (n : Nat) (x : Port) : now (setPort s n x) = now s := rfl
@[simp] theorem isReady_setPort (s : State) (n : Nat) (x : Port) : isReady (setPort s n x) = isReady s := rfl
@[simp] theorem flagOf_setPort (s : State) (n : Nat) (x : Port) (k : Nat) : flagOf (setPort s n x) k = flagOf s k := rfl
@[simp] theorem mpLvl2_setPort (s : State) (n : Nat) (x : Port) : mpLvl2 (setPort s n x) = mpLvl2 s := rfl

/-! ## setPslot -/

@[simp] theorem setPslot_pending (s : State) (i : Nat) (x : PSlot) : (setPslot s i x).pending = s.pending := rfl
@[simp] theorem setPslot_mem (s : State) (i : Nat) (x : PSlot) : (setPslot s i x).mem = s.mem := rfl
@[simp] theorem setPslot_glb (s : State) (i : Nat) (x : PSlot) : (setPslot s i x).glb = s.glb := rfl
@[simp] theorem setPslot_pins (s : State) (i : Nat) (x : PSlot) : (setPslot s i x).pins = s.pins := rfl
@[simp] theorem setPslot_csr (s : State) (i : Nat) (x : PSlot) : (setPslot s i x).csr = s.csr := rfl
@[simp] theorem setPslot_front (s : State) (i : Nat) (x : PSlot) : (setPslot s i x).front = s.front := rfl
@[simp] theorem setPslot_ctxs (s : State) (i : Nat) (x : PSlot) : (setPslot s i x).ctxs = s.ctxs := rfl
@[simp] theorem setPslot_slots (s : State) (i : Nat) (x : PSlot) : (setPslot s i x).slots = s.slots := rfl
@[simp] theorem setPslot_disp (s : State) (i : Nat) (x : PSlot) : (setPslot s i x).disp = s.disp := rfl
@[simp] theorem setPslot_shd (s : State) (i : Nat) (x : PSlot) : (setPslot s i x).shd = s.shd := rfl
@[simp] theorem setPslot_col (s : State) (i : Nat) (x : PSlot) : (setPslot s i x).col = s.col := rfl
@[simp] theorem setPslot_fab (s : State) (i : Nat) (x : PSlot) : (setPslot s i x).fab = s.fab := rfl
@[simp] theorem setPslot_pmc (s : State) (i : Nat) (x : PSlot) : (setPslot s i x).pmc = s.pmc := rfl
@[simp] theorem setPslot_mgt (s : State) (i : Nat) (x : PSlot) : (setPslot s i x).mgt = s.mgt := rfl
@[simp] theorem setPslot_test (s : State) (i : Nat) (x : PSlot) : (setPslot s i x).test = s.test := rfl
@[simp] theorem setPslot_rotaActive (s : State) (i : Nat) (x : PSlot) : (setPslot s i x).rotaActive = s.rotaActive := rfl
@[simp] theorem setPslot_rotaPend (s : State) (i : Nat) (x : PSlot) : (setPslot s i x).rotaPend = s.rotaPend := rfl
@[simp] theorem setPslot_draws (s : State) (i : Nat) (x : PSlot) : (setPslot s i x).draws = s.draws := rfl
@[simp] theorem csrGet_setPslot (s : State) (i : Nat) (x : PSlot) (k : Nat) : csrGet (setPslot s i x) k = csrGet s k := rfl
@[simp] theorem ctx_setPslot (s : State) (i : Nat) (x : PSlot) (k : Nat) : ctx (setPslot s i x) k = ctx s k := rfl
@[simp] theorem queue_setPslot (s : State) (i : Nat) (x : PSlot) (k : Nat) : queue (setPslot s i x) k = queue s k := rfl
@[simp] theorem findCmd_setPslot (s : State) (i : Nat) (x : PSlot) (k t : Nat) : findCmd (setPslot s i x) k t = findCmd s k t := rfl
@[simp] theorem shed_setPslot (s : State) (i : Nat) (x : PSlot) (k : Nat) : shed (setPslot s i x) k = shed s k := rfl
@[simp] theorem quse_setPslot (s : State) (i : Nat) (x : PSlot) (k : Nat) : quse (setPslot s i x) k = quse s k := rfl
@[simp] theorem grp_setPslot (s : State) (i : Nat) (x : PSlot) (k : Nat) : grp (setPslot s i x) k = grp s k := rfl
@[simp] theorem port_setPslot (s : State) (i : Nat) (x : PSlot) (k : Nat) : port (setPslot s i x) k = port s k := rfl
@[simp] theorem ticket_setPslot (s : State) (i : Nat) (x : PSlot) (k : Nat) : ticket (setPslot s i x) k = ticket s k := rfl
@[simp] theorem useAt_setPslot (s : State) (i : Nat) (x : PSlot) (k : Nat) : useAt (setPslot s i x) k = useAt s k := rfl
@[simp] theorem liveUse_setPslot (s : State) (i : Nat) (x : PSlot) (k t : Nat) : liveUse (setPslot s i x) k t = liveUse s k t := rfl
@[simp] theorem now_setPslot (s : State) (i : Nat) (x : PSlot) : now (setPslot s i x) = now s := rfl
@[simp] theorem isReady_setPslot (s : State) (i : Nat) (x : PSlot) : isReady (setPslot s i x) = isReady s := rfl
@[simp] theorem flagOf_setPslot (s : State) (i : Nat) (x : PSlot) (k : Nat) : flagOf (setPslot s i x) k = flagOf s k := rfl
@[simp] theorem mpLvl2_setPslot (s : State) (i : Nat) (x : PSlot) : mpLvl2 (setPslot s i x) = mpLvl2 s := rfl

/-! ## setTicket -/

@[simp] theorem setTicket_pending (s : State) (n : Nat) (x : Ticket) : (setTicket s n x).pending = s.pending := rfl
@[simp] theorem setTicket_mem (s : State) (n : Nat) (x : Ticket) : (setTicket s n x).mem = s.mem := rfl
@[simp] theorem setTicket_glb (s : State) (n : Nat) (x : Ticket) : (setTicket s n x).glb = s.glb := rfl
@[simp] theorem setTicket_pins (s : State) (n : Nat) (x : Ticket) : (setTicket s n x).pins = s.pins := rfl
@[simp] theorem setTicket_csr (s : State) (n : Nat) (x : Ticket) : (setTicket s n x).csr = s.csr := rfl
@[simp] theorem setTicket_front (s : State) (n : Nat) (x : Ticket) : (setTicket s n x).front = s.front := rfl
@[simp] theorem setTicket_ctxs (s : State) (n : Nat) (x : Ticket) : (setTicket s n x).ctxs = s.ctxs := rfl
@[simp] theorem setTicket_slots (s : State) (n : Nat) (x : Ticket) : (setTicket s n x).slots = s.slots := rfl
@[simp] theorem setTicket_shd (s : State) (n : Nat) (x : Ticket) : (setTicket s n x).shd = s.shd := rfl
@[simp] theorem setTicket_col (s : State) (n : Nat) (x : Ticket) : (setTicket s n x).col = s.col := rfl
@[simp] theorem setTicket_fab (s : State) (n : Nat) (x : Ticket) : (setTicket s n x).fab = s.fab := rfl
@[simp] theorem setTicket_plc (s : State) (n : Nat) (x : Ticket) : (setTicket s n x).plc = s.plc := rfl
@[simp] theorem setTicket_pmc (s : State) (n : Nat) (x : Ticket) : (setTicket s n x).pmc = s.pmc := rfl
@[simp] theorem setTicket_mgt (s : State) (n : Nat) (x : Ticket) : (setTicket s n x).mgt = s.mgt := rfl
@[simp] theorem setTicket_test (s : State) (n : Nat) (x : Ticket) : (setTicket s n x).test = s.test := rfl
@[simp] theorem setTicket_rotaActive (s : State) (n : Nat) (x : Ticket) : (setTicket s n x).rotaActive = s.rotaActive := rfl
@[simp] theorem setTicket_rotaPend (s : State) (n : Nat) (x : Ticket) : (setTicket s n x).rotaPend = s.rotaPend := rfl
@[simp] theorem setTicket_draws (s : State) (n : Nat) (x : Ticket) : (setTicket s n x).draws = s.draws := rfl
@[simp] theorem setTicket_disp_uses (s : State) (n : Nat) (x : Ticket) : (setTicket s n x).disp.uses = s.disp.uses := rfl
@[simp] theorem setTicket_disp_ranges (s : State) (n : Nat) (x : Ticket) : (setTicket s n x).disp.ranges = s.disp.ranges := rfl
@[simp] theorem setTicket_disp_nextTicket (s : State) (n : Nat) (x : Ticket) : (setTicket s n x).disp.nextTicket = s.disp.nextTicket := rfl
@[simp] theorem setTicket_disp_orig (s : State) (n : Nat) (x : Ticket) : (setTicket s n x).disp.orig = s.disp.orig := rfl
@[simp] theorem setTicket_disp_nextOrig (s : State) (n : Nat) (x : Ticket) : (setTicket s n x).disp.nextOrig = s.disp.nextOrig := rfl
@[simp] theorem setTicket_disp_origHwm (s : State) (n : Nat) (x : Ticket) : (setTicket s n x).disp.origHwm = s.disp.origHwm := rfl
@[simp] theorem setTicket_disp_wqs (s : State) (n : Nat) (x : Ticket) : (setTicket s n x).disp.wqs = s.disp.wqs := rfl
@[simp] theorem csrGet_setTicket (s : State) (n : Nat) (x : Ticket) (k : Nat) : csrGet (setTicket s n x) k = csrGet s k := rfl
@[simp] theorem ctx_setTicket (s : State) (n : Nat) (x : Ticket) (k : Nat) : ctx (setTicket s n x) k = ctx s k := rfl
@[simp] theorem queue_setTicket (s : State) (n : Nat) (x : Ticket) (k : Nat) : queue (setTicket s n x) k = queue s k := rfl
@[simp] theorem findCmd_setTicket (s : State) (n : Nat) (x : Ticket) (k t : Nat) : findCmd (setTicket s n x) k t = findCmd s k t := rfl
@[simp] theorem shed_setTicket (s : State) (n : Nat) (x : Ticket) (k : Nat) : shed (setTicket s n x) k = shed s k := rfl
@[simp] theorem quse_setTicket (s : State) (n : Nat) (x : Ticket) (k : Nat) : quse (setTicket s n x) k = quse s k := rfl
@[simp] theorem grp_setTicket (s : State) (n : Nat) (x : Ticket) (k : Nat) : grp (setTicket s n x) k = grp s k := rfl
@[simp] theorem port_setTicket (s : State) (n : Nat) (x : Ticket) (k : Nat) : port (setTicket s n x) k = port s k := rfl
@[simp] theorem pslot_setTicket (s : State) (n : Nat) (x : Ticket) (k : Nat) : pslot (setTicket s n x) k = pslot s k := rfl
@[simp] theorem useAt_setTicket (s : State) (n : Nat) (x : Ticket) (k : Nat) : useAt (setTicket s n x) k = useAt s k := rfl
@[simp] theorem liveUse_setTicket (s : State) (n : Nat) (x : Ticket) (k t : Nat) : liveUse (setTicket s n x) k t = liveUse s k t := rfl
@[simp] theorem now_setTicket (s : State) (n : Nat) (x : Ticket) : now (setTicket s n x) = now s := rfl
@[simp] theorem isReady_setTicket (s : State) (n : Nat) (x : Ticket) : isReady (setTicket s n x) = isReady s := rfl
@[simp] theorem flagOf_setTicket (s : State) (n : Nat) (x : Ticket) (k : Nat) : flagOf (setTicket s n x) k = flagOf s k := rfl
@[simp] theorem mpLvl2_setTicket (s : State) (n : Nat) (x : Ticket) : mpLvl2 (setTicket s n x) = mpLvl2 s := rfl

/-! ## putUse -/

@[simp] theorem putUse_pending (s : State) (u : Use) : (putUse s u).pending = s.pending := rfl
@[simp] theorem putUse_mem (s : State) (u : Use) : (putUse s u).mem = s.mem := rfl
@[simp] theorem putUse_glb (s : State) (u : Use) : (putUse s u).glb = s.glb := rfl
@[simp] theorem putUse_pins (s : State) (u : Use) : (putUse s u).pins = s.pins := rfl
@[simp] theorem putUse_csr (s : State) (u : Use) : (putUse s u).csr = s.csr := rfl
@[simp] theorem putUse_front (s : State) (u : Use) : (putUse s u).front = s.front := rfl
@[simp] theorem putUse_ctxs (s : State) (u : Use) : (putUse s u).ctxs = s.ctxs := rfl
@[simp] theorem putUse_slots (s : State) (u : Use) : (putUse s u).slots = s.slots := rfl
@[simp] theorem putUse_shd (s : State) (u : Use) : (putUse s u).shd = s.shd := rfl
@[simp] theorem putUse_col (s : State) (u : Use) : (putUse s u).col = s.col := rfl
@[simp] theorem putUse_fab (s : State) (u : Use) : (putUse s u).fab = s.fab := rfl
@[simp] theorem putUse_plc (s : State) (u : Use) : (putUse s u).plc = s.plc := rfl
@[simp] theorem putUse_pmc (s : State) (u : Use) : (putUse s u).pmc = s.pmc := rfl
@[simp] theorem putUse_mgt (s : State) (u : Use) : (putUse s u).mgt = s.mgt := rfl
@[simp] theorem putUse_test (s : State) (u : Use) : (putUse s u).test = s.test := rfl
@[simp] theorem putUse_rotaActive (s : State) (u : Use) : (putUse s u).rotaActive = s.rotaActive := rfl
@[simp] theorem putUse_rotaPend (s : State) (u : Use) : (putUse s u).rotaPend = s.rotaPend := rfl
@[simp] theorem putUse_draws (s : State) (u : Use) : (putUse s u).draws = s.draws := rfl
@[simp] theorem putUse_disp_tickets (s : State) (u : Use) : (putUse s u).disp.tickets = s.disp.tickets := rfl
@[simp] theorem putUse_disp_ranges (s : State) (u : Use) : (putUse s u).disp.ranges = s.disp.ranges := rfl
@[simp] theorem putUse_disp_nextTicket (s : State) (u : Use) : (putUse s u).disp.nextTicket = s.disp.nextTicket := rfl
@[simp] theorem putUse_disp_orig (s : State) (u : Use) : (putUse s u).disp.orig = s.disp.orig := rfl
@[simp] theorem putUse_disp_nextOrig (s : State) (u : Use) : (putUse s u).disp.nextOrig = s.disp.nextOrig := rfl
@[simp] theorem putUse_disp_origHwm (s : State) (u : Use) : (putUse s u).disp.origHwm = s.disp.origHwm := rfl
@[simp] theorem putUse_disp_wqs (s : State) (u : Use) : (putUse s u).disp.wqs = s.disp.wqs := rfl
@[simp] theorem csrGet_putUse (s : State) (u : Use) (k : Nat) : csrGet (putUse s u) k = csrGet s k := rfl
@[simp] theorem ctx_putUse (s : State) (u : Use) (k : Nat) : ctx (putUse s u) k = ctx s k := rfl
@[simp] theorem queue_putUse (s : State) (u : Use) (k : Nat) : queue (putUse s u) k = queue s k := rfl
@[simp] theorem findCmd_putUse (s : State) (u : Use) (k t : Nat) : findCmd (putUse s u) k t = findCmd s k t := rfl
@[simp] theorem shed_putUse (s : State) (u : Use) (k : Nat) : shed (putUse s u) k = shed s k := rfl
@[simp] theorem quse_putUse (s : State) (u : Use) (k : Nat) : quse (putUse s u) k = quse s k := rfl
@[simp] theorem grp_putUse (s : State) (u : Use) (k : Nat) : grp (putUse s u) k = grp s k := rfl
@[simp] theorem port_putUse (s : State) (u : Use) (k : Nat) : port (putUse s u) k = port s k := rfl
@[simp] theorem pslot_putUse (s : State) (u : Use) (k : Nat) : pslot (putUse s u) k = pslot s k := rfl
@[simp] theorem ticket_putUse (s : State) (u : Use) (k : Nat) : ticket (putUse s u) k = ticket s k := rfl
@[simp] theorem now_putUse (s : State) (u : Use) : now (putUse s u) = now s := rfl
@[simp] theorem isReady_putUse (s : State) (u : Use) : isReady (putUse s u) = isReady s := rfl
@[simp] theorem flagOf_putUse (s : State) (u : Use) (k : Nat) : flagOf (putUse s u) k = flagOf s k := rfl
@[simp] theorem mpLvl2_putUse (s : State) (u : Use) : mpLvl2 (putUse s u) = mpLvl2 s := rfl

/-! ## setMem -/

@[simp] theorem setMem_pending (s : State) (m : HostMem) : (setMem s m).pending = s.pending := rfl
@[simp] theorem setMem_glb (s : State) (m : HostMem) : (setMem s m).glb = s.glb := rfl
@[simp] theorem setMem_pins (s : State) (m : HostMem) : (setMem s m).pins = s.pins := rfl
@[simp] theorem setMem_csr (s : State) (m : HostMem) : (setMem s m).csr = s.csr := rfl
@[simp] theorem setMem_front (s : State) (m : HostMem) : (setMem s m).front = s.front := rfl
@[simp] theorem setMem_ctxs (s : State) (m : HostMem) : (setMem s m).ctxs = s.ctxs := rfl
@[simp] theorem setMem_slots (s : State) (m : HostMem) : (setMem s m).slots = s.slots := rfl
@[simp] theorem setMem_disp (s : State) (m : HostMem) : (setMem s m).disp = s.disp := rfl
@[simp] theorem setMem_shd (s : State) (m : HostMem) : (setMem s m).shd = s.shd := rfl
@[simp] theorem setMem_col (s : State) (m : HostMem) : (setMem s m).col = s.col := rfl
@[simp] theorem setMem_fab (s : State) (m : HostMem) : (setMem s m).fab = s.fab := rfl
@[simp] theorem setMem_plc (s : State) (m : HostMem) : (setMem s m).plc = s.plc := rfl
@[simp] theorem setMem_pmc (s : State) (m : HostMem) : (setMem s m).pmc = s.pmc := rfl
@[simp] theorem setMem_mgt (s : State) (m : HostMem) : (setMem s m).mgt = s.mgt := rfl
@[simp] theorem setMem_test (s : State) (m : HostMem) : (setMem s m).test = s.test := rfl
@[simp] theorem setMem_rotaActive (s : State) (m : HostMem) : (setMem s m).rotaActive = s.rotaActive := rfl
@[simp] theorem setMem_rotaPend (s : State) (m : HostMem) : (setMem s m).rotaPend = s.rotaPend := rfl
@[simp] theorem setMem_draws (s : State) (m : HostMem) : (setMem s m).draws = s.draws := rfl
@[simp] theorem csrGet_setMem (s : State) (m : HostMem) (k : Nat) : csrGet (setMem s m) k = csrGet s k := rfl
@[simp] theorem ctx_setMem (s : State) (m : HostMem) (k : Nat) : ctx (setMem s m) k = ctx s k := rfl
@[simp] theorem queue_setMem (s : State) (m : HostMem) (k : Nat) : queue (setMem s m) k = queue s k := rfl
@[simp] theorem findCmd_setMem (s : State) (m : HostMem) (k t : Nat) : findCmd (setMem s m) k t = findCmd s k t := rfl
@[simp] theorem shed_setMem (s : State) (m : HostMem) (k : Nat) : shed (setMem s m) k = shed s k := rfl
@[simp] theorem quse_setMem (s : State) (m : HostMem) (k : Nat) : quse (setMem s m) k = quse s k := rfl
@[simp] theorem grp_setMem (s : State) (m : HostMem) (k : Nat) : grp (setMem s m) k = grp s k := rfl
@[simp] theorem port_setMem (s : State) (m : HostMem) (k : Nat) : port (setMem s m) k = port s k := rfl
@[simp] theorem pslot_setMem (s : State) (m : HostMem) (k : Nat) : pslot (setMem s m) k = pslot s k := rfl
@[simp] theorem ticket_setMem (s : State) (m : HostMem) (k : Nat) : ticket (setMem s m) k = ticket s k := rfl
@[simp] theorem useAt_setMem (s : State) (m : HostMem) (k : Nat) : useAt (setMem s m) k = useAt s k := rfl
@[simp] theorem liveUse_setMem (s : State) (m : HostMem) (k t : Nat) : liveUse (setMem s m) k t = liveUse s k t := rfl
@[simp] theorem now_setMem (s : State) (m : HostMem) : now (setMem s m) = now s := rfl
@[simp] theorem isReady_setMem (s : State) (m : HostMem) : isReady (setMem s m) = isReady s := rfl
@[simp] theorem flagOf_setMem (s : State) (m : HostMem) (k : Nat) : flagOf (setMem s m) k = flagOf s k := rfl
@[simp] theorem mpLvl2_setMem (s : State) (m : HostMem) : mpLvl2 (setMem s m) = mpLvl2 s := rfl

/-! ## setCmd -/

@[simp] theorem setCmd_pending (s : State) (x : Cmd) : (setCmd s x).pending = s.pending := rfl
@[simp] theorem setCmd_mem (s : State) (x : Cmd) : (setCmd s x).mem = s.mem := rfl
@[simp] theorem setCmd_glb (s : State) (x : Cmd) : (setCmd s x).glb = s.glb := rfl
@[simp] theorem setCmd_pins (s : State) (x : Cmd) : (setCmd s x).pins = s.pins := rfl
@[simp] theorem setCmd_csr (s : State) (x : Cmd) : (setCmd s x).csr = s.csr := rfl
@[simp] theorem setCmd_ctxs (s : State) (x : Cmd) : (setCmd s x).ctxs = s.ctxs := rfl
@[simp] theorem setCmd_slots (s : State) (x : Cmd) : (setCmd s x).slots = s.slots := rfl
@[simp] theorem setCmd_disp (s : State) (x : Cmd) : (setCmd s x).disp = s.disp := rfl
@[simp] theorem setCmd_shd (s : State) (x : Cmd) : (setCmd s x).shd = s.shd := rfl
@[simp] theorem setCmd_col (s : State) (x : Cmd) : (setCmd s x).col = s.col := rfl
@[simp] theorem setCmd_fab (s : State) (x : Cmd) : (setCmd s x).fab = s.fab := rfl
@[simp] theorem setCmd_plc (s : State) (x : Cmd) : (setCmd s x).plc = s.plc := rfl
@[simp] theorem setCmd_pmc (s : State) (x : Cmd) : (setCmd s x).pmc = s.pmc := rfl
@[simp] theorem setCmd_mgt (s : State) (x : Cmd) : (setCmd s x).mgt = s.mgt := rfl
@[simp] theorem setCmd_test (s : State) (x : Cmd) : (setCmd s x).test = s.test := rfl
@[simp] theorem setCmd_rotaActive (s : State) (x : Cmd) : (setCmd s x).rotaActive = s.rotaActive := rfl
@[simp] theorem setCmd_rotaPend (s : State) (x : Cmd) : (setCmd s x).rotaPend = s.rotaPend := rfl
@[simp] theorem setCmd_draws (s : State) (x : Cmd) : (setCmd s x).draws = s.draws := rfl
@[simp] theorem setCmd_front_queues (s : State) (x : Cmd) : (setCmd s x).front.queues = s.front.queues := rfl
@[simp] theorem setCmd_front_lastAdmit (s : State) (x : Cmd) : (setCmd s x).front.lastAdmit = s.front.lastAdmit := rfl
@[simp] theorem setCmd_front_flags (s : State) (x : Cmd) : (setCmd s x).front.flags = s.front.flags := rfl
@[simp] theorem setCmd_front_reads (s : State) (x : Cmd) : (setCmd s x).front.reads = s.front.reads := rfl
@[simp] theorem setCmd_front_writes (s : State) (x : Cmd) : (setCmd s x).front.writes = s.front.writes := rfl
@[simp] theorem setCmd_front_late (s : State) (x : Cmd) : (setCmd s x).front.late = s.front.late := rfl
@[simp] theorem csrGet_setCmd (s : State) (x : Cmd) (k : Nat) : csrGet (setCmd s x) k = csrGet s k := rfl
@[simp] theorem ctx_setCmd (s : State) (x : Cmd) (k : Nat) : ctx (setCmd s x) k = ctx s k := rfl
@[simp] theorem queue_setCmd (s : State) (x : Cmd) (k : Nat) : queue (setCmd s x) k = queue s k := rfl
@[simp] theorem shed_setCmd (s : State) (x : Cmd) (k : Nat) : shed (setCmd s x) k = shed s k := rfl
@[simp] theorem quse_setCmd (s : State) (x : Cmd) (k : Nat) : quse (setCmd s x) k = quse s k := rfl
@[simp] theorem grp_setCmd (s : State) (x : Cmd) (k : Nat) : grp (setCmd s x) k = grp s k := rfl
@[simp] theorem port_setCmd (s : State) (x : Cmd) (k : Nat) : port (setCmd s x) k = port s k := rfl
@[simp] theorem pslot_setCmd (s : State) (x : Cmd) (k : Nat) : pslot (setCmd s x) k = pslot s k := rfl
@[simp] theorem ticket_setCmd (s : State) (x : Cmd) (k : Nat) : ticket (setCmd s x) k = ticket s k := rfl
@[simp] theorem useAt_setCmd (s : State) (x : Cmd) (k : Nat) : useAt (setCmd s x) k = useAt s k := rfl
@[simp] theorem liveUse_setCmd (s : State) (x : Cmd) (k t : Nat) : liveUse (setCmd s x) k t = liveUse s k t := rfl
@[simp] theorem now_setCmd (s : State) (x : Cmd) : now (setCmd s x) = now s := rfl
@[simp] theorem isReady_setCmd (s : State) (x : Cmd) : isReady (setCmd s x) = isReady s := rfl
@[simp] theorem flagOf_setCmd (s : State) (x : Cmd) (k : Nat) : flagOf (setCmd s x) k = flagOf s k := rfl
@[simp] theorem mpLvl2_setCmd (s : State) (x : Cmd) : mpLvl2 (setCmd s x) = mpLvl2 s := rfl

/-! ## putSlot -/

@[simp] theorem putSlot_pending (s : State) (i : Nat) (x : Slot) : (putSlot s i x).pending = s.pending := rfl
@[simp] theorem putSlot_mem (s : State) (i : Nat) (x : Slot) : (putSlot s i x).mem = s.mem := rfl
@[simp] theorem putSlot_glb (s : State) (i : Nat) (x : Slot) : (putSlot s i x).glb = s.glb := rfl
@[simp] theorem putSlot_pins (s : State) (i : Nat) (x : Slot) : (putSlot s i x).pins = s.pins := rfl
@[simp] theorem putSlot_csr (s : State) (i : Nat) (x : Slot) : (putSlot s i x).csr = s.csr := rfl
@[simp] theorem putSlot_front (s : State) (i : Nat) (x : Slot) : (putSlot s i x).front = s.front := rfl
@[simp] theorem putSlot_ctxs (s : State) (i : Nat) (x : Slot) : (putSlot s i x).ctxs = s.ctxs := rfl
@[simp] theorem putSlot_disp (s : State) (i : Nat) (x : Slot) : (putSlot s i x).disp = s.disp := rfl
@[simp] theorem putSlot_shd (s : State) (i : Nat) (x : Slot) : (putSlot s i x).shd = s.shd := rfl
@[simp] theorem putSlot_col (s : State) (i : Nat) (x : Slot) : (putSlot s i x).col = s.col := rfl
@[simp] theorem putSlot_fab (s : State) (i : Nat) (x : Slot) : (putSlot s i x).fab = s.fab := rfl
@[simp] theorem putSlot_plc (s : State) (i : Nat) (x : Slot) : (putSlot s i x).plc = s.plc := rfl
@[simp] theorem putSlot_pmc (s : State) (i : Nat) (x : Slot) : (putSlot s i x).pmc = s.pmc := rfl
@[simp] theorem putSlot_mgt (s : State) (i : Nat) (x : Slot) : (putSlot s i x).mgt = s.mgt := rfl
@[simp] theorem putSlot_test (s : State) (i : Nat) (x : Slot) : (putSlot s i x).test = s.test := rfl
@[simp] theorem putSlot_rotaActive (s : State) (i : Nat) (x : Slot) : (putSlot s i x).rotaActive = s.rotaActive := rfl
@[simp] theorem putSlot_rotaPend (s : State) (i : Nat) (x : Slot) : (putSlot s i x).rotaPend = s.rotaPend := rfl
@[simp] theorem putSlot_draws (s : State) (i : Nat) (x : Slot) : (putSlot s i x).draws = s.draws := rfl
@[simp] theorem csrGet_putSlot (s : State) (i : Nat) (x : Slot) (k : Nat) : csrGet (putSlot s i x) k = csrGet s k := rfl
@[simp] theorem ctx_putSlot (s : State) (i : Nat) (x : Slot) (k : Nat) : ctx (putSlot s i x) k = ctx s k := rfl
@[simp] theorem queue_putSlot (s : State) (i : Nat) (x : Slot) (k : Nat) : queue (putSlot s i x) k = queue s k := rfl
@[simp] theorem findCmd_putSlot (s : State) (i : Nat) (x : Slot) (k t : Nat) : findCmd (putSlot s i x) k t = findCmd s k t := rfl
@[simp] theorem shed_putSlot (s : State) (i : Nat) (x : Slot) (k : Nat) : shed (putSlot s i x) k = shed s k := rfl
@[simp] theorem quse_putSlot (s : State) (i : Nat) (x : Slot) (k : Nat) : quse (putSlot s i x) k = quse s k := rfl
@[simp] theorem grp_putSlot (s : State) (i : Nat) (x : Slot) (k : Nat) : grp (putSlot s i x) k = grp s k := rfl
@[simp] theorem port_putSlot (s : State) (i : Nat) (x : Slot) (k : Nat) : port (putSlot s i x) k = port s k := rfl
@[simp] theorem pslot_putSlot (s : State) (i : Nat) (x : Slot) (k : Nat) : pslot (putSlot s i x) k = pslot s k := rfl
@[simp] theorem ticket_putSlot (s : State) (i : Nat) (x : Slot) (k : Nat) : ticket (putSlot s i x) k = ticket s k := rfl
@[simp] theorem useAt_putSlot (s : State) (i : Nat) (x : Slot) (k : Nat) : useAt (putSlot s i x) k = useAt s k := rfl
@[simp] theorem liveUse_putSlot (s : State) (i : Nat) (x : Slot) (k t : Nat) : liveUse (putSlot s i x) k t = liveUse s k t := rfl
@[simp] theorem now_putSlot (s : State) (i : Nat) (x : Slot) : now (putSlot s i x) = now s := rfl
@[simp] theorem isReady_putSlot (s : State) (i : Nat) (x : Slot) : isReady (putSlot s i x) = isReady s := rfl
@[simp] theorem flagOf_putSlot (s : State) (i : Nat) (x : Slot) (k : Nat) : flagOf (putSlot s i x) k = flagOf s k := rfl
@[simp] theorem mpLvl2_putSlot (s : State) (i : Nat) (x : Slot) : mpLvl2 (putSlot s i x) = mpLvl2 s := rfl

/-! ## putFlag -/

@[simp] theorem putFlag_pending (s : State) (f : Nat) (b : Bool) : (putFlag s f b).pending = s.pending := rfl
@[simp] theorem putFlag_mem (s : State) (f : Nat) (b : Bool) : (putFlag s f b).mem = s.mem := rfl
@[simp] theorem putFlag_glb (s : State) (f : Nat) (b : Bool) : (putFlag s f b).glb = s.glb := rfl
@[simp] theorem putFlag_pins (s : State) (f : Nat) (b : Bool) : (putFlag s f b).pins = s.pins := rfl
@[simp] theorem putFlag_csr (s : State) (f : Nat) (b : Bool) : (putFlag s f b).csr = s.csr := rfl
@[simp] theorem putFlag_ctxs (s : State) (f : Nat) (b : Bool) : (putFlag s f b).ctxs = s.ctxs := rfl
@[simp] theorem putFlag_slots (s : State) (f : Nat) (b : Bool) : (putFlag s f b).slots = s.slots := rfl
@[simp] theorem putFlag_disp (s : State) (f : Nat) (b : Bool) : (putFlag s f b).disp = s.disp := rfl
@[simp] theorem putFlag_shd (s : State) (f : Nat) (b : Bool) : (putFlag s f b).shd = s.shd := rfl
@[simp] theorem putFlag_col (s : State) (f : Nat) (b : Bool) : (putFlag s f b).col = s.col := rfl
@[simp] theorem putFlag_fab (s : State) (f : Nat) (b : Bool) : (putFlag s f b).fab = s.fab := rfl
@[simp] theorem putFlag_plc (s : State) (f : Nat) (b : Bool) : (putFlag s f b).plc = s.plc := rfl
@[simp] theorem putFlag_pmc (s : State) (f : Nat) (b : Bool) : (putFlag s f b).pmc = s.pmc := rfl
@[simp] theorem putFlag_mgt (s : State) (f : Nat) (b : Bool) : (putFlag s f b).mgt = s.mgt := rfl
@[simp] theorem putFlag_test (s : State) (f : Nat) (b : Bool) : (putFlag s f b).test = s.test := rfl
@[simp] theorem putFlag_rotaActive (s : State) (f : Nat) (b : Bool) : (putFlag s f b).rotaActive = s.rotaActive := rfl
@[simp] theorem putFlag_rotaPend (s : State) (f : Nat) (b : Bool) : (putFlag s f b).rotaPend = s.rotaPend := rfl
@[simp] theorem putFlag_draws (s : State) (f : Nat) (b : Bool) : (putFlag s f b).draws = s.draws := rfl
@[simp] theorem putFlag_front_queues (s : State) (f : Nat) (b : Bool) : (putFlag s f b).front.queues = s.front.queues := rfl
@[simp] theorem putFlag_front_inflight (s : State) (f : Nat) (b : Bool) : (putFlag s f b).front.inflight = s.front.inflight := rfl
@[simp] theorem putFlag_front_lastAdmit (s : State) (f : Nat) (b : Bool) : (putFlag s f b).front.lastAdmit = s.front.lastAdmit := rfl
@[simp] theorem putFlag_front_reads (s : State) (f : Nat) (b : Bool) : (putFlag s f b).front.reads = s.front.reads := rfl
@[simp] theorem putFlag_front_writes (s : State) (f : Nat) (b : Bool) : (putFlag s f b).front.writes = s.front.writes := rfl
@[simp] theorem putFlag_front_late (s : State) (f : Nat) (b : Bool) : (putFlag s f b).front.late = s.front.late := rfl
@[simp] theorem csrGet_putFlag (s : State) (f : Nat) (b : Bool) (k : Nat) : csrGet (putFlag s f b) k = csrGet s k := rfl
@[simp] theorem ctx_putFlag (s : State) (f : Nat) (b : Bool) (k : Nat) : ctx (putFlag s f b) k = ctx s k := rfl
@[simp] theorem queue_putFlag (s : State) (f : Nat) (b : Bool) (k : Nat) : queue (putFlag s f b) k = queue s k := rfl
@[simp] theorem findCmd_putFlag (s : State) (f : Nat) (b : Bool) (k t : Nat) : findCmd (putFlag s f b) k t = findCmd s k t := rfl
@[simp] theorem shed_putFlag (s : State) (f : Nat) (b : Bool) (k : Nat) : shed (putFlag s f b) k = shed s k := rfl
@[simp] theorem quse_putFlag (s : State) (f : Nat) (b : Bool) (k : Nat) : quse (putFlag s f b) k = quse s k := rfl
@[simp] theorem grp_putFlag (s : State) (f : Nat) (b : Bool) (k : Nat) : grp (putFlag s f b) k = grp s k := rfl
@[simp] theorem port_putFlag (s : State) (f : Nat) (b : Bool) (k : Nat) : port (putFlag s f b) k = port s k := rfl
@[simp] theorem pslot_putFlag (s : State) (f : Nat) (b : Bool) (k : Nat) : pslot (putFlag s f b) k = pslot s k := rfl
@[simp] theorem ticket_putFlag (s : State) (f : Nat) (b : Bool) (k : Nat) : ticket (putFlag s f b) k = ticket s k := rfl
@[simp] theorem useAt_putFlag (s : State) (f : Nat) (b : Bool) (k : Nat) : useAt (putFlag s f b) k = useAt s k := rfl
@[simp] theorem liveUse_putFlag (s : State) (f : Nat) (b : Bool) (k t : Nat) : liveUse (putFlag s f b) k t = liveUse s k t := rfl
@[simp] theorem now_putFlag (s : State) (f : Nat) (b : Bool) : now (putFlag s f b) = now s := rfl
@[simp] theorem isReady_putFlag (s : State) (f : Nat) (b : Bool) : isReady (putFlag s f b) = isReady s := rfl
@[simp] theorem mpLvl2_putFlag (s : State) (f : Nat) (b : Bool) : mpLvl2 (putFlag s f b) = mpLvl2 s := rfl

/-! ## rotaToggle -/

@[simp] theorem rotaToggle_pending (s : State) (i : Nat) : (rotaToggle s i).pending = s.pending := rfl
@[simp] theorem rotaToggle_mem (s : State) (i : Nat) : (rotaToggle s i).mem = s.mem := rfl
@[simp] theorem rotaToggle_glb (s : State) (i : Nat) : (rotaToggle s i).glb = s.glb := rfl
@[simp] theorem rotaToggle_pins (s : State) (i : Nat) : (rotaToggle s i).pins = s.pins := rfl
@[simp] theorem rotaToggle_csr (s : State) (i : Nat) : (rotaToggle s i).csr = s.csr := rfl
@[simp] theorem rotaToggle_front (s : State) (i : Nat) : (rotaToggle s i).front = s.front := rfl
@[simp] theorem rotaToggle_ctxs (s : State) (i : Nat) : (rotaToggle s i).ctxs = s.ctxs := rfl
@[simp] theorem rotaToggle_slots (s : State) (i : Nat) : (rotaToggle s i).slots = s.slots := rfl
@[simp] theorem rotaToggle_disp (s : State) (i : Nat) : (rotaToggle s i).disp = s.disp := rfl
@[simp] theorem rotaToggle_shd (s : State) (i : Nat) : (rotaToggle s i).shd = s.shd := rfl
@[simp] theorem rotaToggle_col (s : State) (i : Nat) : (rotaToggle s i).col = s.col := rfl
@[simp] theorem rotaToggle_fab (s : State) (i : Nat) : (rotaToggle s i).fab = s.fab := rfl
@[simp] theorem rotaToggle_plc (s : State) (i : Nat) : (rotaToggle s i).plc = s.plc := rfl
@[simp] theorem rotaToggle_pmc (s : State) (i : Nat) : (rotaToggle s i).pmc = s.pmc := rfl
@[simp] theorem rotaToggle_mgt (s : State) (i : Nat) : (rotaToggle s i).mgt = s.mgt := rfl
@[simp] theorem rotaToggle_test (s : State) (i : Nat) : (rotaToggle s i).test = s.test := rfl
@[simp] theorem rotaToggle_draws (s : State) (i : Nat) : (rotaToggle s i).draws = s.draws := rfl
@[simp] theorem csrGet_rotaToggle (s : State) (i : Nat) (k : Nat) : csrGet (rotaToggle s i) k = csrGet s k := rfl
@[simp] theorem ctx_rotaToggle (s : State) (i : Nat) (k : Nat) : ctx (rotaToggle s i) k = ctx s k := rfl
@[simp] theorem queue_rotaToggle (s : State) (i : Nat) (k : Nat) : queue (rotaToggle s i) k = queue s k := rfl
@[simp] theorem findCmd_rotaToggle (s : State) (i : Nat) (k t : Nat) : findCmd (rotaToggle s i) k t = findCmd s k t := rfl
@[simp] theorem shed_rotaToggle (s : State) (i : Nat) (k : Nat) : shed (rotaToggle s i) k = shed s k := rfl
@[simp] theorem quse_rotaToggle (s : State) (i : Nat) (k : Nat) : quse (rotaToggle s i) k = quse s k := rfl
@[simp] theorem grp_rotaToggle (s : State) (i : Nat) (k : Nat) : grp (rotaToggle s i) k = grp s k := rfl
@[simp] theorem port_rotaToggle (s : State) (i : Nat) (k : Nat) : port (rotaToggle s i) k = port s k := rfl
@[simp] theorem pslot_rotaToggle (s : State) (i : Nat) (k : Nat) : pslot (rotaToggle s i) k = pslot s k := rfl
@[simp] theorem ticket_rotaToggle (s : State) (i : Nat) (k : Nat) : ticket (rotaToggle s i) k = ticket s k := rfl
@[simp] theorem useAt_rotaToggle (s : State) (i : Nat) (k : Nat) : useAt (rotaToggle s i) k = useAt s k := rfl
@[simp] theorem liveUse_rotaToggle (s : State) (i : Nat) (k t : Nat) : liveUse (rotaToggle s i) k t = liveUse s k t := rfl
@[simp] theorem now_rotaToggle (s : State) (i : Nat) : now (rotaToggle s i) = now s := rfl
@[simp] theorem isReady_rotaToggle (s : State) (i : Nat) : isReady (rotaToggle s i) = isReady s := rfl
@[simp] theorem flagOf_rotaToggle (s : State) (i : Nat) (k : Nat) : flagOf (rotaToggle s i) k = flagOf s k := rfl
@[simp] theorem mpLvl2_rotaToggle (s : State) (i : Nat) : mpLvl2 (rotaToggle s i) = mpLvl2 s := rfl

end Sys2Proof.Machine
end

