-- ==== Sys2Proof/Laws/Counts.lean ====
section
/-! SUPPORT. The operations that count leave everything else alone: one lemma for each, in terms of `CountsOnly`. -/

namespace Sys2Proof.Machine

/-- Another register is not changed by a write. -/
theorem csrGet_csrPut_ne {s : State} {o v k : Nat} (h : k ≠ o) : csrGet (csrPut s o v) k = csrGet s k :=
  slook_sput_ne h

/-- In a canonical store a register reads as written. -/
theorem csrGet_csrPut {s : State} {o v : Nat} (h : swf csrReset s.csr = true) : csrGet (csrPut s o v) o = v :=
  slook_sput h

theorem CountsOnly.refl (s : State) : CountsOnly s s := ⟨rfl, fun _ _ => rfl, rfl⟩

theorem CountsOnly.trans {s t u : State} (h : CountsOnly s t) (k : CountsOnly t u) : CountsOnly s u := by
  obtain ⟨h1, h2, h3⟩ := h
  obtain ⟨k1, k2, k3⟩ := k
  refine ⟨?_, fun o ho => (k2 o ho).trans (h2 o ho), ?_⟩
  · rw [← h1, ← k1]
  · rw [← h3, ← k3]

/-- A write to a counting register. -/
theorem CountsOnly.put {s t : State} {o v : Nat} (h : CountsOnly s t) (ho : countsIn o = true) :
    CountsOnly s (csrPut t o v) :=
  h.trans ⟨rfl, fun k hk => csrGet_csrPut_ne (by rintro rfl; simp [ho] at hk), rfl⟩

theorem CountsOnly.countF {s t : State} {o l w n : Nat} (h : CountsOnly s t) (ho : countsIn o = true) :
    CountsOnly s (countF t o l w n) := by
  unfold Machine.countF
  split
  · exact h
  · exact h.put ho

theorem CountsOnly.countC {s t : State} {o n : Nat} (h : CountsOnly s t) (ho : countsIn o = true) :
    CountsOnly s (countC t o n) := h.countF ho

/-- Every event counter is a counting register. -/
theorem countsIn_pmcCnt {i : Nat} (h : i < 256) : countsIn (oPmcCnt i) = true := by
  have h1 : 0xC0000 ≤ oPmcCnt i := by unfold oPmcCnt; omega
  have h2 : oPmcCnt i < 0xC0800 := by unfold oPmcCnt; omega
  simp [countsIn, h1, h2]

theorem CountsOnly.pmcBump {s t : State} {i n : Nat} (h : CountsOnly s t) (hi : i < 256) :
    CountsOnly s (pmcBump t i n) := by
  unfold Machine.pmcBump
  have h1 := h.put (v := setBits (csrGet t (oPmcCnt i)) 0 48 (csrField t (oPmcCnt i) 0 48 + n)) (countsIn_pmcCnt hi)
  simp only
  split
  · exact h1
  · split
    · rename_i hc
      have hi2 : i + 1 < 256 := by have := hc.1; omega
      split
      · exact h1.put (countsIn_pmcCnt hi2)
      · exact (h1.put (countsIn_pmcCnt hi2)).put (countsIn_pmcCnt hi2)
    · exact h1.put (countsIn_pmcCnt hi)

/-- A fold of operations that only count only counts. -/
theorem CountsOnly.foldl {α : Type} {s : State} (f : State → α → State) (l : List α)
    (hf : ∀ t, ∀ a ∈ l, CountsOnly s t → CountsOnly s (f t a)) {t : State} (h : CountsOnly s t) :
    CountsOnly s (l.foldl f t) := by
  induction l generalizing t with
  | nil => exact h
  | cons a l ih =>
    exact ih (fun u b hb hu => hf u b (List.mem_cons_of_mem _ hb) hu) (hf t a List.mem_cons_self h)

theorem CountsOnly.pmcEvent {s t : State} {ev n : Nat} {i c k : Option Nat} (h : CountsOnly s t) :
    CountsOnly s (pmcEvent t ev i c k n) := by
  unfold Machine.pmcEvent
  split
  · exact h
  · have hf := CountsOnly.foldl (fun u j =>
      if !pmcOddChained t j && pmcPass (csrGet t (oPmcCfg j)) ev i c k then Machine.pmcBump u j n else u) (List.range 256)
      (fun u j hj hu => by
        split
        · exact hu.pmcBump (List.mem_range.mp hj)
        · exact hu) h
    simp only
    split
    · exact hf.put (by decide)
    · exact hf

theorem CountsOnly.bwAdd {s t : State} {j d n : Nat} (h : CountsOnly s t) : CountsOnly s (bwAdd t j d n) := by
  unfold Machine.bwAdd
  split
  · exact h.trans ⟨rfl, fun _ _ => rfl, rfl⟩
  · exact h

theorem CountsOnly.xcntAdd {s t : State} {c e w k : Nat} (h : CountsOnly s t) : CountsOnly s (xcntAdd t c e w k) := by
  unfold Machine.xcntAdd
  simp only
  split
  · exact h.trans ⟨rfl, fun _ _ => rfl, rfl⟩
  · exact h

theorem CountsOnly.tdcCount {s t : State} {n : Nat} (h : CountsOnly s t) : CountsOnly s (tdcCount t n) := by
  unfold Machine.tdcCount
  simp only
  have h2 := (h.countC (o := 0xE0008) (n := 1) (by decide)).countF (o := 0xE0010) (l := 16 * n) (w := 16) (n := 1) (by decide)
  apply CountsOnly.pmcEvent
  split
  · exact h2
  · exact h2.put (by decide)

theorem CountsOnly.mpCount {s t : State} {c r w : Nat} (h : CountsOnly s t) : CountsOnly s (mpCount t c r w) := by
  unfold Machine.mpCount
  split
  · exact h
  · exact (((h.pmcEvent).pmcEvent).bwAdd).bwAdd

theorem CountsOnly.addTally {s t : State} {x : Tally} (h : CountsOnly s t) : CountsOnly s (addTally t x) := by
  unfold Machine.addTally
  exact ((((((h.countF (by decide)).countF (by decide)).countF (by decide)).countC (by decide)).countC (by decide)).countC
    (by decide)).pmcEvent.pmcEvent

/-- The end of an access sequence without remote accesses: host memory is what the sequence left, and otherwise only counts
are made. -/
theorem ioClose_counts (s : State) (r w : Nat) (io : Io) (h : io.hops = []) :
    CountsOnly (setMem s io.mem) (ioClose s r w io) := by
  unfold ioClose
  rw [h]
  exact (((CountsOnly.refl _).addTally).mpCount).mpCount

end Sys2Proof.Machine
end

