-- ==== Sys2Proof/Laws/Crc.lean ====
section
/-! SUPPORT. The CRC of a flit (R303): it fits 32 bits, and the check takes a flit as it was made and no flit whose CRC
has one bit changed. -/

namespace Sys2Proof.Machine

/-- A step of the CRC keeps it in 32 bits. -/
theorem crcBit_lt (c : Nat) (h : c < 2 ^ 32) : crcBit c < 2 ^ 32 := by
  unfold crcBit
  split
  · exact Nat.xor_lt_two_pow (by omega) (by decide)
  · omega

/-- A byte of the CRC keeps it in 32 bits. -/
theorem crcByte_lt (c : Nat) (b : Byte) (h : c < 2 ^ 32) : crcByte c b < 2 ^ 32 := by
  unfold crcByte
  have hb : b.toNat < 2 ^ 32 := by have := b.isLt; omega
  repeat apply crcBit_lt
  exact Nat.xor_lt_two_pow h hb

/-- A CRC-32C fits 32 bits. -/
theorem crc32c_lt (l : List Byte) : crc32c l < 2 ^ 32 := by
  have : ∀ (l : List Byte) (c : Nat), c < 2 ^ 32 → l.foldl crcByte c < 2 ^ 32 := by
    intro l
    induction l with
    | nil => intro c h; exact h
    | cons b r ih => intro c h; exact ih _ (crcByte_lt c b h)
  exact Nat.xor_lt_two_pow (this l _ (by decide)) (by decide)

/-- A flit made with its CRC passes the check; with the lowest CRC bit changed it does not. -/
theorem mkFlit_ok (ctl hdr : Nat) (p : List Byte) (h1 : ctl < 2 ^ 64) (h2 : hdr < 2 ^ 160) :
    flitOk (mkFlit ctl hdr p) = true ∧
    flitOk { mkFlit ctl hdr p with crc := (mkFlit ctl hdr p).crc ^^^ 1#32 } = false := by
  have e1 : ctl % 2 ^ 64 = ctl := Nat.mod_eq_of_lt h1
  have e2 : hdr % 2 ^ 160 = hdr := Nat.mod_eq_of_lt h2
  have key := crc32c_lt (flitBytes ctl hdr (p ++ List.replicate (352 - p.length) 0#8))
  have e3 := Nat.mod_eq_of_lt key
  constructor
  · simp only [flitOk, mkFlit, BitVec.toNat_ofNat, e1, e2, e3, beq_self_eq_true]
  · simp only [flitOk, mkFlit, BitVec.toNat_ofNat, BitVec.toNat_xor, e1, e2, e3]
    rw [beq_eq_false_iff_ne]
    intro h
    have : (crc32c (flitBytes ctl hdr (p ++ List.replicate (352 - p.length) 0#8))).testBit 0 =
        (crc32c (flitBytes ctl hdr (p ++ List.replicate (352 - p.length) 0#8)) ^^^ 1 % 2 ^ 32).testBit 0 := by rw [← h]
    simp at this
    omega
end Sys2Proof.Machine
end

