-- ==== Sys2Proof/Laws/Issue.lean ====
section
/-! SUPPORT. The issue step and the report: what they do, said once (R87 to R94). -/

namespace Sys2Proof.Machine

theorem served_eq {s : State} (h : Served s) (f : State → State) : served f s = f s := by
  simp [served, h.1, h.2]

theorem working_eq {s : State} (h : Working s) (f : State → State) : working f s = f s := by
  simp [working, served_eq h.1, h.2]

/-- The command found under a queue and a tag carries them. -/
theorem findCmd_key {s : State} {q t : Nat} {c : Cmd} (h : findCmd s q t = some c) : c.q = q ∧ c.tag = t := by
  have := List.find?_some h
  simpa using this

/-- After a command is replaced, it is found under its queue and tag if one was there. -/
theorem find_map_same {l : List Cmd} {x c : Cmd} (h : l.find? (fun y => y.q == x.q && y.tag == x.tag) = some c) :
    (l.map (fun y => if y.q == x.q && y.tag == x.tag then x else y)).find? (fun y => y.q == x.q && y.tag == x.tag) =
      some x := by
  induction l with
  | nil => simp at h
  | cons y l ih =>
    by_cases hy : (y.q == x.q && y.tag == x.tag) = true
    · simp only [List.map_cons, hy, if_true, List.find?_cons, beq_self_eq_true, Bool.and_self]
    · simp only [List.find?_cons, hy] at h
      simp only [List.map_cons, hy, Bool.false_eq_true, if_false, List.find?_cons]
      exact ih h

/-- A command under another queue or tag is found as before. -/
theorem find_map_other {l : List Cmd} {x : Cmd} {q t : Nat} (h : (q, t) ≠ (x.q, x.tag)) :
    (l.map (fun y => if y.q == x.q && y.tag == x.tag then x else y)).find? (fun y => y.q == q && y.tag == t) =
      l.find? (fun y => y.q == q && y.tag == t) := by
  induction l with
  | nil => rfl
  | cons y l ih =>
    by_cases hy : (y.q == x.q && y.tag == x.tag) = true
    · have h1 : (x.q == q && x.tag == t) = false := by
        rw [Bool.eq_false_iff]; intro hh
        simp at hh; exact h (by rw [← hh.1, ← hh.2])
      have h2 : (y.q == q && y.tag == t) = false := by
        rw [Bool.eq_false_iff]; intro hh
        simp at hh hy; exact h (by rw [← hh.1, ← hh.2, hy.1, hy.2])
      simp only [List.map_cons, hy, if_true, List.find?_cons, h1, h2]
      exact ih
    · simp only [List.map_cons, hy, Bool.false_eq_true, if_false, List.find?_cons]
      split
      · rfl
      · exact ih

theorem findCmd_setCmd {s : State} {x c : Cmd} (h : findCmd s x.q x.tag = some c) :
    findCmd (setCmd s x) x.q x.tag = some x := find_map_same h

theorem findCmd_setCmd_other {s : State} {x : Cmd} {q t : Nat} (h : (q, t) ≠ (x.q, x.tag)) :
    findCmd (setCmd s x) q t = findCmd s q t := find_map_other h

theorem queue_setQueue_other {s : State} {q k : Nat} {x : Queue} (h : k ≠ q) : queue (setQueue s q x) k = queue s k :=
  slook_sput_ne h

theorem queue_setQueue {s : State} {q : Nat} {x : Queue} (h : x ≠ {}) : queue (setQueue s q x) q = x :=
  slook_sput_of_ne_default h

/-- The issue step of a command that no check turns away: its unit's work, settled (R87, R97). -/
theorem issueRow_go {s : State} {c : Cmd} {opc : Nat} (h : Issues s c opc) {k : Cmd → Bool} (hk : k c = true)
    (work : Cmd → State → Work) :
    issueRow k c.q c.tag work s = settle (work (stampIssue s c) (begun s c)) c.q c.tag := by
  obtain ⟨-, hf, -, hs, hm, hg⟩ := h
  have hr : c.resumes = false := by simp [Cmd.resumes, hs]
  simp [issueRow, hf, hk, hm, hr, hs, hg, begun]

@[simp] theorem stampIssue_q (s : State) (c : Cmd) : (stampIssue s c).q = c.q := rfl
@[simp] theorem stampIssue_tag (s : State) (c : Cmd) : (stampIssue s c).tag = c.tag := rfl
@[simp] theorem stampIssue_opc (s : State) (c : Cmd) : (stampIssue s c).opc = c.opc := rfl
@[simp] theorem stampIssue_subop (s : State) (c : Cmd) : (stampIssue s c).subop = c.subop := rfl
@[simp] theorem stampIssue_ctx (s : State) (c : Cmd) : (stampIssue s c).ctx = c.ctx := rfl
@[simp] theorem stampIssue_batch (s : State) (c : Cmd) : (stampIssue s c).batch = c.batch := rfl
@[simp] theorem stampIssue_a (s : State) (c : Cmd) : (stampIssue s c).a = c.a := rfl
@[simp] theorem stampIssue_b (s : State) (c : Cmd) : (stampIssue s c).b = c.b := rfl
@[simp] theorem stampIssue_c (s : State) (c : Cmd) : (stampIssue s c).c = c.c := rfl
@[simp] theorem stampIssue_level (s : State) (c : Cmd) : (stampIssue s c).level = c.level := rfl
@[simp] theorem stampIssue_saved (s : State) (c : Cmd) : (stampIssue s c).saved = c.saved := rfl
@[simp] theorem stampIssue_tiss (s : State) (c : Cmd) : (stampIssue s c).tiss = now s := rfl

theorem Issues.working {s : State} {c : Cmd} {opc : Nat} (h : Issues s c opc) : Working s := h.1
theorem Issues.found {s : State} {c : Cmd} {opc : Nat} (h : Issues s c opc) : findCmd s c.q c.tag = some c := h.2.1

/-- The command as its unit begins. -/
theorem findCmd_begun {s : State} {c : Cmd} (h : findCmd s c.q c.tag = some c) :
    findCmd (begun s c) c.q c.tag = some { stampIssue s c with st := .exec } :=
  findCmd_setCmd (x := { stampIssue s c with st := .exec }) h

/-- What `begun` leaves: only the in-flight list has changed. -/
theorem begun_front (s : State) (c : Cmd) :
    { (begun s c) with front := s.front } = s := rfl

@[simp] theorem queue_begun (s : State) (c : Cmd) (q : Nat) : queue (begun s c) q = queue s q := rfl
@[simp] theorem csrGet_begun (s : State) (c : Cmd) (o : Nat) : csrGet (begun s c) o = csrGet s o := rfl
@[simp] theorem ctx_begun (s : State) (c : Cmd) (k : Nat) : ctx (begun s c) k = ctx s k := rfl
@[simp] theorem flagOf_begun (s : State) (c : Cmd) (k : Nat) : flagOf (begun s c) k = flagOf s k := rfl
@[simp] theorem mem_begun (s : State) (c : Cmd) : (begun s c).mem = s.mem := rfl
@[simp] theorem now_begun (s : State) (c : Cmd) : now (begun s c) = now s := rfl

theorem findCmd_begun_other {s : State} {c : Cmd} {q t : Nat} (h : (q, t) ≠ (c.q, c.tag)) :
    findCmd (begun s c) q t = findCmd s q t :=
  findCmd_setCmd_other (x := { stampIssue s c with st := .exec }) h

/-- A report leaves everything outside the front end as it was. -/
theorem report_front (s : State) (q tag : Nat) (r : Report) : { (report s q tag r) with front := s.front } = s := by
  unfold report
  split
  · rfl
  · split
    · rfl
    · rfl

/-- In the front end a report changes only the in-flight list and the queues. -/
theorem report_inner (s : State) (q tag : Nat) (r : Report) :
    { (report s q tag r).front with inflight := s.front.inflight, queues := s.front.queues } = s.front := by
  unfold report
  split
  · rfl
  · split
    · rfl
    · rfl

/-- The work of a unit that ends with a report, from a state `u` in which the front end stands as when the unit began. -/
theorem reports_of_done {s u : State} {c : Cmd} {opc : Nat} (h : Issues s c opc)
    (hu : u.front = (begun s c).front) (status detail result epoch : Nat) :
    Reports s (settle (doneWith u status detail result epoch) c.q c.tag) c status detail result epoch := by
  have hf : findCmd u c.q c.tag = some { stampIssue s c with st := .exec } := by
    have := findCmd_begun h.found
    unfold findCmd at this ⊢
    rw [hu]; exact this
  have hq : ∀ q, queue u q = queue s q := by
    intro q; unfold queue; rw [hu]; rfl
  have ho : ∀ q t, (q, t) ≠ (c.q, c.tag) → findCmd u q t = findCmd s q t := by
    intro q t hne
    have := findCmd_begun_other (s := s) hne
    unfold findCmd at this ⊢
    rw [hu]; exact this
  let fin : CmdSt := .finished { status := status, detail := detail, result := result, epoch := epoch, tcomp := now u }
  have hsettle : settle (doneWith u status detail result epoch) c.q c.tag =
      setQueue (setCmd u { stampIssue s c with st := fin }) c.q
        { queue u c.q with done := (queue u c.q).done ++ [c.tag] } := by
    simp [settle, doneWith, report, hf, Cmd.isFinished, fin]
  rw [hsettle]
  refine ⟨⟨_, _, findCmd_setCmd (x := { stampIssue s c with st := fin }) hf, rfl, rfl, rfl, rfl, rfl, rfl, rfl,
    rfl, rfl⟩, ?_, ?_, ?_⟩
  · rw [queue_setQueue (by intro hh; have := congrArg Queue.done hh; simp at this), hq]
  · intro q hne
    rw [queue_setQueue_other hne]; exact hq q
  · intro q t hne
    have : findCmd (setCmd u { stampIssue s c with st := fin }) q t = findCmd u q t := findCmd_setCmd_other hne
    exact this.trans (ho q t hne)

end Sys2Proof.Machine
end

