-- ==== Sys2Proof/Laws/Memory.lean ====
section
/-! SUPPORT. Laws of host memory: every operation keeps the canonical form, a read after a write gives the value written,
and a write leaves every other byte alone (R4, R32, R33). -/

namespace Sys2Proof.Machine

/-! ## The canonical form -/

theorem wf_wrByte {m : HostMem} (a : Nat) (v : Byte) (h : Memory.wf m = true) : Memory.wf (wrByte m a v) = true := by
  simp only [Memory.wf, Bool.and_eq_true] at h ⊢
  exact ⟨swf_sput h.1, h.2⟩

theorem wf_draws {m : HostMem} (n : Nat) (h : Memory.wf m = true) : Memory.wf { m with draws := n } = true := h

theorem wf_wrBytes {m : HostMem} (a : Nat) (bs : List Byte) (h : Memory.wf m = true) :
    Memory.wf (wrBytes m a bs) = true := by
  induction bs generalizing m a with
  | nil => exact h
  | cons b bs ih => exact ih (a + 1) (wf_wrByte a b h)

theorem wf_wrNum {m : HostMem} (a n v : Nat) (h : Memory.wf m = true) : Memory.wf (wrNum m a n v) = true := wf_wrBytes a _ h

theorem wf_wrFree {m : HostMem} (a n : Nat) (h : Memory.wf m = true) : Memory.wf (wrFree m a n) = true := by
  induction n generalizing m a with
  | zero => exact h
  | succ n ih => exact ih (a + 1) (wf_draws _ (wf_wrByte a _ h))

theorem wf_wrTry {m : HostMem} (a : Nat) (bs : List Byte) (h : Memory.wf m = true) :
    Memory.wf (wrTry m a bs).1 = true := by
  unfold wrTry
  split
  · exact wf_wrFree a _ h
  · exact wf_wrBytes a _ h

theorem wf_pushRemote {m : HostMem} (a : Nat) (bs : List Byte) (h : Memory.wf m = true) :
    Memory.wf (pushRemote m a bs) = true := by
  induction bs generalizing m a with
  | nil => exact h
  | cons b bs ih => exact ih (m := { m with remote := (a, b) :: m.remote }) (a + 1) h

theorem wf_wrGranules {io : Io} (fuel a : Nat) (bs : List Byte) (h : Memory.wf io.mem = true) :
    Memory.wf (wrGranules io fuel a bs).mem = true := by
  induction fuel generalizing io a bs with
  | zero => exact h
  | succ n ih =>
    unfold wrGranules
    split
    · exact h
    · exact ih _ _ (wf_wrTry a _ h)

/-- A remote access leaves this chip's memory as it is. -/
theorem remoteTry_mem (io : Io) (a : Nat) : (remoteTry io a).2.mem = io.mem := by
  unfold remoteTry
  dsimp only
  split
  · rfl
  · split
    · rfl
    · split <;> rfl

theorem strikeTick_mem (io : Io) : (strikeTick io).mem = io.mem := by
  unfold strikeTick
  split <;> rfl

/-- A write to one chip keeps the canonical form. -/
theorem wf_ioWriteOn {io : Io} (dom : Bool) (a : Nat) (bs : List Byte) (h : Memory.wf io.mem = true) :
    Memory.wf (ioWriteOn dom a bs io).mem = true := by
  unfold ioWriteOn
  split
  · exact h
  · split
    · have hm := remoteTry_mem io a
      generalize remoteTry io a = x at hm
      obtain ⟨e | e, io1⟩ := x
      · exact wf_pushRemote _ _ (wf_draws _ (hm ▸ h))
      · exact hm ▸ h
    · exact wf_wrGranules _ _ _ h

/-- An access of an instruction keeps the canonical form. -/
theorem wf_ioWrite {io : Io} (dom : Bool) (a : Nat) (bs : List Byte) (h : Memory.wf io.mem = true) :
    Memory.wf (ioWrite dom a bs io).2.mem = true := by
  have ht : Memory.wf (strikeTick io).mem = true := (strikeTick_mem io).symm ▸ h
  unfold ioWrite
  split
  · exact h
  · dsimp only
    split
    · exact wf_ioWriteOn _ _ _ (wf_ioWriteOn _ _ _ ht)
    · exact wf_ioWriteOn _ _ _ ht

theorem wf_ioReadOn {io : Io} (dom : Bool) (a n : Nat) (h : Memory.wf io.mem = true) :
    Memory.wf (ioReadOn dom a n io).2.mem = true := by
  unfold ioReadOn
  split
  · exact h
  · split
    · exact h
    · split
      · have hm := remoteTry_mem io a
        generalize remoteTry io a = x at hm
        obtain ⟨e | e, io1⟩ := x
        · exact wf_draws _ (hm ▸ h)
        · exact hm ▸ h
      · dsimp only
        split <;> exact h

theorem wf_ioRead {io : Io} (dom : Bool) (a n : Nat) (h : Memory.wf io.mem = true) :
    Memory.wf (ioRead dom a n io).2.mem = true := by
  unfold ioRead
  split
  · exact wf_ioReadOn dom _ _ (wf_ioReadOn dom a _ h)
  · exact wf_ioReadOn dom a n h

theorem wf_writeRing {m : HostMem} (s : State) (i t : Nat) (l : List Nat) (h : Memory.wf m = true) :
    Memory.wf (writeRing s i t l m).1 = true := by
  induction l generalizing m t with
  | nil => exact h
  | cons b l ih =>
    have := wf_wrTry (m := m) (shdRingAt s i t) (leBytes 4 b) h
    unfold writeRing
    revert this
    cases wrTry m (shdRingAt s i t) (leBytes 4 b) with
    | mk m1 bad =>
      intro h1
      dsimp only
      split
      · exact h1
      · exact ih _ h1

theorem wf_freeDest {m : HostMem} (o : CollOp) (box k : Nat) (h : Memory.wf m = true) :
    Memory.wf (freeDest m o box k) = true := by
  unfold freeDest
  generalize ((List.range (o.chunks box - o.signalled)).flatMap (fun i => chunkDest o box k (o.signalled + i))) = l
  induction l generalizing m with
  | nil => exact h
  | cons p l ih => exact ih (wf_wrFree _ _ h)

/-- The memory of the state after reset is canonical. -/
theorem wf_reset : Memory.wf State.reset.mem = true := by decide

/-! ## Reading what was written -/

/-- A byte elsewhere is left alone. -/
theorem rdByte_wrByte_ne {m : HostMem} {a b : Nat} {v : Byte} (h : b % 2 ^ 42 ≠ a % 2 ^ 42) :
    rdByte (wrByte m a v) b = rdByte m b := slook_sput_ne h

/-- A read after a write to the same byte gives the value written. -/
theorem rdByte_wrByte {m : HostMem} {a b : Nat} {v : Byte} (hw : Memory.wf m = true) (h : b % 2 ^ 42 = a % 2 ^ 42) :
    rdByte (wrByte m a v) b = v := by
  simp only [Memory.wf, Bool.and_eq_true] at hw
  unfold rdByte wrByte
  rw [h]
  exact slook_sput hw.1

/-- A write of bytes leaves every other byte alone. -/
theorem rdByte_wrBytes_ne {m : HostMem} {a b : Nat} {bs : List Byte}
    (h : ∀ i, i < bs.length → b % 2 ^ 42 ≠ (a + i) % 2 ^ 42) : rdByte (wrBytes m a bs) b = rdByte m b := by
  induction bs generalizing m a with
  | nil => rfl
  | cons v bs ih =>
    show rdByte (wrBytes (wrByte m a v) (a + 1) bs) b = _
    rw [ih (fun i hi => by
      have := h (i + 1) (by simp; omega)
      rwa [show a + 1 + i = a + (i + 1) by omega])]
    exact rdByte_wrByte_ne (h 0 (by simp))

/-- Byte `i` of what was written is read back, where the bytes do not reach round the address space. -/
theorem rdByte_wrBytes {m : HostMem} {a i : Nat} {bs : List Byte} (hw : Memory.wf m = true) (hn : bs.length ≤ 2 ^ 42)
    (hi : i < bs.length) : rdByte (wrBytes m a bs) (a + i) = bs[i] := by
  induction bs generalizing m a i with
  | nil => simp at hi
  | cons v bs ih =>
    show rdByte (wrBytes (wrByte m a v) (a + 1) bs) (a + i) = _
    simp only [List.length_cons] at hn hi
    cases i with
    | zero =>
      rw [rdByte_wrBytes_ne (fun j hj => by omega)]
      exact rdByte_wrByte hw rfl
    | succ j =>
      have := ih (m := wrByte m a v) (a := a + 1) (wf_wrByte a v hw) (by omega) (i := j) (by omega)
      rw [show a + (j + 1) = a + 1 + j by omega]
      simpa using this

/-- A read of the bytes just written gives them. -/
theorem rdBytes_eq {m : HostMem} {a : Nat} {bs : List Byte} (h : ∀ i (hi : i < bs.length), rdByte m (a + i) = bs[i]) :
    rdBytes m a bs.length = bs := by
  induction bs generalizing a with
  | nil => rfl
  | cons v bs ih =>
    show rdByte m a :: rdBytes m (a + 1) bs.length = _
    congr 1
    · exact h 0 (by simp)
    · apply ih
      intro i hi
      have := h (i + 1) (by simp; omega)
      rw [show a + 1 + i = a + (i + 1) by omega]
      simpa using this

theorem rdBytes_wrBytes {m : HostMem} {a : Nat} {bs : List Byte} (hw : Memory.wf m = true) (hn : bs.length ≤ 2 ^ 42) :
    rdBytes (wrBytes m a bs) a bs.length = bs := rdBytes_eq (fun _ hi => rdByte_wrBytes hw hn hi)

@[simp] theorem leBytes_length (n v : Nat) : (leBytes n v).length = n := by
  induction n generalizing v with
  | zero => rfl
  | succ n ih => simp [leBytes, ih]

theorem leNat_leBytes (n v : Nat) : leNat (leBytes n v) = v % 256 ^ n := by
  induction n generalizing v with
  | zero => simp [leBytes, leNat, Nat.mod_one]
  | succ n ih =>
    simp only [leBytes, leNat, ih, BitVec.toNat_ofNat]
    rw [show (256 : Nat) ^ (n + 1) = 256 * 256 ^ n by rw [Nat.pow_succ, Nat.mul_comm], Nat.mod_mul]

/-- A number that was written is read back. -/
theorem rdNum_wrNum {m : HostMem} {a n v : Nat} (hw : Memory.wf m = true) (hn : n ≤ 2 ^ 42) :
    rdNum (wrNum m a n v) a n = v % 256 ^ n := by
  have := rdBytes_wrBytes (m := m) (a := a) (bs := leBytes n v) hw (by simpa using hn)
  simp only [leBytes_length] at this
  rw [rdNum, wrNum, this, leNat_leBytes]

/-! ## Without marks no access fails -/

theorem rdCode_quiet {m : HostMem} (h : m.marks = []) (l : Bool) (a n : Nat) : rdCode l m a n = 0 := by
  unfold rdCode markAt
  simp [h, slook]

theorem wrTry_quiet {m : HostMem} (h : m.marks = []) (a : Nat) (bs : List Byte) :
    wrTry m a bs = (wrBytes m a bs, false) := by
  unfold wrTry wrBad markAt
  simp [h, slook]

@[simp] theorem wrByte_marks (m : HostMem) (a : Nat) (v : Byte) : (wrByte m a v).marks = m.marks := rfl

@[simp] theorem wrBytes_marks (m : HostMem) (a : Nat) (bs : List Byte) : (wrBytes m a bs).marks = m.marks := by
  induction bs generalizing m a with
  | nil => rfl
  | cons b bs ih => exact ih _ _

@[simp] theorem wrFree_marks (m : HostMem) (a n : Nat) : (wrFree m a n).marks = m.marks := by
  induction n generalizing m a with
  | zero => rfl
  | succ n ih => exact ih _ _

end Sys2Proof.Machine
end

