-- ==== Sys2Proof/Rom.lean ====
section
/-! DEFINITION. What the spec promises of the function tables whose words it does not list (R233, R235), as properties of
`Config.tableWord`. No meaning uses them, and no statement of Certificates/ takes them as a premise: a claim about results of
the pipes that needs more than R230 may take them (log entry 7). -/

namespace Sys2Proof.Machine

/-- The value of a finite number. -/
def FVal.rat : FVal → ℚ
  | .fin n m e => (if n then -1 else 1) * (m : ℚ) * (2 : ℚ) ^ e
  | _ => 0

/-- The reduced argument of a primitive (Table 09.1), for a finite argument of its domain. -/
def reduced (p : Prim) (neg : Bool) (m : Nat) (e : Int) : FVal :=
  match p with
  | .exp2 => quiet (exactAdd (.fin neg m e) (ofInt (-floorVal neg m e)))
  | .log2 =>
    let l := floorLog2 m e
    .fin false m (e - (if leF (.fin false 3 (l - 1)) (.fin false m e) then l + 1 else l))
  | .recip => .fin false m (e - floorLog2 m e)
  | .rsqrt => .fin false m (e - 2 * (floorLog2 m e / 2))
  | .tanhS => .fin false m e

/-- A primitive whose values rise with the argument (Table 09.2). -/
def Prim.rises : Prim → Bool
  | .recip | .rsqrt => false
  | _ => true

/-- `x` lies in segment `sg` of a primitive (R230). -/
def inSegment (p : Prim) (sg : Nat) (x : FVal) : Prop :=
  sg < segCount p ∧ (knotAt p sg).rat ≤ x.rat ∧ x.rat < (knotAt p (sg + 1)).rat

/-- `x` is what the reduction of primitive `p` produces from some F32 argument. -/
def isReduced (p : Prim) (x : FVal) : Prop :=
  ∃ (c : BitVec 32) (n : Bool) (m : Nat) (e : Int), decodeF .f32 c.toNat = .fin n m e ∧ m ≠ 0 ∧ x = reduced p n m e

/-- R233: before the clamp the polynomial of a segment is monotone in the primitive's direction over every reduced argument
that an F32 argument can produce. -/
def RomMonotone : Prop :=
  ∀ (p : Prim) (sg : Nat) (x y : FVal), isReduced p x → isReduced p y → inSegment p sg x → inSegment p sg y →
    x.rat ≤ y.rat →
    if p.rises then leF (horner p sg (segVar p sg x)) (horner p sg (segVar p sg y)) = true
    else leF (horner p sg (segVar p sg y)) (horner p sg (segVar p sg x)) = true

/-- `y` is the exact value at `x` of the function with this code (Table 09.3). -/
def IsExact (code : Nat) (x y : ℝ) : Prop :=
  match code with
  | 2 => y = x / (1 + Real.exp (-(2 * Real.sqrt (2 / Real.pi) * (x + 0.044715 * x ^ 3))))
  | 3 => y = x / (1 + Real.exp (-x))
  | 4 => y = 1 / (1 + Real.exp (-x))
  | 5 => y = Real.tanh x
  | 6 => y = Real.exp x
  | 7 => 0 < x ∧ y = Real.log x
  | 8 => x ≠ 0 ∧ y = 1 / x
  | 9 => 0 < x ∧ y = 1 / Real.sqrt x
  | 10 => y = (2 : ℝ) ^ x
  | 11 => 0 < x ∧ y = Real.logb 2 x
  | _ => False

/-- `z` is less than one unit in the last place of format `f` away from `y`. -/
def withinUlp (f : Flt) (z y : ℝ) : Prop :=
  ∃ e : ℤ, |y| < (2 : ℝ) ^ (e + 1) ∧ ((2 : ℝ) ^ e ≤ |y| ∨ e = 1 - f.bias) ∧ |z - y| < (2 : ℝ) ^ (max e (1 - f.bias) - f.fb)

/-- R235: a result that is neither flushed nor out of range differs from the exact value by less than one unit in the last
place of the format it is written in. -/
def RomAccurate : Prop :=
  ∀ (code : Nat) (f : Flt) (k : Cvt) (c : BitVec 32) (y : ℝ), f ≠ .f16 →
    let v := decodeF .f32 c.toNat
    let r := (fnApply false code v >>= convert k f) {}
    v.notFin = false → r.2.flush = 0 → r.2.oor = 0 → IsExact code (v.rat : ℝ) y →
    withinUlp f ((decodeF f r.1).rat : ℝ) y

end Sys2Proof.Machine
end

