-- ==== Sys2Proof/WellFormed.lean ====
section
/-! DEFINITION. Which commands and events can occur: every number that names a queue, a tag, a port, a register or
a table entry is in range (Tables 02.1, 04.1 and 17.1). -/

namespace Sys2Proof

/-- One of the 64 queues (R79). -/
def isQueue (q : Nat) : Bool := decide (q < 64)

/-- A value of TAG (Table 04.1). -/
def isTag (tag : Nat) : Bool := decide (tag < 512)

/-- One of the six fabric ports (R297). -/
def isPort (n : Nat) : Bool := decide (n < 6)

/-- The command or event is well formed. -/
def Instr.wf : Instr → Bool
  | .powerOkFall => true
  | .coldResetAssert => true
  | .coldResetRelease _ => true
  | .pllLock => true
  | .fuseLoad => true
  | .sramInit => true
  | .bootFetch => true
  | .bootVerify => true
  | .fwInit => true
  | .warmResetPin => true
  | .glbResetWarm _ => true
  | .glbResetReboot _ _ => true
  | .warmDrainEnd => true
  | .warmInitEnd => true
  | .doorbellLine line _ _ _ => decide (line < 16)
  | .csrWrite idx _ _ _ => decide (idx < 2 ^ 17)
  | .clearingRead idx _ _ => decide (idx < 2 ^ 17)
  | .glbIfaceSelWrite _ _ => true
  | .queueEnable q _ _ => isQueue q
  | .queueDisable q _ _ => isQueue q
  | .queueAbort q _ _ => isQueue q
  | .cqSbaseWrite q _ _ => isQueue q
  | .cqFlagsetSet _ _ => true
  | .cqFlagsetClear _ _ => true
  | .ctxGrant _ _ => true
  | .rotaEntryWrite i b j _ _ => decide (i < 64) && decide (b < 2) && decide (j < 32)
  | .rotaCommit _ _ => true
  | .rotaSwitch i => decide (i < 64)
  | .shedInit i _ _ => decide (i < 8)
  | .shedInitDone i => decide (i < 8)
  | .wqReset _ _ => true
  | .wqResetDone w => decide (w < 4)
  | .groupEnable g _ _ => decide (g < 64)
  | .groupDisable g _ _ => decide (g < 64)
  | .fabIdWrite _ _ => true
  | .routeSnapshot _ => true
  | .ownerTableGenChange _ _ => true
  | .portEnable n _ => isPort n
  | .portDisable n _ => isPort n
  | .portDrainEnd n => isPort n
  | .pmcXselWrite _ _ => true
  | .pmcChainRead i _ => decide (i < 256)
  | .detTdcCountRead _ _ => true
  | .bwWindowEnd => true
  | .fwUpdateLoad _ => true
  | .fwUpdateLoadDone => true
  | .fwUpdateVerifyDone => true
  | .fwUpdateGo _ => true
  | .aclkStepUp => true
  | .commandAdmit => true
  | .completionRecordWrite q => isQueue q
  | .mpReadBeat port tag _ _ _ => decide (port < 16) && decide (tag < 256)
  | .mpWriteAck port tag _ => decide (port < 16) && decide (tag < 128)
  | .nop q tag => isQueue q && isTag tag
  | .waitConsume q tag => isQueue q && isTag tag
  | .waitObserve q tag => isQueue q && isTag tag
  | .signalSet q tag => isQueue q && isTag tag
  | .signalClear q tag => isQueue q && isTag tag
  | .ctxopen q tag => isQueue q && isTag tag
  | .ctxclose q tag => isQueue q && isTag tag
  | .contextDrainEnd c => decide (c < 16384)
  | .ctxloadLoad q tag => isQueue q && isTag tag
  | .ctxloadSwap q tag => isQueue q && isTag tag
  | .ctxloadRelease q tag => isQueue q && isTag tag
  | .score q tag _ => isQueue q && isTag tag
  | .scorev q tag _ => isQueue q && isTag tag
  | .hashsel q tag => isQueue q && isTag tag
  | .rgrad q tag _ => isQueue q && isTag tag
  | .ticketGrant => true
  | .count q tag => isQueue q && isTag tag
  | .plan q tag _ => isQueue q && isTag tag
  | .sort q tag _ => isQueue q && isTag tag
  | .wqRefill w cls _ => decide (w < 4) && decide (cls < 4)
  | .gather q tag _ => isQueue q && isTag tag
  | .scatter q tag _ => isQueue q && isTag tag
  | .copy q tag _ => isQueue q && isTag tag
  | .xpose q tag _ => isQueue q && isTag tag
  | .sendForward q tag => isQueue q && isTag tag
  | .sendBackward q tag => isQueue q && isTag tag
  | .sendHoldRelease q tag => isQueue q && isTag tag
  | .sendItem _ _ => true
  | .rowArrival _ => true
  | .rowPlanTimeout cls => decide (cls < 4)
  | .dackReceive _ => true
  | .ret q tag => isQueue q && isTag tag
  | .returnHoldRelease q tag => isQueue q && isTag tag
  | .returnItem _ => true
  | .answerArrival _ _ => true
  | .combineForward q tag => isQueue q && isTag tag
  | .combineBackward q tag => isQueue q && isTag tag
  | .cancel q tag => isQueue q && isTag tag
  | .useRelease => true
  | .stallTimeout q tag => isQueue q && isTag tag
  | .act q tag _ => isQueue q && isTag tag
  | .norm q tag _ => isQueue q && isTag tag
  | .softmax q tag _ => isQueue q && isTag tag
  | .alloc q tag => isQueue q && isTag tag
  | .free q tag => isQueue q && isTag tag
  | .shedWaitTimeout q tag => isQueue q && isTag tag
  | .shedCacheRefill i => decide (i < 8)
  | .shedCacheWriteback i => decide (i < 8)
  | .allreduce q tag => isQueue q && isTag tag
  | .redscat q tag => isQueue q && isTag tag
  | .allgather q tag => isQueue q && isTag tag
  | .xscan q tag => isQueue q && isTag tag
  | .cairn q tag => isQueue q && isTag tag
  | .collMessage _ => true
  | .signatureMessage => true
  | .abortNotice => true
  | .cairnMarker port g _ => isPort port && decide (g < 64)
  | .cairnRelease g => decide (g < 64)
  | .phyRdyRise n => isPort n
  | .phyRdyFall n => isPort n
  | .laneReport n _ _ => isPort n
  | .identityExchange n _ => isPort n
  | .calComplete n _ _ => isPort n
  | .trainingTimeout n => isPort n
  | .portRetrain n => isPort n
  | .flitReceive n f => isPort n && decide (f.payload.length = 352)
  | .nakReplay n ack => isPort n && decide (ack < 4096)
  | .linkLossTimeout n => isPort n
  | .linkDownFlit n => isPort n
  | .laneOkFall n lane => isPort n && decide (lane < 32)
  | .laneErrorLimit n lane => isPort n && decide (lane < 32)
  | .laneRetireFlit n lane => isPort n && decide (lane < 32)
  | .messageForward => true
  | .detourTimeout => true
  | .unreachReceive => true
  | .dpRequest port _ _ _ _ _ => decide (port < 4)
  | .dpFence port => decide (port < 4)
  | .dpreqReceive => true
  | .dprspReceive => true
  | .dpTimeout id => decide (id < 2 ^ 16)
  | .placeStep q tag => isQueue q && isTag tag
  | .placeEnrol q tag => isQueue q && isTag tag
  | .placeLeave q tag => isQueue q && isTag tag
  | .migrateList q tag => isQueue q && isTag tag
  | .migrateGsum q tag => isQueue q && isTag tag
  | .migrCopyPiece => true
  | .migrAck => true
  | .migrGsumMessage _ => true
  | .migrState => true
  | .migrListMessage => true
  | .members q tag => isQueue q && isTag tag
  | .placementTimeout q tag => isQueue q && isTag tag
  | .sampleArm q tag => isQueue q && isTag tag
  | .sampleDrain q tag => isQueue q && isTag tag
  | .sampleStop q tag => isQueue q && isTag tag
  | .sampleXdump q tag => isQueue q && isTag tag
  | .goLine line => decide (line < 16)
  | .sensorSample temps volts => decide (temps.length = 16) && decide (volts.length = 32)
  | .thermalStepDown => true
  | .thermalStepUp => true
  | .droopAlarm sensor => decide (sensor < 24)
  | .droopClear => true
  | .logFlush => true
  | .ceWindowCheck => true
  | .watchdogExpiry => true
  | .readStatus _ => true
  | .readLog _ _ => true
  | .writeImage _ _ => true
  | .commitImage _ => true
  | .idcode => true
  | .bypass code => !([0x01, 0x20, 0x21].contains code.toNat)
  | .wsExtest _ => true
  | .wsIntestScan => true
  | .wsMbist => true
  | .wsBypass => true
  | .warmResetRelease => true
  | .clockStop => true
  | .firmwareRestartDone => true
  | .tapReset => true
  | .illegalOpcode q tag => isQueue q && isTag tag

end Sys2Proof
end

