-- ==== Sys2Proof/Tests/Slice0.lean ====
section
/-! SUPPORT. Tests of the model: the ill-formed commands that WellFormed refuses, single steps whose expected results are
taken from the chapters of the spec, and for each statement concrete states and operands that meet its hypotheses. -/

namespace Sys2Proof.Tests

open Sys2Proof.Machine

set_option Elab.async false

/-! ## Small states -/

/-- An entry of a rota table whose slot `m` has owner code 8j + m (R109). -/
def codes8 (j : Nat) : Nat := (List.range 8).foldl (fun a m => a + (8 * j + m) * 2 ^ (8 * m)) 0

/-- The first `n` entries of bank 0 of rota instance `i`, so filled. -/
def rota (i n : Nat) : List (Nat × Nat) := (List.range n).map (fun j => (oRota i 0 j, codes8 j))

/-- The registers of the test states: queue 0 is a supervisor queue and enabled, the rota tables give every owner a slot,
the Sheds are enabled, the function tables match. -/
def csrBase : List (Nat × Nat) :=
  [(0x10000, 3)] ++ rota 0 1 ++ rota 1 1 ++ rota 2 1 ++ rota 3 1 ++ rota 8 3 ++ rota 9 3 ++ rota 16 9 ++ rota 32 9 ++
  (List.range 12).flatMap (fun i => rota (40 + i) 4) ++
  [(0x50038, 2 ^ 63), (0x70000, 0x10000), (0x70008, 0x100000), (0x70010, 64 * 2 ^ 32 + 1),
   (0x70040, 0x20000), (0x70048, 0x200000), (0x70050, 64 * 2 ^ 32 + 1)]

/-- Context 1: OPEN, EXPERTS 4, K 2, D 8, of group 0, with a ROUTE. -/
def ctx1 (route : Nat) : Ctx := { st := .open, epoch := 1, pb := [4 + 2 * 2 ^ 16 + 8 * 2 ^ 32 + route * 2 ^ 48, 1, 5, 7] }

/-- The engine in READY with these commands in flight. -/
def base (cs : List Cmd) : State :=
  { glb := { boot := .ready, straps := { mplvl := 2, mpen := 0xFFFF, bootsrc := false, bootwin := 0, jtagMfr := 0, testmode := false } }
    csr := csrBase, front := { inflight := cs }, ctxs := [(1, ctx1 0)] }

/-- A command of queue 0, TAG 1, context 1. -/
def cmd (opc subop a b c : Nat) : Cmd := { opc := opc, subop := subop, ctx := 1, tag := 1, a := a, b := b, c := c }

/-- The next state of a command meets `p`. -/
def goes (i : Instr) (s : State) (p : State → Bool) : Bool :=
  match exec i s with
  | .next t => p t
  | _ => false

/-- Status, detail and result of a finished command. -/
def outcome (t : State) (q tag : Nat) : Option (Nat × Nat × Nat) :=
  (findCmd t q tag).bind (fun c => match c.st with
    | .finished r => some (r.status, r.detail, r.result)
    | _ => none)

/-- The engine at this stage of bring-up or reset. -/
def inBoot (b : BootState) : State := { base [] with glb := { (base []).glb with boot := b } }

/-- The test state with a change of its management subsystem. -/
def withMgt (m : Mgt) : State := { base [] with mgt := m }

/-- A tensor descriptor as a number: base address, type code, sizes, row stride in units of 64 bytes (Table 07.1). -/
def desc (addr ety : Nat) (sizes : List Nat) (stride : Nat) : Nat :=
  addr + ety * 2 ^ 64 + sizes.length * 2 ^ 68 + nth sizes 0 * 2 ^ 128 + nth sizes 1 * 2 ^ 160 + stride * 2 ^ 320

/-- A live use of context 1 and batch ID 0 with one token and two choices, in entry 0. -/
def use0 : Use := { ctx := 1, cepoch := 1, k := 2, d := 8, t := 1 }

/-- The test state with group 0 enabled, these uses and these commands in flight. -/
def withUses (us : List Use) (cs : List Cmd) : State :=
  { base cs with col := { grps := [(0, { en := true })] }, disp := { uses := us } }

/-- `n` bytes at address `a` that hold the number `v`. -/
def poke (s : State) (a n v : Nat) : State := { s with mem := wrBytes s.mem a (leBytes n v) }

/-! ## Witnesses: for each statement with hypotheses, states and operands that meet them -/

/-- A witness for the statements about states that keep the invariant. -/
theorem wit_inv : Inv (base []) ∧ Inv State.reset := by decide +kernel

/-- Obligations.StepTakesFront. -/
theorem wit_StepTakesFront : ({ base [] with pending := [.nop 0 1] } : State).pending = .nop 0 1 :: [] := by decide +kernel

/-- Obligations.IdleCountsTime: in READY, and in cold reset. -/
theorem wit_IdleCountsTime :
    (Served (base []) ∧ (base []).pending = [] ∧ timeRuns (base []) = true) ∧
    (Served State.reset ∧ State.reset.pending = [] ∧ timeRuns State.reset = false) := by decide +kernel

/-- Obligations.StepKeepsInv and Obligations.CommandsLeaveQueue. -/
theorem wit_StepKeepsInv : Inv { base [cmd 0 0 0 0 0] with pending := [.nop 0 1] } ∧
    (∃ t, step { base [cmd 0 0 0 0 0] with pending := [.nop 0 1] } = .next t) ∧
    (∃ t, exec (.nop 0 1) (base [cmd 0 0 0 0 0]) = .next t) := ⟨by decide +kernel, ⟨_, rfl⟩, ⟨_, rfl⟩⟩

/-- A state whose service WS_MBIST has ended. -/
def noServ : State := { base [] with test := { noService := true } }

/-- Obligations.ServiceGates. -/
theorem wit_ServiceGates : (noServ.test.noService = true ∧ functional (.nop 0 1) = true) ∧
    (Instr.tapReset ≠ .powerOkFall ∧ Instr.tapReset ≠ .coldResetAssert ∧
      goes .tapReset noServ (fun t => t.test.noService) = true) ∧
    (Served State.reset ∧ isReady State.reset = false ∧ unitWork (.nop 0 1) = true) ∧
    (Served (inBoot .warmDrain) ∧ isReady (inBoot .warmDrain) = false ∧ (inBoot .warmDrain).glb.boot ≠ .coldReset) := by
  decide +kernel

/-- Obligations.ColdReset. -/
theorem wit_ColdReset : State.reset.glb.boot = .coldReset ∧ (base []).glb.boot ≠ .coldReset := by decide +kernel

/-- The first 416 bytes of an image of 512: MAGIC, LEN, FWVER 3, PLEVEL 2, and as its key the base point of P-384 (R379). -/
def imgHead : List Byte :=
  leBytes 8 (0x3358444B + 512 * 2 ^ 32) ++ leBytes 56 (3 + 2 * 2 ^ 32) ++ 4#8 :: (leBytes 48 ecG.1).reverse ++
  (leBytes 48 ecG.2).reverse ++ List.replicate 255 0#8
/-- That image with its signature under the private key 1, made outside the model. -/
@[irreducible] def goodImg : List (Nat × Byte) := sparseOf (imgHead ++ (leBytes 48 ecG.1).reverse ++ (leBytes 48
  0x9FED91A065BE77412C27FC4CA54694E5285CA21AA4FADFCC11CAB43D6A61C45870B7247728DD09A3E0C832FD438E260C).reverse)
/-- Fuses that hold the digest of its key (SHA-384 computed outside the model). -/
@[irreducible] def keyFuses : Fuses :=
  { keyDig := [0xEDF9B71224264F8C, 0xE50D135A70067686, 0x388CAFFB48D02F21, 0xA05BB4F440A2F442, 0x3EDACD4C19820FC9, 0x1DD5E1AFB0969CD8] }
/-- R380: the image passes every test. -/
theorem test_imagePasses : verifyCode keyFuses none goodImg = 0 := by decide +kernel

/-- A stage of bring-up with these fuses in the block, these in force, an image fetched. -/
def bring (b : BootState) (blk inForce : Fuses) (img : List (Nat × Byte)) : State :=
  { inBoot b with glb := { (inBoot b).glb with fuseBlock := blk, fuses := inForce, fetched := img } }
/-- A fuse block whose CRC is the one stored in it. -/
def crcFuses : Fuses := { crc := (Config.fuseCrc (fuseFields {})).toNat }

theorem bring_image (b : BootState) (f : Fuses) : verifyCode (bring b f keyFuses goodImg).glb.fuses
    (bring b f keyFuses goodImg).glb.committed (bring b f keyFuses goodImg).glb.fetched = 0 := by
  rw [show (bring b f keyFuses goodImg).glb.fuses = keyFuses from rfl,
    show (bring b f keyFuses goodImg).glb.committed = none from rfl,
    show (bring b f keyFuses goodImg).glb.fetched = goodImg from rfl]
  exact test_imagePasses

/-- Straps with MPLVL 2 and all MP ports enabled, and with MPLVL 0, which is bad (Table 02.5). -/
def straps (lvl : BitVec 2) : Straps := { (base []).glb.straps with mplvl := lvl }
/-- A stage of bring-up with these straps. -/
def strapped (b : BootState) (p : Straps) (upd : Bool) : State :=
  { inBoot b with glb := { (inBoot b).glb with straps := p, fromStaging := upd } }

/-- Obligations.BringUp. -/
theorem wit_BringUp :
    (Served (inBoot .pllLock) ∧ (inBoot .pllLock).glb.boot = .pllLock ∧ strapsBad (inBoot .pllLock).glb.straps = false) ∧
    (Served (strapped .pllLock (straps 0) false) ∧ strapsBad (strapped .pllLock (straps 0) false).glb.straps = true) ∧
    (Served (inBoot .sramInit) ∧ (inBoot .sramInit).glb.boot = .sramInit) ∧
    (Served (inBoot .bootFetch) ∧ (inBoot .bootFetch).glb.boot = .bootFetch ∧ (inBoot .bootFetch).glb.fromStaging = false ∧
      (inBoot .bootFetch).glb.straps.bootsrc = false ∧ (fetchImage (inBoot .bootFetch) 0).isSome = true) ∧
    (Served { inBoot .bootFetch with mem := { marks := [(0, { rdErr := true })] } } ∧
      fetchImage { inBoot .bootFetch with mem := { marks := [(0, { rdErr := true })] } } 0 = none) ∧
    (Served (strapped .bootFetch (straps 2) true) ∧ (strapped .bootFetch (straps 2) true).glb.fromStaging = true) ∧
    (Served (inBoot .bootVerify) ∧ (inBoot .bootVerify).glb.boot = .bootVerify ∧
      verifyCode (inBoot .bootVerify).glb.fuses (inBoot .bootVerify).glb.committed (inBoot .bootVerify).glb.fetched ≠ 0) ∧
    (Served (inBoot .fwInit) ∧ Inv (inBoot .fwInit) ∧ (inBoot .fwInit).glb.boot = .fwInit) := by decide +kernel

/-- Obligations.BringUp: fuses with their own CRC and with another, and an image that passes every test. -/
theorem wit_BringUpEnds :
    (Served (bring .fuseLoad crcFuses {} []) ∧ fusesOk (bring .fuseLoad crcFuses {} []).glb.fuseBlock = true) ∧
    fusesOk (bring .fuseLoad { crcFuses with crc := crcFuses.crc + 1 } {} []).glb.fuseBlock = false ∧
    (Served (bring .bootVerify {} keyFuses goodImg) ∧
      verifyCode (bring .bootVerify {} keyFuses goodImg).glb.fuses (bring .bootVerify {} keyFuses goodImg).glb.committed
        (bring .bootVerify {} keyFuses goodImg).glb.fetched = 0) := by
  refine ⟨⟨by decide +kernel, ?_⟩, ?_, by decide +kernel, bring_image .bootVerify {}⟩
  · exact beq_self_eq_true (Config.fuseCrc (fuseFields {})).toNat
  · exact beq_eq_false_iff_ne.mpr (Nat.ne_of_lt (Nat.lt_succ_self (Config.fuseCrc (fuseFields {})).toNat))

/-- A warm drain with DX_WRST_N low, and one that has ended. -/
def drain (low done : Bool) : State :=
  { base [] with glb := { (base []).glb with boot := .warmDrain, wrstLow := low, drained := done } }

/-- Obligations.WarmReset and Obligations.RebootOverridesWarm. -/
theorem wit_WarmReset :
    (Served (base []) ∧ isReady (base []) = true ∧ (base []).glb.boot ≠ .coldReset) ∧
    (Served (inBoot .warmInit) ∧ (inBoot .warmInit).glb.boot = .warmInit) ∧
    (Served (drain true false) ∧ (drain true false).glb.boot = .warmDrain ∧ (drain true false).glb.wrstLow = true) ∧
    (Served (drain false false) ∧ (drain false false).glb.boot = .warmDrain ∧ (drain false false).glb.wrstLow = false) ∧
    (Inv (drain false false) ∧ Inv (drain true true) ∧ (drain true true).glb.boot = .warmDrain ∧
      (drain true true).glb.drained = true) := by decide +kernel

/-- Obligations.TestPort. -/
theorem wit_TestPort : (strapped .ready { straps 2 with testmode := true } false).glb.straps.testmode = true ∧
    (base []).glb.straps.testmode = false ∧ (0x00#8) ≠ 0x01#8 ∧ (0x00#8) ≠ 0x20#8 ∧ (0x00#8) ≠ 0x21#8 ∧ (0xFF#8) ≠ 0x21#8 := by decide +kernel

/-- Obligations.Environment. -/
theorem wit_Environment :
    (Served (base []) ∧ fwRuns (base []) = true ∧ (base []).mgt.thermal = false ∧
      (base []).mgt.temps.all (fun x => decide (x ≤ thClear (base []))) = true) ∧
    (fwRuns (withMgt { thermal := true }) = true ∧ (withMgt { thermal := true }).mgt.thermal = true) ∧
    ((base []).glb.boot ≠ .coldReset ∧ (base []).mgt.droop = false) ∧
    (Served (withMgt { droop := true }) ∧ (withMgt { droop := true }).mgt.droop = true) ∧
    (Served (withMgt { cur := 7 }) ∧ (withMgt { cur := 7 }).glb.boot ≠ .coldReset ∧
      (withMgt { cur := 7 }).mgt.cur < aclkTarget (withMgt { cur := 7 })) := by decide +kernel

/-- A log entry that waits for its ring in host memory. -/
def logged : State := csrPut (withMgt { next := 1 }) 0xD0018 0x4000

/-- Obligations.LogAndWatchdog. -/
theorem wit_LogAndWatchdog :
    (Served logged ∧ fwRuns logged = true ∧ isReady logged = true ∧ logBase logged ≠ 0 ∧ logPending logged ≠ 0 ∧
      holdsMp logged 0x3C = true ∧ wrBad logged.mem ((logBase logged + 32 * (logged.mgt.flushed % 2 ^ clampN 8 24 (csrField logged 0xD0020 0 5))) % 2 ^ 42)
        32 = false) ∧
    (Served (withMgt { restarting := true }) ∧ (withMgt { restarting := true }).mgt.restarting = true ∧
      imageIntact (withMgt { restarting := true }) = false) ∧
    imageIntact { withMgt { restarting := true } with glb := { (base []).glb with image := { digest := sha384 [] } } } = true := by
  decide +kernel

/-- The state in which an image update loads; with an image window whose reads fail. -/
def updLoad (bad : Bool) : State :=
  { withMgt { upd := 1 } with mem := { marks := if bad then [(0, { rdErr := true })] else [] } }

/-- Obligations.Management. -/
theorem wit_Management :
    (Served (base []) ∧ (base []).glb.boot ≠ .coldReset ∧ updBusy (base []) = false ∧ fwRuns (base []) = true) ∧
    (updBusy (updLoad false) = true ∧ (updLoad false).mgt.upd = 1 ∧
      holdsMp (updLoad false) 0x3C = true ∧ (fetchImage (updLoad false) (csrField (updLoad false) 0xD0008 6 36 * 64)).isSome = true) ∧
    ((updLoad true).mgt.upd = 1 ∧ fetchImage (updLoad true) (csrField (updLoad true) 0xD0008 6 36 * 64) = none) ∧
    ((withMgt { upd := 2 }).mgt.upd = 2 ∧
      verifyCode (withMgt { upd := 2 }).glb.fuses (withMgt { upd := 2 }).mgt.committed (stagedImage (withMgt { upd := 2 })) ≠ 0 ∧
      (withMgt { upd := 2 }).mgt.force = false) ∧
    ((withMgt { upd := 3 }).mgt.upd = 3 ∧ (withMgt { upd := 3 }).glb.boot ≠ .coldReset) ∧
    (mgAnswers (base []) = true ∧ (base []).mgt.restarting = false ∧ mgAnswers State.reset = false) ∧
    (Inv (base []) ∧ mgImages (base []) = true ∧ 0 + [0x44#8].length ≤ stagingSize) ∧
    (mgImages (strapped .bootFetch { straps 2 with bootsrc := true } false) = true ∧
      isReady (strapped .bootFetch { straps 2 with bootsrc := true } false) = false) := by decide +kernel

/-- An update whose image passes, with FORCE or without. -/
def updGood (force : Bool) : State :=
  { bring .ready {} keyFuses [] with mgt := { upd := 2, staging := goodImg, force := force } }

/-- Obligations.Management: such an update. -/
theorem wit_UpdatePasses : ∀ force : Bool, Served (updGood force) ∧ fwRuns (updGood force) = true ∧
    (updGood force).mgt.upd = 2 ∧ (updGood force).mgt.force = force ∧
    verifyCode (updGood force).glb.fuses (updGood force).mgt.committed (stagedImage (updGood force)) = 0 := by
  intro force
  refine ⟨by cases force <;> decide +kernel, by cases force <;> decide +kernel, rfl, rfl, ?_⟩
  rw [show (updGood force).glb.fuses = keyFuses from rfl, show (updGood force).mgt.committed = none from rfl,
    show stagedImage (updGood force) = goodImg from rfl]
  exact test_imagePasses

/-- Obligations.RegisterWrites: MGT_CE_CTL, an offset that is not mapped, a unit's register before READY. -/
theorem wit_RegisterWrites :
    (Inv (base []) ∧ access (base []) (8 * 0x1A00D) true true = .taken ∧ (regInfo (8 * 0x1A00D)).isSome = true ∧
      ownRule (8 * 0x1A00D) = false) ∧
    access (base []) (8 * 0x1FFFF) true true = .refused ∧ access (base []) (8 * 0x1FFFF) true false = .refused ∧
    ((inBoot .fwInit).glb.boot ≠ .coldReset ∧ isReady (inBoot .fwInit) = false ∧ (0x10000 ≤ 0x40008 ∧ 0x40008 < 0xD0000)) := by
  decide +kernel

/-- Obligations.ClearingReads: CQ_DBLSET, a chained pair, DET_TDC_COUNT. -/
theorem wit_ClearingReads :
    (access (base []) (8 * 0x2811) true false = .taken ∧ (regInfo (8 * 0x2811)).any (fun r => r.rc != 0) = true ∧
      8 * 0x2811 ≠ 0xE0008) ∧
    (Inv (csrPut (base []) (oPmcCfg 254) (2 ^ 62 + 0x0F000000)) ∧
      bit (csrGet (csrPut (base []) (oPmcCfg 254) (2 ^ 62 + 0x0F000000)) (oPmcCfg 254)) 62 = true ∧
      access (csrPut (base []) (oPmcCfg 254) (2 ^ 62 + 0x0F000000)) (oPmcCnt 254) true false = .taken) ∧
    access (base []) 0xE0008 true false = .taken := by decide +kernel

/-- Obligations.QueueControl. -/
theorem wit_QueueControl :
    (Working (base []) ∧ Inv (base [])) ∧ ((63 : Nat) < 64 ∧ bit (1#64).toNat 2 = false) ∧
    ((base [cmd 0 0 0 0 0]).front.inflight.map (fun c => (c.q, c.tag))).Nodup ∧
    qBusy (base []) 0 = true ∧ qBusy (base []) 63 = false := by decide +kernel

/-- A consuming WAIT on flag 5 that waits. -/
def waiter : Cmd := { cmd 0x04 0 5 0 0 with st := .waitFlag 5 }

/-- Flag 5 set. -/
def flagged : State := { base [] with front := { flags := flagPut 0#1024 5 true } }

/-- Go line 15 mapped to flag 5. -/
def goMapped : State := csrPut (base []) (0x14200 + 8 * 15) (2 ^ 10 + 5)

/-- Obligations.FlagsByRegister. -/
theorem wit_FlagsByRegister :
    (Working (base []) ∧ flagOf (base []) (5#10).toNat = false ∧
      ∀ c ∈ (base []).front.inflight, c.st ≠ .waitFlag (5#10).toNat) ∧
    (Working (base [waiter]) ∧ flagOf (base [waiter]) (5#10).toNat = false ∧ findCmd (base [waiter]) 0 1 = some waiter ∧
      ((base [waiter]).front.inflight.map (fun x => (x.q, x.tag))).Nodup ∧
      (base [waiter]).front.inflight.find? (waitsOn (5#10).toNat true) = some waiter) ∧
    (Working flagged ∧ Inv flagged ∧ flagOf flagged (5#10).toNat = true) ∧
    (Working goMapped ∧ bit (csrGet goMapped (0x14200 + 8 * 15)) 10 = true ∧
      flagOf goMapped (csrField goMapped (0x14200 + 8 * 15) 0 10) = false ∧
      ∀ c ∈ goMapped.front.inflight, c.st ≠ .waitFlag (csrField goMapped (0x14200 + 8 * 15) 0 10)) := by decide +kernel

/-- A port that is UP. -/
def portUpState (n : Nat) : State := { base [] with fab := { ports := [(n, { st := 5, phyRdy := true, ver := 2 })] } }

/-- Obligations.RegistersWithEffects. -/
theorem wit_RegistersWithEffects :
    (Working (base []) ∧ Inv (base []) ∧ bits (2 ^ 32 : BitVec 64).toNat 32 16 ≠ csrField (base []) 0xA0020 32 16 ∧
      fabIdle (base []) = true) ∧
    (Working (portUpState 0) ∧ fabIdle (portUpState 0) = false) := by decide +kernel

/-- A state in which these rota instances are pending. -/
def rotaPending (m : Nat) : State := { base [] with rotaPend := m }

/-- Obligations.RotaBanks: instance 0 and memory port 0, whose shadow banks have no 0x38 slot; a shadow bank that has one; a
pending instance. -/
theorem wit_RotaBanks :
    (Working (base []) ∧ Inv (base []) ∧ rotaUnused 63 = false ∧ bit (base []).rotaPend 63 = false) ∧
    (bit (base []).rotaPend 16 = false ∧ shadowHasBg (base []) 16 = false ∧ shadowHasBg (base []) 37 = false) ∧
    (Inv (csrPut (base []) (oRota 16 1 31) 0x38) ∧ shadowHasBg (csrPut (base []) (oRota 16 1 31) 0x38) 16 = true ∧
      rotaUnused 16 = false) ∧
    (Inv (csrPut (portUpState 5) (oRota 37 1 0) 0x38) ∧ shadowHasBg (csrPut (portUpState 5) (oRota 37 1 0) 0x38) 37 = true ∧
      (port (portUpState 5) (37 - 32)).phyRdy = true) ∧
    (Working (rotaPending 1) ∧ bit (rotaPending 1).rotaPend 0 = true) ∧
    (Working (rotaPending (2 ^ 63)) ∧ bit (rotaPending (2 ^ 63)).rotaPend 63 = true) := by decide +kernel

/-- A state with one NOP in the prefetch buffer of queue 0. -/
def fetched (q : Nat) : State :=
  { csrPut (base []) (oCqCtl q) 3 with front := { queues := [(q, { prefetch := [0] })] } }

/-- Obligations.Admission. -/
theorem wit_Admission :
    (Working (fetched 0) ∧ Inv (fetched 0) ∧ nextQueue (fetched 0) = some 0 ∧ (queue (fetched 0) 0).prefetch = 0 :: []) ∧
    (Working (fetched 63) ∧ Inv (fetched 63) ∧ nextQueue (fetched 63) = some 63 ∧
      (fetched 63).front.lastAdmit < 64 ∧ canAdmit (fetched 63) 63 = true) ∧
    (Working (base []) ∧ nextQueue (base []) = none) := by decide +kernel

/-- A finished NOP whose record is not written, and the same with its record on the way to memory. -/
def done1 : Cmd := { cmd 0 0 0 0 0 with st := .finished {} }
def finished1 (writing : Bool) : State :=
  { base [done1] with front := {
      inflight := [done1], queues := [(0, { done := [1], writing := writing })]
      writes := if writing then [{ port := 0, tag := 127, addr := 0, data := leBytes 32 0, use := .record 0 }] else [] } }

/-- A completion ring that is full: 16 records that the host has not read. -/
def full : State := { base [done1] with front := { inflight := [done1], queues := [(0, { done := [1], ctail := 16 })] } }

/-- Obligations.CompletionRecords. -/
theorem wit_CompletionRecords :
    (Working (finished1 false) ∧ (queue (finished1 false) 0).writing = false ∧ ringFull (finished1 false) 0 = false ∧
      nextRecord (finished1 false) 0 = some (done1, {}) ∧ mpPortFor (finished1 false) 0x08 = some 0 ∧
      freeWriteTag (finished1 false) 0 = some 0) ∧
    (Working full ∧ ringFull full 0 = true) ∧
    (Inv (finished1 true) ∧ oldTag (finished1 true) true 0 127 = false ∧
      writeOf (finished1 true) 0 127 =
        some { port := 0, tag := 127, addr := 0, data := leBytes 32 0, use := .record 0 } ∧
      nextRecord (finished1 true) 0 = some (done1, {})) := by decide +kernel

/-- An outstanding read for a fetch or a parameter block. -/
def rd0 (use : RdFor) : MpRead := { port := 15, tag := 255, addr := 0, len := 64, use := use }
def reading (use : RdFor) : State := { base [] with front := { reads := [rd0 use] } }

/-- A CTXOPEN that executes, whose zeros are on the way. -/
def opening : Cmd := { cmd 0x08 0 0 0 0 with st := .exec }
def zero0 : MpWrite := { port := 0, tag := 0, addr := 0, data := leBytes 48 0, use := .ctxZero 1 0 1 }
def zeroing : State :=
  { base [opening] with front := { inflight := [opening], writes := [zero0] }, ctxs := [(1, { ctx1 0 with st := .opening, zeroOut := 1 })] }

/-- A read that a warm drain left unanswered. -/
def lateRead : State := { base [] with front := { late := [(false, 0, 0)] } }

/-- Obligations.MemoryAnswers. -/
theorem wit_MemoryAnswers :
    (Working (reading (.fetch 0)) ∧ Inv (reading (.fetch 0)) ∧ oldTag (reading (.fetch 0)) false 15 255 = false ∧
      readOf (reading (.fetch 0)) 15 255 = some (rd0 (.fetch 0)) ∧ (rd0 (.fetch 0)).err = false ∧
      (rd0 (.fetch 0)).poison = false) ∧
    (Inv (reading (.ctxParam 1 0 1)) ∧ oldTag (reading (.ctxParam 1 0 1)) false 15 255 = false ∧
      readOf (reading (.ctxParam 1 0 1)) 15 255 = some (rd0 (.ctxParam 1 0 1))) ∧
    (Working zeroing ∧ oldTag zeroing true 0 0 = false ∧ writeOf zeroing 0 0 = some zero0 ∧
      findCmd zeroing 0 1 = some opening ∧ opening.st = .exec ∧ opening.waited = false ∧
      (ctx zeroing 1).zeroTodo = [] ∧ (ctx zeroing 1).zeroOut = 1) ∧
    (Working lateRead ∧ oldTag lateRead false 0 0 = true ∧ readOf lateRead 0 0 = none) ∧
    (oldTag (base []) false 0 0 = false ∧ readOf (base []) 0 0 = none ∧ oldTag (base []) true 0 0 = false ∧
      writeOf (base []) 0 0 = none) := by decide +kernel

/-- The test state with queue 0 as a user queue of job 2. -/
def user (cs : List Cmd) : State := csrPut (base cs) 0x10000 (2 ^ 49 + 1)

/-- Obligations.ChecksAtIssue. -/
theorem wit_ChecksAtIssue :
    (Working (base [cmd 0x01 0 0 0 0]) ∧ rowOf (.illegalOpcode 0 1) = some (0, 1, fun c => !opcodes.contains c.opc) ∧
      findCmd (base [cmd 0x01 0 0 0 0]) 0 1 = some (cmd 0x01 0 0 0 0) ∧ mayIssue (base [cmd 0x01 0 0 0 0]) (cmd 0x01 0 0 0 0) = true ∧
      issueCheck (base [cmd 0x01 0 0 0 0]) (cmd 0x01 0 0 0 0) = .refuse 0x3F 0x01) ∧
    (findCmd (base []) 0 1 = none) ∧ opcodes.contains 0xFF = false ∧
    (qSupv (user []) 0 = false ∧ (ctx (user []) 1).grant ≠ qJob (user []) 0 ∧ (ctx (user []) 1).st ≠ .closed ∧
      (ctx (user []) 1).job ≠ qJob (user []) 0) ∧
    (qSupv (base []) 0 = true ∧ (ctx (base []) 1).st = .open ∧ (ctx (base []) 2).st = .closed) ∧
    ((ctx { base [] with ctxs := [(1, { st := .draining })] } 1).st = .draining) ∧
    (coreCount (csrPut (base []) 0x40008 0x1F) = 0 ∧ (ctx (csrPut (base []) 0x40008 0x1F) 1).st = .open) := by
  refine ⟨⟨by decide +kernel, rfl, by decide +kernel, by decide +kernel, by decide +kernel⟩, ?_⟩
  decide +kernel

/-- A SIGNAL beside the WAIT that waits. -/
def signal (sub : Nat) : Cmd := { cmd 0x05 sub 5 0 0 with tag := 2 }

/-- Obligations.BasicInstructions. -/
theorem wit_BasicInstructions :
    Runs (base [cmd 0 0 0 0 0]) (cmd 0 0 0 0 0) 0x00 ∧
    (mayIssue (base [cmd 0xFF 0 0 0 0]) (cmd 0xFF 0 0 0 0) = true ∧ opcodes.contains (cmd 0xFF 0 0 0 0).opc = false) ∧
    (∀ sub ∈ [0, 1, 15], Runs { base [] with front := { inflight := [cmd 0x04 sub 5 0 0], flags := flagPut 0#1024 5 true } }
      (cmd 0x04 sub 5 0 0) 0x04 ∧ Runs (base [cmd 0x04 sub 5 0 0]) (cmd 0x04 sub 5 0 0) 0x04) ∧
    flagOf { base [] with front := { flags := flagPut 0#1024 5 true } } (absFlag (base []) 0 5) = true ∧
    flagOf (base []) (absFlag (base []) 0 5) = false ∧
    (∀ sub ∈ [0, 1, 15], Runs (base [signal sub]) (signal sub) 0x05) ∧
    (∀ x ∈ (base [signal 0]).front.inflight, x.st ≠ .waitFlag (absFlag (base [signal 0]) 0 5)) ∧
    (Runs (base [waiter, signal 0]) (signal 0) 0x05 ∧ KeysDistinct (base [waiter, signal 0]) ∧
      flagOf (base [waiter, signal 0]) 5 = false ∧
      (base [waiter, signal 0]).front.inflight.find? (waitsOn (absFlag (base [waiter, signal 0]) 0 5) true) = some waiter) := by
  decide +kernel

/-- A context that drains, and its CTXCLOSE. -/
def closer : Cmd := { cmd 0x09 0 0 0 0 with st := .exec }
def draining : State := { base [closer] with ctxs := [(1, { st := .draining })] }

/-- Obligations.Contexts. -/
theorem wit_Contexts :
    (Runs { base [cmd 0x08 0 64 128 0] with ctxs := [] } (cmd 0x08 0 64 128 0) 0x08 ∧
      canRead { base [cmd 0x08 0 64 128 0] with ctxs := [] } 0x08 = true) ∧
    (Issues { base [cmd 0x08 0 64 128 0] with ctxs := [], csr := [(0x10000, 3)] } (cmd 0x08 0 64 128 0) 0x08 ∧
      canRead { base [cmd 0x08 0 64 128 0] with ctxs := [], csr := [(0x10000, 3)] } 0x08 = false) ∧
    (Runs (base [cmd 0x09 0 0 0 0]) (cmd 0x09 0 0 0 0) 0x09 ∧ KeysDistinct (base [cmd 0x09 0 0 0 0])) ∧
    (Working draining ∧ Inv draining ∧ KeysDistinct draining ∧ drainer draining 1 = some closer ∧
      (ctx draining 1).st = .draining ∧ drainIdle draining 1 = true ∧ drainSlotted draining 1 = true) := by decide +kernel

/-- CTXLOADs of a tensor at 4096, of few rows and of a size that no slot holds. -/
def loadCmd (sub : Nat) : Cmd := cmd 0x0A sub 64 0 0
def loading (big : Bool) : State :=
  { poke (base [loadCmd 0]) 64 64 (desc 4096 1 [8, 4] 1) with
    ctxs := [(1, { ctx1 0 with pb := [(if big then 4096 else 4) + 2 * 2 ^ 16 + (if big then 32768 else 8) * 2 ^ 32, 1, 5, 7] })] }
def nextSet : State := { base [loadCmd 1] with ctxs := [(1, { ctx1 0 with next := some {} })] }

/-- Obligations.WeightSources. -/
theorem wit_WeightSources :
    (Runs (loading true) (loadCmd 0) 0x0A ∧ Quiet (loading true) ∧ (loadCmd 0).a ≠ 0 ∧ (loadCmd 0).b = 0 ∧ (loadCmd 0).c = 0 ∧
      2621440 < packedLines (descAt (loading true) (loadCmd 0) 64).ety (pbE (ctx (loading true) 1)) (pbD (ctx (loading true) 1)) * 64) ∧
    (Runs (loading false) (loadCmd 0) 0x0A ∧ Quiet (loading false) ∧ (descAt (loading false) (loadCmd 0) 64).dom = false ∧
      packedLines (descAt (loading false) (loadCmd 0) 64).ety (pbE (ctx (loading false) 1)) (pbD (ctx (loading false) 1)) * 64
        ≤ 2621440 ∧ loadSlot (loading false) 1 = some 0 ∧ 0 < (loading false).slots.length) ∧
    (Runs nextSet (loadCmd 1) 0x0A ∧ (ctx nextSet 1).next = some {}) ∧
    (Runs (base [loadCmd 2]) (loadCmd 2) 0x0A ∧ Quiet (base [loadCmd 2])) := by decide +kernel

/-- A selection instruction over two tokens of the context with this ROUTE, and with a descriptor of these rows. -/
def selCmd (opc : Nat) : Cmd := cmd opc 0 64 128 0
def selecting (opc route rows : Nat) : State :=
  { poke (base [selCmd opc]) 64 64 (desc 4096 1 [8, rows] 1) with ctxs := [(1, ctx1 route)] }

/-- A context without a current weight source has local weights. -/
theorem local_of_none (s : State) (c : Cmd) (h : (ctx s c.ctx).cur = none) : WeightsLocal s c := by
  intro w hw
  rw [h] at hw
  cases hw

/-- Obligations.SelectionStarts. -/
theorem wit_SelectionStarts :
    (Runs (selecting 0x10 3 2) (selCmd 0x10) 0x10 ∧ pbRoute (ctx (selecting 0x10 3 2) 1) = 3) ∧
    (Runs (csrPut (selecting 0x11 0 2) 0x50038 0) (selCmd 0x11) 0x11 ∧ tablesOk (csrPut (selecting 0x11 0 2) 0x50038 0) = false ∧
      pbRoute (ctx (csrPut (selecting 0x11 0 2) 0x50038 0) 1) ≠ 3) ∧
    (Runs (selecting 0x12 0 2) (selCmd 0x12) 0x12 ∧ pbRoute (ctx (selecting 0x12 0 2) 1) ≠ 3) ∧
    (Runs (selecting 0x12 3 (2 ^ 21)) (selCmd 0x12) 0x12 ∧ Quiet (selecting 0x12 3 (2 ^ 21)) ∧
      ringSize < (descAt (selecting 0x12 3 (2 ^ 21)) (selCmd 0x12) 64).rows * pbK (ctx (selecting 0x12 3 (2 ^ 21)) 1)) := by
  decide +kernel

/-- Obligations.SelectionStarts, the last clause. -/
theorem wit_HashselRuns : Runs (selecting 0x12 3 2) (selCmd 0x12) 0x12 ∧ Inv (selecting 0x12 3 2) ∧
    SelReady (selecting 0x12 3 2) (selCmd 0x12) ∧ pbRoute (ctx (selecting 0x12 3 2) 1) = 3 := by
  refine ⟨by decide +kernel, by decide +kernel, ⟨by decide +kernel, by decide +kernel, by decide +kernel, by decide +kernel,
    by decide +kernel, by decide +kernel, by decide +kernel, by decide +kernel, by decide +kernel,
    local_of_none _ _ (by decide +kernel)⟩, by decide +kernel⟩

/-- Obligations.Scoring. -/
theorem wit_Scoring : Inv (selecting 0x10 0 2) ∧ SelReady (selecting 0x10 0 2) (selCmd 0x10) ∧
    SelReady (selecting 0x11 0 2) (selCmd 0x11) ∧
    pbRoute (ctx (selecting 0x10 0 2) 1) ≠ 3 ∧ tablesOk (selecting 0x10 0 2) = true ∧
    Runs (selecting 0x10 0 2) (selCmd 0x10) 0x10 ∧ Runs (selecting 0x11 0 2) (selCmd 0x11) 0x11 := by
  refine ⟨by decide +kernel, ⟨by decide +kernel, by decide +kernel, by decide +kernel, by decide +kernel,
    by decide +kernel, by decide +kernel, by decide +kernel, by decide +kernel, by decide +kernel,
    local_of_none _ _ (by decide +kernel)⟩, ⟨by decide +kernel, by decide +kernel, by decide +kernel, by decide +kernel,
    by decide +kernel, by decide +kernel, by decide +kernel, by decide +kernel, by decide +kernel,
    local_of_none _ _ (by decide +kernel)⟩, by decide +kernel, by decide +kernel, by decide +kernel, by decide +kernel⟩

/-- Obligations.KeysAndHashes. -/
theorem wit_KeysAndHashes : ({ k := 2 } : SelCfg).ngrp < 2 ∧ 0 < 1 := by decide +kernel

/-- An RGRAD with its descriptors at 64 and 128 and its parameters at 192. -/
def rgCmd : Cmd := cmd 0x13 0 64 128 192
def rgState (route : Nat) : State :=
  { poke (poke (poke (base [rgCmd]) 64 64 (desc 4096 1 [8, 2] 1)) 128 64 (desc 8192 1 [4, 2] 1)) 192 64
      (3 * 2 ^ 76 + 5 * 2 ^ 140) with ctxs := [(1, ctx1 route)] }

/-- Obligations.RouterGradients. -/
theorem wit_RouterGradients :
    (Runs (csrPut (rgState 0) 0x50038 0) rgCmd 0x13 ∧ tablesOk (csrPut (rgState 0) 0x50038 0) = false) ∧
    (Runs (rgState 3) rgCmd 0x13 ∧ tablesOk (rgState 3) = true ∧ pbRoute (ctx (rgState 3) 1) = 3) ∧
    (Runs (rgState 0) rgCmd 0x13 ∧ Quiet (rgState 0) ∧ pbRoute (ctx (rgState 0) 1) ≠ 3 ∧ pbBad (ctx (rgState 0) 1) = false ∧
      (descAt (rgState 0) rgCmd 64).dom = false ∧ (descAt (rgState 0) rgCmd 128).dom = false ∧ (ctx (rgState 0) 1).cur = none ∧ Slotted (rgState 0) rgCmd ∧
      bits (rdNum (rgState 0).mem 192 64) 198 36 = 0) := by decide +kernel

/-- A function-unit or Yard instruction with descriptors at 64, 128 and 192, over tensors at 4096, 8192 and 16384. -/
def threeOps (opc sub c : Nat) (d1 d2 d3 : Nat) : State :=
  poke (poke (poke (base [cmd opc sub 64 128 c]) 64 64 d1) 128 64 d2) 192 64 d3

/-- One F32 element from 4096 to 8192. -/
def reluState (c : Nat) (opc sub : Nat) : State := threeOps opc sub c (desc 4096 1 [1] 0) (desc 8192 1 [1] 0) 0

/-- Obligations.FunctionUnits. -/
theorem wit_FunctionUnits :
    (Runs (reluState 0 0x30 1) (cmd 0x30 1 64 128 0) 0x30 ∧ fnPasses 1 = 0 ∧
      (descAt (reluState 0 0x30 1) (cmd 0x30 1 64 128 0) 64).dom = false ∧
      (descAt (reluState 0 0x30 1) (cmd 0x30 1 64 128 0) 64).ety = 1 ∧
      (descAt (reluState 0 0x30 1) (cmd 0x30 1 64 128 0) 128).dom = false ∧
      (descAt (reluState 0 0x30 1) (cmd 0x30 1 64 128 0) 128).ety = 1 ∧
      (descAt (reluState 0 0x30 1) (cmd 0x30 1 64 128 0) 64).sizes = [1, 1, 1, 1, 1, 1] ∧
      (descAt (reluState 0 0x30 1) (cmd 0x30 1 64 128 0) 128).sizes = [1, 1, 1, 1, 1, 1] ∧
      Inv (reluState 0 0x30 1) ∧ Quiet (reluState 0 0x30 1)) ∧
    (Runs (reluState 0 0x32 0) (cmd 0x32 0 64 128 0) 0x32 ∧ tablesOk (reluState 0 0x32 0) = true) ∧
    (Runs (reluState 192 0x31 0) (cmd 0x31 0 64 128 192) 0x31 ∧ bits (rdNum (reluState 192 0x31 0).mem 192 64) 6 36 = 0 ∧
      bits (rdNum (reluState 192 0x31 0).mem 192 64) 70 36 = 0) ∧
    (Runs (csrPut (reluState 0 0x30 5) 0x50038 0) (cmd 0x30 5 64 128 0) 0x30 ∧ fnPasses 5 ≠ 0 ∧
      tablesOk (csrPut (reluState 0 0x30 5) 0x50038 0) = false) := by decide +kernel

/-- A Yard instruction with an index list of one entry and rows of n elements. -/
def yard (opc ix n rows : Nat) : State :=
  poke (threeOps opc 0 192 (desc 4096 1 [n, rows] 4) (desc 8192 9 [1] 0) (desc 16384 1 [n, rows] 4)) 8192 4 ix

/-- COPY and XPOSE: source and destination. -/
def tiles (opc m n : Nat) : State := threeOps opc 0 192 (desc 4096 1 [m, n] 4) 0 (desc 16384 1 [n, m] 4)
def copies (n : Nat) : State := threeOps 0x23 0 192 (desc 4096 1 [n] 0) 0 (desc 16384 1 [n] 0)

/-- Obligations.YardMoves and Obligations.RowsAndTiles: GATHER and SCATTER, with the indices 0 and 1 of two rows. -/
theorem wit_GatherScatter : ∀ x ∈ [(0x21, 0), (0x21, 1), (0x22, 0), (0x22, 1), (0x22, 2)],
    Runs (yard x.1 x.2 64 2) (cmd x.1 0 64 128 192) x.1 ∧ Inv (yard x.1 x.2 64 2) ∧ Quiet (yard x.1 x.2 64 2) ∧
      YardAlone (yard x.1 x.2 64 2) (cmd x.1 0 64 128 192) ∧
      rdNum (yard x.1 x.2 64 2).mem 8192 4 = x.2 := by decide +kernel

/-- Their operands. -/
theorem wit_GatherOperands :
    let s := yard 0x21 1 64 2
    let c := cmd 0x21 0 64 128 192
    (descAt s c 64).rows = 2 ∧ (descAt s c 64).dom = false ∧ (descAt s c 64).xpi = false ∧ (descAt s c 128).dom = false ∧
      (descAt s c 128).sizes = [1, 1, 1, 1, 1, 1] ∧ (descAt s c 192).dom = false ∧ (descAt s c 192).xpi = false ∧
      (descAt s c 192).rows = 2 ∧ (descAt s c 192).ety = (descAt s c 64).ety ∧
      (descAt s c 192).size 0 ≤ (descAt s c 64).size 0 ∧ packedType (descAt s c 64) = false := by decide +kernel

/-- Obligations.YardMoves and Obligations.RowsAndTiles: COPY of rows of 1 and of 64 elements. -/
theorem wit_Copy : ∀ n ∈ [1, 64], Runs (copies n) (cmd 0x23 0 64 128 192) 0x23 ∧ Inv (copies n) ∧ Quiet (copies n) ∧
    YardAlone (copies n) (cmd 0x23 0 64 128 192) ∧ packedType (descAt (copies n) (cmd 0x23 0 64 128 192) 192) = false ∧
    (descAt (copies n) (cmd 0x23 0 64 128 192) 64).sizes = [n, 1, 1, 1, 1, 1] ∧
    (descAt (copies n) (cmd 0x23 0 64 128 192) 192).sizes = [n, 1, 1, 1, 1, 1] ∧
    packedType (descAt (copies n) (cmd 0x23 0 64 128 192) 64) = false := by decide +kernel

/-- Obligations.YardMoves and Obligations.RowsAndTiles: XPOSE of the smallest and the largest tile. -/
theorem wit_Xpose : ∀ x ∈ [(1, 1), (1, 64), (63, 1), (63, 64)],
    let s := tiles 0x24 x.1 x.2
    let c := cmd 0x24 0 64 128 192
    Runs s c 0x24 ∧ Inv s ∧ Quiet s ∧ YardAlone s c ∧ (descAt s c 64).sizes = [x.1, x.2, 1, 1, 1, 1] ∧
      (descAt s c 192).sizes = [x.2, x.1, 1, 1, 1, 1] ∧ (descAt s c 192).strides = [((4 : Nat) : Int), 0, 0, 0, 0] ∧
      x.2 * (etyBits (descAt s c 64).ety / 8) ≤ 64 * 4 ∧ (descAt s c 192).base + 64 * 4 * x.1 ≤ 2 ^ 42 := by decide +kernel

/-- A use that COUNT has counted, on a map that another member owns. -/
def counted : Use := { use0 with counted := true, experts := 4, map := [⟨0, 0, 1⟩, ⟨1, 0, 1⟩, ⟨2, 0, 1⟩, ⟨3, 0, 1⟩] }
/-- A plan that gives this member no rows, over records that are all zero, with these positions at 0x8000. -/
def plan0 (posw : List Nat) : Plan :=
  { pos := some 0x8000, posw := posw, map := counted.map, slots := [some 0, some 0], experts := 4, recs := [0, 0] }
def planned : Use := { counted with plan := some (plan0 [0, 0]), kept := [true, true] }

/-- Group 0 has lost a member. -/
def lostGrp (us : List Use) (cs : List Cmd) : State := { withUses us cs with col := { grps := [(0, { en := true, lost := true })] } }

/-- Obligations.UseConditions. -/
theorem wit_UseConditions :
    (∀ opc ∈ [0x18, 0x19], Runs (base [cmd opc 0 0 64 0]) (cmd opc 0 0 64 0) opc) ∧ inCtxGroup (base []) 1 = false ∧
    (∀ opc ∈ [0x18, 0x19, 0x20, 0x28, 0x29, 0x2A], Runs (withUses [] [cmd opc 0 0 64 0]) (cmd opc 0 0 64 0) opc) ∧
    inCtxGroup (withUses [] []) 1 = true ∧ liveUse (withUses [] []) 1 0 = none ∧
    (∀ u ∈ [use0, counted, planned], Runs (withUses [u] [cmd 0x19 0 0 64 0]) (cmd 0x19 0 0 64 0) 0x19 ∧
      liveUse (withUses [u] [cmd 0x19 0 0 64 0]) 1 0 = some u) ∧
    use0.counted = false ∧ (({ counted with backward := true } : Use).backward = true) ∧
    (Runs (withUses [use0] [cmd 0x2A 1 0 64 0]) (cmd 0x2A 1 0 64 0) 0x2A ∧ bit 1 0 ≠ use0.backward) ∧
    (∀ opc ∈ [0x28, 0x29, 0x2A], Runs (lostGrp [use0] [cmd opc 0 0 64 0]) (cmd opc 0 0 64 0) opc) ∧
    (grp (lostGrp [use0] []) (pbGroup (ctx (lostGrp [use0] []) 1))).lost = true := by decide +kernel

/-- Obligations.Counting. -/
theorem wit_Counting : Runs (withUses [use0] [cmd 0x18 0 64 4096 0]) (cmd 0x18 0 64 4096 0) 0x18 ∧ Quiet (withUses [use0] []) ∧
    inCtxGroup (withUses [use0] []) 1 = true ∧ liveUse (withUses [use0] []) 1 0 = some use0 ∧ Live (withUses [use0] []) use0 ∧
    placedSlot (withUses [use0] []) 1 = none ∧ (let c := cmd 0x18 0 64 4096 0;
      countSlots (withUses [use0] [c]) (stampIssue (withUses [use0] [c]) c) use0 = true) := by decide +kernel

/-- Obligations.Planning. -/
theorem wit_Planning : Runs (withUses [counted] [cmd 0x19 0 64 4096 0x8000]) (cmd 0x19 0 64 4096 0x8000) 0x19 ∧
    Inv (withUses [counted] []) ∧ Live (withUses [counted] []) counted ∧ counted.backward = false ∧
    counted.sendIssued = false ∧ counted.plan = none ∧ (let c := cmd 0x19 0 64 4096 0x8000;
      planSlots (withUses [counted] [c]) (stampIssue (withUses [counted] [c]) c) counted = true) ∧ ownSlots counted.map (grp (withUses [counted] []) 0).midx = [] := by
  decide +kernel

/-- SORT of a use with positions; where `dropped`, no assignment is kept. -/
def sorted (dropped : Bool) : Use :=
  { planned with plan := some (plan0 (if dropped then [0xFFFFFFFF, 0xFFFFFFFF] else [0, 0])) }
def sortCmd : Cmd := cmd 0x20 0 0x4000 0 0
def sorting (dropped : Bool) : State :=
  let s := withUses [sorted dropped] [sortCmd]
  if dropped then poke s 0x8000 8 (2 ^ 64 - 1) else s

/-- The keys of SORT over a plan. -/
def keysOf (p : Plan) : List SortKey :=
  sortKeys planned p (assignSlots p.map p.midx 0 p.lseed p.experts 2 p.recs) p.posw

/-- Obligations.Sorting. -/
theorem wit_Sorting :
    (Runs (withUses [use0] [cmd 0x20 0 0 64 0]) (cmd 0x20 0 0 64 0) 0x20 ∧ use0.plan = none) ∧
    (∀ dropped : Bool, let s := sorting dropped
      Runs s sortCmd 0x20 ∧ Quiet s ∧ liveUse s 1 0 = some (sorted dropped) ∧ Live s (sorted dropped) ∧ planned.cls < 4 ∧
      0 < planned.k ∧ planned.k ≤ 16 ∧ s.disp.wqs.length = 4 ∧ (wq s 0).cls.length = 4 ∧ (wq s 0).busy = false ∧
      (wq s 0).at 0 = {} ∧ itemsLeft s 0 (cmdCode sortCmd) = false ∧ [0, 0] = (readRecords 0x4000 1 2 (ioStart s)).1 ∧
      (if dropped then [0xFFFFFFFF, 0xFFFFFFFF] else [0, 0]) = codesOf 1 (rdBytes s.mem 0x8000 (4 * (1 * 2))) 0 (1 * 2)) ∧
    (keysOf (plan0 [0, 0])).length = 2 ∧ (keysOf (plan0 [0xFFFFFFFF, 0xFFFFFFFF])).length = 0 := by decide +kernel

/-- A HASHSEL that waits for two tickets; in the second state the ring is full. -/
def waiting2 : Cmd := { cmd 0x12 0 64 128 0 with st := .waitTicket 2, cores := [0] }
def ticketWait (full : Bool) : State :=
  { withUses [use0] [waiting2] with disp := { uses := [use0], ranges := if full then [(0, 2 ^ 21)] else [] } }

/-- Obligations.TicketGrants. -/
theorem wit_TicketGrants :
    (Working (ticketWait false) ∧ Quiet (ticketWait false) ∧ KeysDistinct (ticketWait false) ∧
      (∀ x ∈ (ticketWait false).front.inflight, x.st ≠ .waitTicket 0) ∧ waitOrder (ticketWait false) = [waiting2] ∧
      waitN waiting2 ≤ ringFree (ticketWait false) ∧ waitN waiting2 = use0.t * use0.k ∧
      pbBad (ctx (ticketWait false) 1) = false ∧ reserveSlots (ticketWait false) waiting2 (waitN waiting2) = true ∧ liveUse (ticketWait false) 1 0 = some use0 ∧
      waiting2.ecc = {}) ∧
    (waitOrder (ticketWait true) = [waiting2] ∧ ringFree (ticketWait true) < waitN waiting2) := by decide +kernel

/-- The test state with these work queues. -/
def withWqs (us : List Use) (cs : List Cmd) (ws : List WorkQ) : State :=
  { withUses us cs with disp := { uses := us, wqs := ws } }

/-- One item in the spill ring of class 3 of WQ_CMB. -/
def spilled : State := withWqs [] [] [{}, {}, {}, { cls := [{}, {}, {}, { spill := [{}] }] }]
/-- WQ_CMB in reset. -/
def resetting : State := withWqs [] [] [{}, {}, {}, { busy := true }]

/-- Obligations.WorkQueues. -/
theorem wit_WorkQueues :
    (Working spilled ∧ Quiet spilled ∧ QueueReads spilled 3 ∧ holdsMp spilled (0x20 + 3) = true ∧
      ((wq spilled 3).at 3).head.length < 16 ∧ ((wq spilled 3).at 3).spill = [{}] ∧ Inv spilled ∧
      spilled.disp.wqs.length = 4 ∧ (wq spilled 3).busy = false) ∧
    (Working resetting ∧ Inv resetting ∧ (wq resetting 3).busy = true ∧ (wq resetting 3).pend = false) := by decide +kernel

/-- A use whose rows are all acknowledged, its combine buffer taken. -/
def acked : Use := { planned with kept := [], cbufs := [{}], combined := [0] }
def held (opc : Nat) : Cmd := { cmd opc 0 64 0 0 with st := .held, saved := [0, desc 4096 1 [8, 1] 1, 0] }

/-- A use whose PLAN failed, and one in its backward phase with rows to be acknowledged. -/
def failed0 : Use := { use0 with planFail := some (0x20, 5) }
def back0 : Use := { acked with backward := true, kept := [true, true] }

/-- Obligations.Sends. -/
theorem wit_Sends :
    (Runs (withUses [use0] [cmd 0x28 0 64 0 0]) (cmd 0x28 0 64 0 0) 0x28 ∧ Quiet (withUses [use0] []) ∧
      (grp (withUses [use0] []) 0).lost = false ∧ use0.planFail = none ∧ use0.sendFail = none) ∧
    (Runs (withUses [failed0] [cmd 0x28 0 64 0 0]) (cmd 0x28 0 64 0 0) 0x28 ∧
      liveUse (withUses [failed0] []) 1 0 = some failed0 ∧ failed0.plan = none) ∧
    (Runs (withUses [acked] [cmd 0x28 0 64 0 0]) (cmd 0x28 0 64 0 0) 0x28 ∧ KeysDistinct (withUses [acked] [cmd 0x28 0 64 0 0]) ∧
      Live (withUses [acked] []) acked ∧ acked.plan.isSome = true ∧ bit 0 0 = acked.backward ∧ hasCbufs acked = true ∧
      acked.sendFail = none ∧ sendLeft acked (cmd 0x28 0 64 0 0) = 0 ∧ Settled (withUses [acked] [cmd 0x28 0 64 0 0])) ∧
    (Runs (withUses [back0] [cmd 0x28 1 64 0 0]) (cmd 0x28 1 64 0 0) 0x28 ∧ KeysDistinct (withUses [back0] [cmd 0x28 1 64 0 0]) ∧
      Live (withUses [back0] []) back0 ∧ sendLeft back0 (cmd 0x28 1 64 0 0) ≠ 0 ∧
      Settled (withUses [back0] [cmd 0x28 1 64 0 0])) ∧
    (Working (withUses [acked] [held 0x28]) ∧ findCmd (withUses [acked] [held 0x28]) 0 1 = some (held 0x28) ∧
      (held 0x28).saved ≠ [] ∧ Settled (withUses [acked] [held 0x28])) ∧
    liveUse (withUses [] [held 0x28]) 1 0 = none := by
  refine ⟨?_, ?_, ?_, ?_, ?_, ?_⟩ <;> decide +kernel

/-- A SEND that executes, and one item of its use at the head of queue `w`, class `k`. -/
def sender : Cmd := { cmd 0x28 0 64 0 0 with st := .exec, saved := [0, desc 4096 1 [8, 1] 1, 0] }
def returner : Cmd := { cmd 0x29 0 64 0 0 with st := .exec, saved := retSaved [desc 4096 1 [8, 1] 1] 1 0 0 0 [] }
def itemAt (us : List Use) (cs : List Cmd) (w k : Nat) (it : Item) : State :=
  withWqs us cs ((List.range 4).map (fun i =>
    if i = w then { cls := (List.range 4).map (fun j => if j = k then { head := [it] } else {}) } else {}))
/-- An item of the use, and one of no use. -/
def ours (kind : Nat) : Item := { w0 := headWord use0 kind }
def stray : Item := { w0 := 2 ^ 48 }
/-- A use with a receive buffer of one row. -/
def receiving : Use := { planned with plan := some { shapes := [{ slot := 0, rows := 1, buf := some {} }], origLen := 1 } }
/-- An acknowledgement of ticket 0. -/
def dack : Msg := { hdr := 3 * 2 ^ 8 + headWord use0 1 * 2 ^ 64 }
def acking : State :=
  { withUses [planned] [] with
    disp := { uses := [planned], tickets := [(0, { st := 2 })] }, fab := { inbox := [dack] } }

/-- Obligations.RowTraffic. -/
theorem wit_RowTraffic :
    (Working (itemAt [planned] [sender] 0 0 (ours 1)) ∧ Inv (itemAt [planned] [sender] 0 0 (ours 1)) ∧
      KeysDistinct (itemAt [planned] [sender] 0 0 (ours 1)) ∧ QueueReads (itemAt [planned] [sender] 0 0 (ours 1)) 0 ∧
      ((wq (itemAt [planned] [sender] 0 0 (ours 1)) 0).at 0).head = [ours 1] ∧
      matchUse (itemAt [planned] [sender] 0 0 (ours 1)) (ours 1).w0 = some planned ∧
      Live (itemAt [planned] [sender] 0 0 (ours 1)) planned ∧
      senderOf (itemAt [planned] [sender] 0 0 (ours 1)) planned (ours 1) = some sender ∧
      (descOf sender.level (nth sender.saved 1)).dom = false) ∧
    (QueueReads (itemAt [] [] 0 0 stray) 0 ∧ matchUse (itemAt [] [] 0 0 stray) stray.w0 = none) ∧
    (QueueReads (itemAt [receiving] [] 1 0 (ours 0)) 1 ∧ holdsMp (itemAt [receiving] [] 1 0 (ours 0)) 0x14 = true ∧
      matchUse (itemAt [receiving] [] 1 0 (ours 0)) (ours 0).w0 = some receiving ∧
      shapeOf (bits (ours 0).w1 14 18) 0 [{ slot := 0, rows := 1, buf := some {} }] =
        some ({ slot := 0, rows := 1, buf := some {} }, 0) ∧ bits (ours 0).w1 32 32 < 1) ∧
    (∀ k ∈ [0, 3], QueueReads (itemAt [use0] [] 1 k (ours 0)) 1 ∧ ((wq (itemAt [use0] [] 1 k (ours 0)) 1).at k).head = [ours 0] ∧
      matchUse (itemAt [use0] [] 1 k (ours 0)) (ours 0).w0 = some use0) ∧
    (Working acking ∧ FirstMsg acking (fun m => m.kind == 3 && dackSlots acking m) dack ∧
      matchUse acking (bits dack.hdr 64 64) = some planned ∧ bits dack.hdr 64 64 % 4 = 1 ∧
      (ticketAt planned (bits dack.hdr 128 21)).isSome = true ∧ (ticket acking (bits dack.hdr 128 21)).st = 2) := by
  refine ⟨?_, ?_, ?_, ?_, ?_⟩ <;> decide +kernel

/-- A use of which a SEND of the phase has completed. -/
def sent : Use := { acked with sendDone := true, combined := [] }
/-- An answer to ticket 0, whose token waits for two. -/
def answering : State :=
  { itemAt [sent] [] 3 0 (ours 3) with disp := { (itemAt [sent] [] 3 0 (ours 3)).disp with tickets := [(0, { st := 4, pend := 2 })] } }

/-- Obligations.Answers. -/
theorem wit_Answers :
    (Runs (withUses [use0] [cmd 0x29 0 64 0 0]) (cmd 0x29 0 64 0 0) 0x29 ∧ use0.sendDone = false) ∧
    (∀ u ∈ [sent, { sent with plan := none }], Runs (withUses [u] [cmd 0x29 0 64 0 0]) (cmd 0x29 0 64 0 0) 0x29 ∧
      u.sendDone = true ∧ (withUses [u] [cmd 0x29 0 64 0 0]).front.inflight.any (isSending u) = false ∧
      Working (withUses [u] [held 0x29]) ∧ findCmd (withUses [u] [held 0x29]) 0 1 = some (held 0x29) ∧
      (withUses [u] [held 0x29]).front.inflight.any (isSending u) = false) ∧
    (∀ x ∈ (plan0 [0, 0]).shapes, x.rows = 0) ∧
    (QueueReads (itemAt [planned] [returner] 2 0 (ours 2)) 2 ∧ KeysDistinct (itemAt [planned] [returner] 2 0 (ours 2)) ∧
      matchUse (itemAt [planned] [returner] 2 0 (ours 2)) (ours 2).w0 = some planned ∧
      returnerOf (itemAt [planned] [returner] 2 0 (ours 2)) planned (ours 2) = some returner ∧
      (descOf 3 (nth (retRaws returner) (([] : List Nat).idxOf (bits (ours 2).w1 14 18)))).dom = false) ∧
    (QueueReads (itemAt [] [] 3 0 stray) 3 ∧ matchUse (itemAt [] [] 3 0 stray) stray.w0 = none ∧
      answerSlots (itemAt [] [] 3 0 stray) stray = true) ∧
    (Working answering ∧ Inv answering ∧ Quiet answering ∧ QueueReads answering 3 ∧
      matchUse answering (ours 3).w0 = some sent ∧ Live answering sent ∧ answerSlots answering (ours 3) = true ∧
      bits (ours 3).w2 20 2 = 0 ∧ hasCbufs sent = true ∧ sent.combined.length ≠ sent.t ∧
      curBase sent = some 0 ∧ ticketAt sent (bits (ours 3).w2 22 21) = some (0, 0) ∧
      (ticket answering (bits (ours 3).w2 22 21)).st = 4 ∧ 2 ≤ (ticket answering (ticketNo 0 sent.k 0 0)).pend) := by
  refine ⟨?_, ?_, ?_, ?_, ?_, ?_⟩ <;> decide +kernel

/-- Obligations.Combining: forward with and without END, and backward. -/
theorem wit_Combining :
    (Runs (withUses [use0] [cmd 0x2A 0 64 128 0]) (cmd 0x2A 0 64 128 0) 0x2A ∧ use0.combined.length ≠ use0.t) ∧
    (∀ x ∈ [(0, acked), (2, acked), (1, { acked with backward := true }), (3, { acked with backward := true })],
      Runs (withUses [x.2] [cmd 0x2A x.1 64 128 0]) (cmd 0x2A x.1 64 128 0) 0x2A ∧ Live (withUses [x.2] []) x.2 ∧
      bit x.1 0 = x.2.backward ∧ x.2.combined.length = x.2.t ∧ x.2.cerr = none ∧
      (descAt (withUses [x.2] []) (cmd 0x2A x.1 64 128 0) 128).dom = false) := by decide +kernel

/-- A COMBINE that waits for its tokens, an ALLOC that waits for a buffer. -/
def combining : Cmd := { cmd 0x2A 0 64 128 0 with st := .waitTokens }
def allocating : Cmd := { cmd 0x38 0 1 0 0 with st := .waitShed 0 0, strict := true }
def ended : Use := { use0 with ended := some .cancel }

/-- Obligations.EndsAndStalls. -/
theorem wit_EndsAndStalls :
    (Runs (withUses [] [cmd 0x2B 0 0 0 0]) (cmd 0x2B 0 0 0 0) 0x2B ∧ liveUse (withUses [] [cmd 0x2B 0 0 0 0]) 1 0 = none) ∧
    (Runs (withUses [use0] [cmd 0x2B 0 5 0 0]) (cmd 0x2B 0 5 0 0) 0x2B ∧ bit 5 16 = false ∧ bits 5 0 16 ≠ use0.epoch) ∧
    (∀ a ∈ [0, 2 ^ 16 + 5], Runs (withUses [use0] [cmd 0x2B 0 a 0 0]) (cmd 0x2B 0 a 0 0) 0x2B ∧ Live (withUses [use0] []) use0 ∧
      (bit a 16 = true ∨ bits a 0 16 = use0.epoch)) ∧
    (Working (withUses [ended] []) ∧ (withUses [ended] []).disp.uses.find? (fun u => u.ended.isSome && canDrop (withUses [ended] []) u) = some ended) ∧
    (∀ u ∈ (withUses [use0] []).disp.uses, u.ended = none) ∧
    (∀ c ∈ [sender, returner, combining], (c = combining ∨ c.saved ≠ []) ∧ Working (withUses [use0] [c]) ∧ Inv (withUses [use0] [c]) ∧
      findCmd (withUses [use0] [c]) 0 1 = some c ∧ liveUse (withUses [use0] [c]) 1 0 = some use0) ∧
    (Working (base [allocating]) ∧ findCmd (base [allocating]) 0 1 = some allocating ∧ allocating.strict = true ∧
      bankReady (base [allocating]) 0 allocating = false) := by
  decide +kernel

/-- The test state with this Shed 0. -/
def shed0 (x : Shed) (cs : List Cmd) : State := { base cs with shd := { sheds := [(0, x)] } }

/-- Obligations.ShedMaintenance. -/
theorem wit_ShedMaintenance :
    (∀ x ∈ [({ used := 1 } : Shed), { busy := true }], Working (shed0 x []) ∧ Inv (shed0 x [])) ∧
    (shed0 { busy := true } [] |> fun s => (shed s 0).busy = true ∧ Quiet s ∧ holdsMp s 0x1C = true) ∧
    (shed0 { tail := 64, free := 64 } [] |> fun s => Inv s ∧ cacheMoves s 0 = true ∧ (shed s 0).cache.length < 16 ∧
      min 16 (((shed s 0).tail + 2 ^ 32 - (shed s 0).head) % 2 ^ 32) ≠ 0) ∧
    (shed0 { cache := List.range 49 } [] |> fun s => Inv s ∧ cacheMoves s 0 = true ∧ 48 < (shed s 0).cache.length) ∧
    (shed0 { cache := List.range 48 } [] |> fun s => Inv s ∧ cacheMoves s 0 = true ∧ (shed s 0).cache.length ≤ 48) := by
  decide +kernel

/-- An ALLOC of `a` bytes with this Shed 0, and a FREE of address `a` whose owner word is `w`. -/
def allocState (x : Shed) (a : Nat) : State := shed0 x [cmd 0x38 0 a 0 0]
def freeState (a w : Nat) : State := poke (shed0 { used := 1 } [cmd 0x39 0 a 0 0]) (0x10000 + 256 + 8 * 63) 8 w
/-- Buffer 63 of Shed 0. -/
def buf63 : Nat := 0x100000 + 4096 * 63

/-- Obligations.AllocationAndRelease: a buffer, the three failures, the wait. -/
theorem wit_Allocation :
    (∀ a ∈ [0, 1, 4096], Runs (allocState { cache := [3], free := 64, tail := 63 } a) (cmd 0x38 0 a 0 0) 0x38 ∧
      smallestShed (bits a 0 40) = 0) ∧
    (allocState { cache := [3], free := 64, tail := 63 } 0 |> fun s => Inv s ∧ Quiet s ∧
      quse s (allocClass s (cmd 0x38 0 0 0 0)) + shdUnits 0 ≤ qlim s (allocClass s (cmd 0x38 0 0 0 0)) ∧
      rotaHolds s 40 0x08 = true ∧ shedServes s 0 = true ∧ (shed s 0).free ≠ 0 ∧ (shed s 0).cache = [3] ∧
      firstAtBank (begun s (cmd 0x38 0 0 0 0)) 0 (stampIssue s (cmd 0x38 0 0 0 0)) = true) ∧
    (Runs (allocState { used := 64 } 67108865) (cmd 0x38 0 67108865 0 0) 0x38 ∧
      Inv (allocState { used := 64 } 67108865) ∧ 67108864 < bits 67108865 0 40) ∧
    (Runs (csrPut (allocState { used := 64 } 67108864) (oShdQlim 0) 0) (cmd 0x38 0 67108864 0 0) 0x38 ∧
      Inv (csrPut (allocState { used := 64 } 67108864) (oShdQlim 0) 0) ∧
      qlim (csrPut (allocState { used := 64 } 67108864) (oShdQlim 0) 0) 0 < shdUnits 7) ∧
    (Runs (allocState { used := 64 } 1) (cmd 0x38 0 1 0 0) 0x38 ∧ Inv (allocState { used := 64 } 1) ∧
      bit (csrGet (allocState { used := 64 } 1) 0xE0000) 0 = false ∧
      ∀ j, j < 8 → rotaHolds (allocState { used := 64 } 1) (40 + j) 0x08 = true ∧
        firstAtBank (begun (allocState { used := 64 } 1) (cmd 0x38 0 1 0 0)) j
          (stampIssue (allocState { used := 64 } 1) (cmd 0x38 0 1 0 0)) = true ∧
        (shedServes (allocState { used := 64 } 1) j = false ∨ (shed (allocState { used := 64 } 1) j).free = 0)) ∧
    (Runs (csrPut (allocState { used := 64 } 1) 0xE0000 1) (cmd 0x38 0 1 0 0) 0x38 ∧
      bit (csrGet (csrPut (allocState { used := 64 } 1) 0xE0000 1) 0xE0000) 0 = true) := by
  refine ⟨?_, ?_, ?_, ?_, ?_, ?_⟩ <;> decide +kernel

/-- Obligations.AllocationAndRelease: FREE of another chip's address, of no buffer, of a free one, of one of the engine, of
one of another context, and of one of the context. -/
theorem wit_Release :
    (Runs (freeState (2 ^ 42) 0) (cmd 0x39 0 (2 ^ 42) 0 0) 0x39 ∧ bits (2 ^ 42) 42 15 ≠ ownChip (freeState (2 ^ 42) 0)) ∧
    (Runs (freeState 64 0) (cmd 0x39 0 64 0 0) 0x39 ∧ bits 64 42 15 = ownChip (freeState 64 0) ∧
      bufAt (freeState 64 0) (64 % 2 ^ 42) = none) ∧
    (∀ w ∈ [0, ownerWord true 1 1 0, ownerWord false 1 2 0, ownerWord false 2 1 0, ownerWord false 1 1 0],
      Runs (freeState buf63 w) (cmd 0x39 0 buf63 0 0) 0x39 ∧ Inv (freeState buf63 w) ∧ Quiet (freeState buf63 w) ∧
      bufAt (freeState buf63 w) (buf63 % 2 ^ 42) = some (0, 63) ∧ canRelease (freeState buf63 w) 0 0x08 1 = true ∧
      firstAtBank (begun (freeState buf63 w) (cmd 0x39 0 buf63 0 0)) 0 (stampIssue (freeState buf63 w) (cmd 0x39 0 buf63 0 0)) = true ∧
      (shed (freeState buf63 w) 0).failed = false ∧
      rdNum (freeState buf63 w).mem (shdOwnerAt (freeState buf63 w) 0 63) 8 = w) ∧
    (bit (ownerWord false 1 1 0) 63 = true ∧ bit (ownerWord false 1 1 0) 62 = false ∧ bits (ownerWord false 1 1 0) 32 14 = 1 ∧
      bits (ownerWord false 1 1 0) 46 16 = (ctx (freeState buf63 0) 1).epoch) := by decide +kernel

/-- A SAMPLE of a user queue of job 2 while another job's sampling is in force. -/
def foreign (sub : Nat) : State :=
  csrPut { user [cmd 0x50 sub 0 0 0] with ctxs := [(1, { ctx1 0 with job := 2 })] } 0xC1008 2
/-- SAMPLE with one record held, and with the watched context set. -/
def sampling (sub : Nat) : State := { base [cmd 0x50 sub 0 4096 0] with pmc := { buf := [(1, 2, 3, 4)] } }
def watched (sub : Nat) : State := csrPut (sampling sub) 0xC1400 (2 ^ 63 + 1)

/-- Obligations.SamplingAndWindows. -/
theorem wit_SamplingAndWindows :
    (Runs (sampling 0) (cmd 0x50 0 0 4096 0) 0x50 ∧ Quiet (sampling 0) ∧ isSub 0x50 0 [0, 1, 2, 3] (cmd 0x50 0 0 4096 0) = true) ∧
    (isSub 0x50 0 [0, 1, 2, 3] (cmd 0x50 15 0 0 0) = true) ∧
    (∀ sub ∈ [1, 2], Runs (foreign sub) (cmd 0x50 sub 0 0 0) 0x50 ∧ smpForeign (foreign sub) (cmd 0x50 sub 0 0 0) = true ∧
      Runs (sampling sub) (cmd 0x50 sub 0 4096 0) 0x50 ∧ Inv (sampling sub) ∧
      smpForeign (sampling sub) (cmd 0x50 sub 0 4096 0) = false) ∧
    (Runs (sampling 3) (cmd 0x50 3 0 4096 0) 0x50 ∧ bit (csrGet (sampling 3) 0xC1400) 63 = false ∧
      qSupv (sampling 3) 0 = true) ∧
    (Runs (watched 3) (cmd 0x50 3 0 4096 0) 0x50 ∧ bit (csrGet (watched 3) 0xC1400) 63 = true) ∧
    (bit (csrGet (base []) 0xC1100) 63 = false ∧ bit (csrGet (csrPut (base []) 0xC1100 (2 ^ 63)) 0xC1100) 63 = true) := by
  decide +kernel

/-- A domain of `n` chips in a row, of which this is chip 0; group 0 is all of them. -/
def ringOf (n : Nat) (g : Grp) (cs : List Cmd) : State :=
  { csrPut (csrPut (base cs) 0xA0000 (0x0002001040000000 + n * 2 ^ 24)) 0x90000 (2 ^ 63 + 0x0010010100000000 + n * 2 ^ 24) with
    col := { grps := [(0, g)] } }
def on : Grp := { en := true }
/-- A collective of group 0 over one F32 element. -/
def coll (opc : Nat) : Cmd := cmd opc 0 4096 8192 (2 ^ 44 + 1)

/-- Obligations.CollectivesBegin. -/
theorem wit_CollectivesBegin :
    ((grp (base []) 63).en = false ∧ Working (base []) ∧ Inv (base [])) ∧
    (∀ g ∈ [on, { on with active := some {} }], Working (ringOf 2 g []) ∧ Inv (ringOf 2 g []) ∧ (grp (ringOf 2 g []) 0).en = true) ∧
    (∀ opc ∈ [0x40, 0x41, 0x42, 0x43, 0x44], ∀ g ∈ [on, {}, { on with notin := true }, { on with lost := true }],
      Runs (ringOf 2 g [coll opc]) (coll opc) opc) ∧
    (Runs (base [cmd 0x40 0 0 64 (2 ^ 45)]) (cmd 0x40 0 0 64 (2 ^ 45)) 0x40 ∧ etypeOf (bits (2 ^ 45) 44 4) ∉ [0, 1, 8, 9]) := by
  refine ⟨?_, ?_, ?_, ?_⟩ <;> decide +kernel

/-- Obligations.CollectivesBegin: a group of two members, and a group of one. -/
theorem wit_CollectivesRun : ∀ opc ∈ [0x40, 0x41, 0x42, 0x43, 0x44],
    (Inv (ringOf 2 on [coll opc]) ∧ CollReady (ringOf 2 on [coll opc]) (coll opc) ∧ ringAxes (grpBox (ringOf 2 on []) 0) = [0]) ∧
    (Runs (ringOf 1 on [coll opc]) (coll opc) opc ∧ CollReady (ringOf 1 on [coll opc]) (coll opc) ∧
      ringAxes (grpBox (ringOf 1 on []) 0) = [] ∧ Quiet (ringOf 1 on [coll opc]) ∧ collSlots (ringOf 1 on [coll opc]) 0 = true ∧ (grp (ringOf 1 on []) 0).midx = 0 ∧
      csrField (ringOf 1 on []) (oColProg 0) 6 36 = 0) := by decide +kernel

/-- A collective that executes on a group of three, with a message in the inbox. -/
def running (opc : Nat) : Cmd := { coll opc with st := .exec }
def onGroup (o : CollOp) (m : List Msg) : State :=
  { ringOf 3 { on with seq := 1, active := some o } [running o.opc] with fab := { inbox := m } }
/-- A message of group 0 from chip 2, the predecessor: kind, subtype, step, phase. -/
def collMsg (kind sub step phase : Nat) (data : List Byte) : Msg :=
  { hdr := kind * 2 ^ 8 + 2 * 2 ^ 31 + phase * 2 ^ 126 + step * 2 ^ 128 + sub * 2 ^ 136, data := data }
/-- A message of a sequence number that is over. -/
def lateMsg (kind sub : Nat) : Msg := { hdr := kind * 2 ^ 8 + 5 * 2 ^ 70 + sub * 2 ^ 136 }
def lateState (kind sub : Nat) : State := { ringOf 3 { on with seq := 6 } [] with fab := { inbox := [lateMsg kind sub] } }
/-- A signature round with `n` steps done, and a reduction. -/
def sigOp (n : Nat) : CollOp := { q := 0, tag := 1, opc := 0x40, sig := 9, sigStep := n }
def redRun : ChunkRun := {}
def redOp : CollOp := { q := 0, tag := 1, opc := 0x41, etype := 1, n := 48, sigDone := true, flight := [redRun], next := 1, prog := 1 }

/-- Obligations.CollectiveMessages. -/
theorem wit_CollectiveMessages :
    (∀ k ∈ [(6, 0), (7, 0), (7, 1)], Working (lateState k.1 k.2) ∧ Inv (lateState k.1 k.2) ∧
      isLate (lateState k.1 k.2) (lateMsg k.1 k.2) = true ∧ FirstMsg (lateState k.1 k.2) (fun m => m.kind == k.1) (lateMsg k.1 k.2)) ∧
    (CollsRest (lateState 6 0) ∧ NoMsg (base []) (fun m => m.kind == 6)) ∧
    (∀ n ∈ [0, 1], let s := onGroup (sigOp n) [collMsg 7 0 (n + 1) 0 []];
      Working s ∧ Inv s ∧ FirstMsg s (fun m => m.kind == 7 && m.sub == 0 && (isLate s m || isNextSig s m)) (collMsg 7 0 (n + 1) 0 []) ∧
      isLate s (collMsg 7 0 (n + 1) 0 []) = false ∧ (grp s 0).active = some (sigOp n) ∧ (ringAxes (grpBox s 0))[0]? = some 0 ∧
      boxSize (grpBox s 0) 0 = 3 ∧ (ringAxes (grpBox s 0))[1]? = none ∧ noSig s = false ∧
      findCmd s 0 1 = some (running 0x40)) ∧
    (leNat ([].take 8) == (sigOp 1).sig) = false ∧
    (let s := onGroup redOp [collMsg 6 0 1 1 [0, 0, 0, 0]];
      Working s ∧ Inv s ∧ Quiet s ∧ FirstMsg s (fun m => m.kind == 6 && (isLate s m || isNextColl s m)) (collMsg 6 0 1 1 [0, 0, 0, 0]) ∧
      isLate s (collMsg 6 0 1 1 [0, 0, 0, 0]) = false ∧ nextRun s (collMsg 6 0 1 1 [0, 0, 0, 0]) = some (redOp, redRun) ∧
      redRun.step + 2 < boxSize (grpBox s 0) (runAxis s 0 redOp redRun) ∧
      gathering (redOp.view redRun) (grpBox s 0) = false ∧ redOp.subop ≠ 1 ∧ redOp.subop ≠ 2 ∧
      stepKeys s 0 (runAxis s 0 redOp redRun) 1 (redOp.view redRun) ≠ [] ∧ findCmd s 0 1 = some (running 0x41) ∧
      (running 0x41).isFinished = false) := by
  refine ⟨?_, ?_, ?_, ?_, ?_⟩ 
  · decide +kernel
  · refine ⟨?_, by decide +kernel⟩
    intro g o h
    rw [show grp (lateState 6 0) g = if g = 0 then { on with seq := 6 } else {} from rfl] at h
    split at h <;> cases h
  · decide +kernel
  · decide +kernel
  · decide +kernel

/-- A CAIRN that waits for its release. -/
def cairnOp (wait : Bool) : CollOp := { q := 0, tag := 1, opc := 0x44, sigDone := true, waiting := wait, flag := some 1023 }

/-- Obligations.CollectiveEnds. -/
theorem wit_CollectiveEnds :
    (let s := onGroup (sigOp 0) [collMsg 7 1 0 0 (leBytes 8 0x12 ++ leBytes 8 2)];
      Working s ∧ Inv s ∧ FirstMsg s (fun m => m.kind == 7 && m.sub == 1 &&
        (isLate s m || (grp s m.grp).active.any (fun o => o.seq == m.seq))) (collMsg 7 1 0 0 (leBytes 8 0x12 ++ leBytes 8 2)) ∧
      isLate s (collMsg 7 1 0 0 (leBytes 8 0x12 ++ leBytes 8 2)) = false ∧ (grp s 0).active = some (sigOp 0) ∧
      findCmd s 0 1 = some (running 0x40) ∧ (running 0x40).isFinished = false ∧ groupBusyWith s 0 1 = some 0) ∧
    (let s := { onGroup (cairnOp false) [] with fab := { ports := [(5, { st := 5 })] } };
      Working s ∧ Inv s ∧ portUp s 5 = true ∧ portUp s 0 = false ∧ (grp s 0).active = some (cairnOp false) ∧
      (cairnOp false).cairn = true ∧ (cairnOp false).mark = none ∧ ∀ m ∈ s.fab.inbox, m.kind = 7 → m.sub ≠ 2) ∧
    (let s := onGroup (cairnOp true) [];
      Working s ∧ Inv s ∧ (grp s 0).active = some (cairnOp true) ∧ (cairnOp true).waiting = true ∧
      findCmd s 0 1 = some (running 0x44) ∧ (running 0x44).st = .exec ∧ ∀ x ∈ s.front.inflight, x.st ≠ .waitFlag 1023) := by
  refine ⟨?_, ?_, ?_⟩ <;> decide +kernel

/-- Port `n` in a state, in a domain of two chips in a row. -/
def portAt (n : Nat) (p : Port) : State := { ringOf 2 on [] with fab := { ports := [(n, p)] } }

/-- Obligations.PortStates. -/
theorem wit_PortStates :
    (∀ st ∈ [1, 2, 3, 4, 5, 6], Working (portAt 5 { st := st }) ∧ Inv (portAt 5 { st := st }) ∧ (port (portAt 5 { st := st }) 5).st = st ∧
      (port (portAt 5 { st := st }) 5).pend = false) ∧
    ((port (base []) 5).st = 0) ∧
    (∀ g, g < 4 → (groupLanes (0 &&& 0) g).length < 6) ∧
    ((∃ g, g < 4 ∧ 6 ≤ (groupLanes ((0xFC000000#32).toNat &&& (0xFC000000#32).toNat &&&
      (span 31 0 ^^^ (nth (portAt 5 { st := 2 }).glb.fuses.lanes 5 &&& span 31 0))) g).length)) ∧
    (identCheck (portAt 0 { st := 3 }) 0 { ver := 2, chip := 1, dims := (2, 1, 1) } = 0 ∧
      identCheck (portAt 0 { st := 3 }) 0 { ver := 2, chip := 2, dims := (2, 1, 1) } = 3 ∧
      identCheck (portAt 5 { st := 3 }) 5 { ver := 2, chip := 0, dims := (2, 1, 1) } = 6) ∧
    (let s := csrPut (portAt 5 { retrain := true }) 0xA0240 1;
      Working s ∧ Inv s ∧ (port s 5).st = 0 ∧ (port s 5).retrain = true ∧ portEn s 5 = true ∧ portFused s 5 = false) := by
  refine ⟨?_, ?_, ?_, ⟨3, by decide +kernel⟩, ?_, ?_⟩ <;> decide +kernel

/-- A flit with these fields: sequenced, its number, and its header; the second has a wrong CRC. -/
def flit (seqv : Bool) (seq hdr : Nat) : Flit := mkFlit (seq * 2 ^ 52 + b2n seqv * 2 ^ 38) hdr []
def broken (seqv : Bool) : Flit := { flit seqv 0 0 with crc := (flit seqv 0 0).crc ^^^ 1#32 }
/-- A whole DPREQ in one flit. -/
def oneFlit (dst : Nat) : Nat := 4 * 2 ^ 8 + 3 * 2 ^ 14 + dst * 2 ^ 16


/-- Obligations.FlitTraffic. -/
theorem wit_FlitTraffic :
    (carries (base []) 5 = false) ∧
    (∀ f ∈ [([], 0), ([(0, 6)], 6), ([(0, 7)], 7)], let s := portAt 5 { st := 5, ver := 2, fails := f.1 };
      Working s ∧ Inv s ∧ carries s 5 = true ∧ slook (fun _ => 0) (port s 5).fails 0 = f.2 ∧ s.fab.inbox = [] ∧ (port s 5).pend = false ∧
      bit (port s 5).retired 31 = false) ∧
    (flitOk (broken true) = false ∧ bit (broken true).ctl.toNat 38 = true ∧ flitOk (broken false) = false ∧
      bit (broken false).ctl.toNat 38 = false) ∧
    (∀ x ∈ [(0, 1), (4095, 0), (2048, 2049), (1, 2), (2047, 2048)], flitOk (flit true x.1 (oneFlit 0)) = true) ∧
    (∀ x ∈ [(0, 1), (4095, 0), (2048, 2049), (1, 2), (2047, 2048)], bit (flit true x.1 (oneFlit 0)).ctl.toNat 38 = true ∧
      (bits (flit true x.1 (oneFlit 0)).ctl.toNat 52 12 + 4096 - (port (base []) 5).rxSeq) % 4096 = x.2) ∧
    (∀ d ∈ [0, 1], bit (flit true 0 (oneFlit d)).hdr.toNat 14 = true ∧ bit (flit true 0 (oneFlit d)).hdr.toNat 15 = true ∧
      bits (flit true 0 (oneFlit d)).hdr.toNat 8 4 = 4 ∧ bits (flit true 0 (oneFlit d)).hdr.toNat 16 15 = d) := by
  have ok : ∀ b n, n < 4096 → flitOk (flit b n (oneFlit 0)) = true := by
    intro b n h
    have e : b2n b ≤ 1 := by cases b <;> decide
    exact (mkFlit_ok _ _ _ (by omega) (by decide)).1
  refine ⟨by decide +kernel, by decide +kernel, ⟨?_, by decide +kernel, ?_, by decide +kernel⟩, ?_, by decide +kernel, by decide +kernel⟩
  · exact (mkFlit_ok (0 * 2 ^ 52 + b2n true * 2 ^ 38) 0 [] (by decide) (by decide)).2
  · exact (mkFlit_ok (0 * 2 ^ 52 + b2n false * 2 ^ 38) 0 [] (by decide) (by decide)).2
  · intro x hx
    simp only [List.mem_cons, List.not_mem_nil, or_false] at hx
    rcases hx with rfl | rfl | rfl | rfl | rfl <;> exact ok _ _ (by decide)

/-- A DPREQ header to chip `dst`, in the outbox of a chip whose port 0 is in state `st`. -/
def outgoing (dst st : Nat) : State :=
  { portAt 0 { st := st, ver := 2 } with
    fab := { ports := if st = 0 then [] else [(0, { st := st, ver := 2 })], outbox := [{ hdr := 4 * 2 ^ 8 + dst * 2 ^ 16 }] } }
/-- A message that has detoured and waits on port 5. -/
def detoured : TxMsg := { orig := { hold := { port := some 1, bufs := 1 } }, hdr := 2 ^ 46 }
/-- An UNREACH about chip 1, for a message of kind `k`. -/
def unreach (k : Nat) : Msg := { hdr := 9 * 2 ^ 8 + k * 2 ^ 64 + 2 ^ 83 + 7 * 2 ^ 98 }
def listOp : Msg := { hdr := 9 * 2 ^ 8 + 8 * 2 ^ 64 + 2 ^ 83 + 5 * 2 ^ 107 }
def migrating (opc : Nat) : Cmd := { cmd opc 0 4096 0 0 with st := .exec }

/-- Obligations.Routing. -/
theorem wit_Routing :
    (decideHop (outgoing 0 5) (routeHdr (4 * 2 ^ 8)) = .deliver ∧ decideHop (outgoing 1 0) (routeHdr (4 * 2 ^ 8 + 2 ^ 16)) = .blocked) ∧
    (decideHop (outgoing 1 5) (routeHdr (4 * 2 ^ 8 + 2 ^ 16)) = .send 0 (routeHdr (4 * 2 ^ 8 + 2 ^ 16)) false ∧
      Working (outgoing 1 5) ∧ Inv (outgoing 1 5) ∧ (port (outgoing 1 5) 0).txq = [] ∧
      mayLeave (outgoing 1 5) 0 [] { orig := { hdr := 4 * 2 ^ 8 + 2 ^ 16 }, hdr := 4 * 2 ^ 8 + 2 ^ 16, left := [] } = true) ∧
    (let s := portAt 5 { st := 5, txq := [detoured] };
      Working s ∧ Inv s ∧ (List.range 6).find? (fun n => (port s n).txq.any detourWaits) = some 5 ∧
      (port s 5).txq.find? detourWaits = some detoured) ∧
    (let s := { ringOf 2 on [] with fab := { inbox := [unreach 4], dp := [{ id := 7, sent := true }] } };
      Working s ∧ Inv s ∧ FirstMsg s (fun m => m.kind == 9) (unreach 4) ∧ bits (unreach 4).hdr 64 4 = 4 ∧
      s.fab.dp.find? (fun x => x.id == bits (unreach 4).hdr 98 16 && x.sent) = some { id := 7, sent := true } ∧
      inBox s (grpBox s 0) (bits (unreach 4).hdr 83 15) = true ∧ (grp s 0).en = true ∧ (grp s 0).offPend = false) ∧
    (let s := { ringOf 2 on [migrating 0x49] with fab := { inbox := [listOp] }, plc := { list := some { q := 0, tag := 1 } } };
      Working s ∧ FirstMsg s (fun m => m.kind == 9) listOp ∧ bits listOp.hdr 64 4 = 8 ∧
      (migrOf (bits listOp.hdr 98 62 * 2 ^ 64)).op = 5 ∧ findCmd s 0 1 = some (migrating 0x49) ∧
      (migrating 0x49).isFinished = false) := by
  refine ⟨?_, ?_, ?_, ?_, ?_⟩ <;> decide +kernel

/-- DP requests of port 3. -/
def withDp (l : List DpReq) : State := { ringOf 2 on [] with fab := { dp := l } }
/-- A DPREQ from chip 1, load or store, of 8 bytes at 4096. -/
def dpreq (op : Nat) : Msg := { hdr := 4 * 2 ^ 8 + 2 ^ 31 + op * 2 ^ 80 + 4096 * 2 ^ 85, data := leBytes 8 77 }
def dprsp : Msg := { hdr := 5 * 2 ^ 8 + 2 ^ 31 + 7 * 2 ^ 64 }

/-- Obligations.DataPorts. -/
theorem wit_DataPorts :
    ((withDp (List.replicate 256 { port := 3 })).fab.dp.filter (fun x => x.port == 3)).length = 256 ∧
    (let s := withDp (List.replicate 255 { port := 3 });
      Working s ∧ Quiet s ∧ holdsMp s 0x28 = true ∧ (s.fab.dp.filter (fun x => x.port == 3)).length < 256 ∧
      DpClear s 3 (4096 : BitVec 57).toNat ∧ bits (4096 : BitVec 57).toNat 42 15 = ownChip s ∧
      bits (2 ^ 42 + 4096 : BitVec 57).toNat 42 15 ≠ ownChip s) ∧
    ((4096 : BitVec 57).toNat % (8 * 2 ^ (0 : BitVec 2).toNat) = 0 ∧ (4100 : BitVec 57).toNat % (8 * 2 ^ (0 : BitVec 2).toNat) ≠ 0 ∧
      5 ≤ (5 : BitVec 3).toNat ∧ 8 * 2 ^ (1 : BitVec 2).toNat ≠ 8) ∧
    (isReady (inBoot .fwInit) = false ∧ (inBoot .fwInit).glb.boot ≠ .coldReset ∧ DpClear (inBoot .fwInit) 3 0) ∧
    ((withDp [{ port := 3, op := 4 }]).fab.dp.find? (fun x => x.port == 3) = some { port := 3, op := 4 }) ∧
    (∀ op ∈ [0, 1], let s := { withDp [] with fab := { inbox := [dpreq op] } };
      Working s ∧ Quiet s ∧ holdsMp s 0x28 = true ∧ FirstMsg s (fun m => m.kind == 4) (dpreq op) ∧ bits (dpreq op).hdr 80 3 = op) ∧
    (∀ l ∈ [[], [({ id := 7, port := 3, sent := true } : DpReq)]], let s := { withDp [] with fab := { inbox := [dprsp], dp := l, dpLate := [7] } };
      Working s ∧ Inv s ∧ FirstMsg s (fun m => m.kind == 5) dprsp ∧ bits dprsp.hdr 64 16 = 7 ∧
      s.fab.dp.find? (fun x => x.id == 7 && x.sent) = l.head? ∧ s.fab.dp.find? (fun x => x.id == 7) = l.head?) := by
  refine ⟨?_, ?_, ?_, ?_, ?_, ?_, ?_⟩ <;> decide +kernel

/-- A placement slot of context 1 in a group of two, with a command. -/
def placed (i : Nat) (p : PSlot) (cs : List Cmd) : State := { ringOf 2 on cs with plc := { slots := [(i, p)] } }
/-- A copy that is due and has not ended. -/
def late : Decision := { kind := .replicate }

/-- Obligations.PlaceCommands. -/
theorem wit_PlaceCommands :
    (∀ sub ∈ [0, 1, 2, 15], Runs (ringOf 2 on [cmd 0x48 sub 0 0 0]) (cmd 0x48 sub 0 0 0) 0x48 ∧ placedSlot (ringOf 2 on []) 1 = none) ∧
    (∀ sub ∈ [0, 1, 2], ∀ st ∈ [1, 2], Runs (placed 31 { st := st, ctx := 1 } [cmd 0x48 sub 0 0 0]) (cmd 0x48 sub 0 0 0) 0x48 ∧
      placedSlot (placed 31 { st := st, ctx := 1 } [cmd 0x48 sub 0 0 0]) 1 = some 31) ∧
    (∀ g ∈ [{}, { on with lost := true }], Runs { placed 31 { st := 1, ctx := 1 } [cmd 0x48 0 0 0 0] with col := { grps := [(0, g)] } }
      (cmd 0x48 0 0 0 0) 0x48) ∧
    (let s := placed 31 { st := 1, ctx := 1 } [cmd 0x48 0 0 0 0];
      Inv s ∧ Quiet s ∧ isSub 0x48 0 [0, 1, 2] (cmd 0x48 0 0 0 0) = true ∧ (pslot s 31).st = 1 ∧ absent (cmd 0x48 0 0 0 0).a = true ∧
      inGroup s 0 = true ∧ (grp s 0).lost = false ∧ ringAxes (grpBox s 0) ≠ [] ∧
      (∀ d ∈ (pslot s 31).decisions, d.copies = false) ∧ (pslot s 31).decisions = []) ∧
    (let s := csrPut (placed 31 { st := 1, ctx := 1, step := 1, decisions := [late] } [cmd 0x48 0 0 0 0]) 0xE0000 1;
      Runs s (cmd 0x48 0 0 0 0) 0x48 ∧ Inv s ∧ bit (csrGet s 0xE0000) 0 = true ∧ late.copies = true ∧ late.done = false ∧
      late.fail = false ∧ late.step + polLag (pslot s 31) ≤ (pslot s 31).step) ∧
    (let s := ringOf 2 on [cmd 0x48 1 4096 0 0];
      Runs s (cmd 0x48 1 4096 0 0) 0x48 ∧ (List.range 32).find? (slotFreeFor s 0 1) = some 0 ∧ inGroup s 0 = true) := by
  refine ⟨?_, ?_, ?_, ?_, ?_, ?_⟩ <;> decide +kernel

/-- A MIGRATE LIST of `n` entries at 4096: 64 bytes from 8192 to chip 1. -/
def listing (n : Nat) : State :=
  poke (poke (placed 31 { st := 1, ctx := 1 } [cmd 0x49 0 4096 0 0]) 4096 4 n) 4160 24 (8192 + (2 ^ 42 + 8192) * 2 ^ 64 + 64 * 2 ^ 128)
/-- An owner table whose blocks 0 to 3 have replicas on chips 0 and 1, with a MIGRATE GSUM. -/
def gsumCmd : Cmd := cmd 0x49 1 0 0 0
def gsumState (cs : List Cmd) (pol : Nat) (g : Option Gsum) (inbox : List Msg) : State :=
  let s := placed 31 { st := 1, ctx := 1, policy := [pol] } cs
  let e := fun b => leBytes 8 (2 ^ 63 + 2 ^ 42 + b * 2 ^ 21) ++ leBytes 8 0x8000
  { s with mem := wrBytes (wrBytes s.mem 0 (e 16 ++ e 17 ++ e 18 ++ e 19)) 0x8000 (leBytes 8 (2 ^ 48)),
           plc := { s.plc with gsum := g }, fab := { inbox := inbox } }
/-- The blocks that a GSUM sums: it starts no chain, and waits for partners. -/
def gsumWaits (s : State) (c : Cmd) (k : Nat) : Bool :=
  match ((gsumParts (pslot s k) (pbE (ctx s c.ctx))).run (begun s c)).1 with
  | .ok (n, []) => n != 0
  | _ => false
/-- A broadcast piece overwrites a replica of this chip that is not the last. -/
def bcReady (s : State) (m : Msg) : Bool :=
  match (blockReplicas (without s m) (migrOf m.hdr).block).2 with
  | .ok l => (ownReplica s l).any (fun r => r.1 + 1 != l.length)
  | _ => false
/-- A MIGR message of slot 31 from chip 1. -/
def migr (op : Nat) (data : List Byte) : Msg := { hdr := 8 * 2 ^ 8 + 2 ^ 31 + 31 * 2 ^ 64 + op * 2 ^ 73, data := data }
def inboxed (p : PSlot) (m : Msg) : State := { placed 31 p [] with fab := { inbox := [m] } }
def gsum2 : Gsum := { q := 0, tag := 1, ctx := 1, slot := 31, left := 2 }

/-- Obligations.Migration: what the commands begin. -/
theorem wit_MigrationBegins :
    (∀ sub ∈ [0, 1, 15], Runs (ringOf 2 on [cmd 0x49 sub 4096 0 0]) (cmd 0x49 sub 4096 0 0) 0x49 ∧
      placedCheck (ringOf 2 on []) 1 = none) ∧
    (∀ n ∈ [0, 1], Runs (listing n) (cmd 0x49 0 4096 0 0) 0x49 ∧ Inv (listing n) ∧ Quiet (listing n) ∧
      placedCheck (listing n) 1 = some 31 ∧ rdNum (listing n).mem 4096 4 = n ∧
      bits (rdNum (listing n).mem 4160 8) 42 15 = ownChip (listing n) ∧ bits (rdNum (listing n).mem 4176 8) 0 32 = 64) ∧
    (∀ pol ∈ [0, 0xF * 2 ^ 58], Runs (gsumState [gsumCmd] pol none []) gsumCmd 0x49 ∧ Inv (gsumState [gsumCmd] pol none []) ∧
      placedCheck (gsumState [gsumCmd] pol none []) 1 = some 31 ∧ inGroup (gsumState [gsumCmd] pol none []) 0 = true) ∧
    (polG (pslot (gsumState [] (0xF * 2 ^ 58) none []) 31) = 0xF ∧ polG (pslot (gsumState [] 0 none []) 31) ≠ 0xF ∧
      gsumWaits (gsumState [gsumCmd] 0 none []) gsumCmd 31 = true) ∧
    (Runs { placed 31 { st := 1, ctx := 1 } [gsumCmd] with col := {} } gsumCmd 0x49) := by
  refine ⟨?_, ?_, ?_, ?_, ?_⟩ <;> decide +kernel

/-- The copy that an arriving piece or acknowledgement names. -/
def copyIn : Decision := { kind := .replicate, src := 1, dst := 0, run := some 5, pieces := 1 }
def copyOut : Decision := { kind := .replicate, src := 0, dst := 1, pieces := 1, sentP := 1 }

/-- Obligations.Migration: what messages do. -/
theorem wit_MigrationMessages :
    (let s := { ringOf 2 on [] with fab := { inbox := [migr 5 (leBytes 8 4096)] } };
      Working s ∧ Quiet s ∧ FirstMsg s (fun m => m.kind == 8 && (migrOf m.hdr).op == 5) (migr 5 (leBytes 8 4096))) ∧
    (∀ op ∈ [0, 1], let s := inboxed { st := 1, ctx := 1 } (migr op []);
      Working s ∧ Inv s ∧ FirstMsg s (fun m => m.kind == 8 && (migrOf m.hdr).op == op) (migr op []) ∧
      decOf s (migrOf (migr op []).hdr) (op == 0) = none ∧ s.plc.members = none) ∧
    (let s := inboxed { st := 1, ctx := 1, decisions := [copyIn] } (migr 0 [1, 2]);
      Working s ∧ Inv s ∧ Quiet s ∧ s.plc.places = [] ∧ FirstMsg s (fun m => m.kind == 8 && (migrOf m.hdr).op == 0) (migr 0 [1, 2]) ∧
      decOf s (migrOf (migr 0 [1, 2]).hdr) true = some copyIn ∧ placeOfBlock (pslot s 31) 0 0 = some (0, 0) ∧
      (pslot s 31).decisions = [copyIn]) ∧
    (let s := inboxed { st := 1, ctx := 1, decisions := [copyOut] } (migr 1 []);
      Working s ∧ Inv s ∧ decOf s (migrOf (migr 1 []).hdr) false = some copyOut ∧ (pslot s 31).decisions = [copyOut] ∧
      copyOut.pieces ≤ copyOut.sentP) ∧
    (∀ n ∈ [1, 2], let s := { ringOf 2 on [migrating 0x49] with
        fab := { inbox := [migr 1 [1]] }, plc := { list := some { q := 0, tag := 1, out := n } } };
      Working s ∧ FirstMsg s (fun m => m.kind == 8 && (migrOf m.hdr).op == 1) (migr 1 [1]) ∧ (migr 1 [1]).data ≠ [] ∧
      findCmd s 0 1 = some (migrating 0x49) ∧ (migrating 0x49).isFinished = false) ∧
    (let s := { placed 31 { st := 2, ctx := 1 } [] with fab := { inbox := [migr 2 []] } };
      Working s ∧ Inv s ∧ gsumMatch s (migr 2 []) = false ∧ NoMsg (base []) (fun m => m.kind == 8) ∧ gsumStale s (migr 2 []) = true) ∧
    (∀ op ∈ [2, 3], let s := gsumState [migrating 0x49] 0 (some gsum2) [migr op [1, 2]];
      Working s ∧ Quiet s ∧ FirstMsg s (fun m => (m.kind == 8 && ((migrOf m.hdr).op == 2 || (migrOf m.hdr).op == 3)) &&
        (gsumMatch s m || gsumStale s m)) (migr op [1, 2]) ∧ gsumMatch s (migr op [1, 2]) = true ∧
      findCmd s 0 1 = some (migrating 0x49) ∧ (migr op [1, 2]).data ≠ [] ∧ 2 ≤ gsum2.left ∧ bcReady s (migr op [1, 2]) = true) := by
  refine ⟨?_, ?_, ?_, ?_, ?_, ?_, ?_⟩ <;> decide +kernel

/-- A chip that joins, with two STATE messages to come. -/
def joining : MembersSt := { role := .joining, stage := 2, states := some 2 }
def stateMsg (own : Nat) : Msg := migr 4 (leBytes 8 1 ++ leBytes 8 0 ++ leBytes 8 0 ++ leBytes 8 own)
def joinState (own : Nat) : State := { ringOf 2 on [] with fab := { inbox := [stateMsg own] }, plc := { members := some joining } }

/-- Obligations.Migration: STATE messages. -/
theorem wit_MigrationState : ∀ own ∈ [0, 1], Working (joinState own) ∧ Inv (joinState own) ∧ Quiet (joinState own) ∧
    FirstMsg (joinState own) (fun m => m.kind == 8 && (migrOf m.hdr).op == 4) (stateMsg own) ∧
    nth ((runs 8 16 (stateMsg own).data).map leNat) 3 = own ∧ joining.stage ≤ 2 ∧
    (List.range 32).find? (slotFree (joinState own)) = some 0 := by decide +kernel

/-- A MEMBERS whose list at 4096 gives this group and box, and names no lost chip. -/
def memCmd : Cmd := cmd 0x4A 0 4096 0 0
def membersState (g box : Nat) : State :=
  poke (ringOf 2 on [memCmd]) 4096 32 (box + g * 2 ^ 64 + 0x7FFF7FFF7FFF7FFF * 2 ^ 128 + 0x7FFF7FFF7FFF7FFF * 2 ^ 192)
/-- Chip 1 alone. -/
def box1 : Nat := 0x0010010101000001
def memSt (g box : Nat) : MembersSt :=
  { q := 0, tag := 1, ctx := 1, g := 0, list := (List.range 8).map (fun i => rdNum (membersState g box).mem (4096 + 8 * i) 8) }

/-- Obligations.MembersAndTimeout: MEMBERS. -/
theorem wit_Members :
    (Runs (membersState 1 box1) memCmd 0x4A ∧ Quiet (membersState 1 box1) ∧ bits (rdNum (membersState 1 box1).mem 4104 8) 0 6 ≠ 0) ∧
    (let s := { membersState 0 box1 with col := { grps := [(0, { on with notin := true })] } };
      Runs s memCmd 0x4A ∧ s.plc.members = none ∧ roleOf s (memSt 0 box1) = none) ∧
    (Runs (membersState 0 box1) memCmd 0x4A ∧ Inv (membersState 0 box1) ∧ Quiet (membersState 0 box1) ∧
      bits (rdNum (membersState 0 box1).mem 4104 8) 0 6 = 0 ∧ groupTaken (begun (membersState 0 box1) memCmd) 0 = false ∧
      roleOf (membersState 0 box1) (memSt 0 box1) = some .departing ∧
      (∀ k ∈ ctxsOf (membersState 0 box1) 0, placedSlot (membersState 0 box1) k = none) ∧
      ∀ u ∈ (membersState 0 box1).disp.uses, u.ctx ∈ ctxsOf (membersState 0 box1) 0 → u.ended.isSome = true) := by
  refine ⟨?_, ?_, ?_⟩ <;> decide +kernel

/-- Obligations.MembersAndTimeout: the placement timeout. -/
theorem wit_PlacementTimeout :
    (let s := { ringOf 2 on [migrating 0x48] with plc := { places := [{ q := 0, tag := 1, ctx := 1, waiting := true }] } };
      Working s ∧ findCmd s 0 1 = some (migrating 0x48) ∧ groupBusyWith s 0 1 = none ∧
      placeRun s 0 1 = some { q := 0, tag := 1, ctx := 1, waiting := true }) ∧
    (let s := { ringOf 2 on [migrating 0x4A] with plc := { members := some { q := 0, tag := 1 } } };
      Working s ∧ findCmd s 0 1 = some (migrating 0x4A) ∧ groupBusyWith s 0 1 = none) ∧
    (∀ opc ∈ [0x48, 0x4A], let s := ringOf 2 { on with active := some { q := 0, tag := 1, opc := opc } } [migrating opc];
      Working s ∧ Inv s ∧ findCmd s 0 1 = some (migrating opc) ∧ groupBusyWith s 0 1 = some 0) ∧
    (let s := { ringOf 2 on [migrating 0x49] with plc := { list := some { q := 0, tag := 1 } } };
      Working s ∧ findCmd s 0 1 = some (migrating 0x49)) := by
  refine ⟨?_, ?_, ?_, ?_⟩ <;> decide +kernel

/-! ## Ill-formed commands -/

/-- WellFormed refuses an ill-formed command for each of its checks, and takes well-formed ones. -/
theorem test_wellFormed :
    [Instr.doorbellLine 16 0 0 false, .csrWrite (2 ^ 17) 0 true 0, .clearingRead (2 ^ 17) true 0, .queueEnable 64 0 true,
      .queueDisable 64 0 true, .queueAbort 64 0 true, .cqSbaseWrite 64 0 true, .rotaEntryWrite 64 0 0 0 true,
      .rotaEntryWrite 0 2 0 0 true, .rotaEntryWrite 0 0 32 0 true, .rotaSwitch 64, .shedInit 8 0 true, .shedInitDone 8,
      .wqResetDone 4, .groupEnable 64 0 true, .groupDisable 64 0 true, .portEnable 6 true, .portDisable 6 true,
      .portDrainEnd 6, .pmcChainRead 256 true, .completionRecordWrite 64, .mpReadBeat 16 0 0 false true,
      .mpReadBeat 0 256 0 false true, .mpWriteAck 16 0 false, .mpWriteAck 0 128 false, .contextDrainEnd 16384,
      .wqRefill 4 0 .none, .wqRefill 0 4 .none, .rowPlanTimeout 4, .shedCacheRefill 8, .shedCacheWriteback 8,
      .cairnMarker 6 0 0, .cairnMarker 0 64 0, .cairnRelease 64].all (fun i => !i.wf) = true ∧
    [Instr.phyRdyRise 6, .phyRdyFall 6, .laneReport 6 0 0, .identityExchange 6 ⟨2, 0, (1, 1, 1)⟩, .calComplete 6 32 0,
      .trainingTimeout 6, .portRetrain 6, .flitReceive 6 (mkFlit 0 0 []), .flitReceive 0 ⟨0, 0, [], 0⟩, .nakReplay 6 0,
      .nakReplay 0 4096, .linkLossTimeout 6, .linkDownFlit 6, .laneOkFall 6 0, .laneOkFall 0 32, .laneErrorLimit 6 0,
      .laneErrorLimit 0 32, .laneRetireFlit 6 0, .laneRetireFlit 0 32, .dpRequest 4 0 0 0 0 0, .dpFence 4,
      .dpTimeout (2 ^ 16), .goLine 16, .sensorSample [] [], .droopAlarm 24, .bypass 0x01, .bypass 0x20,
      .bypass 0x21].all (fun i => !i.wf) = true ∧
    [Instr.nop 0 512, .waitConsume 0 512, .waitObserve 0 512, .signalSet 0 512, .signalClear 0 512, .ctxopen 0 512,
      .ctxclose 0 512, .ctxloadLoad 0 512, .ctxloadSwap 0 512, .ctxloadRelease 0 512, .score 0 512 {},
      .scorev 0 512 {}, .hashsel 0 512, .rgrad 0 512 {}, .count 0 512, .plan 0 512 .none, .sort 0 512 {},
      .gather 0 512 {}, .scatter 0 512 {}, .copy 0 512 {}, .xpose 0 512 {}, .sendForward 0 512,
      .sendBackward 0 512, .sendHoldRelease 0 512, .ret 0 512, .returnHoldRelease 0 512, .combineForward 0 512,
      .combineBackward 0 512, .cancel 0 512, .stallTimeout 0 512, .act 0 512 {}, .norm 0 512 {},
      .softmax 0 512 {}, .alloc 0 512, .free 0 512, .shedWaitTimeout 0 512].all (fun i => !i.wf) = true ∧
    [Instr.allreduce 64 0, .redscat 64 0, .allgather 64 0, .xscan 64 0, .cairn 64 0, .placeStep 64 0, .placeEnrol 64 0,
      .placeLeave 64 0, .migrateList 64 0, .migrateGsum 64 0, .members 64 0, .placementTimeout 64 0, .sampleArm 64 0,
      .sampleDrain 64 0, .sampleStop 64 0, .sampleXdump 64 0, .illegalOpcode 64 0].all (fun i => !i.wf) = true ∧
    [Instr.nop 63 511, .doorbellLine 15 0xFF 0 true, .flitReceive 5 (mkFlit 0 0 []), .mpReadBeat 15 255 3 true true,
      .bypass 0xFF, .dpTimeout 0xFFFF].all Instr.wf = true := by
  refine ⟨?_, ?_, ?_, ?_, ?_⟩ <;> decide +kernel

/-- The opcode table gives bits for no row, so no word spells a command. -/
theorem test_decodeTableWord : decodeTableWord 8 0 = none ∧ (base []).withFetchWord 8 0 = base [] := ⟨rfl, rfl⟩

/-! ## Single steps -/

/-- R41: the rise of DX_RST_N starts PLL_LOCK; PLL_LOCK ends in FUSE_LOAD, or in STRAP_ERROR on bad straps. -/
theorem test_coldResetRelease : goes (.coldResetRelease (straps 2)) State.reset
    (fun t => t.glb.boot == .pllLock && t.pins.ready && t.glb.straps.mplvl == 2) = true := by decide +kernel
theorem test_pllLock : goes .pllLock (inBoot .pllLock) (fun t => t.glb.boot == .fuseLoad && t.glb.time == 0) = true ∧
    goes .pllLock { inBoot .pllLock with glb := { (inBoot .pllLock).glb with straps := straps 0 } }
      (fun t => t.glb.boot == .strapError) = true := by decide +kernel
theorem test_sramInit : goes .sramInit (inBoot .sramInit) (fun t => t.glb.boot == .bootFetch) = true := by decide +kernel
/-- R380: an image without the magic number fails with code 0x01. -/
theorem test_bootVerify : goes .bootVerify (inBoot .bootVerify)
    (fun t => t.glb.boot == .bootFailed && t.glb.bootCode == 1 && t.glb.alertBoot) = true := by decide +kernel
/-- R44 to R46. -/
theorem test_warmReset : goes (.glbResetWarm true) (base []) (fun t => t.glb.boot == .warmDrain) = true ∧
    goes .warmDrainEnd (drain false false) (fun t => t.glb.boot == .warmInit && t.ctxs == []) = true ∧
    goes .warmInitEnd (inBoot .warmInit) (fun t => t.glb.boot == .ready && t.glb.warmCount == 1) = true := by decide +kernel
/-- R47: reboot keeps the straps. -/
theorem test_reboot : goes (.glbResetReboot false true) (base [])
    (fun t => t.glb.boot == .pllLock && t.glb.straps.mplvl == 2 && t.ctxs == []) = true := by decide +kernel
/-- R44: a unit register before READY is refused (R43), and so is one that needs PRIV without it (R27). -/
theorem test_csrWrite : goes (.csrWrite 0x1A00D 7 true 0) (base []) (fun t => csrGet t 0xD0068 == 7 && !t.pins.csrErr) = true ∧
    goes (.csrWrite 0x1A00D 7 false 0) (base []) (fun t => csrGet t 0xD0068 == 0x40 && t.pins.csrErr) = true ∧
    goes (.csrWrite 0x8001 7 true 0) (inBoot .fwInit) (fun t => t.pins.csrErr) = true := by decide +kernel
/-- R6: a clearing read returns the count and keeps the event of its cycle. -/
theorem test_clearingRead : goes (.clearingRead 0x2811 true 1) (csrPut (base []) 0x14088 5)
    (fun t => t.pins.csrRdata == 5 && csrGet t 0x14088 == 1) = true := by decide +kernel
/-- R78. -/
theorem test_ifaceSel : goes (.glbIfaceSelWrite 2 true) (base []) (fun t => cmdLevel t == 2) = true ∧
    goes (.glbIfaceSelWrite 2 true) (csrPut (base []) 0x10 0x103) (fun t => cmdLevel t == 3) = true := by decide +kernel
/-- R78, R84, R85: enable locks LEVEL; abort cancels a command that has not issued; an enabled queue keeps CQ_SBASE. -/
theorem test_queueEnable : goes (.queueEnable 5 0 true) (base []) (fun t => qEn t 5 && bit (csrGet t 0x10) 8) = true := by
  decide +kernel
theorem test_queueAbort : goes (.queueAbort 0 4 true) (base [cmd 0 0 0 0 0])
    (fun t => outcome t 0 1 == some (0x10, 1, 0) && !qEn t 0) = true := by decide +kernel
theorem test_cqSbase : goes (.cqSbaseWrite 5 0x1FC0 true) { base [] with front := { queues := [(5, { stail := 3 })] } }
    (fun t => csrGet t (oCqSbase 5) == 0x1FC0 && (queue t 5).stail == 0) = true := by decide +kernel
/-- R79: a tail 16 beyond SHEAD fits the ring of 16 commands, a tail of 17 does not. -/
theorem test_doorbell : goes (.doorbellLine 0 1 16 true) (base []) (fun t => (queue t 0).stail == 16) = true ∧
    goes (.doorbellLine 0 1 17 true) (base []) (fun t => (queue t 0).stail == 0 && bit (csrGet t (oCqStatus 0)) 16) = true := by
  decide +kernel
/-- R92, R93. -/
theorem test_flags : goes (.cqFlagsetSet 1023 true) (base []) (fun t => flagOf t 1023) = true ∧
    goes (.cqFlagsetClear 5 true) flagged (fun t => !flagOf t 5) = true ∧ goes (.goLine 15) goMapped (fun t => flagOf t 5) = true ∧
    goes (.cqFlagsetSet 5 true) (base [waiter]) (fun t => !flagOf t 5 && (outcome t 0 1).isSome) = true := by decide +kernel
/-- R105. -/
theorem test_ctxGrant : goes (.ctxGrant 0x30007 true) (base []) (fun t => (ctx t 7).grant == 3) = true := by decide +kernel
/-- R110, R111: a shadow entry takes the value; a table of a memory port without owner 0x38 is refused; a switch. -/
theorem test_rota : goes (.rotaEntryWrite 0 1 31 7 true) (base []) (fun t => csrGet t (oRota 0 1 31) == 7) = true ∧
    goes (.rotaEntryWrite 0 0 31 7 true) (base []) (fun t => bit (csrGet t 0x3F018) 0 && csrGet t (oRota 0 0 31) != 7) = true ∧
    goes (.rotaCommit (2 ^ 16) true) (base []) (fun t => t.rotaPend == 0 && bits (csrGet t 0x3F018) 8 6 == 16) = true ∧
    goes (.rotaSwitch 63) (rotaPending (2 ^ 63)) (fun t => t.rotaActive == 2 ^ 63 && t.rotaPend == 0) = true := by decide +kernel
/-- R383, R384, R38. -/
theorem test_update : goes (.fwUpdateLoad true) (base []) (fun t => t.mgt.upd == 1) = true ∧
    goes .fwUpdateLoadDone (updLoad true) (fun t => t.mgt.upd == 4 && t.mgt.updCode == 3) = true ∧
    goes (.fwUpdateGo true) (withMgt { upd := 3 }) (fun t => t.glb.boot == .pllLock && t.glb.fromStaging) = true := by decide +kernel
/-- READ_STATUS: STATE is in the low bits of GLB_STATUS; 7 is READY (Table 02.16). -/
theorem test_readStatus : goes (.readStatus 1) (base []) (fun t => t.pins.mgSdo == [7#8]) = true := by decide +kernel
/-- R387, R389, R49. -/
theorem test_thermal : goes .thermalStepDown (withMgt { thermal := true, tTarget := 2 }) (fun t => t.mgt.tTarget == 2) = true ∧
    goes (.droopAlarm 23) (base []) (fun t => t.mgt.dTarget == 4 && t.mgt.cur == 4) = true ∧
    goes .droopClear (withMgt { droop := true, dTarget := 4 }) (fun t => t.mgt.dTarget == 8) = true ∧
    goes .aclkStepUp (withMgt { cur := 7 }) (fun t => t.mgt.cur == 8) = true := by decide +kernel
/-- R393: the entry is at the start of the ring. -/
theorem test_logFlush : goes .logFlush logged (fun t => t.mgt.flushed == 1) = true := by decide +kernel
/-- R397. -/
theorem test_watchdog : goes .watchdogExpiry (base []) (fun t => t.mgt.restarting && t.mgt.tTarget == 4) = true := by decide +kernel

/-- R397: an image of which one byte has changed no longer matches its digest. -/
theorem test_image_upset :
    imageIntact { base [] with glb := { (base []).glb with image :=
      { digest := sha384 [0#8], len := 1, body := upsetBytes [] [(0, 1#8)] } } } = false := by decide +kernel
/-- R39: IDCODE is version 2, part 0xD032, bit 0 at 1. -/
theorem test_idcode : goes .idcode (base []) (fun t => t.test.dr == 0x2D032001) = true ∧
    goes (.bypass 0) (base []) (fun t => t.test.dr == 0) = true := by decide +kernel

/-- R83, Table 04.1: the word in the prefetch buffer is admitted with its fields. -/
theorem test_commandAdmit : goes .commandAdmit
    { base [] with front := { queues := [(0, { prefetch := [0x18 + 3 * 2 ^ 16 + 5 * 2 ^ 30 + 9 * 2 ^ 48 + 11 * 2 ^ 64] })] } }
    (fun t => (findCmd t 0 5).any (fun c => c.opc == 0x18 && c.ctx == 3 && c.batch == 9 && c.a == 11)) = true := by decide +kernel
/-- R94: the acknowledged record is in the completion ring and the command is gone. -/
theorem test_record : goes (.completionRecordWrite 0) (finished1 false) (fun t => t.front.writes.length == 1) = true ∧
    goes (.mpWriteAck 0 127 false) (finished1 true) (fun t => (queue t 0).ctail == 1 && (findCmd t 0 1).isNone) = true := by
  decide +kernel
/-- R86: a fetch that ends in an error disables the queue. -/
theorem test_readBeat : goes (.mpReadBeat 15 255 0 false true) (reading (.fetch 0)) (fun t => (queue t 0).prefetch == [0, 0]) = true ∧
    goes (.mpReadBeat 15 255 0 true true) (reading (.fetch 0)) (fun t => !qEn t 0) = true := by decide +kernel

/-- Table 04.2, R76. -/
theorem test_nop : goes (.nop 0 1) (base [cmd 0 0 0 0 0]) (fun t => outcome t 0 1 == some (0, 0, 0)) = true ∧
    goes (.illegalOpcode 0 1) (base [cmd 0x01 0 0 0 0]) (fun t => outcome t 0 1 == some (0x3F, 1, 0)) = true := by decide +kernel
/-- R91, R92. -/
theorem test_wait : goes (.waitConsume 0 1) { flagged with front := { flags := flagged.front.flags, inflight := [cmd 4 0 5 0 0] } }
      (fun t => outcome t 0 1 == some (0, 0, 0) && !flagOf t 5) = true ∧
    goes (.waitObserve 0 1) { flagged with front := { flags := flagged.front.flags, inflight := [cmd 4 1 5 0 0] } }
      (fun t => outcome t 0 1 == some (0, 0, 0) && flagOf t 5) = true := by decide +kernel
theorem test_signal : goes (.signalSet 0 2) (base [signal 0]) (fun t => outcome t 0 2 == some (0, 0, 0) && flagOf t 5) = true ∧
    goes (.signalSet 0 2) (base [waiter, signal 0]) (fun t => (outcome t 0 1).isSome && !flagOf t 5) = true := by decide +kernel
/-- R101 to R103. -/
theorem test_ctxopen : goes (.ctxopen 0 1) { base [cmd 8 0 64 128 0] with ctxs := [] }
    (fun t => (ctx t 1).st == .opening && t.front.reads.length == 1) = true ∧
    goes (.mpWriteAck 0 0 false) zeroing (fun t => (ctx t 1).st == .open && (ctx t 1).epoch == 2) = true := by decide +kernel
theorem test_ctxclose : goes (.ctxclose 0 1) (base [cmd 9 0 0 0 0]) (fun t => (ctx t 1).st == .draining) = true ∧
    goes (.contextDrainEnd 1) draining (fun t => (ctx t 1).st == .closed && (outcome t 0 1).isSome) = true := by decide +kernel
/-- R123, R124. -/
theorem test_ctxload : goes (.ctxloadLoad 0 1) (loading false) (fun t => (t.slots[0]?).any (fun x => x.st == 2 && x.ctx == 1)) = true ∧
    goes (.ctxloadSwap 0 1) nextSet (fun t => (ctx t 1).cur.isSome && (ctx t 1).next.isNone) = true := by decide +kernel

/-- R137, R197. -/
theorem test_hashsel : goes (.hashsel 0 1) (selecting 0x12 0 2) (fun t => outcome t 0 1 == some (0x3F, 0x11, 0)) = true ∧
    goes (.hashsel 0 1) (selecting 0x12 3 2) (fun t => outcome t 0 1 == some (0, 0, 4) && t.disp.nextTicket == 4) = true := by
  decide +kernel
theorem test_ticketGrant : goes .ticketGrant (ticketWait true) (fun t => t.disp.nextTicket == 0) = true := by decide +kernel
/-- R149 to R151: of two assignments to expert 0, both are counted. -/
theorem test_count : goes (.count 0 1) (withUses [use0] [cmd 0x18 0 64 4096 0]) (fun t => outcome t 0 1 == some (0, 0, 2)) = true := by
  decide +kernel
theorem test_plan : goes (.plan 0 1 .none) (withUses [use0] [cmd 0x19 0 0 64 0]) (fun t => outcome t 0 1 == some (0x3F, 0x1A, 0)) = true := by
  decide +kernel
theorem test_sort : goes (.sort 0 1 {}) (sorting true) (fun t => outcome t 0 1 == some (0, 0, 0)) = true ∧
    goes (.sort 0 1 {}) (sorting false) (fun t => ((wq t 0).at 0).all.length == 2) = true := by decide +kernel
theorem test_wqReset : goes (.wqReset 8 true) spilled (fun t => (wq t 3).busy && csrGet t 0x80238 == 1) = true ∧
    goes (.wqResetDone 3) resetting (fun t => !(wq t 3).busy) = true := by decide +kernel
theorem test_send : goes (.sendForward 0 1) (withUses [acked] [cmd 0x28 0 64 0 0]) (fun t => outcome t 0 1 == some (0, 0, 0)) = true ∧
    goes (.sendHoldRelease 0 1) (withUses [] [held 0x28]) (fun t => outcome t 0 1 == some (0x10, 4, 0)) = true := by decide +kernel
theorem test_sendItem : goes (.sendItem .none .none) (itemAt [] [] 0 0 stray) (fun t => csrGet t 0x80208 == 1) = true := by
  decide +kernel
theorem test_rowArrival : goes (.rowArrival .none) (itemAt [receiving] [] 1 0 (ours 0))
    (fun t => (useAt t 0).any (fun u => u.received == 1)) = true ∧
    goes (.rowPlanTimeout 3) (itemAt [use0] [] 1 3 (ours 0)) (fun t => csrGet t 0x80218 == 1) = true := by decide +kernel
theorem test_dack : goes (.dackReceive .none) acking (fun t => (ticket t 0).st == 4) = true := by decide +kernel
theorem test_ret : goes (.ret 0 1) (withUses [{ sent with plan := none }] [cmd 0x29 0 64 0 0])
    (fun t => outcome t 0 1 == some (0, 2 ^ 24, 0)) = true := by decide +kernel
theorem test_answer : goes (.answerArrival .none .none) answering (fun t => (ticket t 0).pend == 1) = true ∧
    goes (.answerArrival .none .none) (itemAt [] [] 3 0 stray) (fun t => csrGet t 0x80210 == 1) = true := by decide +kernel
theorem test_combine : goes (.combineForward 0 1) (withUses [acked] [cmd 0x2A 0 64 128 0])
    (fun t => outcome t 0 1 == some (1, 2, 1) && (useAt t 0).any (fun u => u.backward)) = true := by decide +kernel
theorem test_cancel : goes (.cancel 0 1) (withUses [use0] [cmd 0x2B 0 0 0 0]) (fun t => (useAt t 0).any (fun u => u.ended == some .cancel)) = true ∧
    goes .useRelease (withUses [ended] []) (fun t => t.disp.uses == []) = true := by decide +kernel
theorem test_stall : goes (.stallTimeout 0 1) (withUses [use0] [combining]) (fun t => (outcome t 0 1).any (fun o => o.1 == 0x12)) = true ∧
    goes (.shedWaitTimeout 0 1) (base [allocating]) (fun t => (outcome t 0 1).any (fun o => o.1 == 0x20)) = true := by decide +kernel

/-- R240, Table 09.3: RELU of -1.0 is +0, of 1.0 is 1.0. -/
theorem test_act : goes (.act 0 1 {}) (poke (reluState 0 0x30 1) 4096 4 0xBF800000) (fun t => rdNum t.mem 8192 4 == 0) = true ∧
    goes (.act 0 1 {}) (poke (reluState 0 0x30 1) 4096 4 0x3F800000) (fun t => rdNum t.mem 8192 4 == 0x3F800000) = true := by
  decide +kernel
/-- R242: the SOFTMAX of one element is 1.0. -/
theorem test_softmax : goes (.softmax 0 1 {}) (reluState 0 0x32 0) (fun t => rdNum t.mem 8192 4 == 0x3F800000) = true := by
  decide +kernel
/-- R182, R183: index 1 of two names the row at 4352; an index of 2 is out of range. -/
theorem test_gather : goes (.gather 0 1 {}) (poke (yard 0x21 1 2 2) 4352 8 0x4000000040400000)
    (fun t => rdNum t.mem 16384 8 == 0x4000000040400000) = true := by decide +kernel
theorem test_scatter : goes (.scatter 0 1 {}) (yard 0x22 2 2 2) (fun t => outcome t 0 1 == some (0, 0, 0)) = true := by
  decide +kernel
theorem test_copy : goes (.copy 0 1 {}) (poke (copies 2) 4096 8 0x3F80000040000000)
    (fun t => rdNum t.mem 16384 8 == 0x3F80000040000000) = true := by decide +kernel
/-- R185: element 1 of row 0 comes to element 0 of row 1. -/
theorem test_xpose : goes (.xpose 0 1 {}) (poke (tiles 0x24 2 2) 4100 4 0x40000000)
    (fun t => rdNum t.mem (16384 + 256) 4 == 0x40000000 && rdNum t.mem 16388 4 == 0) = true := by decide +kernel

/-- R251, R258. -/
theorem test_shed : goes (.shedInit 0 1 true) (shed0 { used := 1 } []) (fun t => bit (csrGet t (oShdStat 0)) 62) = true ∧
    goes (.shedCacheRefill 0) (shed0 { tail := 64, free := 64 } []) (fun t => (shed t 0).cache.length == 16 && (shed t 0).head == 16) = true ∧
    goes (.shedCacheWriteback 0) (shed0 { cache := List.range 49 } []) (fun t => (shed t 0).cache.length == 33) = true := by
  decide +kernel
/-- R256, R261, R263. -/
theorem test_alloc : goes (.alloc 0 1) (allocState { cache := [3], free := 64, tail := 63 } 1)
      (fun t => outcome t 0 1 == some (0, 0, 0x100000 + 3 * 4096)) = true ∧
    goes (.alloc 0 1) (allocState { used := 64 } 1) (fun t => (outcome t 0 1).any (fun o => o.1 == 0x20)) = true := by decide +kernel
theorem test_free : goes (.free 0 1) (freeState buf63 (ownerWord false 1 1 0))
      (fun t => outcome t 0 1 == some (0, 0, 0) && (shed t 0).cache == [63]) = true ∧
    goes (.free 0 1) (freeState buf63 0) (fun t => outcome t 0 1 == some (0, 3, 0)) = true := by decide +kernel

/-- R272, R277, R280: in a group of one, XSCAN gives LOWER 0 and TOTAL its own counts. -/
theorem test_xscan : goes (.xscan 0 1) (poke (ringOf 1 on [coll 0x43]) 4096 4 7)
    (fun t => outcome t 0 1 == some (0, 0, 1) && rdNum t.mem 8192 8 == 7 * 2 ^ 32) = true := by decide +kernel
/-- R284: the signature goes to the successor. -/
theorem test_allreduce : goes (.allreduce 0 1) (ringOf 2 on [coll 0x40])
    (fun t => t.fab.outbox.any (fun m => m.kind == 7 && m.dst == 1 && m.seq == 0)) = true := by decide +kernel
theorem test_redscat : goes (.redscat 0 1) (ringOf 2 { on with lost := true } [coll 0x41])
    (fun t => (outcome t 0 1).any (fun o => o.1 == 0x13)) = true := by decide +kernel
theorem test_allgather : goes (.allgather 0 1) (poke (ringOf 1 on [coll 0x42]) 4096 4 9) (fun t => rdNum t.mem 8192 4 == 9) = true := by
  decide +kernel
theorem test_cairn : goes (.cairn 0 1) (ringOf 2 { lost := true } [coll 0x44]) (fun t => outcome t 0 1 == some (0x3F, 0x15, 0)) = true := by
  decide +kernel
theorem test_signature : goes .signatureMessage (onGroup (sigOp 1) [collMsg 7 0 2 0 []])
    (fun t => outcome t 0 1 == some (0x11, 9, 0)) = true := by decide +kernel
theorem test_residue : goes (.collMessage { fault := true }) (onGroup redOp [collMsg 6 0 1 1 [0, 0, 0, 0]])
    (fun t => (outcome t 0 1).any (fun o => o.1 == 0x31)) = true := by decide +kernel
theorem test_abortNotice : goes .abortNotice (onGroup (sigOp 0) [collMsg 7 1 0 0 (leBytes 8 0x12 ++ leBytes 8 2)])
    (fun t => (outcome t 0 1).any (fun o => o.1 == 0x12)) = true := by decide +kernel
theorem test_cairnRelease : goes (.cairnRelease 0) (onGroup (cairnOp true) []) (fun t => flagOf t 1023 && (outcome t 0 1).isSome) = true := by
  decide +kernel
theorem test_group : goes (.groupEnable 63 (2 ^ 63 + 0x0010010101000000) true) (base []) (fun t => (grp t 63).en && !(grp t 63).notin) = true ∧
    goes (.groupDisable 0 0 true) (ringOf 2 on []) (fun t => !(grp t 0).en) = true := by decide +kernel

/-- Table 12.1. -/
theorem test_training : goes (.portEnable 5 true) (portAt 5 { phyRdy := true }) (fun t => (port t 5).st == 2) = true ∧
    goes (.laneReport 5 0xFFFFFFFF 0x3F) (portAt 5 { st := 2 }) (fun t => (port t 5).st == 3 && (port t 5).groups == 1) = true ∧
    goes (.identityExchange 0 ⟨2, 1, (2, 1, 1)⟩) (portAt 0 { st := 3 }) (fun t => (port t 0).st == 4) = true ∧
    goes (.calComplete 5 32 11) (portAt 5 { st := 4 }) (fun t => (port t 5).st == 5 && (port t 5).delay == 6) = true := by decide +kernel
theorem test_linkLoss : goes (.phyRdyFall 5) (portAt 5 { st := 5 }) (fun t => (port t 5).st == 0 && (port t 5).failcode == 9) = true ∧
    goes (.linkLossTimeout 5) (portAt 5 { st := 5 }) (fun t => (port t 5).failcode == 8) = true ∧
    goes (.linkDownFlit 5) (portAt 5 { st := 5 }) (fun t => (port t 5).failcode == 0xB) = true ∧
    goes (.trainingTimeout 5) (portAt 5 { st := 1 }) (fun t => (port t 5).failcode == 1) = true := by decide +kernel
/-- R310, R311. -/
theorem test_forward : goes .messageForward (outgoing 0 5) (fun t => t.fab.inbox.length == 1 && t.fab.outbox == []) = true ∧
    goes .messageForward (outgoing 1 0) (fun t => csrGet t 0xA0410 == 1) = true := by decide +kernel
theorem test_unreach : goes .unreachReceive { ringOf 2 on [] with fab := { inbox := [unreach 4], dp := [{ id := 7, sent := true }] } }
    (fun t => (grp t 0).lost && t.fab.rsp.any (fun r => r.status == 2)) = true := by decide +kernel
/-- R34, R317. -/
theorem test_dp : goes (.dpRequest 3 1 4096 0 77 9) (base []) (fun t => rdNum t.mem 4096 8 == 77 && t.fab.rsp == [⟨3, 9, 0, 0⟩]) = true ∧
    goes (.dpRequest 3 0 4100 0 0 9) (base []) (fun t => t.fab.rsp == [⟨3, 9, 3, 0⟩]) = true ∧
    goes (.dpFence 3) (withDp [{ port := 3, op := 4, tag := 9 }]) (fun t => t.fab.rsp == [⟨3, 9, 0, 0⟩]) = true ∧
    goes (.dpTimeout 7) (withDp [{ id := 7, port := 3, sent := true }]) (fun t => t.fab.rsp == [⟨3, 0, 2, 0⟩]) = true := by decide +kernel
theorem test_dpreq : goes .dpreqReceive { withDp [] with fab := { inbox := [dpreq 1] } }
    (fun t => rdNum t.mem 4096 8 == 77 && t.fab.outbox.any (fun m => m.kind == 5 && m.dst == 1)) = true ∧
    goes .dprspReceive { withDp [{ id := 7, port := 3, sent := true }] with
      fab := { inbox := [dprsp], dp := [{ id := 7, port := 3, sent := true }] } } (fun t => t.fab.rsp == [⟨3, 0, 0, 0⟩]) = true := by
  decide +kernel

/-- R330, R332. -/
theorem test_place : goes (.placeStep 0 1) (ringOf 2 on [cmd 0x48 0 0 0 0]) (fun t => outcome t 0 1 == some (0x3F, 0x16, 0)) = true ∧
    goes (.placeEnrol 0 1) (ringOf 2 on [cmd 0x48 1 4096 0 0]) (fun t => (pslot t 0).st == 3 && (grp t 0).active.isSome) = true ∧
    goes (.placeLeave 0 1) (placed 31 { st := 1, ctx := 1 } [cmd 0x48 2 0 0 0]) (fun t => (pslot t 31).st == 0) = true := by decide +kernel
/-- R337, R338, R343. -/
theorem test_migrate : goes (.migrateList 0 1) (listing 1) (fun t => t.fab.outbox.any (fun m => m.kind == 8 && m.data.length == 128)) = true ∧
    goes (.migrateGsum 0 1) (gsumState [gsumCmd] (0xF * 2 ^ 58) none []) (fun t => outcome t 0 1 == some (0, 0, 0)) = true := by
  decide +kernel
theorem test_pieces : goes .migrCopyPiece (inboxed { st := 1, ctx := 1, decisions := [copyIn] } (migr 0 [1, 2]))
      (fun t => rdNum t.mem (5 * 2 ^ 21) 2 == 0x201 && (pslot t 31).decisions.all (·.done)) = true ∧
    goes .migrAck (inboxed { st := 1, ctx := 1, decisions := [copyOut] } (migr 1 [])) (fun t => (pslot t 31).decisions.all (·.done)) = true ∧
    goes .migrListMessage { ringOf 2 on [] with fab := { inbox := [migr 5 (leBytes 64 4096 ++ [9])] } } (fun t => rdNum t.mem 4096 1 == 9) = true := by
  decide +kernel
theorem test_members : goes (.members 0 1) (membersState 0 box1) (fun t => !(grp t 0).en && outcome t 0 1 == some (0, 0, 2)) = true ∧
    goes .migrState (joinState 1) (fun t => (pslot t 0).st == 1 && (pslot t 0).ctx == 1) = true := by decide +kernel

/-- R365, R372, R373. -/
theorem test_sample : goes (.sampleStop 0 1) (sampling 2) (fun t => outcome t 0 1 == some (0, 0, 1)) = true ∧
    goes (.sampleDrain 0 1) (poke (sampling 1) 4096 4 9) (fun t => outcome t 0 1 == some (0, 0, 1) && rdNum t.mem 4160 8 == 1) = true ∧
    goes (.sampleXdump 0 1) (watched 3) (fun t => outcome t 0 1 == some (0, 0, 4)) = true := by decide +kernel
theorem test_bwWindow : goes .bwWindowEnd (csrPut (base []) 0xC1100 (2 ^ 63)) (fun t => t.pmc.bwSeq == 1) = true := by decide +kernel

end Sys2Proof.Tests
end

section
/-! Bits of a number under the operations that form a stored register (R4, R5, R6). -/

namespace Sys2Proof

/-- The model's `bit` is Mathlib's `Nat.testBit`. -/
theorem bit_eq_testBit (x i : Nat) : bit x i = x.testBit i := by
  rw [Nat.testBit_eq_decide_div_mod_eq, bit, Nat.shiftRight_eq_div_pow]
  rfl

@[simp] theorem bit_zero_left (i : Nat) : bit 0 i = false := by simp [bit]

@[simp] theorem bit_and (x y i : Nat) : bit (x &&& y) i = (bit x i && bit y i) := by
  simp only [bit_eq_testBit, Nat.testBit_and]

@[simp] theorem bit_or (x y i : Nat) : bit (x ||| y) i = (bit x i || bit y i) := by
  simp only [bit_eq_testBit, Nat.testBit_or]

end Sys2Proof

namespace Sys2Proof.Machine

/-- Within a register the complement turns every bit over. -/
theorem bit_compl64 (m : Nat) {b : Nat} (hb : b < 64) : bit (compl64 m) b = !bit m b := by
  have hones : (span 63 0).testBit b = true := by
    rw [show span 63 0 = 2 ^ 64 - 1 from rfl, Nat.testBit_two_pow_sub_one, decide_eq_true hb]
  simp [compl64, bit_eq_testBit, hones]

/-- A bit of the value that a plain write stores: RW takes the value, RW1C is cleared by a 1 and set by hardware, any other
bit stays (R5, R6). No bit is both RW and RW1C. -/
theorem bit_plainValue {rw w1c : Nat} (hd : rw &&& w1c = 0) (g v hw : Nat) {b : Nat} (hb : b < 64) :
    bit ((g &&& compl64 (rw ||| (v &&& w1c))) ||| (v &&& rw) ||| (hw &&& w1c)) b =
      (if bit rw b then bit v b else if bit w1c b then (bit g b && !bit v b) || bit hw b else bit g b) := by
  have hdis : (bit rw b && bit w1c b) = false := by rw [← bit_and, hd, bit_zero_left]
  simp only [bit_or, bit_and, bit_compl64 _ hb]
  cases hr : bit rw b <;> cases hw1 : bit w1c b <;> simp_all

/-- A bit of the value that a clearing read leaves: an RC bit holds the events of the same cycle, any other bit stays (R6). -/
theorem bit_clearedValue (g same rc : Nat) {b : Nat} (hb : b < 64) :
    bit ((g &&& compl64 rc) ||| (same &&& rc)) b = (if bit rc b then bit same b else bit g b) := by
  simp only [bit_or, bit_and, bit_compl64 _ hb]
  cases bit rc b <;> simp

end Sys2Proof.Machine
end

section
/-! Rules of the operations that a CSR access and the passing of time are made of: the transfer's count, the CSR outputs, the
register store, and what `CountsOnly` says of the fields outside the counters. -/

namespace Sys2Proof.Machine

@[simp] theorem bwAdd_csr (s : State) (j d n : Nat) : (bwAdd s j d n).csr = s.csr := by
  unfold bwAdd; split <;> rfl

@[simp] theorem bwAdd_latch (s : State) (j d n : Nat) : (bwAdd s j d n).pmc.latch = s.pmc.latch := by
  unfold bwAdd; split <;> rfl

@[simp] theorem csrGet_bwAdd (s : State) (j d n o : Nat) : csrGet (bwAdd s j d n) o = csrGet s o := by
  unfold csrGet; rw [bwAdd_csr]

@[simp] theorem csrOut_csrErr (s : State) (v : Nat) (e : Bool) : (csrOut s v e).pins.csrErr = e := rfl
@[simp] theorem csrOut_csrRdata (s : State) (v : Nat) (e : Bool) : (csrOut s v e).pins.csrRdata = v := rfl
@[simp] theorem csrOut_csr (s : State) (v : Nat) (e : Bool) : (csrOut s v e).csr = s.csr := rfl
@[simp] theorem csrOut_pmc (s : State) (v : Nat) (e : Bool) : (csrOut s v e).pmc = s.pmc := rfl
@[simp] theorem csrGet_csrOut (s : State) (v : Nat) (e : Bool) (o : Nat) : csrGet (csrOut s v e) o = csrGet s o := rfl

/-- Counts do not touch the time base, the resets or the fuses. -/
theorem CountsOnly.glb_eq {s t : State} (h : CountsOnly s t) : t.glb = s.glb := by
  have hg := congrArg State.glb h.1
  exact hg

/-- The outputs of an access do not count. -/
theorem CountsOnly.csrOut {s t : State} (h : CountsOnly s t) (v : Nat) (e : Bool) :
    CountsOnly { s with pins := (csrOut t v e).pins } (csrOut t v e) := by
  obtain ⟨hrest, hregs, hpmc⟩ := h
  refine ⟨?_, hregs, hpmc⟩
  exact congrArg (fun u : State => { u with pins := (Machine.csrOut t v e).pins }) hrest

/-- While the engine's state is determinate, its register store is canonical. -/
theorem Inv.csr_swf {s : State} (h : Inv s) (hs : Served s) : swf csrReset s.csr = true := by
  have hc := h.2 hs.2
  simp only [State.canonical, Bool.and_eq_true] at hc
  tauto

/-- While the engine's state is determinate, the latched odd counters are canonical. -/
theorem Inv.latch_swf {s : State} (h : Inv s) (hs : Served s) : swf (fun _ => 0) s.pmc.latch = true := by
  have hc := h.2 hs.2
  simp only [State.canonical, Bool.and_eq_true] at hc
  tauto

/-- An access that stores one register leaves everything but the store, the answer and the counts. -/
theorem csrAccess_frame (s : State) (d o x v : Nat) (e : Bool) :
    { csrOut (csrPut (bwAdd s 26 d 8) o x) v e with csr := s.csr, pins := s.pins, pmc := s.pmc } = s := by
  unfold bwAdd; split <;> rfl

/-- The register that an access stores reads as stored. -/
theorem csrGet_csrAccess {s : State} (hs : Served s) (hi : Inv s) (d o x v : Nat) (e : Bool) :
    csrGet (csrOut (csrPut (bwAdd s 26 d 8) o x) v e) o = x := by
  rw [csrGet_csrOut, csrGet_csrPut (by rw [bwAdd_csr]; exact hi.csr_swf hs)]

/-- Any other register reads as before the access. -/
theorem csrGet_csrAccess_ne {s : State} {o k : Nat} (hk : k ≠ o) (d x v : Nat) (e : Bool) :
    csrGet (csrOut (csrPut (bwAdd s 26 d 8) o x) v e) k = csrGet s k := by
  rw [csrGet_csrOut, csrGet_csrPut_ne hk, csrGet_bwAdd]

end Sys2Proof.Machine
end

section
/-! The register map: what a register found at an offset is like, and which offsets a write treats plainly. -/

namespace Sys2Proof.Machine

/-- A register of the map comes from a row of its unit range. -/
theorem regInfo_mem {off : Nat} {r : Reg} (h : regInfo off = some r) : ∃ row ∈ regRows off, row.reg = r := by
  obtain ⟨row, hrow, rfl⟩ := Option.map_eq_some_iff.mp h
  exact ⟨row, List.mem_of_find?_eq_some hrow, rfl⟩

/-- No bit of a register is both RW and RW1C. -/
theorem regInfo_rw_w1c {off : Nat} {r : Reg} (h : regInfo off = some r) : r.rw &&& r.w1c = 0 := by
  have hall : ∀ rows ∈ [regsFront, regsCompute, regsBuffers, regsDomain, regsSystem], ∀ row ∈ rows,
      row.reg.rw &&& row.reg.w1c = 0 := by decide
  obtain ⟨row, hrow, rfl⟩ := regInfo_mem h
  refine hall (regRows off) ?_ row hrow
  unfold regRows
  split_ifs <;> simp

/-- PMC_CNT[i] is no clearing register: its count is RW and its OVF RW1C (R360). -/
theorem regInfo_pmcCnt {i : Nat} (hi : i < 256) : ∃ r, regInfo (oPmcCnt i) = some r ∧ r.rc = 0 := by
  have hrows : regRows (oPmcCnt i) = regsSystem := by
    unfold regRows oPmcCnt
    rw [if_neg (by omega), if_neg (by omega), if_neg (by omega), if_neg (by omega)]
  refine ⟨{ rw := span 47 0, w1c := span 63 63, kept := span 63 63 + span 47 0 }, ?_, rfl⟩
  rw [regInfo, hrows, regsSystem, List.find?_cons_of_pos]
  · rfl
  · simp [RegRow.holds, oPmcCnt]; omega

/-- A register with RC bits is no event counter. -/
theorem not_pmcCnt_of_rc {idx : Nat} {r : Reg} (h : regInfo (8 * idx) = some r) (hrc : r.rc ≠ 0) :
    ¬ (0xC0000 ≤ 8 * idx ∧ 8 * idx < 0xC0800) := by
  intro hr
  have hoff : 8 * idx = oPmcCnt (idx - 0x18000) := by unfold oPmcCnt; omega
  obtain ⟨r', h', hrc'⟩ := regInfo_pmcCnt (i := idx - 0x18000) (by omega)
  rw [hoff, h'] at h
  exact hrc (Option.some.inj h ▸ hrc')

end Sys2Proof.Machine
end

section
/-! Accesses: when one is refused, what a taken write or read does, and which writes are plain (R6, R26, R27, R43). -/

namespace Sys2Proof.Machine

/-- Before READY the units' ranges answer with a refusal (R43). -/
theorem access_unit_not_ready {s : State} {off : Nat} (hb : s.glb.boot ≠ .coldReset) (hr : isReady s = false)
    (h1 : 0x10000 ≤ off) (h2 : off < 0xD0000) (priv write : Bool) : access s off priv write = .refused := by
  have hclosed : rangeOpen s off = false := by
    simp only [rangeOpen, hr, Bool.false_or, Bool.or_eq_false_iff, decide_eq_false_iff_not]
    omega
  simp [access, hb, hclosed]

theorem csrWriteAt_taken {s : State} {off : Nat} {priv : Bool} (h : access s off priv true = .taken) (v hw : Nat) :
    csrWriteAt off priv v hw s = csrOut (writeReg (bwAdd s 26 0 8) off v hw) 0 false := by
  simp [csrWriteAt, h]

theorem csrWriteAt_refused {s : State} {off : Nat} {priv : Bool} (h : access s off priv true = .refused) (v hw : Nat) :
    csrWriteAt off priv v hw s = csrOut (bwAdd s 26 0 8) 0 true := by
  simp [csrWriteAt, h]

theorem csrReadAt_taken {s : State} {off : Nat} {priv : Bool} (h : access s off priv false = .taken) (same : Nat) :
    csrReadAt off priv same s = csrOut (readEffect (bwAdd s 26 1 8) off same) (regRead s off) false := by
  simp [csrReadAt, h]

theorem csrReadAt_refused {s : State} {off : Nat} {priv : Bool} (h : access s off priv false = .refused) (same : Nat) :
    csrReadAt off priv same s = csrOut (bwAdd s 26 1 8) 0 true := by
  simp [csrReadAt, h]

theorem doWrite_served {s : State} (hs : Served s) (off : Nat) (priv : Bool) (v hw : Nat) :
    doWrite off priv v hw s = .next (csrWriteAt off priv v hw s) := by
  rw [doWrite, served_eq hs]

theorem doRead_served {s : State} (hs : Served s) (off : Nat) (priv : Bool) (same : Nat) :
    doRead off priv same s = .next (csrReadAt off priv same s) := by
  rw [doRead, served_eq hs]

theorem exec_csrWrite {s : State} (hs : Served s) (idx : Nat) (v hw : Word64) (priv : Bool) :
    exec (.csrWrite idx v priv hw) s = .next (csrWriteAt (8 * idx) priv v.toNat hw.toNat s) :=
  doWrite_served hs ..

theorem exec_clearingRead {s : State} (hs : Served s) (idx same : Nat) (priv : Bool) :
    exec (.clearingRead idx priv same) s = .next (csrReadAt (8 * idx) priv same s) :=
  doRead_served hs ..

theorem exec_pmcChainRead {s : State} (hs : Served s) (i : Nat) (priv : Bool) :
    exec (.pmcChainRead i priv) s = .next (csrReadAt (oPmcCnt i) priv 0 s) :=
  doRead_served hs ..

theorem exec_detTdcCountRead {s : State} (hs : Served s) (priv : Bool) (same : Nat) :
    exec (.detTdcCountRead priv same) s = .next (csrReadAt 0xE0008 priv same s) :=
  doRead_served hs ..

/-! ## Plain writes: the registers that `ownRule` does not name -/

theorem plainWrite_eq {off : Nat} {r : Reg} (h : regInfo off = some r) (s : State) (v hw : Nat) :
    plainWrite s off v hw =
      csrPut s off ((csrGet s off &&& compl64 (r.rw ||| (v &&& r.w1c))) ||| (v &&& r.rw) ||| (hw &&& r.w1c)) := by
  simp [plainWrite, h]

/-- The offsets that `ownRule` names, as a proposition. -/
theorem ownRule_eq_false_iff {off : Nat} : ownRule off = false ↔
    ¬ (off = 0x10 ∨ off = 0x28 ∨ (0x10000 ≤ off ∧ off < 0x14000 ∧ off % 0x100 < 0x20) ∨ off = 0x14080 ∨ off = 0x20000 ∨
      (0x30000 ≤ off ∧ off < 0x38000) ∨ off = 0x3F008 ∨
      (0x70000 ≤ off ∧ off < 0x70200 ∧ off % 0x40 ≠ 0x18) ∨ off = 0x80010 ∨ off = 0x80018 ∨
      (0x80100 ≤ off ∧ off < 0x80180 ∧ off % 0x20 < 0x10) ∨ off = 0x80180 ∨
      (0x90000 ≤ off ∧ off < 0x91000 ∧ off % 0x40 = 0) ∨ (0xA0100 ≤ off ∧ off < 0xA0280 ∧ off % 0x40 = 0) ∨
      off = 0xA0000 ∨ off = 0xA0008 ∨ off = 0xA0020 ∨ off = 0xB0018 ∨ off = 0xB0020 ∨
      (0xC0800 ≤ off ∧ off < 0xC1000) ∨ off = 0xC1000 ∨ off = 0xC1100 ∨ off = 0xC1400 ∨
      off = 0xD0010 ∨ off = 0xD0040 ∨ off = 0xD0050) := by
  rw [← Bool.not_eq_true, not_iff_not]
  simp only [ownRule, Bool.or_eq_true, Bool.and_eq_true, beq_iff_eq, bne_iff_ne, decide_eq_true_eq, or_assoc, and_assoc]

/-- A register of a queue block above CQ_FLAGWIN. -/
theorem writeQueue_plain {r : Nat} (hr : 0x20 ≤ r) (s : State) (q off v hw : Nat) :
    writeQueue s q r off v hw = plainWrite s off v hw := by
  unfold writeQueue
  split
  case h_5 => rfl
  all_goals omega

/-- GLB_, CQ_, CTX_ and ROTA_ -/
theorem writeFront_plain {off : Nat} (h : ownRule off = false) (s : State) (v hw : Nat) :
    writeFront s off v hw = plainWrite s off v hw := by
  rw [ownRule_eq_false_iff] at h
  unfold writeFront
  by_cases hq : 0x10000 ≤ off ∧ off < 0x14000
  · rw [if_pos hq, writeQueue_plain (by omega)]
  · rw [if_neg hq, if_neg (by omega)]
    split
    case h_6 => rfl
    all_goals omega

/-- SHD_STAT -/
theorem writeShed_plain (s : State) (i off v hw : Nat) : writeShed s i 0x18 off v hw = plainWrite s off v hw := rfl

/-- SHD_ and TKT_ -/
theorem writeBuffers_plain {off : Nat} (h : ownRule off = false) (hoff : 0x70000 ≤ off) (s : State) (v hw : Nat) :
    writeBuffers s off v hw = plainWrite s off v hw := by
  rw [ownRule_eq_false_iff] at h
  unfold writeBuffers
  by_cases hshed : off < 0x70200
  · rw [if_pos hshed, show off % 0x40 = 0x18 by omega, writeShed_plain]
  · rw [if_neg hshed, if_neg (by omega), if_neg (by omega), if_neg (by omega)]

/-- COL_, FAB_ and PLC_ -/
theorem writeDomain_plain {off : Nat} (h : ownRule off = false) (hoff : 0x90000 ≤ off) (s : State) (v hw : Nat) :
    writeDomain s off v hw = plainWrite s off v hw := by
  rw [ownRule_eq_false_iff] at h
  unfold writeDomain
  rw [if_neg (by omega), if_neg (by omega)]
  split
  case h_6 => rfl
  all_goals omega

/-- PMC_ -/
theorem writePmc_plain {off : Nat} (h : ownRule off = false) (s : State) (v hw : Nat) :
    writePmc s off v hw = plainWrite s off v hw := by
  rw [ownRule_eq_false_iff] at h
  unfold writePmc
  rw [if_neg (by omega)]
  split
  case h_4 => rfl
  all_goals omega

/-- MGT_ and DET_ -/
theorem writeMgt_plain {off : Nat} (h : ownRule off = false) (s : State) (v hw : Nat) :
    writeMgt s off v hw = plainWrite s off v hw := by
  rw [ownRule_eq_false_iff] at h
  unfold writeMgt
  split
  case h_4 => rfl
  all_goals omega

/-- A write to a register with no behaviour of its own is plain. -/
theorem writeReg_plain {off : Nat} (h : ownRule off = false) (s : State) (v hw : Nat) :
    writeReg s off v hw = plainWrite s off v hw := by
  unfold writeReg
  split_ifs with hfront hcomp hbuf hdom
  · exact writeFront_plain h s v hw
  · rfl
  · exact writeBuffers_plain h (by omega) s v hw
  · exact writeDomain_plain h (by omega) s v hw
  · exact writePmc_plain h s v hw
  · exact writeMgt_plain h s v hw

/-! ## What a read changes and shows -/

/-- A read of a register with RC bits, DET_TDC_COUNT apart, leaves them at the events of the same cycle (R6). -/
theorem readEffect_rc {idx : Nat} {r : Reg} (h : regInfo (8 * idx) = some r) (hrc : r.rc ≠ 0) (hoff : 8 * idx ≠ 0xE0008)
    (s : State) (same : Nat) :
    readEffect s (8 * idx) same =
      csrPut s (8 * idx) ((csrGet s (8 * idx) &&& compl64 r.rc) ||| (same &&& r.rc)) := by
  simp [readEffect, hoff, not_pmcCnt_of_rc h hrc, h, hrc]

/-- A read of the even counter of a chained pair latches the odd one (R363). -/
theorem readEffect_chained {s : State} {i : Nat} (hi : i < 256) (heven : i % 2 = 0)
    (hch : bit (csrGet s (oPmcCfg i)) 62 = true) (same : Nat) :
    readEffect s (oPmcCnt i) same =
      { s with pmc := { s.pmc with
          latch := sput (fun _ => 0) s.pmc.latch (i + 1) (csrField s (oPmcCnt (i + 1)) 0 48) } } := by
  have hidx : (oPmcCnt i - 0xC0000) / 8 = i := by unfold oPmcCnt; omega
  have hne : oPmcCnt i ≠ 0xE0008 := by unfold oPmcCnt; omega
  have hr : 0xC0000 ≤ oPmcCnt i ∧ oPmcCnt i < 0xC0800 := by unfold oPmcCnt; omega
  simp [readEffect, hidx, hne, hr, heven, hch]

/-- A read of DET_TDC_COUNT with no choice in its cycle clears it and DET_TDC_FIRST (R354). -/
theorem readEffect_tdcCount (s : State) : readEffect s 0xE0008 0 = csrPut (csrPut s 0xE0008 0) 0xE0018 0 := rfl

/-- An even event counter shows its stored bits. -/
theorem regRead_pmcCnt_even {i : Nat} (hi : i < 256) (heven : i % 2 = 0) (s : State) :
    regRead s (oPmcCnt i) = csrGet s (oPmcCnt i) := by
  have hlo : 0xC0000 ≤ oPmcCnt i := by unfold oPmcCnt; omega
  have hhi : oPmcCnt i < 0xC0800 := by unfold oPmcCnt; omega
  have hidx : (oPmcCnt i - 0xC0000) / 8 = i := by unfold oPmcCnt; omega
  have hodd : pmcOddChained s i = false := by simp [pmcOddChained, heven]
  unfold regRead rdPmc rdCnt
  rw [if_neg (by omega), if_neg (by omega), if_neg (by omega), if_neg (by omega), if_pos (by omega), if_pos hhi, hidx, hodd,
    if_neg Bool.false_ne_true]

/-- DET_TDC_COUNT shows its stored bits. -/
theorem regRead_tdcCount (s : State) : regRead s 0xE0008 = csrGet s 0xE0008 := rfl

end Sys2Proof.Machine
end

section
/-! The passing of time (log entry 2). -/

namespace Sys2Proof.Machine

theorem step_idle {s : State} (hs : Served s) (hp : s.pending = []) : step s = .next (tick s) := by
  simp [step, hp, idle, served_eq hs]

/-- While the time base runs, a cycle adds 1 to GLB_TIME and otherwise only counts. -/
theorem tick_counts {s : State} (ht : timeRuns s = true) :
    CountsOnly { s with glb := { s.glb with time := s.glb.time + 1 } } (tick s) := by
  rw [tick, if_pos ht]
  exact (CountsOnly.refl _).pmcEvent

theorem tick_stopped {s : State} (ht : timeRuns s = false) : tick s = s := by
  simp [tick, ht]

/-- Settles O2: a cycle of the time base is `tick`, which advances the time and reports one event to the counters. -/
theorem idleCountsTime : Obligations.IdleCountsTime := by
  unfold Obligations.IdleCountsTime
  refine ⟨fun s hs hp ht => ⟨tick s, step_idle hs hp, ?_, tick_counts ht⟩, fun s hs hp ht => ?_⟩
  · exact congrArg Glb.time (tick_counts ht).glb_eq
  · rw [step_idle hs hp, tick_stopped ht]

end Sys2Proof.Machine
end

section
/-! Register writes (R5, R6, R26, R27, R43). -/

namespace Sys2Proof.Machine

/-- A taken write to a register with no behaviour of its own stores the value that R6 gives, and answers. -/
theorem csrWriteAt_plain {s : State} {off : Nat} {priv : Bool} {r : Reg} (ha : access s off priv true = .taken)
    (hr : regInfo off = some r) (ho : ownRule off = false) (v hw : Nat) :
    csrWriteAt off priv v hw s =
      csrOut (csrPut (bwAdd s 26 0 8) off
        ((csrGet s off &&& compl64 (r.rw ||| (v &&& r.w1c))) ||| (v &&& r.rw) ||| (hw &&& r.w1c))) 0 false := by
  rw [csrWriteAt_taken ha, writeReg_plain ho, plainWrite_eq hr, csrGet_bwAdd]

/-- Settles O16: such a write is one store of the value whose bits `bit_plainValue` gives; a refused access only counts its
transfer and answers. -/
theorem registerWrites : Obligations.RegisterWrites := by
  unfold Obligations.RegisterWrites
  refine ⟨?plain, ?refusedWrite, ?refusedRead, ?notReady⟩
  case plain =>
    intro s idx v hw priv r hs hi ha hr ho
    refine ⟨_, (exec_csrWrite hs ..).trans (congrArg _ (csrWriteAt_plain ha hr ho ..)), rfl, fun b hb => ?_,
      fun o hne => csrGet_csrAccess_ne hne .., csrAccess_frame ..⟩
    rw [csrGet_csrAccess hs hi, bit_plainValue (regInfo_rw_w1c hr) _ _ _ hb]
  case refusedWrite =>
    intro s idx v hw priv hs ha
    exact ⟨_, (exec_csrWrite hs ..).trans (congrArg _ (csrWriteAt_refused ha ..)), rfl,
      (CountsOnly.refl s).bwAdd.csrOut 0 true⟩
  case refusedRead =>
    intro s idx same priv hs ha
    exact ⟨_, (exec_clearingRead hs ..).trans (congrArg _ (csrReadAt_refused ha ..)), rfl, rfl,
      (CountsOnly.refl s).bwAdd.csrOut 0 true⟩
  case notReady =>
    intro s off priv write hb hr h1 h2
    exact access_unit_not_ready hb hr h1 h2 priv write

end Sys2Proof.Machine
end

section
/-! Clearing reads (R6, R354, R363). -/

namespace Sys2Proof.Machine

/-- A taken read of a register with RC bits shows its value and stores the cleared one. -/
theorem csrReadAt_rc {s : State} {idx : Nat} {priv : Bool} {r : Reg} (ha : access s (8 * idx) priv false = .taken)
    (hr : regInfo (8 * idx) = some r) (hrc : r.rc ≠ 0) (hoff : 8 * idx ≠ 0xE0008) (same : Nat) :
    csrReadAt (8 * idx) priv same s =
      csrOut (csrPut (bwAdd s 26 1 8) (8 * idx) ((csrGet s (8 * idx) &&& compl64 r.rc) ||| (same &&& r.rc)))
        (regRead s (8 * idx)) false := by
  rw [csrReadAt_taken ha, readEffect_rc hr hrc hoff, csrGet_bwAdd]

/-- Settles O17: a clearing read is one store of the value whose bits `bit_clearedValue` gives; the even counter of a chained
pair writes its latch, and DET_TDC_COUNT stores 0 in its own register and in DET_TDC_FIRST. -/
theorem clearingReads : Obligations.ClearingReads := by
  unfold Obligations.ClearingReads
  refine ⟨?clearing, ?chained, ?tdc⟩
  case clearing =>
    intro s idx same priv r hs hi ha hr hrc hoff
    refine ⟨_, (exec_clearingRead hs ..).trans (congrArg _ (csrReadAt_rc ha hr hrc hoff same)), rfl, rfl, fun b hb => ?_,
      fun o hne => csrGet_csrAccess_ne hne .., csrAccess_frame ..⟩
    rw [csrGet_csrAccess hs hi, bit_clearedValue _ _ _ hb]
  case chained =>
    intro s i priv hs hi hlt heven hch ha
    refine ⟨_, (exec_pmcChainRead hs ..).trans (congrArg _ (csrReadAt_taken ha 0)), ?_, ?_, ?_⟩
    · exact regRead_pmcCnt_even hlt heven s
    · rw [csrOut_csr, readEffect_chained hlt heven (by rwa [csrGet_bwAdd])]
      exact bwAdd_csr ..
    · rw [csrOut_pmc, readEffect_chained hlt heven (by rwa [csrGet_bwAdd]), csrField, csrGet_bwAdd]
      exact slook_sput (by rw [bwAdd_latch]; exact hi.latch_swf hs)
  case tdc =>
    intro s priv hs hi ha
    have hw : swf csrReset (bwAdd s 26 1 8).csr = true := by rw [bwAdd_csr]; exact hi.csr_swf hs
    refine ⟨_, (exec_detTdcCountRead hs ..).trans (congrArg _ (csrReadAt_taken ha 0)), regRead_tdcCount s, ?_, ?_,
      fun o h1 h2 => ?_⟩
    · rw [csrGet_csrOut, readEffect_tdcCount, csrGet_csrPut_ne (by decide), csrGet_csrPut hw]
    · rw [csrGet_csrOut, readEffect_tdcCount, csrGet_csrPut (swf_sput hw)]
    · rw [csrGet_csrOut, readEffect_tdcCount, csrGet_csrPut_ne h2, csrGet_csrPut_ne h1, csrGet_bwAdd]

end Sys2Proof.Machine
end

section
/-! Commands in flight and reports: what a unit leaves of the front end (R82, R87, R94). -/

namespace Sys2Proof.Machine

/-! ## Commands in flight -/

/-- The last replacement of a command stands. -/
theorem setCmd_setCmd {s : State} {x y : Cmd} (hq : y.q = x.q) (ht : y.tag = x.tag) :
    setCmd (setCmd s x) y = setCmd s y := by
  simp only [setCmd, List.map_map, hq, ht]
  congr 3
  funext c
  by_cases h : c.q = x.q ∧ c.tag = x.tag <;> simp [h]

/-- Replacing a command changes no key. -/
theorem keys_setCmd (s : State) (x : Cmd) :
    (setCmd s x).front.inflight.map (fun c => (c.q, c.tag)) = s.front.inflight.map (fun c => (c.q, c.tag)) := by
  simp only [setCmd, List.map_map]
  refine List.map_congr_left fun c _ => ?_
  by_cases h : c.q = x.q ∧ c.tag = x.tag <;> simp [h]

theorem mem_inflight_setCmd {s : State} {x y : Cmd} (h : y ∈ (setCmd s x).front.inflight) :
    y = x ∨ y ∈ s.front.inflight := by
  obtain ⟨c, hc, rfl⟩ := List.mem_map.mp h
  split
  · exact .inl rfl
  · exact .inr hc

theorem mem_inflight_of_findCmd {s : State} {q tag : Nat} {c : Cmd} (h : findCmd s q tag = some c) :
    c ∈ s.front.inflight :=
  List.mem_of_find?_eq_some h

/-- With distinct keys a command in flight is the one found under its key (R82). -/
theorem findCmd_of_mem {s : State} {y : Cmd} (hk : KeysDistinct s) (hy : y ∈ s.front.inflight) :
    findCmd s y.q y.tag = some y := by
  have hsome : (findCmd s y.q y.tag).isSome := List.find?_isSome.mpr ⟨y, hy, by simp⟩
  obtain ⟨z, hz⟩ := Option.isSome_iff_exists.mp hsome
  obtain ⟨hq, ht⟩ := findCmd_key hz
  have hzy : z = y := List.inj_on_of_nodup_map hk (mem_inflight_of_findCmd hz) hy (by simp [hq, ht])
  rw [hz, hzy]

/-! ## Reports -/

@[simp] theorem report_mem (s : State) (q tag : Nat) (r : Report) : (report s q tag r).mem = s.mem := by
  simpa using congrArg State.mem (report_front s q tag r)

@[simp] theorem report_disp (s : State) (q tag : Nat) (r : Report) : (report s q tag r).disp = s.disp := by
  simpa using congrArg State.disp (report_front s q tag r)

/-- The command that a report finishes. -/
def finishedAs (s : State) (c : Cmd) (r : Report) : Cmd := { c with st := .finished { r with tcomp := now s } }

/-- The first report of a command: it is finished, and its queue's record list gains its TAG (R94). -/
theorem report_eq {s : State} {q tag : Nat} {c : Cmd} (h : findCmd s q tag = some c) (hc : c.isFinished = false)
    (r : Report) :
    report s q tag r = setQueue (setCmd s (finishedAs s c r)) q
      { queue s q with done := (queue s q).done ++ [tag] } := by
  simp [report, h, hc, finishedAs]

/-- A command that is finished is not reported again. -/
theorem report_finished {s : State} {q tag : Nat} {c : Cmd} (h : findCmd s q tag = some c) (hc : c.isFinished = true)
    (r : Report) : report s q tag r = s := by
  simp [report, h, hc]

theorem report_none {s : State} {q tag : Nat} (h : findCmd s q tag = none) (r : Report) : report s q tag r = s := by
  simp [report, h]

theorem findCmd_report {s : State} {q tag : Nat} {c : Cmd} (h : findCmd s q tag = some c) (hc : c.isFinished = false)
    (r : Report) : findCmd (report s q tag r) q tag = some (finishedAs s c r) := by
  obtain ⟨rfl, rfl⟩ := findCmd_key h
  rw [report_eq h hc, findCmd_setQueue]
  exact findCmd_setCmd (x := finishedAs s c r) h

theorem findCmd_report_other {s : State} {q tag q' tag' : Nat} (hne : (q', tag') ≠ (q, tag)) (r : Report) :
    findCmd (report s q tag r) q' tag' = findCmd s q' tag' := by
  cases h : findCmd s q tag with
  | none => rw [report_none h]
  | some c =>
    obtain ⟨rfl, rfl⟩ := findCmd_key h
    cases hc : c.isFinished with
    | true => rw [report_finished h hc]
    | false =>
      rw [report_eq h hc, findCmd_setQueue]
      exact findCmd_setCmd_other (x := finishedAs s c r) hne

/-- A finished command stays as it is, whatever is reported. -/
theorem findCmd_report_finished {s : State} {q tag q' tag' : Nat} {c : Cmd} (h : findCmd s q' tag' = some c)
    (hc : c.isFinished = true) (r : Report) : findCmd (report s q tag r) q' tag' = some c := by
  by_cases hkey : (q', tag') = (q, tag)
  · obtain ⟨rfl, rfl⟩ := Prod.mk.inj hkey
    rw [report_finished h hc, h]
  · rw [findCmd_report_other hkey, h]

/-! ## Where the work leaves the command -/

/-- Work that has no report puts its unfinished command where it stands. -/
theorem settle_held {s : State} {q tag : Nat} {c : Cmd} (h : findCmd s q tag = some c) (hc : c.isFinished = false) :
    settle ⟨s, .held⟩ q tag = setCmd s { c with st := .held } := by
  simp [settle, h, hc]

/-- A command that the work left finished, or executing, stays so. -/
theorem findCmd_settle_exec {s : State} {q tag : Nat} {c : Cmd} (h : findCmd s q tag = some c)
    (hc : c.isFinished = true ∨ c.st = .exec) : findCmd (settle ⟨s, .exec⟩ q tag) q tag = some c := by
  obtain ⟨rfl, rfl⟩ := findCmd_key h
  obtain hc | hc := hc
  · simp [settle, h, hc]
  · have hself : { c with st := .exec } = c := by rw [← hc]
    have hopen : c.isFinished = false := by simp [Cmd.isFinished, hc]
    simp only [settle, h, hopen, hself, Bool.false_eq_true, if_false]
    exact findCmd_setCmd h

/-- Where the work leaves its command changes only the in-flight list. -/
theorem settle_exec_frame (s : State) (q tag : Nat) :
    { settle ⟨s, .exec⟩ q tag with front := s.front } = s := by
  unfold settle
  dsimp only
  split
  · rfl
  · split <;> rfl

@[simp] theorem settle_exec_mem (s : State) (q tag : Nat) : (settle ⟨s, .exec⟩ q tag).mem = s.mem := by
  simpa using congrArg State.mem (settle_exec_frame s q tag)

@[simp] theorem settle_exec_disp (s : State) (q tag : Nat) : (settle ⟨s, .exec⟩ q tag).disp = s.disp := by
  simpa using congrArg State.disp (settle_exec_frame s q tag)

/-- Work that has reported its command leaves it so. -/
theorem settle_report (s : State) (q tag : Nat) (r : Report) :
    settle ⟨report s q tag r, .exec⟩ q tag = report s q tag r := by
  have hend : ∀ c, findCmd (report s q tag r) q tag = some c → c.isFinished = true := by
    intro c hc
    cases h : findCmd s q tag with
    | none => rw [report_none h, h] at hc; cases hc
    | some x =>
      cases hx : x.isFinished with
      | true => rw [report_finished h hx, h] at hc; cases hc; exact hx
      | false => rw [findCmd_report h hx] at hc; cases hc; rfl
  cases h : findCmd (report s q tag r) q tag with
  | none => simp [settle, h]
  | some c => simp [settle, h, hend c h]

end Sys2Proof.Machine
end

section
/-! The batch table, and tokens that wait for nothing (R192, R213, R217). -/

namespace Sys2Proof.Machine

/-! ## The batch table -/

theorem useAt_slot {s : State} {n : Nat} {u : Use} (h : useAt s n = some u) : u.slot = n := by
  simpa using List.find?_some h

theorem mem_uses_of_useAt {s : State} {n : Nat} {u : Use} (h : useAt s n = some u) : u ∈ s.disp.uses :=
  List.mem_of_find?_eq_some h

theorem useAt_congr {s t : State} (h : t.disp = s.disp) (n : Nat) : useAt t n = useAt s n := by
  unfold useAt; rw [h]

theorem liveUse_congr {s t : State} (h : t.disp = s.disp) (cx b : Nat) : liveUse t cx b = liveUse s cx b := by
  unfold liveUse; rw [h]

/-- The live use of a context and batch ID is of them, and has not ended. -/
theorem liveUse_key {s : State} {cx b : Nat} {u : Use} (h : liveUse s cx b = some u) :
    u.ctx = cx ∧ u.batch = b ∧ u.ended = none := by
  simpa [and_assoc] using List.find?_some h

/-- An entry that is in use holds what was put into it. -/
theorem useAt_putUse {s : State} {u w : Use} (h : useAt s u.slot = some w) : useAt (putUse s u) u.slot = some u := by
  have hsome : (useAt (putUse s u) u.slot).isSome :=
    List.find?_isSome.mpr ⟨u, List.mem_map.mpr ⟨w, mem_uses_of_useAt h, by simp [useAt_slot h]⟩, by simp⟩
  obtain ⟨v, hv⟩ := Option.isSome_iff_exists.mp hsome
  obtain ⟨x, -, hx⟩ := List.mem_map.mp (mem_uses_of_useAt hv)
  have hslot := useAt_slot hv
  split at hx
  · rw [hv, hx]
  · next hne => exact absurd (by rw [hx]; simpa using hslot) hne

/-! ## A SEND of the phase has completed (R213) -/

/-- Command `c` is of the live use `u`, in its phase. -/
def sendsFor (u : Use) (c : Cmd) : Bool :=
  u.ctx == c.ctx && u.batch == c.batch && u.ended.isNone && bit c.subop 0 == u.backward

theorem sendsFor_iff {u : Use} {c : Cmd} : sendsFor u c = true ↔
    u.ctx = c.ctx ∧ u.batch = c.batch ∧ u.ended = none ∧ bit c.subop 0 = u.backward := by
  simp [sendsFor, and_assoc]

/-- A use after SEND `c` has completed. -/
def markSent (c : Cmd) (u : Use) : Use := if sendsFor u c then { u with sendDone := true } else u

theorem sentOnce_uses (s : State) (c : Cmd) : (sentOnce s c).disp.uses = s.disp.uses.map (markSent c) := rfl

@[simp] theorem markSent_slot (c : Cmd) (u : Use) : (markSent c u).slot = u.slot := by
  unfold markSent; split <;> rfl

@[simp] theorem markSent_sendIssued (c : Cmd) (u : Use) : (markSent c u).sendIssued = u.sendIssued := by
  unfold markSent; split <;> rfl

@[simp] theorem sendsFor_markSent (c x : Cmd) (u : Use) : sendsFor (markSent c u) x = sendsFor u x := by
  unfold markSent; split <;> rfl

theorem markSent_sendDone (c : Cmd) (u : Use) : (markSent c u).sendDone = (u.sendDone || sendsFor u c) := by
  unfold markSent
  split
  · next h => simp [h]
  · next h => simp [h]

theorem useAt_sentOnce (s : State) (c : Cmd) (n : Nat) : useAt (sentOnce s c) n = (useAt s n).map (markSent c) := by
  unfold useAt
  rw [sentOnce_uses, List.find?_map]
  congr 2
  funext u
  simp

@[simp] theorem sentOnce_mem (s : State) (c : Cmd) : (sentOnce s c).mem = s.mem := rfl
@[simp] theorem sentOnce_tickets (s : State) (c : Cmd) : (sentOnce s c).disp.tickets = s.disp.tickets := rfl
@[simp] theorem findCmd_sentOnce (s : State) (c : Cmd) (q tag : Nat) : findCmd (sentOnce s c) q tag = findCmd s q tag := rfl

/-! ## Tokens that wait for nothing (R217) -/

/-- Where every token of a use is combined or waits for an answer, none is combined now. -/
theorem settleTokens_settled {s : State} (h : Settled s) (slot : Nat) : settleTokens s slot = s := by
  unfold settleTokens
  split
  · rfl
  · next u hu =>
    split
    · next hready =>
      refine List.foldlRecOn (motive := fun v => v = s) _ _ rfl fun v hv t ht => ?_
      subst hv
      obtain hc | hp := h.1 u (mem_uses_of_useAt hu) hready t (List.mem_range.mp ht)
      · rw [hc]; rfl
      · simp [hp]
    · rfl

/-- Where no COMBINE waits, none completes. -/
theorem combineReady_settled {s : State} (h : Settled s) (slot : Nat) : combineReady s slot = s := by
  unfold combineReady
  split
  · rfl
  · next u hu =>
    have hnone : s.front.inflight.filter (waitsTokens u) = [] :=
      List.filter_eq_nil_iff.mpr fun x hx => by simp [waitsTokens, h.2 x hx]
    simp [hnone]

/-- What a SEND notes in its use changes no token. -/
theorem Settled.noteSend {s : State} {u : Use} (h : Settled s) (hu : u ∈ s.disp.uses) (issued : Bool) (src : Nat) :
    Settled (putUse s { u with sendIssued := issued, src := src }) := by
  refine ⟨fun w hw hready => ?_, h.2⟩
  obtain ⟨x, hx, rfl⟩ := List.mem_map.mp hw
  by_cases hslot : x.slot == u.slot
  · rw [if_pos hslot] at hready ⊢
    exact h.1 u hu hready
  · rw [if_neg hslot] at hready ⊢
    exact h.1 x hx hready

theorem Settled.setCmd {s : State} {x : Cmd} (h : Settled s) (hx : x.st ≠ .waitTokens) : Settled (setCmd s x) := by
  refine ⟨h.1, fun y hy => ?_⟩
  obtain rfl | hy := mem_inflight_setCmd hy
  · exact hx
  · exact h.2 y hy

theorem Settled.congr {s t : State} (h : Settled s) (hd : t.disp = s.disp) (hf : t.front = s.front) : Settled t := by
  have hp : ∀ u x, leadPend t u x = leadPend s u x := by
    intro u x; unfold leadPend ticket; rw [hd]
  refine ⟨fun u hu hr x hx => ?_, by rw [hf]; exact h.2⟩
  rw [hp]
  exact h.1 u (hd ▸ hu) hr x hx

end Sys2Proof.Machine
end

section
/-! SEND: its completion, its holds, its start (R10, R11, R163, R209, R210). -/

namespace Sys2Proof.Machine

/-! ## Completion -/

theorem sendOver_eq (s : State) (c : Cmd) (status detail result epoch : Nat) :
    sendOver s c status detail result epoch =
      report (sentOnce s c) c.q c.tag { status := status, detail := detail, result := result, epoch := epoch } := rfl

@[simp] theorem sendOver_mem (s : State) (c : Cmd) (status detail result epoch : Nat) :
    (sendOver s c status detail result epoch).mem = s.mem := by
  rw [sendOver_eq, report_mem, sentOnce_mem]

theorem useAt_sendOver (s : State) (c : Cmd) (status detail result epoch n : Nat) :
    useAt (sendOver s c status detail result epoch) n = (useAt s n).map (markSent c) := by
  rw [sendOver_eq, useAt_congr (report_disp ..), useAt_sentOnce]

theorem findCmd_sendOver_other {s : State} {c : Cmd} {q tag : Nat} (hne : (q, tag) ≠ (c.q, c.tag))
    (status detail result epoch : Nat) : findCmd (sendOver s c status detail result epoch) q tag = findCmd s q tag := by
  rw [sendOver_eq, findCmd_report_other hne, findCmd_sentOnce]

/-- A SEND whose rows are all acknowledged and whose receive buffers are filled completes (R11). -/
def completeSend (epoch : Nat) (s : State) (c : Cmd) : State := sendOver s c 0 0 (nth c.saved 2) epoch

/-- The executing SENDs of a use that complete now. -/
def sendsThrough (u : Use) (l : List Cmd) : List Cmd :=
  l.filter (fun c => runsOp u 0x28 c && !c.saved.isEmpty && sendLeft u c == 0)

theorem sendCheck_live {s : State} {n : Nat} {u : Use} (h : useAt s n = some u) (hu : u.ended = none) :
    sendCheck s n = (sendsThrough u s.front.inflight).foldl (completeSend u.epoch) s := by
  simp [sendCheck, h, hu, sendsThrough]
  rfl

theorem mem_completeSends (e : Nat) (l : List Cmd) (s : State) : (l.foldl (completeSend e) s).mem = s.mem :=
  List.foldlRecOn (motive := fun v : State => v.mem = s.mem) l _ rfl fun v hv _ _ => (sendOver_mem v ..).trans hv

/-- SENDs that complete set the mark of their own uses, and change nothing else of any use. -/
theorem useAt_completeSends (e n : Nat) (l : List Cmd) {s : State} {u : Use} (h : useAt s n = some u) :
    ∃ w, useAt (l.foldl (completeSend e) s) n = some w ∧ w.sendIssued = u.sendIssued ∧
      w.sendDone = (u.sendDone || l.any (sendsFor u)) := by
  induction l generalizing s u with
  | nil => exact ⟨u, h, rfl, by simp⟩
  | cons c l ih =>
    have hc : useAt (completeSend e s c) n = some (markSent c u) := by
      rw [completeSend, useAt_sendOver, h, Option.map_some]
    obtain ⟨w, hw, hi, hd⟩ := ih hc
    refine ⟨w, hw, by rw [hi, markSent_sendIssued], ?_⟩
    have hfun : sendsFor (markSent c u) = sendsFor u := funext fun x => sendsFor_markSent c x u
    rw [hd, markSent_sendDone, hfun, List.any_cons, Bool.or_assoc]

/-- A command with no part in the completions is found as before. -/
theorem findCmd_completeSends_other {e q tag : Nat} {l : List Cmd} (h : ∀ y ∈ l, (q, tag) ≠ (y.q, y.tag)) (s : State) :
    findCmd (l.foldl (completeSend e) s) q tag = findCmd s q tag := by
  induction l generalizing s with
  | nil => rfl
  | cons y l ih =>
    rw [List.foldl_cons, ih (fun x hx => h x (List.mem_cons_of_mem _ hx)), completeSend,
      findCmd_sendOver_other (h y List.mem_cons_self)]

theorem Finished.completeSend {s : State} {c : Cmd} (h : Finished s c 0 0) (e : Nat) (y : Cmd) :
    Finished (completeSend e s y) c 0 0 := by
  obtain ⟨x, r, hx, hst, hrest⟩ := h
  have hfin : x.isFinished = true := by simp [Cmd.isFinished, hst]
  exact ⟨x, r, findCmd_report_finished (s := sentOnce s y) hx hfin _, hst, hrest⟩

/-- A SEND among those that complete ends with OK. -/
theorem finished_completeSends {e : Nat} {l : List Cmd} {s : State} {c x : Cmd} (hc : c ∈ l)
    (hx : findCmd s c.q c.tag = some x) (hopen : x.isFinished = false) :
    Finished (l.foldl (completeSend e) s) c 0 0 := by
  induction l generalizing s with
  | nil => cases hc
  | cons y l ih =>
    rw [List.foldl_cons]
    by_cases hkey : (c.q, c.tag) = (y.q, y.tag)
    · obtain ⟨hq, ht⟩ := Prod.mk.inj hkey
      have hnow : Finished (completeSend e s y) c 0 0 := by
        rw [hq, ht] at hx
        have hy := findCmd_report (s := sentOnce s y) hx hopen
          { status := 0, detail := 0, result := nth y.saved 2, epoch := e }
        exact ⟨_, _, by rw [hq, ht]; exact hy, rfl, rfl, rfl⟩
      exact List.foldlRecOn (motive := fun v => Finished v c 0 0) l _ hnow fun v hv z _ => hv.completeSend e z
    · have hcl : c ∈ l := (List.mem_cons.mp hc).resolve_left (by rintro rfl; exact hkey rfl)
      exact ih hcl (by rw [completeSend, findCmd_sendOver_other hkey, hx])

end Sys2Proof.Machine
end

section
/-! Where a unit works for a command: the state that its work begins in (R87, R107, R165). -/

namespace Sys2Proof.Machine

/-- In the front end of `v` a command of `s` stands as `x` in its place in flight, and nothing else has changed. -/
structure StandsAs (s v : State) (x : Cmd) : Prop where
  front : v.front = (setCmd s x).front

/-- `v` is a state in which a unit works for a command of `s` that stands as `x`: dispatch and host memory are as they
were. -/
structure WorksFor (s v : State) (x : Cmd) : Prop extends StandsAs s v x where
  disp : v.disp = s.disp
  mem : v.mem = s.mem

section
variable {s v : State} {c x : Cmd}

theorem worksFor_setCmd (s : State) (x : Cmd) : WorksFor s (setCmd s x) x := { front := rfl, disp := rfl, mem := rfl }

theorem StandsAs.findCmd (h : StandsAs s v x) (hf : findCmd s x.q x.tag = some c) :
    Machine.findCmd v x.q x.tag = some x := by
  unfold Machine.findCmd
  rw [h.front]
  exact findCmd_setCmd hf

theorem StandsAs.findCmd_other {q tag : Nat} (h : StandsAs s v x) (hne : (q, tag) ≠ (x.q, x.tag)) :
    Machine.findCmd v q tag = Machine.findCmd s q tag := by
  unfold Machine.findCmd
  rw [h.front]
  exact findCmd_setCmd_other hne

theorem StandsAs.queue (h : StandsAs s v x) (q : Nat) : Machine.queue v q = Machine.queue s q := by
  unfold Machine.queue
  rw [h.front, setCmd_front_queues]

theorem StandsAs.keysDistinct (h : StandsAs s v x) (hk : KeysDistinct s) : KeysDistinct v := by
  unfold KeysDistinct
  rw [h.front, keys_setCmd]
  exact hk

/-- Counts do not touch the front end, dispatch or host memory. -/
theorem WorksFor.counts {t : State} (h : WorksFor s v x) (hc : CountsOnly v t) : WorksFor s t x :=
  { front := (congrArg State.front hc.1).trans h.front
    disp := (congrArg State.disp hc.1).trans h.disp
    mem := (congrArg State.mem hc.1).trans h.mem }

/-- The unit replaces its own command. -/
theorem WorksFor.setCmd {y : Cmd} (h : WorksFor s v x) (hq : y.q = x.q) (ht : y.tag = x.tag) :
    WorksFor s (setCmd v y) y := by
  refine { front := ?_, disp := h.disp, mem := h.mem }
  rw [← setCmd_setCmd (s := s) hq ht]
  unfold Machine.setCmd
  rw [h.front]
  rfl

theorem WorksFor.settled (h : WorksFor s v x) (hs : Settled s) (hx : x.st ≠ .waitTokens) : Settled v :=
  (hs.setCmd hx).congr h.disp h.front

/-- Work that holds its command leaves the rest of the front end, dispatch and host memory as they were. -/
theorem WorksFor.held (h : WorksFor s v x) (hf : Machine.findCmd s x.q x.tag = some c) (hx : x.isFinished = false) :
    WorksFor s (settle ⟨v, .held⟩ x.q x.tag) { x with st := .held } := by
  rw [settle_held (h.findCmd hf) hx]
  exact h.setCmd rfl rfl

end

/-- Command `c` as it stands once it has issued, with what it has saved. -/
def issuedAs (s : State) (c : Cmd) (l : List Nat) (st : CmdSt) : Cmd := { stampIssue s c with saved := l, st := st }

section
variable {s v : State} {c : Cmd} {l : List Nat} {st : CmdSt}

/-- A command that stands at `st` has moved there. -/
theorem StandsAs.movesTo (h : StandsAs s v (issuedAs s c l st)) (hf : Machine.findCmd s c.q c.tag = some c) :
    MovesTo s v c st := by
  refine ⟨⟨_, h.findCmd hf, rfl, rfl, rfl, rfl, rfl⟩, fun q tag hne => h.findCmd_other hne, ?_, ?_⟩
  · rw [h.front, setCmd_front_queues]
  · rw [h.front, setCmd_front_flags]

/-- A unit that works for an issued command reports it (R94). -/
theorem StandsAs.reports (h : StandsAs s v (issuedAs s c l st)) (hf : Machine.findCmd s c.q c.tag = some c)
    (hopen : (issuedAs s c l st).isFinished = false) (r : Report) :
    Reports s (report v c.q c.tag r) c r.status r.detail r.result r.epoch := by
  have hv : Machine.findCmd v c.q c.tag = some (issuedAs s c l st) := h.findCmd hf
  refine ⟨⟨_, _, findCmd_report hv hopen r, rfl, rfl, rfl, rfl, rfl, rfl, rfl, rfl, rfl⟩, ?_, fun q hne => ?_,
    fun q tag hne => (findCmd_report_other hne r).trans (h.findCmd_other hne)⟩
  · rw [report_eq hv hopen, queue_setQueue (fun hh => by simpa using congrArg Queue.done hh), h.queue]
  · rw [report_eq hv hopen, queue_setQueue_other hne, queue_setCmd, h.queue]

end

end Sys2Proof.Machine
end

section
/-! The structure that a command names is read without error where the host's memory answers every access (R74, R165). -/

namespace Sys2Proof.Machine

/-- The accesses of an instruction that has read 64 bytes at a local address. -/
def ioAfterRead (s : State) (a : Nat) : Io :=
  ioFoot a 64 false { ioStart s with rd := 64 * (granules a 64).length, inB := 64, slotR := ceilDiv 64 128 }

@[simp] theorem ioAfterRead_stop (s : State) (a : Nat) : (ioAfterRead s a).stop = none := rfl

theorem readStruct_quiet {s : State} (h : Quiet s) (a : Nat) :
    readStruct a (ioStart s) =
      (leNat (rdBytes s.mem (opAddr a % 2 ^ 42) 64), ioAfterRead s (opAddr a % 2 ^ 42)) := by
  have hcode : rdCode (ioStart s).lvl2 (ioStart s).mem (opAddr a % 2 ^ 42) 64 = 0 := rdCode_quiet h ..
  have hread : ioRead false (opAddr a) 64 (ioStart s) =
      (rdBytes s.mem (opAddr a % 2 ^ 42) 64, ioAfterRead s (opAddr a % 2 ^ 42)) := by
    show ioReadOn false (opAddr a) 64 (ioStart s) = _
    unfold ioReadOn
    rw [if_neg (by decide), if_neg (by simp [ioStart]), if_neg (by simp [isRemote])]
    dsimp only
    rw [if_pos hcode]
    simp [ioAfterRead, ioStart]
  show (leNat (ioRead false (opAddr a) 64 (ioStart s)).1, (ioRead false (opAddr a) 64 (ioStart s)).2) = _
  rw [hread]

end Sys2Proof.Machine
end

section
/-! SEND: what its start does once its holds are met, case by case, and how it begins (R10, R11, R163, R209, R210). -/

namespace Sys2Proof.Machine

/-! ## The holds of SEND -/

section
variable {v : State} {g : Cmd} {u : Use}

theorem sendGo_gone (h : liveUse v g.ctx g.batch = none) : sendGo g v = doneWith v stCancelled 0x04 0 0 := by
  simp [sendGo, h]

theorem sendGo_noPlan (h : liveUse v g.ctx g.batch = some u) (hp : u.plan = none) (hf : u.planFail = none) :
    sendGo g v = ⟨v, .held⟩ := by
  simp [sendGo, h, hp, hf]

/-- Where PLAN of its use failed, SEND ends as that PLAN did (R163). -/
theorem sendGo_planFailed {f : Nat × Nat} (h : liveUse v g.ctx g.batch = some u) (hp : u.plan = none)
    (hf : u.planFail = some f) : sendGo g v = ⟨sendOver v g f.1 f.2 0 u.epoch, .exec⟩ := by
  simp [sendGo, h, hp, hf]

/-- A use with a plan of which no SEND has failed: what is left of the holds is the phase (R10, R210). -/
theorem sendGo_backward {p : Plan} (h : liveUse v g.ctx g.batch = some u) (hp : u.plan = some p) (hf : u.sendFail = none)
    (hb : bit g.subop 0 = true) :
    sendGo g v = if u.backward then ⟨sendRuns v u.slot g, .exec⟩ else ⟨v, .held⟩ := by
  simp [sendGo, h, hp, hf, hb]

/-- A use that holds its combine buffers takes none. -/
theorem takeCbufs_full (h : useAt v u.slot = some u) (hc : hasCbufs u = true) (n : Nat) (at_ : Option Nat) :
    takeCbufs g (n + 1) at_ v u.slot = (v, .fail 0 0) := by
  simp [takeCbufs, h, hc]

/-- A forward SEND of a use with a plan and all its combine buffers (R209). -/
theorem sendGo_forward {p : Plan} (h : liveUse v g.ctx g.batch = some u) (hu : useAt v u.slot = some u)
    (hp : u.plan = some p) (hf : u.sendFail = none) (hb : bit g.subop 0 = false) (hc : hasCbufs u = true) :
    sendGo g v = ⟨sendRuns (putUse v { u with sendIssued := true }) u.slot g, .exec⟩ := by
  have hat : useAt (putUse v { u with sendIssued := true }) u.slot = some { u with sendIssued := true } :=
    useAt_putUse (u := { u with sendIssued := true }) hu
  have hfull : takeCbufs g (cmbBufs u + 1) g.bank (putUse v { u with sendIssued := true }) u.slot =
      (putUse v { u with sendIssued := true }, .fail 0 0) :=
    takeCbufs_full (u := { u with sendIssued := true }) hat hc _ _
  have hany : (useAt (putUse v { u with sendIssued := true }) u.slot).any hasCbufs = true := by
    rw [hat]; exact hc
  simp only [sendGo, h]
  generalize putUse v { u with sendIssued := true } = w at hfull hany ⊢
  simp [hp, hf, hb, hfull, hany]

/-! ## A SEND that runs -/

/-- A use of which SEND `g` runs: its source is the operand of `g`. -/
def withSrc (g : Cmd) (u : Use) : Use := { u with src := nth g.saved 1 }

/-- A SEND runs: it executes, and of its use those SENDs complete whose rows are through (R11). -/
theorem sendRuns_settled (hs : Settled v) (hu : useAt v u.slot = some u) (hlive : u.ended = none) :
    let w := setCmd (putUse v (withSrc g u)) { g with st := .exec }
    sendRuns v u.slot g = (sendsThrough (withSrc g u) w.front.inflight).foldl (completeSend u.epoch) w := by
  intro w
  have hw : Settled w := (hs.noteSend (mem_uses_of_useAt hu) u.sendIssued _).setCmd (by simp)
  have hat : useAt w u.slot = some (withSrc g u) := useAt_putUse (u := withSrc g u) hu
  have hrun : sendRuns v u.slot g = sendCheck (combineReady (settleTokens w u.slot) u.slot) u.slot := by
    simp only [sendRuns, hu]
    rfl
  rw [hrun, settleTokens_settled hw, combineReady_settled hw, sendCheck_live hat hlive]
  rfl

/-- A SEND `g` of use `u` that runs takes `v` to `t`: the use still notes that a SEND has left its hold, and is marked where
the SEND completes; the command is finished with OK where nothing is left to wait for, and executes otherwise (R11, R213). -/
structure SendRan (v t : State) (u : Use) (g : Cmd) : Prop where
  mem : t.mem = v.mem
  use : ∃ u1, useAt t u.slot = some u1 ∧ u1.sendIssued = u.sendIssued ∧ (sendLeft u g = 0 → u1.sendDone = true)
  through : sendLeft u g = 0 → Finished t g 0 0
  waits : sendLeft u g ≠ 0 → ∃ c1, findCmd t g.q g.tag = some c1 ∧ c1.st = .exec

theorem sendRuns_ran {x : Cmd} (hs : Settled v) (hk : KeysDistinct v) (hu : useAt v u.slot = some u)
    (hown : sendsFor u g = true) (hop : g.opc = 0x28) (hsaved : g.saved ≠ []) (hx : findCmd v g.q g.tag = some x) :
    SendRan v (sendRuns v u.slot g) u g := by
  obtain ⟨hctx, hbatch, hlive, -⟩ := sendsFor_iff.mp hown
  rw [sendRuns_settled hs hu hlive]
  let e : Cmd := { g with st := .exec }
  let w := setCmd (putUse v (withSrc g u)) e
  let l := sendsThrough (withSrc g u) w.front.inflight
  have hat : useAt w u.slot = some (withSrc g u) := useAt_putUse (u := withSrc g u) hu
  have hfound : findCmd w g.q g.tag = some e := findCmd_setCmd (x := e) hx
  have hkeys : KeysDistinct w := by
    unfold KeysDistinct
    rw [keys_setCmd]
    exact hk
  have hruns : runsOp (withSrc g u) 0x28 e = true := by
    simp [runsOp, ofUse, useOps, Cmd.inUnit, e, withSrc, hop, hctx, hbatch]
  have hthrough : sendLeft u g = 0 → e ∈ l := by
    intro h0
    have hleft : sendLeft (withSrc g u) e = 0 := h0
    exact List.mem_filter.mpr ⟨mem_inflight_of_findCmd hfound, by simp [hruns, hleft, e, hsaved]⟩
  refine ⟨mem_completeSends .., ?_, fun h0 => finished_completeSends (c := e) (hthrough h0) hfound rfl,
    fun h0 => ⟨e, ?_, rfl⟩⟩
  · obtain ⟨u1, hu1, hi, hd⟩ := useAt_completeSends u.epoch u.slot l hat
    refine ⟨u1, hu1, hi, fun h0 => ?_⟩
    rw [hd, List.any_eq_true.mpr ⟨e, hthrough h0, hown⟩, Bool.or_true]
  · refine (findCmd_completeSends_other (fun y hy hkey => h0 ?_) w).trans hfound
    obtain ⟨hyw, hyl⟩ := List.mem_filter.mp hy
    obtain ⟨hq, ht⟩ := Prod.mk.inj hkey
    have hye : some y = some e := by rw [← findCmd_of_mem hkeys hyw, ← hq, ← ht, hfound]
    simp only [Bool.and_eq_true, beq_iff_eq] at hyl
    obtain ⟨-, hleft⟩ := hyl
    rw [Option.some.inj hye] at hleft
    exact hleft

/-- What a SEND that ran leaves stands when its work is settled. -/
theorem SendRan.settle {t : State} (h : SendRan v t u g) : SendRan v (settle ⟨t, .exec⟩ g.q g.tag) u g := by
  refine ⟨(settle_exec_mem ..).trans h.mem, ?_, fun h0 => ?_, fun h0 => ?_⟩
  · rw [useAt_congr (settle_exec_disp ..)]
    exact h.use
  · obtain ⟨c1, r, hc1, hst, hr⟩ := h.through h0
    exact ⟨c1, r, findCmd_settle_exec hc1 (.inl (by simp [Cmd.isFinished, hst])), hst, hr⟩
  · obtain ⟨c1, hc1, hst⟩ := h.waits h0
    exact ⟨c1, findCmd_settle_exec hc1 (.inr hst), hst⟩

/-- A SEND whose use has a plan and is in its phase runs; of a forward one the use notes that it has left its hold (R10,
R177, R209, R210). -/
theorem sendGo_runs {p : Plan} {x : Cmd} (hs : Settled v) (hk : KeysDistinct v)
    (hl : liveUse v g.ctx g.batch = some u) (hu : useAt v u.slot = some u) (hp : u.plan = some p)
    (hf : u.sendFail = none) (hph : bit g.subop 0 = u.backward) (hc : bit g.subop 0 = false → hasCbufs u = true)
    (hop : g.opc = 0x28) (hsaved : g.saved ≠ []) (hx : findCmd v g.q g.tag = some x) :
    ∃ b, (bit g.subop 0 = false → b = true) ∧
      SendRan v (Machine.settle (sendGo g v) g.q g.tag) { u with sendIssued := b } g := by
  obtain ⟨hctx, hbatch, hlive⟩ := liveUse_key hl
  have hown : sendsFor u g = true := sendsFor_iff.mpr ⟨hctx, hbatch, hlive, hph⟩
  cases hb : bit g.subop 0 with
  | true =>
    rw [sendGo_backward hl hp hf hb, if_pos (hph ▸ hb)]
    exact ⟨u.sendIssued, by simp, (sendRuns_ran hs hk hu hown hop hsaved hx).settle⟩
  | false =>
    rw [sendGo_forward hl hu hp hf hb (hc hb)]
    have hran := sendRuns_ran (v := putUse v { u with sendIssued := true }) (u := { u with sendIssued := true })
      (hs.noteSend (mem_uses_of_useAt hu) true u.src) hk (useAt_putUse (u := { u with sendIssued := true }) hu) hown hop
      hsaved hx
    have hsettled := hran.settle
    exact ⟨true, by simp, ⟨hsettled.mem, hsettled.use, hsettled.through, hsettled.waits⟩⟩

/-! ## How SEND begins -/

/-- A SEND that has read its operand meets its holds (R107). -/
theorem sendWork_resumed (hu : liveUse v g.ctx g.batch = some u) (hg : (grp v (pbGroup (ctx v g.ctx))).lost = false)
    (hok : slotsOk v g = true) (hsaved : g.saved ≠ []) : sendWork g v = sendGo g v := by
  simp [sendWork, hu, hg, withSlots, hok, hsaved]

/-- A SEND reads the descriptor of its operand and meets its holds (R165). -/
theorem sendWork_reads (hq : Quiet v) (hu : liveUse v g.ctx g.batch = some u)
    (hg : (grp v (pbGroup (ctx v g.ctx))).lost = false) (hok : slotsOk v g = true) (hsaved : g.saved = []) :
    let g1 : Cmd := { g with saved := [2, leNat (rdBytes v.mem (opAddr g.a % 2 ^ 42) 64), 0] }
    sendWork g v =
      sendGo g1 (setCmd (ioClose v (0x10 + g.cls) (0x14 + g.cls) (ioAfterRead v (opAddr g.a % 2 ^ 42))) g1) := by
  simp [sendWork, hu, hg, withSlots, hok, hsaved, readStruct_quiet hq]

end

/-- SEND at its issue meets its holds with its operand read. -/
theorem sendWork_begins {s : State} {c : Cmd} {u : Use} (hc : Runs s c 0x28) (hq : Quiet s)
    (hu : liveUse s c.ctx c.batch = some u) (hg : (grp s (pbGroup (ctx s c.ctx))).lost = false) :
    ∃ l st v, l ≠ [] ∧ (st = .exec ∨ st = .admitted) ∧ WorksFor s v (issuedAs s c l st) ∧
      sendWork (stampIssue s c) (begun s c) = sendGo (issuedAs s c l c.st) v := by
  obtain ⟨⟨-, -, -, hst, -⟩, hslots⟩ := hc
  have hbegun : WorksFor s (begun s c) (issuedAs s c c.saved .exec) := worksFor_setCmd s _
  by_cases hsaved : c.saved = []
  · have hclose : WorksFor s (ioClose (begun s c) _ _ (ioAfterRead (begun s c) (opAddr c.a % 2 ^ 42))) _ :=
      hbegun.counts (ioClose_counts (begun s c) (0x10 + (stampIssue s c).cls) (0x14 + (stampIssue s c).cls) _ rfl)
    exact ⟨_, c.st, _, List.cons_ne_nil _ _, .inr hst, hclose.setCmd (y := issuedAs s c _ c.st) rfl rfl,
      sendWork_reads (v := begun s c) (g := stampIssue s c) hq hu hg hslots hsaved⟩
  · exact ⟨c.saved, .exec, begun s c, hsaved, .inl rfl, hbegun,
      sendWork_resumed (v := begun s c) (g := stampIssue s c) hu hg hslots hsaved⟩

/-- The row of SEND for a command's phase. -/
def sendInstr (c : Cmd) : Instr := if bit c.subop 0 then .sendBackward c.q c.tag else .sendForward c.q c.tag

theorem exec_sendInstr {s : State} {c : Cmd} (h : Issues s c 0x28) :
    exec (sendInstr c) s = .next (settle (sendWork (stampIssue s c) (begun s c)) c.q c.tag) := by
  have hop : c.opc = 0x28 := h.2.2.1
  have hrow : ∀ k : Cmd → Bool, k c = true → working (issueRow k c.q c.tag sendWork) s =
      settle (sendWork (stampIssue s c) (begun s c)) c.q c.tag :=
    fun k hk => by rw [working_eq h.working, issueRow_go h hk]
  unfold sendInstr
  split
  · next hb => exact congrArg Host.Outcome.next (hrow _ (by simp [hop, hb]))
  · next hb => exact congrArg Host.Outcome.next (hrow _ (by simp [hop, hb]))

/-- A held SEND tries its holds again. -/
theorem exec_sendHoldRelease {s : State} {c : Cmd} (hw : Working s) (hf : findCmd s c.q c.tag = some c)
    (hop : c.opc = 0x28) (hst : c.st = .held) :
    exec (.sendHoldRelease c.q c.tag) s =
      .next (settle (sendGo { c with st := .exec } (setCmd s { c with st := .exec })) c.q c.tag) := by
  show Host.Outcome.next _ = _
  rw [working_eq hw]
  simp [holdRelease, hf, hop, hst]

end Sys2Proof.Machine
end

section
/-! The four claims of SEND: its hold, the failure of its PLAN, its run, and the end of its use. -/

namespace Sys2Proof.Machine

/-- A SEND that issues and whose hold is not over is held. -/
theorem send_held {s : State} {c : Cmd} {u : Use} (hc : Runs s c 0x28) (hq : Quiet s)
    (hu : liveUse s c.ctx c.batch = some u) (hg : (grp s (pbGroup (ctx s c.ctx))).lost = false)
    (hpf : u.planFail = none) (hsf : u.sendFail = none)
    (hold : u.plan = none ∨ (bit c.subop 0 = true ∧ u.backward = false)) :
    ∃ t, exec (sendInstr c) s = .next t ∧ MovesTo s t c .held ∧ t.mem = s.mem ∧ t.disp = s.disp := by
  obtain ⟨l, st, v, -, hst, hv, hgo⟩ := sendWork_begins hc hq hu hg
  have hfound : findCmd s c.q c.tag = some c := hc.1.found
  have hopen : (issuedAs s c l st).isFinished = false := by obtain rfl | rfl := hst <;> rfl
  have hl : liveUse v c.ctx c.batch = some u := (liveUse_congr hv.disp ..).trans hu
  have hheld : sendGo (issuedAs s c l c.st) v = ⟨v, .held⟩ := by
    obtain hp | ⟨hb, hback⟩ := hold
    · exact sendGo_noPlan hl hp hpf
    · cases hp : u.plan with
      | none => exact sendGo_noPlan hl hp hpf
      | some p => rw [sendGo_backward (g := issuedAs s c l c.st) hl hp hsf hb, hback, if_neg Bool.false_ne_true]
  have ht : WorksFor s _ (issuedAs s c l .held) := hv.held hfound hopen
  exact ⟨_, by rw [exec_sendInstr hc.1, hgo, hheld]; rfl, ht.movesTo hfound, ht.mem, ht.disp⟩

/-- A SEND that issues in a use whose PLAN failed ends as that PLAN did (R163). -/
theorem send_planFailed {s : State} {c : Cmd} {u : Use} {f : Nat × Nat} (hc : Runs s c 0x28) (hq : Quiet s)
    (hu : liveUse s c.ctx c.batch = some u) (hg : (grp s (pbGroup (ctx s c.ctx))).lost = false) (hp : u.plan = none)
    (hpf : u.planFail = some f) :
    ∃ t, exec (sendInstr c) s = .next t ∧ Reports s t c f.1 f.2 0 u.epoch ∧ t.mem = s.mem ∧
      t.disp.tickets = s.disp.tickets := by
  obtain ⟨l, st, v, -, hst, hv, hgo⟩ := sendWork_begins hc hq hu hg
  have hopen : (issuedAs s c l st).isFinished = false := by obtain rfl | rfl := hst <;> rfl
  have hl : liveUse v c.ctx c.batch = some u := (liveUse_congr hv.disp ..).trans hu
  have hsent : StandsAs s (sentOnce v (issuedAs s c l c.st)) (issuedAs s c l st) := ⟨hv.front⟩
  have hend : settle (sendGo (issuedAs s c l c.st) v) c.q c.tag = report (sentOnce v (issuedAs s c l c.st)) c.q c.tag
      { status := f.1, detail := f.2, result := 0, epoch := u.epoch } := by
    rw [sendGo_planFailed (g := issuedAs s c l c.st) hl hp hpf, sendOver_eq]
    exact settle_report ..
  refine ⟨_, (exec_sendInstr hc.1).trans (congrArg _ (hgo ▸ hend)), hsent.reports hc.1.found hopen _, ?_, ?_⟩
  · rw [report_mem, sentOnce_mem, hv.mem]
  · rw [report_disp, sentOnce_tickets, hv.disp]

/-- A SEND that meets its holds in a use with a plan runs, whether it issues or was held: `v` is the state that its work
begins in, and `g` the command with its operand read. -/
theorem send_runs {s v : State} {i : Instr} {g c : Cmd} {st : CmdSt} {u : Use} {p : Plan}
    (hrow : exec i s = .next (settle (sendGo g v) g.q g.tag)) (hv : WorksFor s v { g with st := st })
    (hst : st ≠ .waitTokens) (hfound : findCmd s g.q g.tag = some c) (hop : g.opc = 0x28) (hsaved : g.saved ≠ [])
    (hs : Settled s) (hk : KeysDistinct s) (hl : liveUse s g.ctx g.batch = some u) (hu : Live s u) (hp : u.plan = some p)
    (hf : u.sendFail = none) (hph : bit g.subop 0 = u.backward) (hc : bit g.subop 0 = false → hasCbufs u = true) :
    ∃ t u1 c1, exec i s = .next t ∧ useAt t u.slot = some u1 ∧ (bit g.subop 0 = false → u1.sendIssued = true) ∧
      findCmd t g.q g.tag = some c1 ∧ t.mem = s.mem ∧
      (if sendLeft u g = 0 then Finished t g 0 0 ∧ u1.sendDone = true else c1.st = .exec) := by
  obtain ⟨b, hb, hran⟩ := sendGo_runs (hv.settled hs hst) (hv.keysDistinct hk) ((liveUse_congr hv.disp ..).trans hl)
    ((useAt_congr hv.disp _).trans hu.1) hp hf hph hc hop hsaved (hv.findCmd hfound)
  obtain ⟨u1, hu1, hissued, hdone⟩ := hran.use
  have hmem := hran.mem.trans hv.mem
  have hnoted : bit g.subop 0 = false → u1.sendIssued = true := fun h => hissued.trans (hb h)
  by_cases h0 : sendLeft u g = 0
  · obtain ⟨c1, r, hc1, hfin⟩ := hran.through h0
    exact ⟨_, u1, c1, hrow, hu1, hnoted, hc1, hmem, by rw [if_pos h0]; exact ⟨⟨c1, r, hc1, hfin⟩, hdone h0⟩⟩
  · obtain ⟨c1, hc1, hexec⟩ := hran.waits h0
    exact ⟨_, u1, c1, hrow, hu1, hnoted, hc1, hmem, by rw [if_neg h0]; exact hexec⟩

/-- A held SEND of a use that is gone ends with CANCELLED. -/
theorem send_useGone {s : State} {c : Cmd} (hw : Working s) (hfound : findCmd s c.q c.tag = some c) (hop : c.opc = 0x28)
    (hst : c.st = .held) (hl : liveUse s c.ctx c.batch = none) :
    ∃ t, exec (.sendHoldRelease c.q c.tag) s = .next t ∧ Finished t c 0x10 0x04 ∧ { t with front := s.front } = s := by
  let g : Cmd := { c with st := .exec }
  have hgone : sendGo g (setCmd s g) = doneWith (setCmd s g) stCancelled 0x04 0 0 := sendGo_gone (v := setCmd s g) hl
  have hg : findCmd (setCmd s g) c.q c.tag = some g := findCmd_setCmd (x := g) hfound
  refine ⟨_, by rw [exec_sendHoldRelease hw hfound hop hst, hgone], ?_, ?_⟩
  · exact ⟨_, _, findCmd_report hg rfl _, rfl, rfl, rfl⟩
  · exact congrArg (fun t : State => { t with front := s.front }) (report_front (setCmd s g) c.q c.tag _)

/-- Settles O43: each clause is the lemma of its case; the two ways by which a SEND comes to run differ in the state that
its work begins in. -/
theorem sends : Obligations.Sends := by
  unfold Obligations.Sends
  refine ⟨fun s c u hc hq hu hg hpf hsf hold => send_held hc hq hu hg hpf hsf hold,
    fun s c u st dt hc hq hu hg hp hpf => send_planFailed hc hq hu hg hp hpf, ?runs,
    fun s c hw hfound hop hst hl => send_useGone hw hfound hop hst hl⟩
  case runs =>
    rintro s c u p i hq hk hl hu hp hf hph hc hs (⟨hruns, hg, rfl⟩ | ⟨hw, hfound, hop, hst, hsaved, rfl⟩)
    · obtain ⟨l, st, v, hread, hst, hv, hgo⟩ := sendWork_begins hruns hq hl hg
      have hopc : c.opc = 0x28 := hruns.1.2.2.1
      have hopen : st ≠ .waitTokens := by obtain rfl | rfl := hst <;> simp
      exact send_runs (g := issuedAs s c l c.st) ((exec_sendInstr hruns.1).trans (by rw [hgo]; rfl)) hv hopen
        hruns.1.found hopc hread hs hk hl hu hp hf hph hc
    · exact send_runs (g := { c with st := .exec }) (exec_sendHoldRelease hw hfound hop hst) (worksFor_setCmd s _)
        (by simp) hfound hop hsaved hs hk hl hu hp hf hph hc

end Sys2Proof.Machine
end

section
/-! What a reset leaves (R18, R41, R47, R51): the state after power-on, and the cold reset. -/

namespace Sys2Proof.Machine

/-- Settles O3: every table of the reset state is empty, so that each entry reads as its reset value. -/
theorem resetState : Obligations.ResetState :=
  ⟨rfl, rfl, fun _ => rfl, rfl, fun _ => rfl, fun _ => BitVec.getLsbD_zero, fun _ => ⟨rfl, rfl⟩, rfl, fun _ => rfl,
    fun _ => rfl, fun _ => rfl, fun _ => rfl, fun _ => rfl, rfl, rfl, rfl, rfl, rfl⟩

/-- Settles O4: every table of the reset state is empty. -/
theorem resetKeepsInv : Obligations.ResetKeepsInv := by
  unfold Obligations.ResetKeepsInv
  exact ⟨rfl, fun _ => rfl⟩

/-- A store that lists the keys of `l` with their values under `f` reads `f` at a key of `l`, and the default elsewhere. -/
theorem slook_map_keys {α : Type} (d f : Nat → α) (l : List Nat) (a : Nat) :
    slook d (l.map (fun n => (n, f n))) a = if a ∈ l then f a else d a := by
  induction l with
  | nil => rfl
  | cons k l ih =>
    by_cases h : a = k
    · simp [slook, h]
    · simp [slook, h, ih]

/-- The ports after a reset: the PHYs' ready lines persist (R41). -/
theorem slook_portsReset (s : State) {n : Nat} (hn : n < 6) :
    slook (fun _ => ({} : Port)) (portsReset s) n = { phyRdy := (port s n).phyRdy } := by
  rw [portsReset]
  refine (slook_map_keys (fun _ => ({} : Port)) (fun _ => { phyRdy := true }) _ n).trans ?_
  cases h : (port s n).phyRdy <;> simp [h, hn]

theorem coldState_coldBase (s : State) : ColdState s (coldBase s) where
  boot := rfl
  served := ⟨rfl, rfl⟩
  regs _ := rfl
  front := rfl
  ctxs := rfl
  slots := rfl
  disp := rfl
  shd := rfl
  col := rfl
  plc := rfl
  pmc := rfl
  mgt := rfl
  pins := rfl
  test := rfl
  rota := ⟨rfl, rfl⟩
  ports _ hn := slook_portsReset s hn
  fab := rfl
  fuses := rfl
  mem := rfl
  pending := rfl

/-! ## A change of GLB_STATUS.STATE (R399) -/

theorem setBoot_of_ne {s : State} {b : BootState} (h : s.glb.boot ≠ b) :
    setBoot s b = csrSet { s with glb := { s.glb with boot := b } } 0x20 (2 ^ 16) := if_neg h

@[simp] theorem setBoot_boot (s : State) (b : BootState) : (setBoot s b).glb.boot = b := by
  unfold setBoot
  split
  · assumption
  · rfl

/-- A change of STATE touches nothing but the state itself and GLB_STATUS. -/
theorem setBoot_frame (s : State) (b : BootState) : { setBoot s b with csr := s.csr, glb := s.glb } = s := by
  unfold setBoot
  split <;> rfl

theorem setBoot_glb (s : State) (b : BootState) : (setBoot s b).glb = { s.glb with boot := b } := by
  unfold setBoot
  split
  · next h => rw [← h]
  · rfl

theorem csrGet_setBoot (s : State) (b : BootState) {o : Nat} (h : o ≠ 0x20) : csrGet (setBoot s b) o = csrGet s o := by
  unfold setBoot
  split
  · rfl
  · exact csrGet_csrPut_ne h

/-- Hardware sets a bit of a register whose reset value has it clear, whatever the register store. -/
theorem bit_csrSet {s : State} {o k : Nat} (hr : bit (csrReset o) k = false) :
    bit (csrGet (csrSet s o (2 ^ k)) o) k = true := by
  have hset : bit (csrGet s o ||| 2 ^ k) k = true := by
    rw [bit_or, bit_eq_testBit (2 ^ k), Nat.testBit_two_pow_self, Bool.or_true]
  have hne : csrGet s o ||| 2 ^ k ≠ csrReset o := fun h => by rw [h, hr] at hset; exact Bool.false_ne_true hset
  show bit (slook csrReset (sput csrReset s.csr o (csrGet s o ||| 2 ^ k)) o) k = true
  rw [slook_sput_of_ne_default hne, hset]

/-- Every change of STATE sets STCHG (R399). -/
theorem setBoot_stchg {s : State} {b : BootState} (h : s.glb.boot ≠ b) : bit (csrGet (setBoot s b) 0x20) 16 = true := by
  rw [setBoot_of_ne h]
  exact bit_csrSet (by decide)

/-- Settles O8: both cold resets leave `coldBase`; the rise of the reset pin samples the straps. -/
theorem coldReset : Obligations.ColdReset := by
  unfold Obligations.ColdReset
  refine ⟨fun s => ⟨_, rfl, coldState_coldBase s⟩, fun s => ⟨_, rfl, coldState_coldBase s⟩, fun s p hb => ?_,
    fun s p hb => congrArg Host.Outcome.next (if_neg hb)⟩
  let u : State := { s with glb := { s.glb with straps := p }, pins := { s.pins with ready := true } }
  refine ⟨setBoot u .pllLock, congrArg Host.Outcome.next (if_pos hb), setBoot_boot u _, ?_, ?_, ?_,
    fun o ho => csrGet_setBoot u _ ho⟩
  · rw [setBoot_glb]
  · exact congrArg (fun t : State => t.pins.ready) (setBoot_frame u .pllLock)
  · exact congrArg (fun t : State => { t with glb := s.glb, pins := s.pins, csr := s.csr }) (setBoot_frame u .pllLock)

/-! ## The reboot (R47) -/

theorem access_glbReset {s : State} (hb : s.glb.boot ≠ .coldReset) : access s 0x28 true true = .taken := by
  simp [access, hb, rangeOpen, show regInfo 0x28 = some roS from by decide]

theorem exec_glbResetReboot {s : State} (hs : Served s) (hb : s.glb.boot ≠ .coldReset) (warm : Bool) :
    exec (.glbResetReboot warm true) s = .next (csrOut (reboot (bwAdd s 26 0 8) false) 0 false) := by
  have hbit : bit (2 + b2n warm) 1 = true := by cases warm <;> decide
  show doWrite 0x28 true (2 + b2n warm) 0 s = _
  rw [doWrite_served hs, csrWriteAt_taken (access_glbReset hb)]
  simp [writeReg, writeFront, writeReset, hbit]

/-- Settles O11: with REBOOT the write acts as `reboot`, whatever WARM is. -/
theorem rebootOverridesWarm : Obligations.RebootOverridesWarm := by
  unfold Obligations.RebootOverridesWarm
  intro s warm hs hb
  refine ⟨by rw [exec_glbResetReboot hs hb, exec_glbResetReboot hs hb], _, exec_glbResetReboot hs hb warm, ?_⟩
  have hc : CountsOnly s (bwAdd s 26 0 8) := (CountsOnly.refl s).bwAdd
  have hmem : (bwAdd s 26 0 8).mem = s.mem := by have h := congrArg State.mem hc.1; exact h
  have hpending : (bwAdd s 26 0 8).pending = s.pending := by have h := congrArg State.pending hc.1; exact h
  refine ⟨setBoot_boot .., ?_, rfl, rfl, rfl, rfl, rfl, rfl, rfl, rfl, fun o ho => ?_, hmem, hpending⟩
  · show (bwAdd s 26 0 8).glb.straps = s.glb.straps
    rw [hc.glb_eq]
  · exact csrGet_setBoot _ _ ho

end Sys2Proof.Machine
end

section
/-! Log entries and faults touch the management subsystem and the registers alone (R392, R396). -/

namespace Sys2Proof.Machine

/-- Between `s` and `t` only the management subsystem and registers have changed. -/
def LogsOnly (s t : State) : Prop := { t with mgt := s.mgt, csr := s.csr } = s

section
variable {s t u : State}

theorem LogsOnly.refl (s : State) : LogsOnly s s := rfl

theorem LogsOnly.trans (h : LogsOnly s t) (k : LogsOnly t u) : LogsOnly s u := by
  unfold LogsOnly at *
  rw [← h, ← k]

theorem LogsOnly.pending (h : LogsOnly s t) : t.pending = s.pending := by have h' := congrArg State.pending h; exact h'
theorem LogsOnly.mem (h : LogsOnly s t) : t.mem = s.mem := by have h' := congrArg State.mem h; exact h'
theorem LogsOnly.glb (h : LogsOnly s t) : t.glb = s.glb := by have h' := congrArg State.glb h; exact h'
theorem LogsOnly.pins (h : LogsOnly s t) : t.pins = s.pins := by have h' := congrArg State.pins h; exact h'
theorem LogsOnly.front (h : LogsOnly s t) : t.front = s.front := by have h' := congrArg State.front h; exact h'
theorem LogsOnly.fab (h : LogsOnly s t) : t.fab = s.fab := by have h' := congrArg State.fab h; exact h'
theorem LogsOnly.test (h : LogsOnly s t) : t.test = s.test := by have h' := congrArg State.test h; exact h'

theorem logsOnly_csrPut (s : State) (o v : Nat) : LogsOnly s (csrPut s o v) := rfl
theorem logsOnly_csrSet (s : State) (o m : Nat) : LogsOnly s (csrSet s o m) := rfl

theorem logsOnly_countF (s : State) (off lo w n : Nat) : LogsOnly s (countF s off lo w n) := by
  unfold countF
  split <;> rfl

end

/-- The log with entry `e` made; `full` says that it overwrites one that is not flushed (R393). -/
def logged (s : State) (full : Bool) (e : Nat × Nat × Nat × Nat) : State :=
  let s1 := { s with mgt := { s.mgt with
    log := sput (fun _ => (0, 0, 0, 0)) s.mgt.log (s.mgt.next % 2048) e,
    next := (s.mgt.next + 1) % 2 ^ 32,
    flushed := if full then (s.mgt.flushed + 1) % 2 ^ 32 else s.mgt.flushed } }
  if full then countC s1 0xD0E00 1 else s1

theorem logEntry_eq_logged (s : State) (code sev cx detail unit : Nat) :
    ∃ full e, logEntry s code sev cx detail unit = logged s full e := ⟨_, _, rfl⟩

theorem logsOnly_logged (s : State) (full : Bool) (e : Nat × Nat × Nat × Nat) : LogsOnly s (logged s full e) := by
  cases full
  · rfl
  · exact congrArg (fun t : State => { t with mgt := s.mgt, csr := s.csr }) (logsOnly_countF _ 0xD0E00 0 48 1)

theorem logsOnly_logEntry (s : State) (code sev cx detail unit : Nat) :
    LogsOnly s (logEntry s code sev cx detail unit) := by
  obtain ⟨full, e, h⟩ := logEntry_eq_logged s code sev cx detail unit
  rw [h]
  exact logsOnly_logged ..

theorem logsOnly_raiseFault (s : State) (code sev bitNo cx detail unit : Nat) :
    LogsOnly s (raiseFault s code sev bitNo cx detail unit) :=
  (logsOnly_logEntry s code sev cx detail unit).trans (logsOnly_csrSet ..)

/-- A log entry changes no register but its loss count (R393). -/
theorem csrGet_logEntry {s : State} {code sev cx detail unit o : Nat} (h : o ≠ 0xD0E00) :
    csrGet (logEntry s code sev cx detail unit) o = csrGet s o := by
  obtain ⟨full, e, hlog⟩ := logEntry_eq_logged s code sev cx detail unit
  rw [hlog]
  cases full
  · rfl
  · exact csrGet_csrPut_ne h

theorem csrGet_raiseFault {s : State} {code sev bitNo cx detail unit o : Nat} (h : o ≠ 0xD0E00) (hf : o ≠ 0xD0050) :
    csrGet (raiseFault s code sev bitNo cx detail unit) o = csrGet s o :=
  (csrGet_csrPut_ne hf).trans (csrGet_logEntry h)

end Sys2Proof.Machine
end

section
/-! Bring-up (R41, R42, R247, R380, R390, R399). -/

namespace Sys2Proof.Machine

theorem setBoot_mem (s : State) (b : BootState) : (setBoot s b).mem = s.mem := by
  unfold setBoot; split <;> rfl

theorem setBoot_mgt (s : State) (b : BootState) : (setBoot s b).mgt = s.mgt := by
  unfold setBoot; split <;> rfl

/-! ## A stage that fails (R42) -/

/-- A stage has failed in state `u`, its log entry made. -/
def failedAt (u : State) (b : BootState) (code : Nat) : State :=
  setBoot { u with glb := { u.glb with bootCode := code, alertBoot := true } } b

/-- A stage that fails first makes its log entry, after SRAM_INIT (Table 16.7). -/
theorem bootFail_eq (s : State) (b : BootState) (code : Nat) (logged : Bool) :
    ∃ u, LogsOnly s u ∧ bootFail s b code logged = failedAt u b code := by
  refine ⟨if logged then logEntry s (0x0800 + code) 3 0 0 0 else s, ?_, rfl⟩
  split
  · exact logsOnly_logEntry ..
  · exact LogsOnly.refl s

section
variable (s : State) (b : BootState) (code : Nat) (logged : Bool)

@[simp] theorem bootFail_boot : (bootFail s b code logged).glb.boot = b := by
  obtain ⟨u, -, h⟩ := bootFail_eq s b code logged
  rw [h]
  exact setBoot_boot ..

@[simp] theorem bootFail_bootCode : (bootFail s b code logged).glb.bootCode = code := by
  obtain ⟨u, -, h⟩ := bootFail_eq s b code logged
  rw [h, failedAt, setBoot_glb]

@[simp] theorem bootFail_mem : (bootFail s b code logged).mem = s.mem := by
  obtain ⟨u, hlog, h⟩ := bootFail_eq s b code logged
  rw [h, failedAt, setBoot_mem]
  exact hlog.mem

theorem bootFail_stchg (hne : s.glb.boot ≠ b) : bit (csrGet (bootFail s b code logged) 0x20) 16 = true := by
  obtain ⟨u, hlog, h⟩ := bootFail_eq s b code logged
  rw [h]
  refine setBoot_stchg ?_
  show u.glb.boot ≠ b
  rwa [hlog.glb]

end

/-! ## The stages, each in the state that it ends -/

section
variable {s : State}

theorem pllLocked_good (hb : s.glb.boot = .pllLock) (hp : strapsBad s.glb.straps = false) :
    pllLocked s = setBoot { s with glb := { s.glb with time := 0 } } .fuseLoad := by
  simp [pllLocked, hb, hp]

theorem pllLocked_bad (hb : s.glb.boot = .pllLock) (hp : strapsBad s.glb.straps = true) :
    pllLocked s = bootFail s .strapError 0x04 false := by
  simp [pllLocked, hb, hp]

theorem fuseLoaded_good (hb : s.glb.boot = .fuseLoad) (hf : fusesOk s.glb.fuseBlock = true) :
    fuseLoaded s = setBoot { s with glb := { s.glb with fuses := s.glb.fuseBlock } } .sramInit := by
  simp [fuseLoaded, hb, hf]

theorem fuseLoaded_bad (hb : s.glb.boot = .fuseLoad) (hf : fusesOk s.glb.fuseBlock = false) :
    fuseLoaded s = bootFail s .bootFailed 0x05 false := by
  simp [fuseLoaded, hb, hf]

theorem sramDone_eq (hb : s.glb.boot = .sramInit) : sramDone s =
    setBoot (if s.glb.fromStaging then s else { s with mgt := { s.mgt with staging := [] } }) .bootFetch := by
  simp [sramDone, hb]

theorem bootFetched_staged (hb : s.glb.boot = .bootFetch) (hs : s.glb.fromStaging = true) :
    bootFetched s = toVerify s (stagedImage s) s.mgt.committed := by
  simp [bootFetched, hb, hs]

theorem bootFetched_window {m : List (Nat × Byte)} (hb : s.glb.boot = .bootFetch) (hs : s.glb.fromStaging = false)
    (hsrc : s.glb.straps.bootsrc = false) (hm : fetchImage s (s.glb.straps.bootwin.toNat * 2 ^ 19) = some m) :
    bootFetched s = toVerify s m none := by
  unfold bootFetched
  rw [if_neg (not_not.mpr hb), hs, hsrc, if_neg Bool.false_ne_true, if_neg Bool.false_ne_true, hm]

theorem bootFetched_refused (hb : s.glb.boot = .bootFetch) (hs : s.glb.fromStaging = false)
    (hsrc : s.glb.straps.bootsrc = false) (hm : fetchImage s (s.glb.straps.bootwin.toNat * 2 ^ 19) = none) :
    bootFetched s = bootFail s .bootFailed 0x03 true := by
  unfold bootFetched
  rw [if_neg (not_not.mpr hb), hs, hsrc, if_neg Bool.false_ne_true, if_neg Bool.false_ne_true, hm]

/-- The image that passed verification, with its digest (R380, R397). -/
def residentImage (m : List (Nat × Byte)) : Image :=
  { fwver := imgFwver m, digest := sha384 (signedBytes m), body := sparseBelow m (imgLen m - 96), len := imgLen m - 96 }

theorem bootVerified_good (hb : s.glb.boot = .bootVerify)
    (hv : verifyCode s.glb.fuses s.glb.committed s.glb.fetched = 0) : bootVerified s =
      setBoot { s with glb := { s.glb with fetched := [], committed := none, image := residentImage s.glb.fetched } }
        .fwInit := by
  unfold bootVerified residentImage
  rw [if_neg (not_not.mpr hb)]
  dsimp only
  rw [if_neg (not_not.mpr hv)]

theorem bootVerified_bad (hb : s.glb.boot = .bootVerify)
    (hv : verifyCode s.glb.fuses s.glb.committed s.glb.fetched ≠ 0) : bootVerified s =
      bootFail { s with glb := { s.glb with fetched := [], committed := none } } .bootFailed
        (verifyCode s.glb.fuses s.glb.committed s.glb.fetched) true := by
  unfold bootVerified
  rw [if_neg (not_not.mpr hb)]
  dsimp only
  rw [if_pos hv]

end

/-! ## The function tables (R247) -/

/-- The check of the function tables whose CRC is `crc`. -/
def tablesChecked (s : State) (crc : Nat) : State :=
  let s1 := csrPut s 0x50038 (b2n (crc == s.glb.fuses.tblSum) * 2 ^ 63 + crc)
  if crc == s.glb.fuses.tblSum then s1 else raiseFault s1 0x0501 2 10 0 0 0

/-- READY, with the PLEVEL of the resident image (R42). -/
def readied (u : State) : State :=
  setBoot { u with glb := { u.glb with image := { u.glb.image with plevel := imgPlevel u.glb.image.body } } } .ready

theorem checkTables_eq (s : State) : checkTables s = tablesChecked s (crc32c tableBytes) := by
  unfold checkTables tablesChecked
  dsimp only

theorem fwInited_eq {s : State} (hb : s.glb.boot = .fwInit) :
    fwInited s = readied (tablesChecked s (crc32c tableBytes)) := by
  unfold fwInited
  rw [if_neg (not_not.mpr hb), checkTables_eq]
  dsimp only [readied]

theorem logsOnly_tablesChecked (s : State) (crc : Nat) : LogsOnly s (tablesChecked s crc) := by
  unfold tablesChecked
  dsimp only
  split
  · exact logsOnly_csrPut ..
  · exact (logsOnly_csrPut ..).trans (logsOnly_raiseFault ..)

/-- The check leaves its verdict above the CRC that it found. -/
theorem csrGet_tablesChecked {s : State} (h : swf csrReset s.csr = true) (crc : Nat) :
    csrGet (tablesChecked s crc) 0x50038 = b2n (crc == s.glb.fuses.tblSum) * 2 ^ 63 + crc := by
  unfold tablesChecked
  dsimp only
  split
  · exact csrGet_csrPut h
  · rw [csrGet_raiseFault (by decide) (by decide)]
    exact csrGet_csrPut h

theorem bit63_verdict {b : Bool} {n : Nat} (h : n < 2 ^ 63) : bit (b2n b * 2 ^ 63 + n) 63 = b := by
  cases b <;> simp only [bit, b2n, Nat.shiftRight_eq_div_pow] <;> simp <;> omega

/-- FW_INIT ends in READY, and the tables serve exactly where their CRC is the fused one. -/
theorem readied_tablesChecked {s : State} (hb : s.glb.boot = .fwInit) (h : swf csrReset s.csr = true) {crc : Nat}
    (hcrc : crc < 2 ^ 32) :
    let t := readied (tablesChecked s crc)
    t.glb.boot = .ready ∧ bit (csrGet t 0x20) 16 = true ∧ (tablesOk t = true ↔ crc = s.glb.fuses.tblSum) ∧
      t.mem = s.mem := by
  have hlog := logsOnly_tablesChecked s crc
  have hget := csrGet_tablesChecked h crc
  have hboot : (tablesChecked s crc).glb.boot ≠ .ready := by rw [hlog.glb, hb]; decide
  have hmem := hlog.mem
  generalize tablesChecked s crc = u at hget hboot hmem
  refine ⟨setBoot_boot .., setBoot_stchg hboot, ?_, (setBoot_mem ..).trans hmem⟩
  have hread : csrGet (readied u) 0x50038 = csrGet u 0x50038 := csrGet_setBoot _ _ (by decide)
  rw [tablesOk, hread, hget, bit63_verdict (by omega), beq_iff_eq]

/-- Settles O9: each stage is its case of the stage's function, and a change of STATE sets STCHG. -/
theorem bringUp : Obligations.BringUp := by
  unfold Obligations.BringUp
  refine ⟨fun s hs hb hp => ?pll, fun s hs hb hp => ?pllBad, fun s hs hb hf => ?fuses, fun s hs hb hf => ?fusesBad,
    fun s hs hb => ?sram, fun s m hs hb hfrom hsrc hm => ?fetch, fun s hs hb hfrom hsrc hm => ?fetchBad,
    fun s hs hb hfrom => ?staged, fun s hs hb hv => ?verify, fun s hs hb hv => ?verifyBad, fun s hs hi hb => ?tables⟩
  case pll =>
    refine ⟨_, congrArg Host.Outcome.next ((served_eq hs _).trans (pllLocked_good hb hp)), setBoot_boot .., ?_,
      setBoot_stchg (by simp [hb])⟩
    rw [setBoot_glb]
  case pllBad =>
    exact ⟨_, congrArg Host.Outcome.next ((served_eq hs _).trans (pllLocked_bad hb hp)), bootFail_boot ..,
      bootFail_bootCode .., bootFail_stchg _ _ _ _ (by simp [hb])⟩
  case fuses =>
    refine ⟨_, congrArg Host.Outcome.next ((served_eq hs _).trans (fuseLoaded_good hb hf)), setBoot_boot .., ?_,
      setBoot_stchg (by simp [hb])⟩
    rw [setBoot_glb]
  case fusesBad =>
    exact ⟨_, congrArg Host.Outcome.next ((served_eq hs _).trans (fuseLoaded_bad hb hf)), bootFail_boot ..,
      bootFail_bootCode .., bootFail_stchg _ _ _ _ (by simp [hb])⟩
  case sram =>
    refine ⟨_, congrArg Host.Outcome.next ((served_eq hs _).trans (sramDone_eq hb)), setBoot_boot ..,
      setBoot_stchg (by split <;> simp [hb]), ?_⟩
    rw [setBoot_mgt]
    split <;> rfl
  case fetch =>
    have hrow := bootFetched_window hb hfrom hsrc hm
    refine ⟨_, congrArg Host.Outcome.next ((served_eq hs _).trans hrow), setBoot_boot .., ?_,
      setBoot_stchg (by simp [hb]), setBoot_mem ..⟩
    unfold toVerify
    rw [setBoot_glb]
  case fetchBad =>
    have hrow := bootFetched_refused hb hfrom hsrc hm
    exact ⟨_, congrArg Host.Outcome.next ((served_eq hs _).trans hrow), bootFail_boot .., bootFail_bootCode ..,
      bootFail_mem ..⟩
  case staged =>
    refine ⟨_, congrArg Host.Outcome.next ((served_eq hs _).trans (bootFetched_staged hb hfrom)), setBoot_boot .., ?_,
      setBoot_mem ..⟩
    unfold toVerify
    rw [setBoot_glb]
  case verify =>
    refine ⟨_, congrArg Host.Outcome.next ((served_eq hs _).trans (bootVerified_good hb hv)), setBoot_boot .., ?_, ?_,
      setBoot_stchg (by simp [hb])⟩
    · rw [setBoot_glb]; rfl
    · rw [setBoot_glb]; rfl
  case verifyBad =>
    exact ⟨_, congrArg Host.Outcome.next ((served_eq hs _).trans (bootVerified_bad hb hv)), bootFail_boot ..,
      bootFail_bootCode ..⟩
  case tables =>
    exact ⟨_, congrArg Host.Outcome.next ((served_eq hs _).trans (fwInited_eq hb)),
      readied_tablesChecked hb (hi.csr_swf hs) (crc32c_lt tableBytes)⟩

end Sys2Proof.Machine
end

section
/-! What the fabric does touches the fabric endpoint, the pins, the registers with their counters, and the log alone. -/

namespace Sys2Proof.Machine

/-- Between `s` and `t` only the fabric endpoint, the pins, the registers, the counters and the log have changed. -/
def FabricOnly (s t : State) : Prop :=
  { t with fab := s.fab, pins := s.pins, csr := s.csr, pmc := s.pmc, mgt := s.mgt } = s

section
variable {s t u : State}

theorem FabricOnly.refl (s : State) : FabricOnly s s := rfl

theorem FabricOnly.trans (h : FabricOnly s t) (k : FabricOnly t u) : FabricOnly s u := by
  unfold FabricOnly at *
  rw [← h, ← k]

theorem FabricOnly.pending (h : FabricOnly s t) : t.pending = s.pending := by have h' := congrArg State.pending h; exact h'
theorem FabricOnly.mem (h : FabricOnly s t) : t.mem = s.mem := by have h' := congrArg State.mem h; exact h'
theorem FabricOnly.glb (h : FabricOnly s t) : t.glb = s.glb := by have h' := congrArg State.glb h; exact h'
theorem FabricOnly.front (h : FabricOnly s t) : t.front = s.front := by have h' := congrArg State.front h; exact h'
theorem FabricOnly.rotaPend (h : FabricOnly s t) : t.rotaPend = s.rotaPend := by
  have h' := congrArg State.rotaPend h; exact h'

theorem LogsOnly.fabricOnly (h : LogsOnly s t) : FabricOnly s t := by
  have h' := congrArg (fun x : State => { x with fab := s.fab, pins := s.pins, pmc := s.pmc }) h
  exact h'

theorem CountsOnly.fabricOnly (h : CountsOnly s t) : FabricOnly s t := by
  have h' := congrArg (fun x : State => { x with fab := s.fab, pins := s.pins, mgt := s.mgt }) h.1
  exact h'

theorem FabricOnly.foldl {α : Type} {f : State → α → State} (hf : ∀ v a, FabricOnly v (f v a)) (l : List α) (s : State) :
    FabricOnly s (l.foldl f s) := by
  induction l generalizing s with
  | nil => exact FabricOnly.refl s
  | cons a l ih => exact (hf s a).trans (ih (f s a))

end

section
variable (s : State)

theorem fabricOnly_bwAdd (j d n : Nat) : FabricOnly s (bwAdd s j d n) := (CountsOnly.refl s).bwAdd.fabricOnly
theorem fabricOnly_setPort (n : Nat) (x : Port) : FabricOnly s (setPort s n x) := rfl
theorem fabricOnly_putWire (n : Nat) (f : Flit) : FabricOnly s (putWire s n f) := rfl
theorem fabricOnly_setPhyEn (n : Nat) (on : Bool) : FabricOnly s (setPhyEn s n on) := rfl
theorem fabricOnly_sendIdle (n vc : Nat) (nak : Bool) : FabricOnly s (sendIdle s n vc nak) := rfl
theorem fabricOnly_sendLink (n sub lane : Nat) : FabricOnly s (sendLink s n sub lane) := rfl

theorem fabricOnly_startTraining (n : Nat) : FabricOnly s (startTraining s n) := rfl

theorem fabricOnly_portDown (n : Nat) : FabricOnly s (portDown s n) := by
  unfold portDown
  dsimp only
  split
  · exact (fabricOnly_setPort s n _).trans ((fabricOnly_setPhyEn _ n false).trans (fabricOnly_startTraining _ n))
  · exact (fabricOnly_setPort s n _).trans (fabricOnly_setPhyEn _ n false)

theorem fabricOnly_dpAnswer (r : DpReq) (status data : Nat) : FabricOnly s (dpAnswer s r status data) := by
  unfold dpAnswer
  dsimp only
  split
  · exact (fabricOnly_bwAdd s _ 1 _).trans rfl
  · rfl

theorem fabricOnly_dpFlush : FabricOnly s (dpFlush s) :=
  FabricOnly.foldl (fun v r => fabricOnly_dpAnswer v r 2 0) _ s

theorem fabricOnly_warmPort (n : Nat) : FabricOnly s (warmPort s n) := by
  unfold warmPort
  dsimp only
  split
  · exact FabricOnly.refl s
  · split
    · exact ((fabricOnly_setPort s n _).trans (fabricOnly_sendLink _ n 1 0)).trans (fabricOnly_portDown _ n)
    · exact (fabricOnly_setPort s n _).trans (fabricOnly_portDown _ n)

end

end Sys2Proof.Machine
end

section
/-! Warm reset (R44 to R46, Table 02.17, R402). -/

namespace Sys2Proof.Machine

/-! ## The drain -/

/-- The drain begins: the ports go down and the DP ports are answered, and nothing else changes but the reset's own state. -/
theorem warmBegin_eq (s : State) : ∃ u, FabricOnly s u ∧
    warmBegin s = setBoot { u with glb := { u.glb with drained := false } } .warmDrain :=
  ⟨dpFlush ((List.range 6).foldl warmPort s),
    (FabricOnly.foldl fabricOnly_warmPort _ s).trans (fabricOnly_dpFlush _), rfl⟩

theorem warmBegin_boot (s : State) : (warmBegin s).glb.boot = .warmDrain := by
  obtain ⟨u, -, h⟩ := warmBegin_eq s
  rw [h]
  exact setBoot_boot ..

theorem warmBegin_mem (s : State) : (warmBegin s).mem = s.mem := by
  obtain ⟨u, hu, h⟩ := warmBegin_eq s
  rw [h, setBoot_mem]
  exact hu.mem

theorem warmBegin_wrstLow (s : State) : (warmBegin s).glb.wrstLow = s.glb.wrstLow := by
  obtain ⟨u, hu, h⟩ := warmBegin_eq s
  rw [h, setBoot_glb]
  show u.glb.wrstLow = s.glb.wrstLow
  rw [hu.glb]

/-! ## The registers after it (R402) -/

theorem csrReset_lt (o : Nat) : csrReset o < 2 ^ 64 := by
  have hall : ∀ rows ∈ [regsFront, regsCompute, regsBuffers, regsDomain, regsSystem], ∀ row ∈ rows,
      row.reg.rst < 2 ^ 64 := by decide
  unfold csrReset
  split
  · split <;> decide
  · split
    · next r hr =>
      obtain ⟨row, hrow, rfl⟩ := regInfo_mem hr
      refine hall (regRows o) ?_ row hrow
      unfold regRows
      split_ifs <;> simp
    · decide

/-- A register at its reset value stays there through a warm reset. -/
theorem csrWarm_csrReset (o : Nat) : csrWarm o (csrReset o) = csrReset o := by
  refine Nat.eq_of_testBit_eq fun i => ?_
  unfold csrWarm
  dsimp only
  by_cases hi : i < 64
  · have hones : (span 63 0).testBit i = true := by
      rw [show span 63 0 = 2 ^ 64 - 1 from rfl, Nat.testBit_two_pow_sub_one, decide_eq_true hi]
    simp only [Nat.testBit_or, Nat.testBit_and, Nat.testBit_xor, hones]
    cases (csrReset o).testBit i <;> cases Nat.testBit _ i <;> rfl
  · have hzero : (csrReset o).testBit i = false :=
      Nat.testBit_lt_two_pow (lt_of_lt_of_le (csrReset_lt o) (Nat.pow_le_pow_right (by decide) (by omega)))
    simp [hzero]

/-- The register store after a warm reset reads as R402 has it. -/
theorem slook_csrWarmAll {l : List (Nat × Nat)} (h : swf csrReset l = true) (o : Nat) :
    slook csrReset (csrWarmAll l) o = csrWarm o (slook csrReset l o) := by
  induction l with
  | nil => exact (csrWarm_csrReset o).symm
  | cons p r ih =>
    obtain ⟨k, v⟩ := p
    obtain ⟨-, hk, hr⟩ := swf_cons.mp h
    have hrest : csrWarmAll ((k, v) :: r) =
        (if csrWarm k v != csrReset k then [(k, csrWarm k v)] else []) ++ csrWarmAll r := by
      simp only [csrWarmAll, List.map_cons, List.filter_cons]
      split <;> rfl
    rw [hrest]
    by_cases ho : o = k
    · subst ho
      split
      · simp [slook]
      · next hv =>
        have hv' : csrWarm o v = csrReset o := by simpa using hv
        rw [List.nil_append, ih hr, slook_below hk (Nat.le_refl _), csrWarm_csrReset]
        simp [slook, hv']
    · split <;> simp [slook, ho, ih hr]

/-! ## The islands' reset -/

/-- What the islands' reset of a warm reset leaves, before the lost samples are counted. -/
def islandsReset (s : State) : State :=
  { s with
    csr := csrWarmAll s.csr, front := { late := s.front.late ++ outstanding s }, ctxs := [], slots := [{}, {}],
    disp := { origHwm := s.disp.origHwm }, shd := {}, col := {},
    fab := { ports := portsReset s, wire := s.fab.wire, dpId := s.fab.dpId, rsp := s.fab.rsp },
    plc := { jrnl := s.plc.jrnl },
    pmc := { latch := s.pmc.latch, bwLast := s.pmc.bwLast, bwSeq := s.pmc.bwSeq, xcnt := s.pmc.xcnt },
    pins := { s.pins with phyEn := 0 }, rotaActive := 0, rotaPend := 0, glb := { s.glb with drained := false } }

theorem warmClear_eq (s : State) : warmClear s = setBoot (countC (islandsReset s) 0xC1608 s.pmc.buf.length) .warmInit := rfl

/-- Counting and a change of STATE touch registers, counters and the state alone. -/
theorem setBoot_counts_frame {u v : State} (h : CountsOnly u v) (b : BootState) :
    { setBoot v b with csr := u.csr, pmc := u.pmc, glb := u.glb } = u := by
  have hboot := congrArg (fun x : State => { x with csr := u.csr, pmc := u.pmc, glb := u.glb }) (setBoot_frame v b)
  have hcount := congrArg (fun x : State => { x with glb := u.glb }) h.1
  exact hboot.trans hcount

theorem warmState_warmClear {s : State} (hc : swf csrReset s.csr = true) : WarmState s (warmClear s) := by
  have hcount : CountsOnly (islandsReset s) (countC (islandsReset s) 0xC1608 s.pmc.buf.length) :=
    (CountsOnly.refl _).countC (by decide)
  have hget : ∀ o, o ≠ 0xC1608 → csrGet (countC (islandsReset s) 0xC1608 s.pmc.buf.length) o = csrGet (islandsReset s) o := by
    intro o ho
    unfold countC countF
    split
    · rfl
    · exact csrGet_csrPut_ne ho
  rw [warmClear_eq]
  generalize countC (islandsReset s) 0xC1608 s.pmc.buf.length = v at hcount hget
  have hf := setBoot_counts_frame hcount .warmInit
  have hfront : (setBoot v .warmInit).front = { late := s.front.late ++ outstanding s } := by
    have h := congrArg State.front hf; exact h
  have hplc : (setBoot v .warmInit).plc = { jrnl := s.plc.jrnl } := by have h := congrArg State.plc hf; exact h
  have hfab : (setBoot v .warmInit).fab.ports = portsReset s := by
    have h := congrArg (fun t : State => t.fab.ports) hf; exact h
  constructor
  case boot => exact setBoot_boot ..
  case inflight => rw [hfront]
  case queues => rw [hfront]
  case flags => rw [hfront]; rfl
  case ctxs => have h := congrArg State.ctxs hf; exact h
  case slots => have h := congrArg State.slots hf; exact h
  case disp => have h := congrArg (fun t : State => { t.disp with origHwm := 0 }) hf; exact h
  case shd => have h := congrArg State.shd hf; exact h
  case col => have h := congrArg State.col hf; exact h
  case placement => rw [hplc]; exact ⟨rfl, rfl, rfl, rfl, rfl⟩
  case ports =>
    intro n hn
    unfold port
    rw [hfab]
    exact slook_portsReset s hn
  case rota => exact ⟨by have h := congrArg State.rotaActive hf; exact h, by have h := congrArg State.rotaPend hf; exact h⟩
  case regs =>
    intro o h20 hlost
    rw [csrGet_setBoot v _ h20, hget o hlost]
    exact slook_csrWarmAll hc o
  case time =>
    rw [setBoot_glb]
    show v.glb.time = s.glb.time
    rw [hcount.glb_eq]
    rfl
  case mgt => have h := congrArg State.mgt hf; exact h
  case test => have h := congrArg State.test hf; exact h
  case mem => have h := congrArg State.mem hf; exact h
  case pending => have h := congrArg State.pending hf; exact h

/-! ## The request over the register (R44) -/

@[simp] theorem csrOut_glb (s : State) (v : Nat) (e : Bool) : (csrOut s v e).glb = s.glb := rfl
@[simp] theorem csrOut_mem (s : State) (v : Nat) (e : Bool) : (csrOut s v e).mem = s.mem := rfl

theorem exec_glbResetWarm {s : State} (hs : Served s) (hr : isReady s = true) :
    exec (.glbResetWarm true) s = .next (csrOut (warmBegin (bwAdd s 26 0 8)) 0 false) := by
  have hb : s.glb.boot = .ready := by simpa [isReady] using hr
  have hready : isReady (bwAdd s 26 0 8) = true := by
    unfold isReady
    rw [((CountsOnly.refl s).bwAdd (j := 26) (d := 0) (n := 8)).glb_eq, hb]
    rfl
  show doWrite 0x28 true 1 0 s = _
  rw [doWrite_served hs, csrWriteAt_taken (access_glbReset (by rw [hb]; decide))]
  have hreset : writeReset (bwAdd s 26 0 8) 1 = warmBegin (bwAdd s 26 0 8) := by
    unfold writeReset warmRequest
    rw [if_neg (by decide), if_pos (by decide), if_pos hready]
  simp [writeReg, writeFront, hreset]

/-- The level of DX_WRST_N is no service's matter. -/
theorem served_setWrst {s : State} (hs : Served s) (low : Bool) : Served (setWrst s low) := hs

/-- Settles O10: the drain begins with `warmBegin` and ends with `warmClear`, which leaves `WarmState`. -/
theorem warmReset : Obligations.WarmReset := by
  unfold Obligations.WarmReset
  refine ⟨fun s hs hr => ?pin, fun s hs hr => ?register, fun s hs hr => ?pinElsewhere, fun s hs hb hl => ?drainedLow,
    fun s hs hi hb hl => ?drained, fun s hs hi hb hd => ?released, fun s hs hor => ?releasedElsewhere,
    fun s hs hb => ?inited, fun s hb => congrArg Host.Outcome.next (if_neg hb)⟩
  case pin =>
    have hrow : served warmRequest (setWrst s true) = warmBegin (setWrst s true) := by
      rw [served_eq (served_setWrst hs true), warmRequest, if_pos]
      exact hr
    exact ⟨_, congrArg Host.Outcome.next hrow, warmBegin_boot _, warmBegin_wrstLow _, warmBegin_mem _⟩
  case register =>
    refine ⟨_, exec_glbResetWarm hs hr, ?_, csrOut_csrErr .., ?_⟩
    · rw [csrOut_glb, warmBegin_boot]
    · rw [csrOut_mem, warmBegin_mem]
      exact (fabricOnly_bwAdd s 26 0 8).mem
  case pinElsewhere =>
    refine congrArg Host.Outcome.next ((served_eq (served_setWrst hs true) _).trans (if_neg ?_))
    show ¬ isReady s = true
    rw [hr]
    decide
  case drainedLow =>
    refine congrArg Host.Outcome.next ((served_eq hs _).trans ?_)
    unfold warmDrained
    rw [if_neg (not_not.mpr hb), if_pos hl]
  case drained =>
    refine ⟨warmClear s, congrArg Host.Outcome.next ((served_eq hs _).trans ?_), warmState_warmClear (hi.csr_swf hs)⟩
    unfold warmDrained
    rw [if_neg (not_not.mpr hb), hl, if_neg Bool.false_ne_true]
  case released =>
    refine ⟨warmClear (setWrst s false),
      congrArg Host.Outcome.next ((served_eq (served_setWrst hs false) _).trans (if_pos ⟨hb, hd⟩)), ?_⟩
    have h := warmState_warmClear (s := setWrst s false) (hi.csr_swf hs)
    exact ⟨h.boot, h.inflight, h.queues, h.flags, h.ctxs, h.slots, h.disp, h.shd, h.col, h.placement, h.ports, h.rota,
      h.regs, h.time, h.mgt, h.test, h.mem, h.pending⟩
  case releasedElsewhere =>
    refine congrArg Host.Outcome.next ((served_eq (served_setWrst hs false) _).trans (if_neg ?_))
    rintro ⟨hb, hd⟩
    obtain h | h := hor
    · exact h hb
    · exact Bool.false_ne_true (h.symm.trans hd)
  case inited =>
    let u : State := { s with glb := { s.glb with warmCount := min 0xFFFF (s.glb.warmCount + 1) } }
    refine ⟨setBoot u .ready, congrArg Host.Outcome.next ((served_eq hs _).trans (if_neg (not_not.mpr hb))),
      setBoot_boot .., ?_, ?_⟩
    · rw [setBoot_glb]
    · exact congrArg (fun t : State => { t with glb := s.glb, csr := s.csr }) (setBoot_frame u .ready)

end Sys2Proof.Machine
end

section
/-! The gates of service: which commands pass which gate, and when the engine does nothing (R40, R43, R44). -/

namespace Sys2Proof.Machine

/-- Answers of the memory ports. -/
def isMpAnswer : Instr → Bool
  | .mpReadBeat _ _ _ _ _ | .mpWriteAck _ _ _ => true
  | _ => false

/-- A functional command that is no answer of a memory port reaches the engine through `served`. -/
theorem exec_eq_served {i : Instr} (hf : functional i = true) (hm : isMpAnswer i = false) :
    ∃ f, ∀ s, exec i s = .next (served f s) := by
  cases i <;> cases hf <;> cases hm <;> exact ⟨_, fun _ => rfl⟩

/-- Work of the engine's units passes through `working`. -/
theorem exec_eq_working {i : Instr} (h : unitWork i = true) : ∃ f, ∀ s, exec i s = .next (working f s) := by
  cases i <;> cases h <;> exact ⟨_, fun _ => rfl⟩

theorem served_noService {s : State} (h : s.test.noService = true) (f : State → State) : served f s = s := if_pos h

theorem working_not_ready {s : State} (hs : Served s) (hr : isReady s = false) (f : State → State) : working f s = s := by
  unfold working
  rw [served_eq hs]
  exact if_neg (by rw [hr]; decide)

/-- Without service an answer of a memory port is not taken either. -/
theorem exec_mpAnswer_noService {i : Instr} (hm : isMpAnswer i = true) {s : State} (h : s.test.noService = true) :
    exec i s = .next s := by
  cases i <;> cases hm
  case mpReadBeat port tag poison err last =>
    show execMpReadBeat port tag poison err last s = _
    rw [execMpReadBeat, h, Bool.true_or, if_pos rfl, served_noService h]
  case mpWriteAck port tag err =>
    show execMpWriteAck port tag err s = _
    rw [execMpWriteAck, h, Bool.true_or, if_pos rfl, served_noService h]

/-- Without service no functional command changes the state. -/
theorem exec_functional_noService {i : Instr} (hf : functional i = true) {s : State} (h : s.test.noService = true) :
    exec i s = .next s := by
  cases hm : isMpAnswer i with
  | true => exact exec_mpAnswer_noService hm h
  | false =>
    obtain ⟨f, hrow⟩ := exec_eq_served hf hm
    rw [hrow, served_noService h]

/-! ## The test port and the resets without service -/

@[simp] theorem setBoot_test (s : State) (b : BootState) : (setBoot s b).test = s.test := by
  unfold setBoot; split <;> rfl

theorem scanEnd_noService (s : State) (ir dr : Nat) (out : List Bool) :
    (scanEnd s ir dr out).test.noService = s.test.noService := rfl

theorem setWir_noService (s : State) (x : Nat) : (setWir s x).test.noService = s.test.noService := rfl

/-- The end of service leaves no service, or none where there was none. -/
theorem endService_noService {s : State} (h : s.test.noService = true) : (endService s).test.noService = true := by
  unfold endService
  split
  · rfl
  · exact h

theorem extest_noService (d : List Bool) (s : State) : (extest d s).test.noService = s.test.noService := by
  unfold extest
  dsimp only
  split <;> rfl

theorem mbist_noService {s : State} (h : s.test.noService = true) : (mbist s).test.noService = true := by
  have hend : (endService (setWir s 3)).test.noService = true := endService_noService h
  unfold mbist
  dsimp only
  split <;> exact hend

/-- No reset pin but the cold reset's, no clock and no instruction of the test port gives service back. -/
theorem exec_nonfunctional_noService {i : Instr} (hf : functional i = false) (hpower : i ≠ .powerOkFall)
    (hcold : i ≠ .coldResetAssert) {s : State} (h : s.test.noService = true) :
    ∃ t, exec i s = .next t ∧ t.test.noService = true := by
  cases i <;> cases hf
  case powerOkFall => exact absurd rfl hpower
  case coldResetAssert => exact absurd rfl hcold
  case coldResetRelease p =>
    refine ⟨_, rfl, ?_⟩
    split
    · rw [setBoot_test]; exact h
    · exact h
  case warmResetPin => exact ⟨_, congrArg Host.Outcome.next (served_noService (s := setWrst s true) h _), h⟩
  case warmResetRelease => exact ⟨_, congrArg Host.Outcome.next (served_noService (s := setWrst s false) h _), h⟩
  case clockStop =>
    refine ⟨_, rfl, ?_⟩
    split <;> exact h
  case idcode => exact ⟨_, rfl, h⟩
  case bypass code =>
    refine ⟨_, rfl, ?_⟩
    split <;> exact h
  case wsBypass => exact ⟨_, rfl, h⟩
  case wsExtest d => exact ⟨_, rfl, (extest_noService d s).trans h⟩
  case wsIntestScan => exact ⟨_, rfl, endService_noService (s := setWir s 2) h⟩
  case wsMbist => exact ⟨_, rfl, mbist_noService h⟩
  case tapReset => exact ⟨_, rfl, h⟩

/-- Before READY a doorbell is only noted (R43). -/
theorem doorbell_early {s : State} (hr : isReady s = false) (hb : s.glb.boot ≠ .coldReset) (line : Nat) (lv : BitVec 8)
    (data : BitVec 512) (priv : Bool) : doorbell line lv data priv s = csrSet s 0x20 (2 ^ 17) := by
  unfold doorbell
  rw [if_neg hb, hr, if_pos (by decide)]

/-- Settles O7: the gates are those of `served` and `working`, which every row but the resets, the clock and the test port
passes. -/
theorem serviceGates : Obligations.ServiceGates := by
  unfold Obligations.ServiceGates
  refine ⟨fun i s h hf => exec_functional_noService hf h, fun i s t h hpower hcold ht => ?kept,
    fun s => ⟨_, rfl, rfl⟩, fun i s hs hr hu => ?before, fun s line lv data priv hs hr hb => ?early⟩
  case kept =>
    cases hf : functional i with
    | true =>
      rw [exec_functional_noService hf h] at ht
      cases ht
      exact h
    | false =>
      obtain ⟨u, hrow, hu⟩ := exec_nonfunctional_noService hf hpower hcold h
      rw [hrow] at ht
      cases ht
      exact hu
  case before =>
    obtain ⟨f, hrow⟩ := exec_eq_working hu
    rw [hrow, working_not_ready hs hr]
  case early =>
    exact ⟨csrSet s 0x20 (2 ^ 17),
      congrArg Host.Outcome.next ((served_eq hs _).trans (doorbell_early hr hb line lv data priv)),
      bit_csrSet (by decide), rfl, fun o ho => csrGet_csrPut_ne ho⟩

end Sys2Proof.Machine
end

section
/-! The test access port and the wrapper (R39, R40). -/

namespace Sys2Proof.Machine

/-- The identification register holds the IDCODE (R39). -/
theorem idcodeOf_eq (s : State) : idcodeOf s = 0x2D032000 + s.glb.straps.jtagMfr.toNat * 2 + 1 := by
  unfold idcodeOf
  omega

theorem exec_bypass {s : State} {code : BitVec 8} (h1 : code ≠ 0x01#8) (h2 : code ≠ 0x20#8) (h3 : code ≠ 0x21#8) :
    exec (.bypass code) s = .next (scanEnd s code.toNat 0 [false]) := by
  have hcode : [0x01, 0x20, 0x21].contains code.toNat = false := by
    have hne : ∀ k : BitVec 8, code ≠ k → code.toNat ≠ k.toNat := fun k h he => h (BitVec.eq_of_toNat_eq he)
    simpa using ⟨hne _ h1, hne _ h2, hne _ h3⟩
  show Host.Outcome.next _ = _
  rw [hcode, if_neg Bool.false_ne_true]

/-! ## The boundary register -/

/-- The bits of a list stand in its number, the first one lowest. -/
theorem testBit_bitsNat (l : List Bool) (i : Nat) : (bitsNat l).testBit i = (l[i]?).getD false := by
  induction l generalizing i with
  | nil => simp [bitsNat]
  | cons b l ih =>
    have hcons : bitsNat (b :: l) = 2 * bitsNat l + b2n b := rfl
    rw [hcons]
    cases i with
    | zero => cases b <;> simp [b2n]
    | succ i =>
      have hb : b2n b ≤ 1 := by cases b <;> decide
      have hdiv : (2 * bitsNat l + b2n b) / 2 = bitsNat l := by omega
      rw [Nat.testBit_succ, hdiv, ih, List.getElem?_cons_succ]

theorem bitsNat_lt (l : List Bool) : bitsNat l < 2 ^ l.length := by
  induction l with
  | nil => decide
  | cons b l ih =>
    have hcons : bitsNat (b :: l) = 2 * bitsNat l + b2n b := rfl
    have hb : b2n b ≤ 1 := by cases b <;> decide
    rw [hcons, List.length_cons, Nat.pow_succ]
    omega

/-- The output cells after bits were scanned in: those bits, and above them what stood there. -/
theorem testBit_scanned (x : Nat) (d : List Bool) (i : Nat) :
    (x / 2 ^ d.length * 2 ^ d.length + bitsNat d).testBit i = if i < d.length then (d[i]?).getD false else x.testBit i := by
  rw [Nat.mul_comm, Nat.testBit_two_pow_mul_add _ (bitsNat_lt d), testBit_bitsNat]
  split
  · rfl
  · rw [Nat.testBit_div_two_pow]
    congr 1
    omega

theorem extest_driven {s : State} (h : s.glb.straps.testmode = true) (d : List Bool) : extest d s =
    { setWir s 1 with draws := s.draws + 1, test := { (setWir s 1).test with
      wbrOut := BitVec.ofNat wbrOuts (s.test.wbrOut.toNat / 2 ^ d.length * 2 ^ d.length + bitsNat d),
      wbrIn := Config.wbrCapture s.draws } } := if_pos h

theorem setWir_wir (s : State) (x : Nat) : (setWir s x).test.wir = if s.glb.straps.testmode then x else 0 := rfl

/-- The engine after the end of service: no more service, and its contents open. -/
def testLost (s : State) : State := loseState { s with test := { s.test with noService := true } }

/-- The end of service with the free result of a memory self-test (log entry 9). -/
def mbistDone (s : State) : State := { testLost s with
  draws := (testLost s).draws + 1, test := { (testLost s).test with dr := (Config.mbistResult (testLost s).draws).toNat } }

/-- Settles O12: each instruction's scan, and what takes effect under DX_TESTMODE. -/
theorem testPort : Obligations.TestPort := by
  unfold Obligations.TestPort
  refine ⟨fun s => ⟨_, rfl, rfl, idcodeOf_eq s, rfl, rfl, rfl, rfl⟩,
    fun s code h1 h2 h3 => ⟨_, exec_bypass h1 h2 h3, rfl, rfl, rfl, rfl⟩, fun s => ⟨_, rfl, ?bypassed, rfl, rfl⟩,
    fun s d h => ?extest, fun s h => ?intest, fun s h => ?mbist, fun s d i h hi => ?off,
    fun s => ⟨_, rfl, rfl, rfl, rfl, rfl, rfl, rfl⟩⟩
  case bypassed => rw [setWir_wir, ite_self]
  case extest =>
    refine ⟨_, congrArg Host.Outcome.next (extest_driven h d), ?_, rfl, fun i hi hw => ?_, fun i hi => ?_, rfl⟩
    · exact if_pos h
    · show some ((BitVec.ofNat wbrOuts _).getLsbD i) = d[i]?
      rw [BitVec.getLsbD_ofNat, testBit_scanned, if_pos hi, decide_eq_true hw, Bool.true_and, List.getElem?_eq_getElem hi]
      rfl
    · show (BitVec.ofNat wbrOuts _).getLsbD i = _
      rw [BitVec.getLsbD_ofNat, testBit_scanned, if_neg (by omega)]
      by_cases hw : i < wbrOuts
      · rw [decide_eq_true hw, Bool.true_and]; rfl
      · rw [decide_eq_false hw, Bool.false_and, BitVec.getLsbD_of_ge _ _ (by omega)]
  case intest =>
    have hend : endService (setWir s 2) =
        testLost (setWir s 2) := if_pos h
    exact ⟨_, congrArg Host.Outcome.next hend, if_pos h, rfl, rfl, rfl⟩
  case mbist =>
    have hend : mbist s = mbistDone (setWir s 3) := by
      have hlost : endService (setWir s 3) = testLost (setWir s 3) := if_pos h
      unfold mbist
      rw [hlost]
      exact if_pos h
    exact ⟨_, congrArg Host.Outcome.next hend, if_pos h, rfl, rfl, rfl⟩
  case off =>
    have hwir : ∀ x, (setWir s x).test.wir = 0 := fun x => by rw [setWir_wir, h]; rfl
    obtain rfl | rfl | rfl := hi
    · refine ⟨setWir s 1, congrArg Host.Outcome.next ?_, hwir 1, rfl, rfl⟩
      unfold extest
      rw [h]
      rfl
    · refine ⟨setWir s 2, congrArg Host.Outcome.next ?_, hwir 2, rfl, rfl⟩
      unfold endService
      rw [show (setWir s 2).glb.straps.testmode = false from h]
      rfl
    · refine ⟨setWir s 3, congrArg Host.Outcome.next ?_, hwir 3, rfl, rfl⟩
      unfold mbist endService
      rw [show (setWir s 3).glb.straps.testmode = false from h, h]
      rfl

end Sys2Proof.Machine
end

section
/-! The answers of the memory ports: an acknowledgement onto a store that is not in canonical form. -/

namespace Sys2Proof.Machine

/-- A CTXOPEN of queue 0 that waits for its last write of zeros. -/
def zeroCmd : Cmd := { opc := 0x08, st := .exec }

/-- That write. -/
def zeroWrite : MpWrite := { port := 0, tag := 0, addr := 0, data := [], use := .ctxZero 0 0 0 }

/-- In READY with that command and that write outstanding; the store of contexts lists context 0 twice, so that it is in no
canonical form. -/
def twiceListed : State :=
  { glb := { boot := .ready }, ctxs := [(0, { zeroOut := 1 }), (0, { zeroOut := 5 })],
    front := { inflight := [zeroCmd], writes := [zeroWrite] } }

/-- The acknowledgement uncovers the second entry of context 0, which still waits for writes. -/
theorem writeAck_twiceListed : (ctx (writeAck zeroWrite false twiceListed) 0).st = .closed := by decide +kernel

theorem exec_writeAck_twiceListed :
    exec (.mpWriteAck 0 0 false) twiceListed = .next (writeAck zeroWrite false twiceListed) := rfl

/-- Refutes O25: its clause of the zero writes does not ask for the canonical form, without which the acknowledgement of the
last of them does not make the context OPEN. -/
theorem not_memoryAnswers : ¬ Obligations.MemoryAnswers := by
  unfold Obligations.MemoryAnswers
  rintro ⟨-, -, -, hzero, -⟩
  obtain ⟨t, ht, -, hopen, -⟩ := hzero twiceListed 0 0 0 zeroWrite zeroCmd ⟨⟨rfl, rfl⟩, rfl⟩ rfl rfl rfl rfl rfl rfl rfl rfl
  rw [exec_writeAck_twiceListed] at ht
  cases ht
  rw [writeAck_twiceListed] at hopen
  cases hopen

end Sys2Proof.Machine
end

section
/-! The DP ports: a store onto host memory that is not in canonical form. -/

namespace Sys2Proof.Machine

/-- In READY, with a slot of owner code 0x28 on memory port 0; host memory lists its byte 0 twice, so that it is in no
canonical form. -/
def twiceStored : State :=
  { glb := { boot := .ready, straps := { (default : Straps) with mpen := 1#16 } }, csr := [(oRota 16 0 0, 0x28)],
    mem := { cells := [(0, 1#8), (0, 2#8)] } }

/-- The store of 0 at address 0, as the port carries it out. -/
def storedZero : State :=
  dpRequest 0 (1#3).toNat (0#57).toNat (0#2).toNat (0#512).toNat (0#8).toNat twiceStored

/-- The store of 0 takes away the first entry of byte 0 and uncovers the second one. -/
theorem rdNum_storedZero : rdNum storedZero.mem 0 8 = 2 := by decide +kernel

theorem exec_storedZero : exec (.dpRequest 0 1#3 0#57 0#2 0#512 0#8) twiceStored = .next storedZero :=
  congrArg Host.Outcome.next (served_eq ⟨rfl, rfl⟩ _)

theorem holdsMp_twiceStored : holdsMp twiceStored 0x28 = true := by decide +kernel

theorem ownChip_twiceStored : ownChip twiceStored = 0 := by decide +kernel

/-- Refutes O57: its clause of the local store does not ask for the canonical form of host memory, without which the bytes
stored are not those read back. -/
theorem not_dataPorts : ¬ Obligations.DataPorts := by
  unfold Obligations.DataPorts
  rintro ⟨-, hrequest, -⟩
  obtain ⟨-, -, hlocal, -⟩ := hrequest twiceStored 0 1#3 0#57 0#2 0#512 0#8 ⟨rfl, rfl⟩ (by decide) (by decide)
    (by decide)
  obtain ⟨-, hstore, -⟩ := hlocal rfl rfl holdsMp_twiceStored ownChip_twiceStored.symm rfl
  obtain ⟨t, ht, -, hread, -⟩ := hstore rfl
  rw [exec_storedZero] at ht
  cases ht
  have hdata : (0#512).toNat = 0 := BitVec.toNat_zero
  rw [hdata, Nat.zero_mod] at hread
  have htwo : rdNum storedZero.mem ((0#57).toNat % 2 ^ 42) (8 * 2 ^ (0#2).toNat) = 2 := rdNum_storedZero
  rw [htwo] at hread
  cases hread

end Sys2Proof.Machine
end

section
/-! Firmware updates: the state of the update, the flush of the log, and the writes to MGT_FWUPD (R383, R384). -/

namespace Sys2Proof.Machine

theorem byFirmware_eq {s : State} (hs : Served s) (hf : fwRuns s = true) (f : State → State) : byFirmware f s = f s := by
  unfold byFirmware
  rw [served_eq hs, if_pos hf]

/-! ## MGT_FWUPD.STATE -/

theorem logsOnly_mgt (s : State) (m : Mgt) : LogsOnly s { s with mgt := m } := rfl

theorem setUpd_mgt (s : State) (x : Nat) : (setUpd s x).mgt = { s.mgt with upd := x } := by
  unfold setUpd
  split
  · next h => rw [← h]
  · rfl

/-- A change of the update's state touches nothing but it and MGT_FWUPD. -/
theorem logsOnly_setUpd (s : State) (x : Nat) : LogsOnly s (setUpd s x) := by
  unfold setUpd
  split <;> rfl

theorem updFail_mgt (s : State) (code : Nat) : (updFail s code).mgt = { s.mgt with updCode := code, upd := 4 } := setUpd_mgt ..

theorem logsOnly_updFail (s : State) (code : Nat) : LogsOnly s (updFail s code) :=
  (logsOnly_mgt s _).trans (logsOnly_setUpd ..)

/-! ## The flush of the log (R393) -/

/-- Between `s` and `t` the log has been flushed: host memory, registers, counts and the log's own indices have changed, and
staging has not. -/
structure FlushesOnly (s t : State) : Prop where
  rest : { t with mem := s.mem, csr := s.csr, pmc := s.pmc, mgt := s.mgt } = s
  staging : t.mgt.staging = s.mgt.staging
  committed : t.mgt.committed = s.mgt.committed

section
variable {s t u : State}

theorem FlushesOnly.refl (s : State) : FlushesOnly s s := ⟨rfl, rfl, rfl⟩

theorem FlushesOnly.trans (h : FlushesOnly s t) (k : FlushesOnly t u) : FlushesOnly s u := by
  obtain ⟨hrest, hstaging, hcommitted⟩ := h
  obtain ⟨krest, kstaging, kcommitted⟩ := k
  refine ⟨?_, kstaging.trans hstaging, kcommitted.trans hcommitted⟩
  rw [← hrest, ← krest]

theorem FlushesOnly.glb (h : FlushesOnly s t) : t.glb = s.glb := by have h' := congrArg State.glb h.rest; exact h'

theorem CountsOnly.mgt (h : CountsOnly s t) : t.mgt = s.mgt := by have h' := congrArg State.mgt h.1; exact h'

theorem CountsOnly.flushesOnly (h : CountsOnly s t) : FlushesOnly s t := by
  refine ⟨?_, congrArg Mgt.staging h.mgt, congrArg Mgt.committed h.mgt⟩
  have hrest := h.1
  rw [← hrest]

theorem flushesOnly_csrSet (s : State) (o m : Nat) : FlushesOnly s (csrSet s o m) := ⟨rfl, rfl, rfl⟩

theorem flushesOnly_countF (s : State) (o l w n : Nat) : FlushesOnly s (countF s o l w n) := by
  unfold countF
  split <;> exact ⟨rfl, rfl, rfl⟩

theorem flushesOnly_flushed (s : State) (m : HostMem) (n : Nat) :
    FlushesOnly s (setMem { s with mgt := { s.mgt with flushed := n } } m) := ⟨rfl, rfl, rfl⟩

theorem flushesOnly_logIndices (s : State) (l : List (Nat × (Nat × Nat × Nat × Nat))) (n f : Nat) :
    FlushesOnly s { s with mgt := { s.mgt with log := l, next := n, flushed := f } } := ⟨rfl, rfl, rfl⟩

theorem flushesOnly_logged (s : State) (full : Bool) (e : Nat × Nat × Nat × Nat) : FlushesOnly s (logged s full e) := by
  unfold logged countC
  dsimp only
  split
  · exact (flushesOnly_logIndices ..).trans (flushesOnly_countF ..)
  · exact flushesOnly_logIndices ..

theorem flushesOnly_raiseFault (s : State) (code sev bitNo cx detail unit : Nat) :
    FlushesOnly s (raiseFault s code sev bitNo cx detail unit) := by
  obtain ⟨full, e, h⟩ := logEntry_eq_logged s code sev cx detail unit
  unfold raiseFault
  rw [h]
  exact (flushesOnly_logged s full e).trans (flushesOnly_csrSet ..)

theorem flushesOnly_flushOne (s : State) : FlushesOnly s (flushOne s) := by
  unfold flushOne
  split
  · exact FlushesOnly.refl s
  · dsimp only
    split
    · exact ((flushesOnly_flushed ..).trans (CountsOnly.refl _).mpCount.flushesOnly).trans
        ((flushesOnly_countF ..).trans (flushesOnly_raiseFault ..))
    · exact (flushesOnly_flushed ..).trans (CountsOnly.refl _).mpCount.flushesOnly

theorem flushesOnly_flushMany (n : Nat) (s : State) : FlushesOnly s (flushMany n s) := by
  induction n generalizing s with
  | zero => exact FlushesOnly.refl s
  | succ n ih => exact (flushesOnly_flushOne s).trans (ih _)

theorem flushesOnly_flushAll (s : State) : FlushesOnly s (flushAll s) := by
  unfold flushAll
  split
  · exact flushesOnly_flushMany ..
  · exact FlushesOnly.refl s

end

/-! ## The update reset (R384) -/

/-- A reset of the engine for an update of `s`: from the first stage on, with image staging and the straps as they were. -/
structure UpdateReset (s t : State) : Prop where
  boot : t.glb.boot = .pllLock
  fromStaging : t.glb.fromStaging = true
  straps : t.glb.straps = s.glb.straps
  staging : t.mgt.staging = s.mgt.staging
  committed : t.mgt.committed = s.mgt.committed
  front : t.front = {}
  upd : t.mgt.upd = 0

theorem updateReset_reboot (s : State) : UpdateReset s (reboot s true) where
  boot := setBoot_boot ..
  fromStaging := rfl
  straps := rfl
  staging := rfl
  committed := rfl
  front := rfl
  upd := rfl

theorem updateReset_updReset (s : State) : UpdateReset s (updReset s) := by
  have h := flushesOnly_flushAll s
  obtain ⟨hboot, hfrom, hstraps, hstaging, hcommitted, hfront, hupd⟩ := updateReset_reboot (flushAll s)
  refine ⟨hboot, hfrom, ?_, hstaging.trans h.staging, hcommitted.trans h.committed, hfront, hupd⟩
  rw [updReset, hstraps, h.glb]

/-! ## Writes to MGT_FWUPD -/

theorem access_fwupd {s : State} (hb : s.glb.boot ≠ .coldReset) : access s 0xD0010 true true = .taken := by
  obtain ⟨r, hr⟩ := Option.isSome_iff_exists.mp (show (regInfo 0xD0010).isSome = true from by decide)
  simp [access, hb, rangeOpen, hr]

/-- The state in which a write of `v` to MGT_FWUPD takes effect: its transfer is counted, and its RW1C bits are cleared. -/
def fwupdWritten (s : State) (v : Nat) : State := plainWrite (bwAdd s 26 0 8) 0xD0010 v 0

theorem fwupdWritten_frame (s : State) (v : Nat) : { fwupdWritten s v with csr := s.csr, pmc := s.pmc } = s := by
  have h := ((CountsOnly.refl s).bwAdd (j := 26) (d := 0) (n := 8)).1
  unfold fwupdWritten plainWrite
  split <;> exact h

theorem fwupdWritten_mgt (s : State) (v : Nat) : (fwupdWritten s v).mgt = s.mgt := by
  have h := congrArg State.mgt (fwupdWritten_frame s v); exact h
theorem fwupdWritten_mem (s : State) (v : Nat) : (fwupdWritten s v).mem = s.mem := by
  have h := congrArg State.mem (fwupdWritten_frame s v); exact h
theorem fwupdWritten_front (s : State) (v : Nat) : (fwupdWritten s v).front = s.front := by
  have h := congrArg State.front (fwupdWritten_frame s v); exact h
theorem fwupdWritten_glb (s : State) (v : Nat) : (fwupdWritten s v).glb = s.glb := by
  have h := congrArg State.glb (fwupdWritten_frame s v); exact h

theorem updBusy_fwupdWritten (s : State) (v : Nat) : updBusy (fwupdWritten s v) = updBusy s := by
  rw [updBusy, fwupdWritten_mgt, updBusy]

theorem exec_fwUpdateLoad {s : State} (hs : Served s) (hb : s.glb.boot ≠ .coldReset) :
    exec (.fwUpdateLoad true) s = .next (csrOut (updLoad (fwupdWritten s 1)) 0 false) := by
  show doWrite 0xD0010 true 1 0 s = _
  rw [doWrite_served hs, csrWriteAt_taken (access_fwupd hb)]
  rfl

theorem exec_fwUpdateGo {s : State} (hs : Served s) (hb : s.glb.boot ≠ .coldReset) :
    exec (.fwUpdateGo true) s = .next (csrOut (updGo (fwupdWritten s 2)) 0 false) := by
  show doWrite 0xD0010 true 2 0 s = _
  rw [doWrite_served hs, csrWriteAt_taken (access_fwupd hb)]
  rfl

theorem updLoad_busy {s : State} (h : updBusy s = true) : updLoad s = csrSet s 0xD0010 (2 ^ 7) := if_pos h

theorem updLoad_idle {s : State} (h : updBusy s = false) :
    updLoad s = setUpd { s with mgt := { s.mgt with force := false, sver := 0 } } 1 := if_neg (by simp [h])

end Sys2Proof.Machine
end

section
/-! The update's own steps (R383, R384), and the MG port (R38, R382). -/

namespace Sys2Proof.Machine

section
variable {s : State}

theorem updLoaded_refused (hr : isReady s = true) (hu : s.mgt.upd = 1) (hp : holdsMp s 0x3C = true)
    (hm : fetchImage s (csrField s 0xD0008 6 36 * 64) = none) : updLoaded s = updFail s 0x03 := by
  unfold updLoaded
  rw [if_neg (by simp [hu, hr, hp])]
  dsimp only
  rw [hm]

/-- The image read has come to staging. -/
theorem updLoaded_fetched {m : List (Nat × Byte)} (hr : isReady s = true) (hu : s.mgt.upd = 1) (hp : holdsMp s 0x3C = true)
    (hm : fetchImage s (csrField s 0xD0008 6 36 * 64) = some m) :
    ∃ l, updLoaded s = setUpd { s with mgt := { s.mgt with staging := l, committed := none } } 2 := by
  unfold updLoaded
  rw [if_neg (by simp [hu, hr, hp])]
  dsimp only
  rw [hm]
  exact ⟨_, rfl⟩

/-- The update whose image has passed is STAGED. -/
def updStaged (s : State) : State := setUpd { s with mgt := { s.mgt with sver := imgFwver (stagedImage s) } } 3

theorem updVerified_good (hu : s.mgt.upd = 2) (hv : verifyCode s.glb.fuses s.mgt.committed (stagedImage s) = 0) :
    updVerified s = if s.mgt.force then updReset (updStaged s) else updStaged s := by
  unfold updVerified updStaged
  rw [if_neg (by simp [hu])]
  dsimp only
  rw [if_neg (by simp [hv])]

theorem updVerified_bad (hu : s.mgt.upd = 2) (hv : verifyCode s.glb.fuses s.mgt.committed (stagedImage s) ≠ 0) :
    updVerified s = updFail s (verifyCode s.glb.fuses s.mgt.committed (stagedImage s)) := by
  unfold updVerified
  rw [if_neg (by simp [hu])]
  dsimp only
  rw [if_pos hv]

end

/-! ## Image staging -/

theorem swf_putStaging {m : List (Nat × Byte)} (h : swf (fun _ => 0#8) m = true) (a : Nat) (l : List Byte) :
    swf (fun _ => 0#8) (putStaging m a l) = true := by
  induction l generalizing m a with
  | nil => exact h
  | cons b l ih =>
    refine ih ?_ _
    split
    · exact swf_sput h
    · exact h

/-- Bytes outside the range written stay. -/
theorem slook_putStaging_ne (m : List (Nat × Byte)) {a x : Nat} {l : List Byte} (h : x < a ∨ a + l.length ≤ x) :
    slook (fun _ => 0#8) (putStaging m a l) x = slook (fun _ => 0#8) m x := by
  induction l generalizing m a with
  | nil => rfl
  | cons b l ih =>
    rw [List.length_cons] at h
    have hx : x ≠ a := by omega
    rw [putStaging, ih _ (by omega)]
    split
    · exact slook_sput_ne hx
    · rfl

/-- Bytes in the range written read as written. -/
theorem slook_putStaging {m : List (Nat × Byte)} (hm : swf (fun _ => 0#8) m = true) {a i : Nat} {l : List Byte}
    (hl : a + l.length ≤ stagingSize) (hi : i < l.length) :
    l[i]? = some (slook (fun _ => 0#8) (putStaging m a l) (a + i)) := by
  induction l generalizing m a i with
  | nil => exact absurd hi (Nat.not_lt_zero i)
  | cons b l ih =>
    rw [List.length_cons] at hl hi
    rw [putStaging, if_pos (by omega)]
    cases i with
    | zero => rw [slook_putStaging_ne _ (Or.inl (by omega)), Nat.add_zero, slook_sput hm, List.getElem?_cons_zero]
    | succ i => rw [List.getElem?_cons_succ, ih (swf_sput hm) (a := a + 1) (by omega) (by omega), Nat.add_right_comm, Nat.add_assoc]

/-- The state with bytes written to staging. -/
def stagingWritten (s : State) (off : Nat) (l : List Byte) : State :=
  { s with mgt := { s.mgt with staging := putStaging s.mgt.staging off l } }

theorem Inv.staging_swf {s : State} (h : Inv s) (hs : Served s) : swf (fun _ => 0#8) s.mgt.staging = true := by
  have hc := h.2 hs.2
  simp only [State.canonical, Bool.and_eq_true] at hc
  tauto

theorem writeImage_mgt {s : State} (h : mgImages s = true) (off : Nat) (l : List Byte) :
    (writeImage off l s).mgt.upd = (if s.mgt.upd = 3 then 0 else s.mgt.upd) ∧
    (writeImage off l s).mgt.staging = putStaging s.mgt.staging off l ∧ LogsOnly s (writeImage off l s) := by
  unfold writeImage
  rw [if_pos h]
  dsimp only
  split
  · exact ⟨by rw [setUpd_mgt], by rw [setUpd_mgt], (logsOnly_mgt s _).trans (logsOnly_setUpd ..)⟩
  · exact ⟨rfl, rfl, rfl⟩

@[simp] theorem csrOut_mgt (s : State) (v : Nat) (e : Bool) : (csrOut s v e).mgt = s.mgt := rfl
@[simp] theorem csrOut_front (s : State) (v : Nat) (e : Bool) : (csrOut s v e).front = s.front := rfl

/-- A commit in READY starts the verification of an update. -/
theorem commitImage_ready {s : State} (h : mgImages s = true) (hr : isReady s = true) (w : Nat) : commitImage w s =
    setUpd { s with mgt := { s.mgt with committed := some (bits w 0 23), force := bit w 23, sver := 0 } } 2 := by
  unfold commitImage
  rw [if_pos h]
  exact if_pos hr

/-- A commit before READY starts the verification of the boot image. -/
theorem commitImage_boot {s : State} (h : mgImages s = true) (hr : isReady s = false) (w : Nat) :
    commitImage w s = (let s1 := { s with mgt := { s.mgt with committed := some (bits w 0 23) } }
      toVerify s1 (stagedImage s1) (some (bits w 0 23))) := by
  unfold commitImage
  rw [if_pos h]
  exact if_neg (by simp [isReady] at hr ⊢; exact hr)

theorem readStatus_answered {s : State} (h : mgAnswers s = true) {n : Nat} (hn : n ≤ 8) :
    readStatus n s = mgDrive s ((leBytes 8 (glbStatus s)).take n) := by
  have hextra : n - 8 = 0 := by omega
  unfold readStatus
  rw [if_pos h, hextra]
  dsimp only
  rw [freeBytes, List.range_zero, List.map_nil, List.append_nil]
  rfl

theorem readLog_answered {s : State} (h : mgAnswers s = true) (hr : s.mgt.restarting = false) (off n : Nat) :
    readLog off n s = mgDrive s ((List.range n).map (fun i => logByte s (off + i))) := by
  unfold readLog
  rw [h, hr]
  exact if_pos rfl

/-- Settles O15: each update step and each frame of MG is its case of the model's function. -/
theorem management : Obligations.Management := by
  unfold Obligations.Management
  refine ⟨fun s hs hb hu => ?load, fun s hs hb hu => ?busy, fun s m hs hf hr hu hp hm => ?loaded,
    fun s hs hf hr hu hp hm => ?refused, fun s hs hf hu hv hforce => ?passed, fun s hs hf hu hv hforce => ?forced,
    fun s hs hf hu hv => ?failed, fun s hs hb hu => ?go, fun s n hs hm hn => ?status, fun s off n hs hm hr => ?log,
    fun s n hs hm => ?silent, fun s off l hs hi hm hlen => ?image, fun s w hs hm => ?commit⟩
  case load =>
    refine ⟨_, exec_fwUpdateLoad hs hb, ?_⟩
    rw [updLoad_idle ((updBusy_fwupdWritten s 1).trans hu), csrOut_mgt, csrOut_mem, csrOut_front, setUpd_mgt,
      (logsOnly_setUpd ..).mem, (logsOnly_setUpd ..).front]
    exact ⟨rfl, rfl, fwupdWritten_mem s 1, fwupdWritten_front s 1⟩
  case busy =>
    refine ⟨_, exec_fwUpdateLoad hs hb, ?_⟩
    rw [updLoad_busy ((updBusy_fwupdWritten s 1).trans hu)]
    exact ⟨congrArg Mgt.upd (fwupdWritten_mgt s 1), bit_csrSet (by decide), fwupdWritten_mem s 1⟩
  case loaded =>
    obtain ⟨l, hl⟩ := updLoaded_fetched hr hu hp hm
    have hlog := (logsOnly_mgt s { s.mgt with staging := l, committed := none }).trans (logsOnly_setUpd _ 2)
    refine ⟨_, congrArg Host.Outcome.next ((byFirmware_eq hs hf _).trans hl), ?_⟩
    rw [setUpd_mgt]
    exact ⟨rfl, rfl, hlog.mem, hlog.front⟩
  case refused =>
    refine ⟨_, congrArg Host.Outcome.next ((byFirmware_eq hs hf _).trans (updLoaded_refused hr hu hp hm)), ?_⟩
    rw [updFail_mgt]
    exact ⟨rfl, rfl, rfl⟩
  case passed =>
    have hrow := updVerified_good hu hv
    rw [hforce, if_neg Bool.false_ne_true] at hrow
    have hlog : LogsOnly s (updStaged s) := (logsOnly_mgt s _).trans (logsOnly_setUpd ..)
    refine ⟨_, congrArg Host.Outcome.next ((byFirmware_eq hs hf _).trans hrow), ?_, ?_, hlog.front, hlog.mem⟩
    · rw [updStaged, setUpd_mgt]
    · rw [updStaged, setUpd_mgt]
  case forced =>
    have hrow := updVerified_good hu hv
    rw [hforce, if_pos rfl] at hrow
    have hlog : LogsOnly s (updStaged s) := (logsOnly_mgt s _).trans (logsOnly_setUpd ..)
    have hreset := updateReset_updReset (updStaged s)
    refine ⟨_, congrArg Host.Outcome.next ((byFirmware_eq hs hf _).trans hrow), hreset.boot, hreset.fromStaging,
      ?_, ?_, hreset.front⟩
    · rw [hreset.straps, hlog.glb]
    · rw [hreset.staging, updStaged, setUpd_mgt]
  case failed =>
    have hlog := logsOnly_updFail s (verifyCode s.glb.fuses s.mgt.committed (stagedImage s))
    refine ⟨_, congrArg Host.Outcome.next ((byFirmware_eq hs hf _).trans (updVerified_bad hu hv)), ?_, ?_, hlog.front,
      hlog.mem⟩
    · rw [updFail_mgt]
    · rw [updFail_mgt]
  case go =>
    have hgo : updGo (fwupdWritten s 2) = updReset (fwupdWritten s 2) :=
      if_pos ((congrArg Mgt.upd (fwupdWritten_mgt s 2)).trans hu)
    obtain ⟨hboot, hfrom, hstraps, hstaging, hcommitted, hfront, hupd⟩ := updateReset_updReset (fwupdWritten s 2)
    refine ⟨_, exec_fwUpdateGo hs hb, ?_⟩
    rw [hgo, csrOut_mgt, csrOut_glb, csrOut_front]
    refine ⟨hboot, hfrom, ?_, ?_, ?_, hfront, hupd⟩
    · rw [hstraps, fwupdWritten_glb]
    · rw [hstaging, fwupdWritten_mgt]
    · rw [hcommitted, fwupdWritten_mgt]
  case status =>
    exact ⟨_, congrArg Host.Outcome.next ((served_eq hs _).trans (readStatus_answered hm hn)), rfl, rfl⟩
  case log =>
    refine ⟨_, congrArg Host.Outcome.next ((served_eq hs _).trans (readLog_answered hm hr ..)), rfl, ?_, fun i hi => ?_⟩
    · simp [mgDrive]
    · simp [mgDrive, hi]
  case silent =>
    exact ⟨_, congrArg Host.Outcome.next ((served_eq hs _).trans (if_neg (by simp [hm]))), rfl⟩
  case image =>
    have hswf : swf (fun _ => 0#8) s.mgt.staging = true := hi.staging_swf hs
    obtain ⟨hupd, hstaging, hlog⟩ := writeImage_mgt hm off.toNat l
    refine ⟨_, congrArg Host.Outcome.next (served_eq hs _), hupd, fun i hlt => ?_, fun a ha => ?_, hlog⟩
    · rw [hstaging]
      exact slook_putStaging hswf hlen hlt
    · rw [hstaging]
      exact slook_putStaging_ne _ ha
  case commit =>
    refine ⟨_, congrArg Host.Outcome.next (served_eq hs _), ?_⟩
    cases hr : isReady s with
    | true =>
      rw [commitImage_ready hm hr, setUpd_mgt]
      exact ⟨rfl, fun _ => ⟨rfl, rfl⟩, fun h => absurd h (by simp)⟩
    | false =>
      rw [commitImage_boot hm hr]
      unfold toVerify
      dsimp only
      rw [setBoot_mgt, setBoot_glb]
      exact ⟨rfl, fun h => absurd h (by simp), fun _ => ⟨rfl, rfl⟩⟩

end Sys2Proof.Machine
end

section
/-! The canonical form of the engine's tables as a predicate with one field for each table, and what keeps it: one rule for
each table, and one for whatever writes no table. -/

namespace Sys2Proof.Machine

-- One proof at a time: hundreds of short ones side by side take more threads than the check has memory for.
set_option Elab.async false

/-- Every table of the state is in canonical form. -/
structure Canon (s : State) : Prop where
  mem : Memory.wf s.mem = true
  csr : swf csrReset s.csr = true
  queues : swf (fun _ => {}) s.front.queues = true
  ctxs : swf (fun _ => {}) s.ctxs = true
  tickets : swf (fun _ => {}) s.disp.tickets = true
  sheds : swf (fun _ => {}) s.shd.sheds = true
  quse : swf (fun _ => 0) s.shd.quse = true
  grps : swf (fun _ => {}) s.col.grps = true
  ports : swf (fun _ => {}) s.fab.ports = true
  pslots : swf (fun _ => {}) s.plc.slots = true
  latch : swf (fun _ => 0) s.pmc.latch = true
  bwAcc : swf (fun _ => 0) s.pmc.bwAcc = true
  bwLast : swf (fun _ => 0) s.pmc.bwLast = true
  xcnt : swf (fun _ => (0, 0, 0)) s.pmc.xcnt = true
  log : swf (fun _ => (0, 0, 0, 0)) s.mgt.log = true
  staging : swf (fun _ => 0#8) s.mgt.staging = true

theorem canonical_iff (s : State) : s.canonical = true ↔ Canon s := by
  simp only [State.canonical, Bool.and_eq_true]
  constructor
  · rintro ⟨⟨⟨⟨⟨⟨⟨⟨⟨⟨⟨⟨⟨⟨⟨h1, h2⟩, h3⟩, h4⟩, h5⟩, h6⟩, h7⟩, h8⟩, h9⟩, h10⟩, h11⟩, h12⟩, h13⟩, h14⟩, h15⟩, h16⟩
    exact ⟨h1, h2, h3, h4, h5, h6, h7, h8, h9, h10, h11, h12, h13, h14, h15, h16⟩
  · rintro ⟨h1, h2, h3, h4, h5, h6, h7, h8, h9, h10, h11, h12, h13, h14, h15, h16⟩
    exact ⟨⟨⟨⟨⟨⟨⟨⟨⟨⟨⟨⟨⟨⟨⟨h1, h2⟩, h3⟩, h4⟩, h5⟩, h6⟩, h7⟩, h8⟩, h9⟩, h10⟩, h11⟩, h12⟩, h13⟩, h14⟩, h15⟩, h16⟩

/-- The tables of a state, host memory as its cells and marks. -/
abbrev State.tables (s : State) := ((s.mem.cells, s.mem.marks, s.csr, s.front.queues, s.ctxs, s.disp.tickets, s.shd.sheds,
  s.shd.quse, s.col.grps), s.fab.ports, s.plc.slots, s.pmc.latch, s.pmc.bwAcc, s.pmc.bwLast, s.pmc.xcnt, s.mgt.log,
  s.mgt.staging)

section
variable {s t : State}

/-- What writes no table keeps them all. -/
theorem Canon.of_tables (h : Canon s) (ht : t.tables = s.tables := by rfl) : Canon t := by
  simp only [Prod.mk.injEq] at ht
  obtain ⟨⟨hcells, hmarks, hcsr, hqueues, hctxs, htickets, hsheds, hquse, hgrps⟩, hports, hpslots, hlatch, hbwAcc, hbwLast,
    hxcnt, hlog, hstaging⟩ := ht
  obtain ⟨h1, h2, h3, h4, h5, h6, h7, h8, h9, h10, h11, h12, h13, h14, h15, h16⟩ := h
  constructor
  · rw [Memory.wf, hcells, hmarks]; exact h1
  · rwa [hcsr]
  · rwa [hqueues]
  · rwa [hctxs]
  · rwa [htickets]
  · rwa [hsheds]
  · rwa [hquse]
  · rwa [hgrps]
  · rwa [hports]
  · rwa [hpslots]
  · rwa [hlatch]
  · rwa [hbwAcc]
  · rwa [hbwLast]
  · rwa [hxcnt]
  · rwa [hlog]
  · rwa [hstaging]

/-! ## How a state is put together -/

theorem Canon.ite {p : Prop} [Decidable p] (hs : Canon s) (ht : Canon t) : Canon (if p then s else t) := by
  split
  · exact hs
  · exact ht

theorem Canon.foldl {α : Type} {f : State → α → State} {l : List α} (h : Canon s) (hf : ∀ u a, Canon u → Canon (f u a)) :
    Canon (l.foldl f s) := by
  induction l generalizing s with
  | nil => exact h
  | cons a l ih => exact ih (hf _ _ h)

theorem Canon.foldl_fst {α β : Type} {f : State × β → α → State × β} {l : List α} {p : State × β} (h : Canon p.1)
    (hf : ∀ q a, Canon q.1 → Canon (f q a).1) : Canon (l.foldl f p).1 := by
  induction l generalizing p with
  | nil => exact h
  | cons a l ih => exact ih (hf _ _ h)

theorem Canon.foldl_snd {α β : Type} {f : β × State → α → β × State} {l : List α} {p : β × State} (h : Canon p.2)
    (hf : ∀ q a, Canon q.2 → Canon (f q a).2) : Canon (l.foldl f p).2 := by
  induction l generalizing p with
  | nil => exact h
  | cons a l ih => exact ih (hf _ _ h)

theorem Canon.fst {α : Type} {p : State × α} {a : α} (h : Canon p.1) (he : p = (s, a)) : Canon s := by
  rw [he] at h
  exact h

theorem Canon.snd {α : Type} {p : α × State} {a : α} (h : Canon p.2) (he : p = (a, s)) : Canon s := by
  rw [he] at h
  exact h

theorem Canon.snd2 {α β : Type} {p : α × β × State} {a : α} {b : β} (h : Canon p.2.2) (he : p = (a, b, s)) : Canon s := by
  rw [he] at h
  exact h

theorem Canon.of_work {w : Work} {a : CmdSt} (h : Canon w.st) (he : w = ⟨s, a⟩) : Canon s := by
  rw [he] at h
  exact h

/-! ## Canonical lists -/

theorem swf_iff {α : Type} [DecidableEq α] {d : Nat → α} {l : List (Nat × α)} :
    swf d l = true ↔ l.Pairwise (fun p q => p.1 < q.1) ∧ ∀ p ∈ l, p.2 ≠ d p.1 := by
  induction l with
  | nil => simp [swf]
  | cons p r ih =>
    rw [swf_cons, ih, List.pairwise_cons, List.forall_mem_cons]
    exact ⟨fun ⟨hv, hk, hr, hd⟩ => ⟨⟨hk, hr⟩, hv, hd⟩, fun ⟨⟨hk, hr⟩, hv, hd⟩ => ⟨hv, hk, hr, hd⟩⟩

/-- New values under the same keys, those at the default left out, are canonical. -/
theorem swf_revalue {α β : Type} [DecidableEq α] [DecidableEq β] {d : Nat → α} {d' : Nat → β} {l : List (Nat × α)}
    (h : swf d l = true) (f : Nat × α → β) :
    swf d' ((l.map fun p => (p.1, f p)).filter fun p => p.2 != d' p.1) = true := by
  obtain ⟨hkeys, -⟩ := swf_iff.mp h
  have hmap : (l.map fun p => (p.1, f p)).Pairwise fun p q => p.1 < q.1 := List.pairwise_map.mpr hkeys
  exact swf_iff.mpr ⟨hmap.filter _, fun p hp => by simpa using (List.mem_filter.mp hp).2⟩

/-- One value other than the default, under some keys of a range. -/
theorem swf_range {α : Type} [DecidableEq α] {d : Nat → α} {v : α} (n : Nat) (f : Nat → Bool) (hv : ∀ k, v ≠ d k) :
    swf d (((List.range n).filter f).map fun k => (k, v)) = true := by
  refine swf_iff.mpr ⟨List.pairwise_map.mpr (List.pairwise_lt_range.filter _), fun p hp => ?_⟩
  obtain ⟨k, -, rfl⟩ := List.mem_map.mp hp
  exact hv k

/-! ## Writes of one entry of a table -/

theorem Canon.csrPut (h : Canon s) {o v : Nat} : Canon (csrPut s o v) := { h with csr := swf_sput h.csr }
theorem Canon.csrSet (h : Canon s) {o m : Nat} : Canon (csrSet s o m) := h.csrPut
theorem Canon.csrClr (h : Canon s) {o m : Nat} : Canon (csrClr s o m) := h.csrPut
theorem Canon.setQueue (h : Canon s) {q : Nat} {x : Queue} : Canon (setQueue s q x) := { h with queues := swf_sput h.queues }
theorem Canon.setCtx (h : Canon s) {c : Nat} {x : Ctx} : Canon (setCtx s c x) := { h with ctxs := swf_sput h.ctxs }
theorem Canon.setShed (h : Canon s) {i : Nat} {x : Shed} : Canon (setShed s i x) := { h with sheds := swf_sput h.sheds }
theorem Canon.setGrp (h : Canon s) {g : Nat} {x : Grp} : Canon (setGrp s g x) := { h with grps := swf_sput h.grps }
theorem Canon.setPort (h : Canon s) {n : Nat} {x : Port} : Canon (setPort s n x) := { h with ports := swf_sput h.ports }
theorem Canon.setPslot (h : Canon s) {i : Nat} {x : PSlot} : Canon (setPslot s i x) := { h with pslots := swf_sput h.pslots }
theorem Canon.setTicket (h : Canon s) {n : Nat} {x : Ticket} : Canon (setTicket s n x) :=
  { h with tickets := swf_sput h.tickets }

theorem Canon.setQuse (h : Canon s) {q n : Nat} : Canon (setQuse s q n) := { h with quse := swf_sput h.quse }
theorem Canon.putLog (h : Canon s) {l : List (Nat × (Nat × Nat × Nat × Nat))}
    (hl : swf (fun _ => (0, 0, 0, 0)) l = true) : Canon { s with mgt := { s.mgt with log := l } } := { h with log := hl }

theorem Canon.setMem (h : Canon s) {m : HostMem} (hm : Memory.wf m = true) : Canon (setMem s m) := { h with mem := hm }

end

end Sys2Proof.Machine
end

section
/-! The shared operations keep every table canonical: counts, the log, the flags, reports and the issue of a command. -/

namespace Sys2Proof.Machine

-- One proof at a time: hundreds of short ones side by side take more threads than the check has memory for.
set_option Elab.async false

section
variable {s : State}

theorem Canon.countF {off lo w n : Nat} (h : Canon s) : Canon (countF s off lo w n) := by
  unfold Machine.countF
  split
  · exact h
  · exact h.csrPut

theorem Canon.countC {off n : Nat} (h : Canon s) : Canon (countC s off n) := h.countF

theorem Canon.logged (h : Canon s) {full : Bool} {e : Nat × Nat × Nat × Nat} : Canon (logged s full e) := by
  unfold Machine.logged
  dsimp only
  split
  · exact (h.putLog (swf_sput h.log)).of_tables.countC
  · exact (h.putLog (swf_sput h.log)).of_tables

theorem Canon.logEntry (h : Canon s) {code sev cx detail unit : Nat} : Canon (logEntry s code sev cx detail unit) := by
  obtain ⟨full, e, he⟩ := logEntry_eq_logged s code sev cx detail unit
  rw [he]
  exact h.logged

theorem Canon.faultBit {n : Nat} (h : Canon s) : Canon (faultBit s n) := h.csrSet

theorem Canon.raiseFault {code sev bitNo cx detail unit : Nat} (h : Canon s) :
    Canon (raiseFault s code sev bitNo cx detail unit) :=
  h.logEntry.faultBit

theorem Canon.setBoot {b : BootState} (h : Canon s) : Canon (setBoot s b) := by
  unfold Machine.setBoot
  dsimp only
  split
  · exact h
  · exact h.of_tables.csrSet

theorem Canon.pmcBump {i n : Nat} (h : Canon s) : Canon (pmcBump s i n) := by
  unfold Machine.pmcBump
  dsimp only
  split
  · exact h.csrPut
  · split
    · split
      · exact h.csrPut.csrPut
      · exact h.csrPut.csrPut.csrSet
    · exact h.csrPut.csrSet

theorem Canon.pmcEvent {ev n : Nat} {inst cx cls : Option Nat} (h : Canon s) :
    Canon (pmcEvent s ev inst cx cls n) := by
  unfold Machine.pmcEvent
  dsimp only
  split
  · exact h
  · split
    · exact (h.foldl fun _ _ hu => Canon.ite hu.pmcBump hu).csrSet
    · exact h.foldl fun _ _ hu => Canon.ite hu.pmcBump hu

theorem Canon.bwAdd (h : Canon s) {j d n : Nat} : Canon (bwAdd s j d n) := by
  unfold Machine.bwAdd
  split
  · exact { h with bwAcc := swf_sput h.bwAcc }
  · exact h

theorem Canon.tdcCount {src : Nat} (h : Canon s) : Canon (tdcCount s src) :=
  (Canon.ite h.countC.countF h.countC.countF.csrPut).pmcEvent

theorem Canon.ctxCount {c n k : Nat} (h : Canon s) : Canon (ctxCount s c n k) := by
  unfold Machine.ctxCount
  dsimp only
  split
  · exact h
  · exact h.setCtx

theorem Canon.xcntAdd (h : Canon s) {c expert which k : Nat} : Canon (xcntAdd s c expert which k) := by
  unfold Machine.xcntAdd
  dsimp only
  split
  · exact { h with xcnt := swf_sput h.xcnt }
  · exact h

theorem Canon.rotaToggle {i : Nat} (h : Canon s) : Canon (rotaToggle s i) := h.of_tables

theorem Canon.setCmd {x : Cmd} (h : Canon s) : Canon (setCmd s x) := h.of_tables

theorem Canon.report {q tag : Nat} {r : Report} (h : Canon s) : Canon (report s q tag r) := by
  unfold Machine.report
  dsimp only
  split
  · exact h
  · split
    · exact h
    · exact h.setCmd.setQueue

theorem Canon.finish {q tag status detail result epoch : Nat} (h : Canon s) :
    Canon (finish s q tag status detail result epoch) :=
  h.report

theorem Canon.finishOk {q tag result : Nat} (h : Canon s) : Canon (finishOk s q tag result) := h.finish

theorem Canon.settle {w : Work} {q tag : Nat} (hw : Canon w.st) : Canon (settle w q tag) := by
  unfold Machine.settle
  split
  · exact hw.report
  · split
    · exact hw
    · split
      · exact hw
      · exact hw.setCmd

theorem Canon.doneWith {status detail result epoch : Nat} (h : Canon s) :
    Canon (doneWith s status detail result epoch).st :=
  h

theorem Canon.withSlots {ok : Bool} {c : Cmd} {w : Unit → Work} (h : Canon s) (hw : ∀ a0, Canon (w a0).st) :
    Canon (withSlots ok c s w).st := by
  unfold Machine.withSlots
  split
  · exact hw _
  · exact h

theorem Canon.issueRow {k : Cmd → Bool} {q tag : Nat} {work : Cmd → State → Work} (h : Canon s)
    (hwork : ∀ a0 u, Canon u → Canon (work a0 u).st) :
    Canon (issueRow k q tag work s) := by
  unfold Machine.issueRow
  dsimp only
  split
  · exact h
  · split
    · split
      · exact (hwork _ _ h).settle
      · split
        · exact h.setCmd.finish
        · exact h.setCmd
        · exact (hwork _ _ h.setCmd).settle
    · exact h

theorem Canon.putFlag {f : Nat} {b : Bool} (h : Canon s) : Canon (putFlag s f b) := h.of_tables

theorem Canon.clearFlag {f : Nat} (h : Canon s) : Canon (clearFlag s f) := h.putFlag

theorem Canon.endWait {c : Cmd} (h : Canon s) : Canon (endWait s c) := h.finishOk

theorem Canon.releaseWaits {f : Nat} (h : Canon s) : Canon (releaseWaits s f) :=
  (Canon.ite h.clearFlag h).foldl fun _ _ hu => hu.endWait

theorem Canon.setFlag {f : Nat} (h : Canon s) : Canon (setFlag s f) := by
  unfold Machine.setFlag
  split
  · exact h.countF
  · exact h.putFlag.releaseWaits

end

end Sys2Proof.Machine
end

section
/-! The command front end keeps every table canonical (R79 to R104). -/

namespace Sys2Proof.Machine

-- One proof at a time: hundreds of short ones side by side take more threads than the check has memory for.
set_option Elab.async false

section
variable {s : State}

theorem Canon.startRead {code addr len : Nat} {use : RdFor} (h : Canon s) :
    Canon (startRead s code addr len use) := by
  unfold Machine.startRead
  dsimp only
  split
  · exact h
  · split
    · exact h
    · exact h.of_tables

theorem Canon.startWrite {code addr : Nat} {data : List Byte} {use : WrFor} (h : Canon s) :
    Canon (startWrite s code addr data use) := by
  unfold Machine.startWrite
  dsimp only
  split
  · exact h
  · split
    · exact h
    · exact h.of_tables

theorem Canon.fetchPump {q : Nat} (h : Canon s) : Canon (fetchPump s q) := by
  unfold Machine.fetchPump
  dsimp only
  refine Canon.ite ?_ ?_
  · refine Canon.ite ?_ ?_
    · exact h
    · exact h.startRead.setQueue
  · exact h

theorem Canon.fetchPumpAll (h : Canon s) : Canon (fetchPumpAll s) := h.foldl fun _ _ hu => hu.fetchPump

theorem Canon.dropPrefetch {q : Nat} (h : Canon s) : Canon (dropPrefetch s q) := h.setQueue.of_tables

theorem Canon.trimPrefetch {q : Nat} (h : Canon s) : Canon (trimPrefetch s q) := by
  unfold Machine.trimPrefetch
  dsimp only
  split
  · exact h
  · exact h.dropPrefetch.setQueue

theorem Canon.fetchFault {q : Nat} (h : Canon s) : Canon (fetchFault s q) := h.csrClr.csrSet.raiseFault

theorem Canon.fetchArrived {q code : Nat} {r : MpRead} (h : Canon s) : Canon (fetchArrived s q r code) := by
  unfold Machine.fetchArrived
  dsimp only
  split
  · exact h.dropPrefetch.fetchFault
  · exact h.setQueue.fetchPump

theorem Canon.laneUpdate {q new : Nat} {head priv : Bool} (h : Canon s) : Canon (laneUpdate s q new head priv) := by
  unfold Machine.laneUpdate
  dsimp only
  split
  · split
    · exact h.setQueue
    · exact h.setQueue.trimPrefetch
  · exact h.csrSet

theorem Canon.lanes {line : Nat} {lv : BitVec 8} {data : BitVec 512} {priv : Bool} (h : Canon s) :
    Canon (lanes s line lv data priv) :=
  h.foldl fun _ _ hu => Canon.ite hu.laneUpdate hu

theorem Canon.doorbell {line : Nat} {lv : BitVec 8} {data : BitVec 512} {priv : Bool} (h : Canon s) :
    Canon (doorbell line lv data priv s) := by
  unfold Machine.doorbell
  dsimp only
  split
  · exact h
  · split
    · exact h.csrSet
    · exact h.pmcEvent.bwAdd.lanes.foldl fun _ _ hu => hu.fetchPump

theorem Canon.admitFrom {q : Nat} (h : Canon s) : Canon (admitFrom s q) := by
  unfold Machine.admitFrom
  dsimp only
  split
  · exact h
  · exact h.setQueue.of_tables.pmcEvent.fetchPump

theorem Canon.admitNext (h : Canon s) : Canon (admitNext s) := by
  unfold Machine.admitNext
  split
  · exact h
  · exact h.admitFrom

theorem Canon.writeRecord {q : Nat} (h : Canon s) : Canon (writeRecord q s) := by
  unfold Machine.writeRecord
  dsimp only
  split
  · exact h
  · split
    · exact h
    · split
      · exact h
      · exact h.startWrite.setQueue

theorem Canon.sampleDone {c : Cmd} {r : Report} (h : Canon s) : Canon (sampleDone s c r) := by
  unfold Machine.sampleDone
  dsimp only
  split
  · exact h
  · split
    · split
      · exact h.of_tables
      · exact h.countC
    · exact h.of_tables

theorem Canon.recordAcked {q : Nat} {err : Bool} (h : Canon s) : Canon (recordAcked s q err) := by
  unfold Machine.recordAcked
  dsimp only
  split
  · exact h
  · split
    · exact (Canon.ite h.of_tables.setQueue.pmcEvent.pmcEvent
        h.of_tables.setQueue.pmcEvent).sampleDone.dropPrefetch.fetchFault
    · exact (Canon.ite h.of_tables.setQueue.pmcEvent.pmcEvent h.of_tables.setQueue.pmcEvent).sampleDone

theorem Canon.abortCmd {c : Cmd} (h : Canon s) : Canon (abortCmd s c) := h.setCmd.finish

theorem Canon.abortQueue {q : Nat} (h : Canon s) : Canon (abortQueue s q) :=
  (h.csrClr.foldl fun _ _ hu => hu.abortCmd).dropPrefetch

theorem Canon.writeCqCtl {q v : Nat} (h : Canon s) : Canon (writeCqCtl s q v) :=
  (Canon.ite (Canon.ite h.csrPut.abortQueue h.csrPut).csrSet (Canon.ite h.csrPut.abortQueue h.csrPut)).fetchPump

theorem Canon.writeCqSbase {q v : Nat} (h : Canon s) : Canon (writeCqSbase s q v) := by
  unfold Machine.writeCqSbase
  dsimp only
  split
  · exact h
  · exact h.dropPrefetch.csrPut.setQueue

theorem Canon.nopWork {x0 : Cmd} (h : Canon s) : Canon (nopWork x0 s).st := h.doneWith

theorem Canon.waitWork {c : Cmd} (h : Canon s) : Canon (waitWork c s).st := by
  unfold Machine.waitWork
  dsimp only
  split
  · exact (Canon.ite h h.clearFlag).doneWith
  · exact h

theorem Canon.signalWork {c : Cmd} (h : Canon s) : Canon (signalWork c s).st :=
  (Canon.ite h.clearFlag h.setFlag).doneWith

theorem Canon.ctxopenStart {c : Cmd} (h : Canon s) : Canon (ctxopenStart c s).st := h.withSlots (fun _ => h.startRead)

theorem Canon.ctxZeroPump (h : Canon s) {k q tag : Nat} {l : List (Nat × Nat)} : Canon (ctxZeroPump s k q tag l) := by
  induction l generalizing s with
  | nil => exact h.setCtx
  | cons p l ih =>
    unfold Machine.ctxZeroPump
    dsimp only
    split
    · exact h.setCtx
    · exact ih h.startWrite.setCtx

theorem Canon.ctxZeroSettle {k q tag : Nat} (h : Canon s) : Canon (ctxZeroSettle s k q tag) := by
  unfold Machine.ctxZeroSettle
  split
  · exact h
  · exact h.setCmd

theorem Canon.ctxopenWork {c : Cmd} (h : Canon s) : Canon (ctxopenWork c s).st := by
  unfold Machine.ctxopenWork
  dsimp only
  split
  · split
    · exact h.ctxopenStart
    · exact h.ctxZeroPump
  · exact h.setCtx.ctxopenStart

theorem Canon.ctxopenFail {k q tag code : Nat} (h : Canon s) : Canon (ctxopenFail s k q tag code) :=
  h.of_tables.setCtx.raiseFault.finish

theorem Canon.ctxParamArrived {k q tag code : Nat} {r : MpRead} (h : Canon s) :
    Canon (ctxParamArrived s k q tag r code) := by
  unfold Machine.ctxParamArrived
  dsimp only
  split
  · exact h.ctxopenFail
  · exact h.setCtx.ctxZeroPump.ctxZeroSettle

theorem Canon.ctxopenDone {k q tag : Nat} (h : Canon s) : Canon (ctxopenDone s k q tag) := by
  unfold Machine.ctxopenDone
  dsimp only
  split
  · exact h.setCtx
  · split
    · exact h.setCtx.finish
    · exact h.setCtx.finishOk

theorem Canon.ctxZeroAcked {k q tag : Nat} {err : Bool} (h : Canon s) : Canon (ctxZeroAcked s k q tag err) := by
  unfold Machine.ctxZeroAcked
  dsimp only
  split
  · exact h.setCtx.ctxopenFail
  · split
    · exact h.setCtx.ctxopenDone
    · exact h.setCtx

theorem Canon.drainWaiting {c : Cmd} (h : Canon s) : Canon (drainWaiting s c) := h.finish

theorem Canon.drainAdmitted {c : Cmd} (h : Canon s) : Canon (drainAdmitted s c) := by
  unfold Machine.drainAdmitted
  split
  · exact h
  · split
    · split
      · exact h.setCmd.finish
      · exact h
    · exact h

theorem Canon.drainOne {c : Cmd} (h : Canon s) : Canon (drainOne s c) := by
  unfold Machine.drainOne
  split
  · exact h.drainWaiting
  · exact h.drainAdmitted

theorem Canon.beginDrain {k : Nat} (h : Canon s) : Canon (beginDrain s k) := h.setCtx.foldl fun _ _ hu => hu.drainOne

theorem Canon.ctxcloseWork {c : Cmd} (h : Canon s) : Canon (ctxcloseWork c s).st := h.beginDrain

theorem Canon.drainFollow {k : Nat} (h : Canon s) : Canon (drainFollow s k) :=
  h.foldl fun _ _ hu => Canon.ite hu.setCmd hu.finish

end

end Sys2Proof.Machine
end

section
/-! Messages, groups and collectives that end keep every table canonical (chapters 11 and 12). -/

namespace Sys2Proof.Machine

-- One proof at a time: hundreds of short ones side by side take more threads than the check has memory for.
set_option Elab.async false

section
variable {s : State}

theorem Canon.addTally {t : Tally} (h : Canon s) : Canon (addTally s t) :=
  h.countF.countF.countF.countC.countC.countC.pmcEvent.pmcEvent

theorem Canon.placeGroup {g : Nat} (h : Canon s) : Canon (placeGroup s g) := h.setGrp

theorem Canon.loseIn {chip g : Nat} (h : Canon s) : Canon (loseIn s chip g) := by
  unfold Machine.loseIn
  dsimp only
  split
  · exact h.setGrp
  · exact h

theorem Canon.countHop {r : RouteHdr} (h : Canon s) : Canon (countHop s r) := by
  unfold Machine.countHop
  split
  · exact h.tdcCount
  · exact h

theorem Canon.putWire {n : Nat} {f : Flit} (h : Canon s) : Canon (putWire s n f) := h.of_tables

theorem Canon.sendIdle {n vc : Nat} {nak : Bool} (h : Canon s) : Canon (sendIdle s n vc nak) := h.putWire

theorem Canon.freeBufs {x0 : Hold} {k : Nat} (h : Canon s) : Canon (freeBufs s x0 k) := by
  unfold Machine.freeBufs
  dsimp only
  split
  · exact h
  · split
    · exact h
    · split
      · exact h.setPort.sendIdle
      · exact h.setPort

theorem Canon.freeHold {x0 : Hold} (h : Canon s) : Canon (freeHold s x0) := h.freeBufs

theorem Canon.post {m : Msg} (h : Canon s) : Canon (post s m) := by
  unfold Machine.post
  dsimp only
  split
  · exact h.of_tables
  · split
    · exact h.of_tables
    · exact h.of_tables

theorem Canon.send {owner kind dst rest : Nat} {data : List Byte} (h : Canon s) :
    Canon (send s owner kind dst rest data) :=
  h.post

theorem Canon.takeMsg (h : Canon s) {p : Msg → Bool} {m : Msg} {t : State} (he : takeMsg s p = some (m, t)) : Canon t := by
  obtain ⟨x, -, hx⟩ := Option.map_eq_some_iff.mp he
  cases hx
  exact h.of_tables.freeHold

theorem Canon.sendRing {g dst a kind seq chunk phase step sub : Nat} {forward : Bool} {data : List Byte} (h : Canon s) :
    Canon (sendRing s g dst a forward kind seq chunk phase step sub data) :=
  h.countC.post.pmcEvent

theorem Canon.enableGroup {g : Nat} (h : Canon s) : Canon (enableGroup s g) := h.setGrp.placeGroup

theorem Canon.disableGroup {g : Nat} (h : Canon s) : Canon (disableGroup s g) := h.setGrp.csrClr

theorem Canon.endWaiting {g : Nat} (h : Canon s) : Canon (endWaiting s g) := h.foldl fun _ _ hu => hu.setCmd.finish

theorem Canon.endColl {g status detail result : Nat} (h : Canon s) : Canon (endColl s g status detail result) := by
  unfold Machine.endColl
  dsimp only
  split
  · exact h
  · split
    · split
      · exact h.setGrp.finish.disableGroup.endWaiting.csrSet.enableGroup
      · exact h.setGrp.finish.disableGroup.endWaiting
    · exact h.setGrp.finish

theorem Canon.dropQueued {g seq : Nat} (h : Canon s) : Canon (dropQueued s g seq) :=
  h.of_tables.foldl fun _ _ hu => Canon.ite hu hu.setPort

theorem Canon.sendNotices {g seq status idx : Nat} (h : Canon s) : Canon (sendNotices s g seq status idx) :=
  h.foldl fun _ _ hu => Canon.ite hu.sendRing hu.sendRing.sendRing

theorem Canon.abortColl {g status idx : Nat} {own : Option Nat} (h : Canon s) :
    Canon (abortColl s g status idx own) := by
  unfold Machine.abortColl
  dsimp only
  split
  · exact h
  · exact (Canon.ite (h.dropQueued.setMem (wf_freeDest _ _ _ h.dropQueued.mem)) h.dropQueued).sendNotices.endColl

theorem Canon.sentOnce {c : Cmd} (h : Canon s) : Canon (sentOnce s c) := h.of_tables

theorem Canon.loseWaiters {g : Nat} (h : Canon s) : Canon (loseWaiters s g) :=
  h.foldl fun _ _ hu => (Canon.ite hu.sentOnce hu).finish

theorem Canon.reportUnreach {chip : Nat} (h : Canon s) : Canon (reportUnreach s chip) :=
  (h.foldl fun _ _ hu => Canon.ite hu.loseIn.abortColl.loseWaiters hu.loseIn).countC.raiseFault

end

end Sys2Proof.Machine
end

section
/-! Access sequences keep host memory canonical: the rules of the access monad, and its primitives. -/

namespace Sys2Proof.Machine

-- One proof at a time: hundreds of short ones side by side take more threads than the check has memory for.
set_option Elab.async false

/-- An access sequence keeps host memory canonical. -/
def KeepsMem {α : Type} (x : Mio α) : Prop := ∀ io : Io, Memory.wf io.mem = true → Memory.wf (x io).2.mem = true

section
variable {α β : Type}

theorem wf_of_fst {m : HostMem} {p : HostMem × α} {a : α} (h : Memory.wf p.1 = true) (he : p = (m, a)) :
    Memory.wf m = true := by
  rw [he] at h
  exact h

theorem KeepsMem.of_eq {x : Mio α} (hx : KeepsMem x) {io io1 : Io} {a : α} (h : Memory.wf io.mem = true)
    (he : x io = (a, io1)) : Memory.wf io1.mem = true := by
  have h1 := hx io h
  rw [he] at h1
  exact h1

theorem KeepsMem.pure {a : α} : KeepsMem (pure a : Mio α) := fun _ h => h

theorem KeepsMem.get : KeepsMem (get : Mio Io) := fun _ h => h

theorem KeepsMem.modify {f : Io → Io} (hf : ∀ io : Io, Memory.wf io.mem = true → Memory.wf (f io).mem = true) :
    KeepsMem (modify f : Mio Unit) := hf

theorem KeepsMem.bind {x : Mio α} {f : α → Mio β} (hx : KeepsMem x) (hf : ∀ a, KeepsMem (f a)) : KeepsMem (x >>= f) :=
  fun io h => hf _ _ (hx io h)

/-- A state that is read and put back later is canonical from the start. -/
theorem KeepsMem.get_bind {f : Io → Mio β} (hf : ∀ io : Io, Memory.wf io.mem = true → KeepsMem (f io)) :
    KeepsMem ((MonadState.get : Mio Io) >>= f) := fun io h => hf io h io h

theorem KeepsMem.set {io : Io} (h : Memory.wf io.mem = true) : KeepsMem (MonadStateOf.set io : Mio PUnit) := fun _ _ => h

theorem KeepsMem.ite {p : Prop} [Decidable p] {x y : Mio α} (hx : KeepsMem x) (hy : KeepsMem y) :
    KeepsMem (if p then x else y) := by
  split
  · exact hx
  · exact hy

theorem KeepsMem.forM {l : List α} {f : α → Mio PUnit} (hf : ∀ a, KeepsMem (f a)) : KeepsMem (l.forM f) := by
  induction l with
  | nil => exact KeepsMem.pure
  | cons a l ih => exact (hf a).bind fun _ => ih

theorem KeepsMem.foldlM {l : List α} {f : β → α → Mio β} {b : β} (hf : ∀ b a, KeepsMem (f b a)) :
    KeepsMem (l.foldlM f b) := by
  induction l generalizing b with
  | nil => exact KeepsMem.pure
  | cons a l ih =>
    rw [List.foldlM_cons]
    exact (hf b a).bind fun _ => ih

theorem KeepsMem.mapM {l : List α} {f : α → Mio β} (hf : ∀ a, KeepsMem (f a)) : KeepsMem (l.mapM f) := by
  induction l with
  | nil => exact KeepsMem.pure
  | cons a l ih =>
    rw [List.mapM_cons]
    exact (hf a).bind fun _ => ih.bind fun _ => KeepsMem.pure

end

theorem keepsMem_num {α : Type} {x : Num α} : KeepsMem (num x) := fun _ h => h

theorem keepsMem_ioStop {e : Stop} : KeepsMem (ioStop e) := KeepsMem.modify fun io h => by
  split
  · exact h
  · exact h

theorem keepsMem_ioStopped : KeepsMem ioStopped := fun _ h => h

theorem keepsMem_ioRead {dom : Bool} {a n : Nat} : KeepsMem (ioRead dom a n) := fun _ h => wf_ioRead dom a n h

theorem keepsMem_ioWrite {dom : Bool} {a : Nat} {bs : List Byte} : KeepsMem (ioWrite dom a bs) :=
  fun _ h => wf_ioWrite dom a bs h

theorem keepsMem_ioStage : KeepsMem ioStage := KeepsMem.modify fun _ h => h

end Sys2Proof.Machine
end

section
/-! Accesses of an instruction keep host memory and every table canonical (chapter 07). -/

namespace Sys2Proof.Machine

-- One proof at a time: hundreds of short ones side by side take more threads than the check has memory for.
set_option Elab.async false

section
variable {s : State}

theorem Canon.mpCount {code rd wr : Nat} (h : Canon s) : Canon (mpCount s code rd wr) := by
  unfold Machine.mpCount
  dsimp only
  split
  · exact h
  · exact h.pmcEvent.pmcEvent.bwAdd.bwAdd

theorem Canon.remoteHop {x : Nat × Bool} (h : Canon s) : Canon (remoteHop s x) := by
  unfold Machine.remoteHop
  dsimp only
  split
  · exact h
  · split
    · split
      · exact (Canon.ite h.countHop.countC h.countHop).of_tables.countC
      · exact h.countHop.countC.of_tables.countC
      · exact h.countHop.of_tables.countC
    · split
      · split
        · exact h.countHop.countC
        · exact h.countHop
      · exact h.countHop.countC
      · exact h.countHop

theorem Canon.ioClose {rcode wcode : Nat} {io : Io} (h : Canon s) (hio : Memory.wf io.mem = true) :
    Canon (ioClose s rcode wcode io) :=
  ((h.setMem hio).addTally.foldl fun _ _ hu => hu.remoteHop).mpCount.mpCount

theorem Canon.mpFault {cx q detail : Nat} (h : Canon s) : Canon (mpFault s cx q detail) := h.raiseFault

theorem Canon.freeWrites {foot : List (Nat × Nat × Bool)} (h : Canon s) : Canon (freeWrites foot s) :=
  h.foldl fun _ _ hu => Canon.ite (hu.setMem (wf_wrFree _ _ hu.mem)) hu

theorem Canon.yardRace {c : Cmd} {foot : List (Nat × Nat × Bool)} (h : Canon s) : Canon (yardRace s c foot) := by
  unfold Machine.yardRace
  dsimp only
  refine Canon.foldl ?_ fun _ _ hu => Canon.ite hu.freeWrites hu
  refine Canon.ite ?_ ?_
  · split
    · exact h
    · exact h.setCmd
  · refine Canon.freeWrites ?_
    split
    · exact h
    · exact h.setCmd

theorem Canon.stopWork {c : Cmd} {e : Stop} {sramCode sramBit : Nat} (h : Canon s) :
    Canon (stopWork s c e sramCode sramBit).st := by
  unfold Machine.stopWork
  split
  · exact h.mpFault.doneWith
  · exact h.raiseFault.doneWith
  · exact h.reportUnreach.doneWith
  · exact h.doneWith

theorem Canon.ceMany {n : Nat} (h : Canon s) : Canon (ceMany s n) := h.of_tables

theorem Canon.ceOne (h : Canon s) : Canon (ceOne s) := h.ceMany

theorem keepsMem_Desc_readSeg {d : Desc} {cs : List Nat} {i0 n : Nat} : KeepsMem (Desc.readSeg d cs i0 n) := by
  unfold Machine.Desc.readSeg
  dsimp only
  refine KeepsMem.ite ?_ ?_
  · exact KeepsMem.pure
  · split
    · exact keepsMem_ioRead.bind fun _ => KeepsMem.pure
    · exact keepsMem_ioRead.bind fun _ => KeepsMem.pure

theorem keepsMem_blockScale {codes : List Nat} : KeepsMem (blockScale codes) := fun io h => by
  unfold blockScale
  split
  · exact h
  · exact wf_draws _ h

theorem keepsMem_blockBytes {codes : List Nat} : KeepsMem (blockBytes codes) :=
  keepsMem_blockScale.bind fun _ => KeepsMem.pure

theorem keepsMem_writeBx8Elem {dom : Bool} {a i code : Nat} : KeepsMem (writeBx8Elem dom a i code) := fun _ h =>
  keepsMem_ioWrite _ (keepsMem_ioWrite _ (wf_draws _ h))

theorem keepsMem_Desc_writeSeg {d : Desc} {cs codes : List Nat} {i0 : Nat} :
    KeepsMem (Desc.writeSeg d cs i0 codes) := by
  unfold Machine.Desc.writeSeg
  dsimp only
  refine KeepsMem.ite ?_ ?_
  · exact KeepsMem.pure
  · split
    · exact KeepsMem.forM (fun _ => keepsMem_writeBx8Elem)
    · split
      · exact (KeepsMem.mapM (fun _ => keepsMem_blockBytes)).bind fun _ => keepsMem_ioWrite
      · split
        · exact KeepsMem.get.bind fun _ => keepsMem_ioWrite
        · exact keepsMem_ioWrite

theorem keepsMem_Desc_readRow {d : Desc} {t : Bool} {r n : Nat} : KeepsMem (Desc.readRow d t r n) := by
  unfold Machine.Desc.readRow
  split
  · exact (KeepsMem.mapM (fun _ => keepsMem_Desc_readSeg)).bind fun _ => KeepsMem.pure
  · exact keepsMem_Desc_readSeg

theorem keepsMem_Desc_writeRow {d : Desc} {t : Bool} {r : Nat} {codes : List Nat} :
    KeepsMem (Desc.writeRow d t r codes) := by
  unfold Machine.Desc.writeRow
  split
  · exact KeepsMem.forM (fun _ => keepsMem_Desc_writeSeg)
  · exact keepsMem_Desc_writeSeg

theorem keepsMem_readStruct {x : Nat} : KeepsMem (readStruct x) := keepsMem_ioRead.bind fun _ => KeepsMem.pure

theorem keepsMem_readDesc {c : Cmd} {x : Nat} : KeepsMem (readDesc c x) :=
  keepsMem_readStruct.bind fun _ => KeepsMem.pure

theorem keepsMem_Desc_readVals {d : Desc} {r n : Nat} : KeepsMem (Desc.readVals d r n) :=
  keepsMem_Desc_readRow.bind fun _ => KeepsMem.pure

end

end Sys2Proof.Machine
end

section
/-! Placement and the Sheds' tables keep every table canonical: allocation, free and the drain scan (chapter 09). -/

namespace Sys2Proof.Machine

-- One proof at a time: hundreds of short ones side by side take more threads than the check has memory for.
set_option Elab.async false

section
variable {s : State}

theorem Canon.shdFail {i cx code : Nat} (h : Canon s) : Canon (shdFail s i cx code) :=
  h.csrClr.csrSet.setShed.raiseFault

theorem Canon.shdRefill {i : Nat} (h : Canon s) : Canon (shdRefill s i).1 := by
  unfold Machine.shdRefill
  extract_lets
  split
  · split
    split
    · exact h.shdFail
    · exact h.setShed.mpCount
  · exact h

theorem Canon.shdWriteback {i : Nat} (h : Canon s) : Canon (shdWriteback s i) := by
  unfold Machine.shdWriteback
  dsimp only
  split
  · split
    · exact (h.setMem (wf_writeRing _ _ _ _ h.mem)).shdFail
    · exact (h.setMem (wf_writeRing _ _ _ _ h.mem)).setShed.mpCount
  · exact h

theorem Canon.failExhaust {cls reason s0 : Nat} (h : Canon s) : Canon (failExhaust s cls reason s0).1 := by
  unfold Machine.failExhaust
  dsimp only
  exact h.countC

theorem Canon.failQuota {cls reason s0 : Nat} (h : Canon s) : Canon (failQuota s cls reason s0).1 := by
  unfold Machine.failQuota
  dsimp only
  exact h.countC

theorem Canon.ctxBufs {cx i : Nat} {f : Nat → Nat} (h : Canon s) : Canon (ctxBufs s cx i f) := h.setCtx

theorem Canon.releaseBuf {cx : Nat} {b : Buf} (h : Canon s) : Canon (releaseBuf s cx b) := by
  unfold Machine.releaseBuf
  dsimp only
  split
  · exact h.ctxBufs.setShed.setQuse.countC
  · split
    · exact (h.ctxBufs.setMem (wf_wrTry _ _ h.ctxBufs.mem)).mpCount.shdFail.setShed.setQuse.countC
    · refine Canon.ite ?_ ?_
      · exact (Canon.ite (h.ctxBufs.setMem (wf_wrTry _ _ h.ctxBufs.mem)).mpCount.shdWriteback (h.ctxBufs.setMem
          (wf_wrTry _ _ h.ctxBufs.mem)).mpCount).setShed.setQuse.countC
      · exact (Canon.ite (h.ctxBufs.setMem (wf_wrTry _ _ h.ctxBufs.mem)).mpCount.shdWriteback (h.ctxBufs.setMem
          (wf_wrTry _ _ h.ctxBufs.mem)).mpCount).setShed.setQuse.countC

theorem Canon.takeBuf {r : AllocReq} {s0 i : Nat} (h : Canon s) : Canon (takeBuf r s0 i s).1 := by
  unfold Machine.takeBuf
  dsimp only
  split
  · exact h
  · split
    · split
      · split
        · exact (h.setShed.setQuse.ctxBufs.countC.pmcEvent.countC.pmcEvent.tdcCount.setMem (wf_wrTry _ _
            h.setShed.setQuse.ctxBufs.countC.pmcEvent.countC.pmcEvent.tdcCount.mem)).mpCount.shdFail.releaseBuf
        · exact (h.setShed.setQuse.ctxBufs.countC.pmcEvent.countC.pmcEvent.tdcCount.setMem (wf_wrTry _ _
            h.setShed.setQuse.ctxBufs.countC.pmcEvent.countC.pmcEvent.tdcCount.mem)).mpCount
      · split
        · exact (h.setShed.setQuse.ctxBufs.countC.pmcEvent.tdcCount.setMem (wf_wrTry _ _
            h.setShed.setQuse.ctxBufs.countC.pmcEvent.tdcCount.mem)).mpCount.shdFail.releaseBuf
        · exact (h.setShed.setQuse.ctxBufs.countC.pmcEvent.tdcCount.setMem (wf_wrTry _ _
            h.setShed.setQuse.ctxBufs.countC.pmcEvent.tdcCount.mem)).mpCount
    · split
      · split
        · exact (h.setShed.setQuse.ctxBufs.countC.pmcEvent.countC.pmcEvent.setMem (wf_wrTry _ _
            h.setShed.setQuse.ctxBufs.countC.pmcEvent.countC.pmcEvent.mem)).mpCount.shdFail.releaseBuf
        · exact (h.setShed.setQuse.ctxBufs.countC.pmcEvent.countC.pmcEvent.setMem (wf_wrTry _ _
            h.setShed.setQuse.ctxBufs.countC.pmcEvent.countC.pmcEvent.mem)).mpCount
      · split
        · exact (h.setShed.setQuse.ctxBufs.countC.pmcEvent.setMem (wf_wrTry _ _
            h.setShed.setQuse.ctxBufs.countC.pmcEvent.mem)).mpCount.shdFail.releaseBuf
        · exact (h.setShed.setQuse.ctxBufs.countC.pmcEvent.setMem (wf_wrTry _ _
            h.setShed.setQuse.ctxBufs.countC.pmcEvent.mem)).mpCount

theorem Canon.visitSheds {r : AllocReq} {s0 k i : Nat} (h : Canon s) : Canon (visitSheds r s0 k i s).1 := by
  induction k generalizing i with
  | zero =>
    unfold Machine.visitSheds
    split
    · exact h
    · exact h.failExhaust
  | succ k ih =>
    unfold Machine.visitSheds
    dsimp only
    split
    · exact h
    · split
      · split
        · exact h.failQuota
        · split
          · exact h.takeBuf
          · split
            · exact h
            · split
              · exact h.shdRefill
              · exact h.shdRefill.takeBuf
      · exact ih

theorem Canon.allocBuf {r : AllocReq} (h : Canon s) : Canon (allocBuf r s).1 := by
  unfold Machine.allocBuf
  dsimp only
  split
  · exact h.failExhaust
  · split
    · exact h.visitSheds
    · split
      · exact h.failQuota
      · exact h.visitSheds

theorem Canon.shdInitEnd {i : Nat} (h : Canon s) : Canon (shdInitEnd s i) := by
  unfold Machine.shdInitEnd
  dsimp only
  split
  · have h1 := (h.setMem (wf_wrTry (shdArea s i) (initRing (shdNbuf s i)) h.mem)).mpCount (code := 0x1C) (rd := 0)
      (wr := 4 * shdNbuf s i)
    exact h1.setShed.shdFail.ite h1.setShed
  · have h1 := (h.setMem (wf_wrTry (shdOwnerAt s i 0) (List.replicate (8 * shdNbuf s i) 0#8)
      (wf_wrTry (shdArea s i) (initRing (shdNbuf s i)) h.mem))).mpCount (code := 0x1C) (rd := 0) (wr := 12 * shdNbuf s i)
    exact h1.setShed.shdFail.ite h1.setShed

theorem Canon.shdInit {i : Nat} (h : Canon s) : Canon (shdInit s i) := by
  unfold Machine.shdInit
  dsimp only
  split
  · exact h.csrSet
  · split
    · exact h.setShed
    · split
      · exact h.setShed
      · exact h.setShed

theorem Canon.writeShdCtl {i v : Nat} (h : Canon s) : Canon (writeShdCtl s i v) := by
  unfold Machine.writeShdCtl
  dsimp only
  split
  · exact h.csrPut.shdInit
  · exact h.csrPut

theorem Canon.allocWork {c : Cmd} (h : Canon s) : Canon (allocWork c s).st := by
  unfold Machine.allocWork
  dsimp only
  refine h.withSlots (fun _ => ?_)
  split
  · exact h.allocBuf.doneWith
  · exact h.allocBuf.doneWith
  · exact h.allocBuf
  · split
    · exact h.allocBuf.doneWith
    · split
      · exact (h.allocBuf.setMem (wf_wrTry _ _ h.allocBuf.mem)).mpCount.releaseBuf.mpFault.doneWith
      · exact (h.allocBuf.setMem (wf_wrTry _ _ h.allocBuf.mem)).mpCount.doneWith

theorem Canon.freeWork {c : Cmd} (h : Canon s) : Canon (freeWork c s).st := by
  unfold Machine.freeWork
  refine h.withSlots fun _ => ?_
  extract_lets
  split
  · exact h.countC.doneWith
  · split
    · exact h.countC.doneWith
    · split
      · exact h
      · extract_lets
        split
        · exact h.shdFail.doneWith
        · split
          · exact h.countC.doneWith
          · split
            · exact h.countC.doneWith
            · split
              · exact h.mpCount.releaseBuf.doneWith
              · exact h.mpCount.releaseBuf.doneWith

theorem Canon.drainScan {cx i fuel b : Nat} (h : Canon s) : Canon (drainScan cx i fuel b s) := by
  induction fuel generalizing b s with
  | zero => exact h
  | succ fuel ih =>
    unfold Machine.drainScan
    dsimp only
    split
    · exact h
    · split
      · exact h.shdFail
      · exact ih (h.releaseBuf.ite h)

theorem Canon.drainBufs {cx : Nat} (h : Canon s) : Canon (drainBufs s cx) := h.foldl fun _ _ hu => hu.drainScan

theorem Canon.putUse {u : Use} (h : Canon s) : Canon (putUse s u) := h.of_tables

theorem Canon.reclaim (h : Canon s) : Canon (reclaim s) := h.of_tables

theorem Canon.takeRange {n : Nat} (h : Canon s) : Canon (takeRange s n).2 := by
  unfold Machine.takeRange
  dsimp only
  split
  · exact h
  · exact h.of_tables

theorem Canon.markTicket {n st : Nat} (h : Canon s) : Canon (markTicket s n st) := h.setTicket

theorem Canon.freeTicket {n : Nat} (h : Canon s) : Canon (freeTicket s n) := by
  unfold Machine.freeTicket
  split
  · exact h
  · exact h.markTicket

theorem Canon.freeTickets {u : Use} (h : Canon s) : Canon (freeTickets s u) := by
  have h1 : Canon { s with disp := { s.disp with tickets := s.disp.tickets.filter (fun p => p.2.bentry != u.slot) } } :=
    { h with tickets := swf_filter _ h.tickets }
  exact h1.reclaim

theorem Canon.takeOrig {n b : Nat} {t : State} (h : Canon s) (he : takeOrig s n = some (b, t)) : Canon t := by
  unfold Machine.takeOrig at he
  dsimp only at he
  split at he
  · cases he
    exact h
  · split at he
    · cases he
    · cases he
      exact h.of_tables

theorem Canon.freeOrig {b n : Nat} (h : Canon s) : Canon (freeOrig s b n) := by
  unfold Machine.freeOrig
  dsimp only
  split
  · exact h
  · exact h.of_tables

theorem Canon.releaseBufs {cx : Nat} {l : List Buf} (h : Canon s) : Canon (releaseBufs s cx l) :=
  h.foldl fun _ _ hu => hu.releaseBuf

theorem Canon.releasePlan {cx : Nat} {p : Plan} (h : Canon s) : Canon (releasePlan s cx p) := h.releaseBufs.freeOrig

theorem Canon.stopCmd {status detail epoch : Nat} {c : Cmd} (h : Canon s) : Canon (stopCmd status detail epoch s c) :=
  h.finish

theorem Canon.endUse {u : Use} {way : EndWay} {but : Option (Nat × Nat)} (h : Canon s) : Canon (endUse s u way but) :=
  h.putUse.foldl fun _ _ hu => hu.stopCmd

theorem Canon.dropUse {u : Use} (h : Canon s) : Canon (dropUse s u) := by
  unfold Machine.dropUse
  dsimp only
  split
  · split
    · exact h.freeTickets.releaseBufs.of_tables
    · exact h.freeTickets.releaseBufs.releasePlan.of_tables
  · split
    · exact h.freeTickets.releaseBufs.of_tables.finishOk
    · exact h.freeTickets.releaseBufs.releasePlan.of_tables.finishOk

theorem Canon.endNow {u : Use} {way : EndWay} {but : Option (Nat × Nat)} (h : Canon s) :
    Canon (endNow s u way but) := by
  unfold Machine.endNow
  dsimp only
  split
  · exact h.endUse
  · split
    · exact h.endUse.dropUse
    · exact h.endUse

theorem Canon.dropUses {cx : Nat} (h : Canon s) : Canon (dropUses s cx) := h.foldl fun _ _ hu => hu.dropUse

theorem Canon.releaseOldest (h : Canon s) : Canon (releaseOldest s) := by
  unfold Machine.releaseOldest
  split
  · exact h
  · exact h.dropUse

theorem Canon.ticketCe (h : Canon s) : Canon (ticketCe s) := h.countC.ceOne

theorem Canon.ticketUe {u : Use} (h : Canon s) : Canon (ticketUe s u) := h.raiseFault.endUse

theorem Canon.ticketLost (h : Canon s) : Canon (ticketLost s) := h.raiseFault

theorem Canon.cancelWork {c : Cmd} (h : Canon s) : Canon (cancelWork c s).st := by
  unfold Machine.cancelWork
  split
  · exact h.doneWith
  · split
    · exact h.endUse
    · exact h.doneWith

theorem Canon.cacheOwn {b w0 w1 : Nat} (h : Canon s) : Canon (cacheOwn s b w0 w1) := h.of_tables

theorem Canon.ownEntry {b : Nat} (h : Canon s) : Canon (ownEntry s b).1 := by
  unfold Machine.ownEntry
  dsimp only
  split
  · exact h
  · split
    · exact h
    · split
      · exact h
      · exact h.cacheOwn

theorem Canon.blockReplicas {b : Nat} (h : Canon s) : Canon (blockReplicas s b).1 := by
  unfold Machine.blockReplicas
  split
  · rename_i he
    exact h.ownEntry.fst he
  · rename_i he
    exact h.ownEntry.fst he
  · rename_i he
    exact h.ownEntry.fst he

theorem Canon.memberOf {g chip : Nat} (h : Canon s) : Canon (memberOf s g chip).1 := by
  unfold Machine.memberOf
  dsimp only
  split
  · exact h
  · exact h.of_tables

theorem Canon.expertSlots {g e : Nat} {l : List (Nat × Nat)} (h : Canon s) : Canon (expertSlots s g e l).1 :=
  Canon.foldl_fst h fun _ _ hq => hq.memberOf

theorem Canon.placedMap {p : PSlot} {g n e : Nat} (h : Canon s) : Canon (placedMap p g n e s).1 := by
  induction n generalizing e s with
  | zero => exact h
  | succ n ih =>
    unfold Machine.placedMap
    split
    next s1 l he =>
      have h1 := ih (e := e + 1) ((h.blockReplicas.fst he).expertSlots (g := g) (e := e) (l := l))
      dsimp only
      split
      · rename_i he1
        exact h1.fst he1
      · exact h1
    · rename_i he
      exact h.blockReplicas.fst he
    · rename_i he
      exact h.blockReplicas.fst he

theorem Canon.mapOf {cx : Nat} (h : Canon s) : Canon (mapOf s cx).1 := by
  unfold Machine.mapOf
  dsimp only
  split
  · exact h
  · split
    · rename_i he
      exact h.placedMap.fst he
    · rename_i he
      exact h.placedMap.fst he
    · rename_i he
      exact h.placedMap.fst he

end

end Sys2Proof.Machine
end

section
/-! The special-function unit, the weight loads and the scoring keep every table canonical (chapters 05 and 06). -/

namespace Sys2Proof.Machine

-- One proof at a time: hundreds of short ones side by side take more threads than the check has memory for.
set_option Elab.async false

section
variable {s : State}

theorem keepsMem_sourceRow {k : Cvt} {a : Desc} {cs : List Nat} {n : Nat} : KeepsMem (sourceRow k a cs n) :=
  keepsMem_Desc_readSeg.bind fun _ => (keepsMem_ioStopped.bind fun _ => (KeepsMem.ite KeepsMem.pure keepsMem_num))

theorem keepsMem_oneRow {k : Cvt} {c : Cmd} {field n : Nat} {dflt : FVal} : KeepsMem (oneRow k c field n dflt) := by
  unfold Machine.oneRow
  split
  · exact KeepsMem.pure
  · exact keepsMem_readDesc.bind fun _ => keepsMem_sourceRow

theorem keepsMem_coreMark {k : Nat} : KeepsMem (coreMark k) := KeepsMem.modify fun _ h => h

theorem keepsMem_oneDestRow {k : Cvt} {dst : Desc} {cs : List Nat} {f : List Nat → Mio (List FVal)}
    (hf : ∀ a0, KeepsMem (f a0)) :
    KeepsMem (oneDestRow k dst cs f) :=
  (hf _).bind fun _ => (keepsMem_ioStopped.bind fun _ => (KeepsMem.ite KeepsMem.pure (keepsMem_num.bind fun _ =>
    keepsMem_Desc_writeSeg)))

theorem keepsMem_overRows {cores : List Nat} {k : Cvt} {d : Desc} {f : Nat → List Nat → Mio (List FVal)}
    (hf : ∀ a0 a1, KeepsMem (f a0 a1)) :
    KeepsMem (overRows cores k d f) := by
  unfold Machine.overRows
  split
  · exact KeepsMem.pure
  · exact KeepsMem.foldlM fun _ _ => (keepsMem_ioStopped.bind fun _ => (KeepsMem.ite KeepsMem.pure
      ((keepsMem_oneDestRow (fun _ => hf _ _)).bind fun _ => (keepsMem_coreMark.bind fun _ =>
      (keepsMem_ioStopped.bind fun _ => KeepsMem.pure)))))

theorem keepsMem_actRows {dx2 : Bool} {c : Cmd} : KeepsMem (actRows dx2 c) :=
  keepsMem_readDesc.bind fun _ => (keepsMem_readDesc.bind fun _ => (KeepsMem.ite (KeepsMem.pure.bind fun _ =>
    (keepsMem_oneRow.bind fun _ => keepsMem_overRows (fun _ _ => keepsMem_sourceRow.bind fun _ => keepsMem_num)))
    (keepsMem_readStruct.bind fun _ => (keepsMem_oneRow.bind fun _ => keepsMem_overRows (fun _ _ =>
    keepsMem_sourceRow.bind fun _ => keepsMem_num)))))

theorem keepsMem_softmaxRows {dx2 : Bool} {c : Cmd} : KeepsMem (softmaxRows dx2 c) :=
  keepsMem_readDesc.bind fun _ => (keepsMem_readDesc.bind fun _ => keepsMem_overRows (fun _ _ =>
    keepsMem_sourceRow.bind fun _ => keepsMem_num))

theorem keepsMem_normRows {dx2 : Bool} {c : Cmd} : KeepsMem (normRows dx2 c) :=
  keepsMem_readDesc.bind fun _ => (keepsMem_readDesc.bind fun _ => (keepsMem_readStruct.bind fun _ =>
    (keepsMem_oneRow.bind fun _ => (keepsMem_oneRow.bind fun _ => (KeepsMem.ite KeepsMem.pure (keepsMem_overRows
    (fun _ _ => keepsMem_sourceRow.bind fun _ => (keepsMem_num.bind fun _ => (keepsMem_num.bind fun _ =>
    (KeepsMem.ite KeepsMem.pure (keepsMem_ioWrite.bind fun _ => KeepsMem.pure)))))))))))

theorem Canon.coreStop {c : Cmd} {e : Stop} (h : Canon s) : Canon (coreStop s c e).st := by
  unfold Machine.coreStop
  split
  · exact h.mpFault.doneWith
  · exact h.raiseFault.doneWith
  · exact h.reportUnreach.doneWith
  · exact h.doneWith

theorem Canon.coreCe {ecc : SramEcc} (h : Canon s) : Canon (coreCe ecc s) := h.countC.ceMany

theorem Canon.partCredit {c : Cmd} {k rd wr evals : Nat} (h : Canon s) : Canon (partCredit c k rd wr evals s) :=
  h.mpCount.pmcEvent

theorem Canon.partCredits {c : Cmd} {l : List (Nat × Nat × Nat × Nat)} {rd wr ev : Nat} (h : Canon s) :
    Canon (partCredits c l rd wr ev s) := by
  induction l generalizing s rd wr ev with
  | nil => exact h
  | cons p l ih => exact ih h.partCredit

theorem Canon.coresClose {c : Cmd} {io : Io} (h : Canon s) (hio : Memory.wf io.mem = true) :
    Canon (coresClose c s io) :=
  (h.setMem hio).addTally.partCredits

theorem Canon.sfuWork {pipes elems : Bool} {ecc : SramEcc} {rows : Bool → Cmd → Mio (Nat × Nat)} {c : Cmd}
    (h : Canon s) (hrows : ∀ a0 a1, KeepsMem (rows a0 a1)) :
    Canon (sfuWork pipes ecc rows elems c s).st := by
  unfold Machine.sfuWork
  dsimp only
  split
  · exact h.doneWith
  · refine h.withSlots (fun _ => ?_)
    split
    · rename_i he
      split
      · exact (h.coreCe.coresClose ((hrows _ _).of_eq h.coreCe.mem he)).coreStop
      · exact (h.coreCe.coresClose ((hrows _ _).of_eq h.coreCe.mem he)).doneWith

theorem keepsMem_edgeCodes {d : Desc} {cs : List Nat} {n : Nat} : KeepsMem (edgeCodes d cs n) := by
  unfold Machine.edgeCodes
  dsimp only
  split
  · refine KeepsMem.ite ?_ ?_
    · exact KeepsMem.pure
    · exact keepsMem_ioRead.bind fun _ => KeepsMem.pure
  · exact keepsMem_Desc_readSeg.bind fun _ => KeepsMem.pure

theorem Canon.putSlot {i : Nat} {x : Slot} (h : Canon s) : Canon (putSlot s i x) := h.of_tables

theorem keepsMem_readWeights {d : Desc} {e n : Nat} : KeepsMem (readWeights d e n) :=
  KeepsMem.mapM (fun _ => keepsMem_edgeCodes)

theorem Canon.loadFail {c : Cmd} {e : Stop} (h : Canon s) : Canon (loadFail s c e).st := h.setCtx.coreStop

theorem Canon.coreIo {l : List Nat} {io : Io} (h : Canon s) (hio : Memory.wf io.mem = true) : Canon (coreIo l s io) :=
  h.ioClose hio

theorem Canon.loadParams {c : Cmd} (h : Canon s) : Canon (loadParams c s).1 := by
  unfold Machine.loadParams
  dsimp only
  split
  · exact h
  · split
    · exact h.mpCount
    · exact h.mpCount.setCtx

theorem Canon.loadWeights {c : Cmd} (h : Canon s) : Canon (loadWeights c s).st := by
  unfold Machine.loadWeights
  dsimp only
  split
  · exact h.doneWith
  · split
    · rename_i he
      split
      · exact (h.coreIo ((keepsMem_readStruct.bind fun _ => (KeepsMem.ite (KeepsMem.pure.bind fun _ =>
          KeepsMem.pure) (keepsMem_readStruct.bind fun _ => KeepsMem.pure))).of_eq h.mem he)).loadFail
      · split
        · exact (h.coreIo ((keepsMem_readStruct.bind fun _ => (KeepsMem.ite (KeepsMem.pure.bind fun _ =>
            KeepsMem.pure) (keepsMem_readStruct.bind fun _ => KeepsMem.pure))).of_eq h.mem he)).setCtx.doneWith
        · split
          · exact (h.coreIo ((keepsMem_readStruct.bind fun _ => (KeepsMem.ite (KeepsMem.pure.bind fun _ =>
              KeepsMem.pure) (keepsMem_readStruct.bind fun _ => KeepsMem.pure))).of_eq h.mem he)).setCtx.doneWith
          · split
            · rename_i he1
              split
              · exact ((h.coreIo ((keepsMem_readStruct.bind fun _ => (KeepsMem.ite (KeepsMem.pure.bind fun _ =>
                  KeepsMem.pure) (keepsMem_readStruct.bind fun _ => KeepsMem.pure))).of_eq h.mem he)).coreIo
                  (keepsMem_readWeights.of_eq (h.coreIo ((keepsMem_readStruct.bind fun _ => (KeepsMem.ite
                  (KeepsMem.pure.bind fun _ => KeepsMem.pure) (keepsMem_readStruct.bind fun _ =>
                  KeepsMem.pure))).of_eq h.mem he)).mem he1)).loadFail
              · exact ((h.coreIo ((keepsMem_readStruct.bind fun _ => (KeepsMem.ite (KeepsMem.pure.bind fun _ =>
                  KeepsMem.pure) (keepsMem_readStruct.bind fun _ => KeepsMem.pure))).of_eq h.mem he)).coreIo
                  (keepsMem_readWeights.of_eq (h.coreIo ((keepsMem_readStruct.bind fun _ => (KeepsMem.ite
                  (KeepsMem.pure.bind fun _ => KeepsMem.pure) (keepsMem_readStruct.bind fun _ =>
                  KeepsMem.pure))).of_eq h.mem he)).mem he1)).putSlot.setCtx.doneWith

theorem Canon.ctxloadWork {act : Cmd → State → Work} {c : Cmd} (h : Canon s)
    (hact : ∀ a0 u, Canon u → Canon (act a0 u).st) :
    Canon (ctxloadWork act c s).st := by
  unfold Machine.ctxloadWork
  dsimp only
  refine h.withSlots (fun _ => ?_)
  split
  · rename_i he
    exact (h.loadParams.fst he).mpFault.doneWith
  · rename_i he
    exact hact _ _ (h.loadParams.fst he)

theorem Canon.swapWeights {c : Cmd} (h : Canon s) : Canon (swapWeights c s).st := by
  unfold Machine.swapWeights
  dsimp only
  split
  · exact h.doneWith
  · refine Canon.doneWith ?_
    split
    · exact h.setCtx
    · exact h.setCtx.putSlot

theorem Canon.releaseWeights {c : Cmd} (h : Canon s) : Canon (releaseWeights c s).st := h.setCtx.doneWith

theorem keepsMem_readStream {lvl ety E D : Nat} {src : Option WSource} {rows : List (List Nat)} :
    KeepsMem (readStream lvl src rows ety E D) := by
  unfold Machine.readStream
  split
  · exact KeepsMem.pure
  · have hend : ∀ (io : Io) (w : WStream) (a b : Io), Memory.wf a.mem = true → Memory.wf b.mem = true →
        KeepsMem (if io.stop.isSome then (do set a; pure w) else (do set b; pure w) : Mio WStream) :=
      fun _ _ _ _ ha hb => KeepsMem.ite ((KeepsMem.set ha).bind fun _ => KeepsMem.pure)
        ((KeepsMem.set hb).bind fun _ => KeepsMem.pure)
    refine KeepsMem.get.bind fun _ => KeepsMem.ite ?_ ?_
    · exact KeepsMem.pure.bind fun _ => KeepsMem.get_bind fun after h => hend _ _ _ _ h h
    · exact keepsMem_readWeights.bind fun _ => KeepsMem.get_bind fun after h => hend _ _ _ _ h h

theorem keepsMem_takeStream {shares : List (Nat × Nat)} {x : WStream} : KeepsMem (takeStream shares x) :=
  KeepsMem.modify fun _ h => h

theorem Canon.reuseEnd {c : Cmd} (h : Canon s) : Canon (reuseEnd c s) := by
  unfold Machine.reuseEnd
  split
  · exact h
  · exact h.endNow.countC

theorem Canon.openUse {c : Cmd} (h : Canon s) : Canon (openUse c s).1 := by
  unfold Machine.openUse
  dsimp only
  split
  · exact h
  · exact h.setCtx.of_tables

theorem Canon.selectTickets {u : Use} (h : Canon s) : Canon (selectTickets s u) := h.foldl fun _ _ hu => hu.setTicket

theorem Canon.gateTickets {u : Use} {gates : List Nat} (h : Canon s) : Canon (gateTickets s u gates) :=
  h.putUse.foldl fun _ _ hu => hu.setTicket

theorem keepsMem_readBias {x0 E : Nat} : KeepsMem (readBias x0 E) := by
  unfold Machine.readBias
  split
  · exact KeepsMem.pure
  · exact keepsMem_ioRead.bind fun _ => KeepsMem.pure

theorem keepsMem_writeStats {a T E : Nat} {acc : Bool} {l : List Chosen} : KeepsMem (writeStats a acc T E l) :=
  keepsMem_num.bind fun _ => (keepsMem_num.bind fun _ => (keepsMem_num.bind fun _ => (KeepsMem.ite
    (keepsMem_ioRead.bind fun _ => (keepsMem_num.bind fun _ => (keepsMem_num.bind fun _ => (keepsMem_num.bind fun
    _ => keepsMem_ioWrite)))) keepsMem_ioWrite)))

theorem keepsMem_ScoreRun_token {r : ScoreRun} {t : Nat} : KeepsMem (ScoreRun.token r t) := by
  unfold Machine.ScoreRun.token
  dsimp only
  split
  · exact keepsMem_takeStream.bind fun _ => (keepsMem_edgeCodes.bind fun _ => (keepsMem_num.bind fun _ =>
      (keepsMem_num.bind fun _ => (keepsMem_num.bind fun _ => (keepsMem_ioWrite.bind fun _ => (KeepsMem.ite
      (keepsMem_coreMark.bind fun _ => KeepsMem.pure) (keepsMem_ioWrite.bind fun _ => (keepsMem_coreMark.bind fun
      _ => KeepsMem.pure))))))))
  · exact keepsMem_edgeCodes.bind fun _ => (keepsMem_num.bind fun _ => (keepsMem_num.bind fun _ =>
      (keepsMem_num.bind fun _ => (keepsMem_ioWrite.bind fun _ => (KeepsMem.ite (keepsMem_coreMark.bind fun _ =>
      KeepsMem.pure) (keepsMem_ioWrite.bind fun _ => (keepsMem_coreMark.bind fun _ => KeepsMem.pure)))))))

theorem keepsMem_ScoreRun_tokens {r : ScoreRun} {T : Nat} : KeepsMem (ScoreRun.tokens r T) :=
  KeepsMem.mapM (fun _ => (keepsMem_ioStopped.bind fun _ => (KeepsMem.ite KeepsMem.pure keepsMem_ScoreRun_token)))

theorem keepsMem_scoreRun {c : Cmd} {array : Bool} {T : Nat} : KeepsMem (scoreRun s c array T) := by
  unfold Machine.scoreRun
  dsimp only
  split
  · exact KeepsMem.pure.bind fun _ => (KeepsMem.pure.bind fun _ => (keepsMem_ScoreRun_tokens.bind fun _ =>
      (KeepsMem.ite (keepsMem_num.bind fun _ => (KeepsMem.ite KeepsMem.pure (keepsMem_writeStats.bind fun _ =>
      KeepsMem.pure))) (KeepsMem.ite KeepsMem.pure (keepsMem_writeStats.bind fun _ => KeepsMem.pure)))))
  · exact keepsMem_readBias.bind fun _ => (keepsMem_readStream.bind fun _ => (keepsMem_ScoreRun_tokens.bind fun _ =>
      (KeepsMem.ite (keepsMem_num.bind fun _ => (KeepsMem.ite KeepsMem.pure (keepsMem_writeStats.bind fun _ =>
      KeepsMem.pure))) (KeepsMem.ite KeepsMem.pure (keepsMem_writeStats.bind fun _ => KeepsMem.pure)))))

theorem keepsMem_hashRun {k : Ctx} {c : Cmd} {T : Nat} : KeepsMem (hashRun k c T) :=
  (KeepsMem.forM (fun _ => keepsMem_ioWrite)).bind fun _ => KeepsMem.pure

theorem keepsMem_badRun {k : Ctx} {c : Cmd} {hash : Bool} {T : Nat} : KeepsMem (badRun k c hash T) := by
  refine KeepsMem.get_bind fun io h => ?_
  have hgates : Memory.wf (wrFree { io.mem with draws := io.mem.draws + T * pbK k } (opAddr c.b + 64) (64 * T)) = true :=
    wf_wrFree _ _ h
  refine (KeepsMem.set ?_).bind fun _ => KeepsMem.pure
  dsimp only
  split
  · exact hgates
  · exact wf_wrFree _ _ hgates

theorem Canon.fillCounts {c : Cmd} {T D E ps : Nat} (h : Canon s) : Canon (fillCounts s c T D E ps) :=
  h.countC.countC.foldl fun _ _ hu => Canon.ite hu.pmcEvent.pmcEvent hu.pmcEvent

theorem Canon.spoilSlot {src : Option WSource} (h : Canon s) : Canon (spoilSlot s src) := by
  unfold Machine.spoilSlot
  dsimp only
  split
  · exact h
  · exact h.putSlot.setCtx

theorem Canon.spoilBy {ecc : SramEcc} {src : Option WSource} (h : Canon s) : Canon (spoilBy ecc s src) := by
  unfold Machine.spoilBy
  split
  · exact h.spoilSlot
  · exact h

theorem Canon.selRun {ecc : SramEcc} {c : Cmd} {u : Use} (h : Canon s) : Canon (selRun ecc c s u).st := by
  unfold Machine.selRun
  dsimp only
  split
  · rename_i he
    split
    · exact (h.coreCe.coresClose ((KeepsMem.ite keepsMem_badRun (KeepsMem.ite keepsMem_hashRun
        keepsMem_scoreRun)).of_eq h.coreCe.mem he)).spoilBy.countC.coreStop
    · exact (Canon.ite (h.coreCe.coresClose ((KeepsMem.ite keepsMem_badRun (KeepsMem.ite keepsMem_hashRun
        keepsMem_scoreRun)).of_eq h.coreCe.mem he)).spoilBy.countC.gateTickets.fillCounts (h.coreCe.coresClose
        ((KeepsMem.ite keepsMem_badRun (KeepsMem.ite keepsMem_hashRun keepsMem_scoreRun)).of_eq h.coreCe.mem
        he)).spoilBy.countC.gateTickets).countC.countC.countC.pmcEvent.ctxCount.doneWith

theorem Canon.selReserve {ecc : SramEcc} {c : Cmd} {u : Use} (h : Canon s) : Canon (selReserve ecc c s u).st := by
  unfold Machine.selReserve
  dsimp only
  split
  · exact h.setCmd
  · exact h.withSlots (fun _ => h.takeRange.putUse.selectTickets.pmcEvent.selRun)

theorem Canon.selOpen {ecc : SramEcc} {c : Cmd} (h : Canon s) : Canon (selOpen ecc c s).st := by
  unfold Machine.selOpen
  dsimp only
  split
  · exact h.reuseEnd
  · split
    · rename_i he
      exact (h.reuseEnd.openUse.fst he).setCmd
    · rename_i he
      exact (h.reuseEnd.openUse.fst he).setCmd.selReserve

theorem Canon.selStart {ecc : SramEcc} {c : Cmd} (h : Canon s) : Canon (selStart ecc c s).st := by
  unfold Machine.selStart
  dsimp only
  refine h.withSlots (fun _ => ?_)
  split
  · rename_i he
    split
    · exact (h.coreIo ((keepsMem_readStruct.bind fun _ => (keepsMem_readStruct.bind fun _ => KeepsMem.pure)).of_eq
        h.mem he)).coreStop
    · split
      · split
        · exact (h.coreIo ((keepsMem_readStruct.bind fun _ => (keepsMem_readStruct.bind fun _ =>
            KeepsMem.pure)).of_eq h.mem he)).doneWith
        · exact (h.coreIo ((keepsMem_readStruct.bind fun _ => (keepsMem_readStruct.bind fun _ =>
            KeepsMem.pure)).of_eq h.mem he)).setCmd.selOpen
      · split
        · exact (h.coreIo ((keepsMem_readStruct.bind fun _ => (keepsMem_readStruct.bind fun _ =>
            KeepsMem.pure)).of_eq h.mem he)).doneWith
        · exact (h.coreIo ((keepsMem_readStruct.bind fun _ => (keepsMem_readStruct.bind fun _ =>
            KeepsMem.pure)).of_eq h.mem he)).setCmd.selOpen

theorem Canon.selWork {ecc : SramEcc} {c : Cmd} (h : Canon s) : Canon (selWork ecc c s).st := by
  unfold Machine.selWork
  dsimp only
  split
  · split
    · exact h.selOpen
    · split
      · exact h.doneWith
      · exact h.selReserve
  · split
    · exact h.doneWith
    · split
      · exact h.doneWith
      · exact h.selStart

end

end Sys2Proof.Machine
end

section
/-! Tickets, plans, work queues and combining keep every table canonical (chapters 06 and 07). -/

namespace Sys2Proof.Machine

-- One proof at a time: hundreds of short ones side by side take more threads than the check has memory for.
set_option Elab.async false

section
variable {s : State}

theorem Canon.stepAdd {cx which e n : Nat} (h : Canon s) : Canon (stepAdd s cx which e n) := by
  unfold Machine.stepAdd
  dsimp only
  split
  · exact h.xcntAdd
  · exact h.xcntAdd.setPslot

theorem keepsMem_readRecords {a T k : Nat} : KeepsMem (readRecords a T k) :=
  (KeepsMem.mapM (fun _ => (keepsMem_ioRead.bind fun _ => KeepsMem.pure))).bind fun _ => KeepsMem.pure

theorem Canon.slotTickets {u : Use} {slots : List (Option Nat)} (h : Canon s) : Canon (slotTickets s u slots) := by
  unfold Machine.slotTickets
  dsimp only
  split
  · exact h
  · refine h.foldl fun _ _ hu => ?_
    split
    · exact hu
    · split
      · exact hu.setTicket
      · exact hu

theorem Canon.countDone {c : Cmd} {u : Use} {map : List RSlot} {pepoch m : Nat} {recs : List Nat} (h : Canon s) :
    Canon (countDone c s u map pepoch m recs).st := by
  unfold Machine.countDone
  dsimp only
  split
  · rename_i he
    split
    · exact (h.coreIo ((KeepsMem.ite (KeepsMem.modify fun _ hio => (wf_wrFree _ _ hio)) keepsMem_ioWrite).of_eq
        h.mem he)).mpFault.doneWith
    · exact ((h.coreIo ((KeepsMem.ite (KeepsMem.modify fun _ hio => (wf_wrFree _ _ hio)) keepsMem_ioWrite).of_eq
        h.mem he)).putUse.slotTickets.foldl fun _ _ hu => Canon.ite hu hu.stepAdd).doneWith

theorem Canon.countWork {c : Cmd} (h : Canon s) : Canon (countWork c s).st := by
  unfold Machine.countWork
  dsimp only
  split
  · exact h.doneWith
  · split
    · exact h.doneWith
    · refine h.withSlots (fun _ => ?_)
      split
      · rename_i he
        exact (h.mapOf.fst he).doneWith
      · rename_i he
        exact (h.mapOf.fst he).mpFault.doneWith
      · rename_i he
        split
        · rename_i he1
          split
          · exact ((h.mapOf.fst he).coreIo (keepsMem_readRecords.of_eq (h.mapOf.fst he).mem he1)).mpFault.doneWith
          · exact ((h.mapOf.fst he).coreIo (keepsMem_readRecords.of_eq (h.mapOf.fst he).mem he1)).countDone

theorem Canon.takeBufs {r : Nat → AllocReq} {at_ : Option Nat} {need : List Nat} {l : List Buf} (h : Canon s) :
    Canon (takeBufs r at_ need l s).1 := by
  induction need generalizing s at_ l with
  | nil => exact h
  | cons n rest ih =>
    unfold Machine.takeBufs
    split
    · rename_i he
      exact ih (h.allocBuf.fst he)
    · rename_i he
      exact h.allocBuf.fst he
    · rename_i he
      exact h.allocBuf.fst he
    · rename_i he
      exact h.allocBuf.fst he

theorem Canon.evictPlan {u : Use} (h : Canon s) : Canon (evictPlan s u) := by
  unfold Machine.evictPlan
  split
  · exact h
  · exact h.releasePlan.putUse

theorem Canon.giveBack {u : Use} {l : List Buf} {code : Nat} (h : Canon s) : Canon (giveBack s u l code).1 := by
  unfold Machine.giveBack
  split
  · exact h.releaseBufs
  · exact h

theorem Canon.planFailed {c : Cmd} {u : Use} {l : List Buf} {status detail : Nat} (h : Canon s) :
    Canon (planFailed s c u l status detail).st :=
  (Canon.ite h.giveBack.evictPlan.putUse (h.giveBack.evictPlan.putUse.setMem (wf_wrFree _ _
    h.giveBack.evictPlan.putUse.mem))).doneWith

theorem Canon.planError {c : Cmd} {u : Use} {code : Nat} (h : Canon s) : Canon (planError s c u code).st :=
  h.evictPlan.putUse.mpFault.doneWith

theorem Canon.planTickets {u : Use} {fate : List (Option Nat)} (h : Canon s) : Canon (planTickets s u fate) :=
  h.foldl fun _ _ hu => hu.setTicket

theorem Canon.fateCounts {c : Cmd} {map : List RSlot} {asg : List Asg} {fate : List (Option Nat)} (h : Canon s) :
    Canon (fateCounts s c map asg fate) := by
  unfold Machine.fateCounts
  refine h.foldl fun _ _ hu => ?_
  split
  · exact hu
  · exact hu.stepAdd

theorem Canon.planDone {c : Cmd} {u : Use} {x : PlanIn} {lowered : Bool} {asg : List Asg} {fate : List (Option Nat)}
    {p : Plan} (h : Canon s) :
    Canon (planDone c s u x lowered asg fate p).st := by
  unfold Machine.planDone
  dsimp only
  refine (Canon.csrPut ?_).ctxCount.ctxCount.pmcEvent.pmcEvent.doneWith
  split
  · refine (Canon.putUse ?_).planTickets.fateCounts.countC.countC.countC
    split
    · exact h
    · exact h.releasePlan.countC
  · refine (Canon.putUse ?_).planTickets.fateCounts.countC.countC
    split
    · exact h
    · exact h.releasePlan.countC

theorem keepsMem_planWrites {c : Cmd} {u : Use} {map : List RSlot} {C : Nat} {fate : List (Option Nat)}
    {shapes : List Shape} :
    KeepsMem (planWrites s c u map C fate shapes) := by
  unfold Machine.planWrites
  dsimp only
  split
  · exact (KeepsMem.forM (fun _ => keepsMem_ioWrite)).bind fun _ => (KeepsMem.forM (fun _ => keepsMem_ioWrite))
  · exact keepsMem_ioWrite.bind fun _ => ((KeepsMem.forM (fun _ => keepsMem_ioWrite)).bind fun _ => (KeepsMem.forM
      (fun _ => keepsMem_ioWrite)))

theorem Canon.planGo {c : Cmd} {u : Use} {p0 : Plan} {x : PlanIn} {taken : List Buf} (h : Canon s) :
    Canon (planGo c s u p0 x taken).st := by
  unfold Machine.planGo
  dsimp only
  split
  · rename_i he
    exact ((Canon.ite h.of_tables h).takeBufs.fst he).setCmd
  · rename_i he
    exact ((Canon.ite h.of_tables h).takeBufs.fst he).planFailed
  · rename_i he
    split
    · rename_i he1
      exact ((Canon.ite h.of_tables h).takeBufs.fst he).planFailed
    · rename_i he1
      split
      · rename_i he2
        split
        · exact ((((Canon.ite h.of_tables h).takeBufs.fst he).takeOrig he1).ioClose (keepsMem_planWrites.of_eq
            (((Canon.ite h.of_tables h).takeBufs.fst he).takeOrig he1).mem he2)).releaseBufs.freeOrig.planError
        · exact ((((Canon.ite h.of_tables h).takeBufs.fst he).takeOrig he1).ioClose (keepsMem_planWrites.of_eq
            (((Canon.ite h.of_tables h).takeBufs.fst he).takeOrig he1).mem he2)).planDone

theorem Canon.planStart {c : Cmd} {u : Use} (h : Canon s) : Canon (planStart c s u).st := by
  unfold Machine.planStart
  dsimp only
  split
  · rename_i he
    split
    · exact (h.ioClose (keepsMem_ioRead.of_eq h.mem he)).planError
    · exact (h.ioClose (keepsMem_ioRead.of_eq h.mem he)).putUse.planGo

theorem Canon.planEcc {ecc : Ecc} {u : Use} (h : Canon s) : Canon (planEcc ecc s u) := by
  unfold Machine.planEcc
  split
  · exact h
  · exact h.ticketCe
  · split
    · exact h.ticketUe
    · exact h.ticketLost

theorem Canon.planBegin {ecc : Ecc} {c : Cmd} {u : Use} (h : Canon s) : Canon (planBegin ecc c s u).st := by
  unfold Machine.planBegin
  split
  · exact h.ticketUe.doneWith
  · exact h.planEcc.planStart

theorem Canon.planResume {ecc : Ecc} {c : Cmd} {u : Use} (h : Canon s) : Canon (planResume ecc c s u).st := by
  unfold Machine.planResume
  refine h.withSlots (fun _ => ?_)
  split
  · exact h.planGo
  · exact h.planBegin

theorem Canon.planWork {ecc : Ecc} {c : Cmd} (h : Canon s) : Canon (planWork ecc c s).st := by
  unfold Machine.planWork
  split
  · exact h.doneWith
  · split
    · exact h.doneWith
    · split
      · exact h.planResume
      · split
        · exact h.doneWith
        · split
          · exact h.doneWith
          · exact h.withSlots (fun _ => h.planBegin)

theorem Canon.setWq {w : Nat} {x : WorkQ} (h : Canon s) : Canon (setWq s w x) := h.of_tables

theorem Canon.itemCe {w : Nat} (h : Canon s) : Canon (itemCe s w) := h.countF.ceOne

theorem Canon.itemUe {w : Nat} {it : Item} {readable : Bool} (h : Canon s) : Canon (itemUe s w it readable) := by
  unfold Machine.itemUe
  dsimp only
  split
  · split
    · exact h.countF.raiseFault
    · exact h.countF.raiseFault.endUse
  · exact h.countF.raiseFault

theorem Canon.spillOne {w c : Nat} (h : Canon s) : Canon (spillOne s w c) := by
  unfold Machine.spillOne
  dsimp only
  split
  · exact h
  · split
    · exact (h.setMem (wf_wrTry _ _ h.mem)).setWq.freeHold.mpFault.itemUe
    · exact (h.setMem (wf_wrFree _ _ (wf_wrTry _ _ h.mem))).setWq.pmcEvent.mpCount

theorem Canon.wqPush {w : Nat} {it : Item} (h : Canon s) : Canon (wqPush s w it) :=
  (Canon.ite h.spillOne h).setWq.pmcEvent

theorem Canon.wqPop {w c : Nat} {it : Item} {t : State} (h : Canon s) (he : wqPop s w c = some (it, t)) : Canon t := by
  unfold Machine.wqPop at he
  dsimp only at he
  split at he
  · cases he
  · split at he
    · cases he
    · cases he
      exact h.setWq.freeHold.pmcEvent

theorem Canon.wqHold {w c : Nat} {it : Item} (h : Canon s) : Canon (wqHold s w c it) := h.setWq

theorem Canon.wqDrop {w c : Nat} (h : Canon s) : Canon (wqDrop s w c) := h.setWq

theorem Canon.itemEcc {ecc : Ecc} {w : Nat} {it : Item} (h : Canon s) : Canon (itemEcc ecc s w it).1 := by
  unfold Machine.itemEcc
  split
  · exact h
  · exact h.itemCe
  · exact h.itemUe

theorem Canon.dropStale (h : Canon s) : Canon (dropStale s) := h.countC.pmcEvent

theorem Canon.dropAnswer (h : Canon s) : Canon (dropAnswer s) := h.countC.pmcEvent

theorem Canon.wqRefill {w c : Nat} {ecc : Ecc} (h : Canon s) : Canon (wqRefill w c ecc s) := by
  unfold Machine.wqRefill
  obtain ⟨code, hcode⟩ := exists_eq (a' := rdCode)
  rw [← hcode]
  dsimp only
  split
  · exact h
  · split
    · exact h
    · split
      · dsimp only
        exact (Canon.ite h.setWq.mpCount.freeHold.mpFault.itemUe h.setWq.mpCount.freeHold.mpFault.itemUe.freeHold).setWq
      · exact (Canon.ite h.setWq.mpCount.itemEcc h.setWq.mpCount.itemEcc.freeHold).setWq

theorem Canon.wqClear {w : Nat} (h : Canon s) : Canon (wqClear s w) :=
  (h.foldl fun _ _ hu => hu.freeHold).countC.setWq.foldl fun _ _ hu => hu.endUse

theorem Canon.wqRequest {w : Nat} (h : Canon s) : Canon (wqRequest s w) := by
  unfold Machine.wqRequest
  dsimp only
  split
  · exact h.setWq
  · exact h.wqClear

theorem Canon.writeWqReset {v : Nat} (h : Canon s) : Canon (writeWqReset s v) :=
  h.foldl fun _ _ hu => Canon.ite hu.wqRequest hu

theorem Canon.wqResetDone {w : Nat} (h : Canon s) : Canon (wqResetDone s w) := by
  unfold Machine.wqResetDone
  dsimp only
  split
  · exact h
  · split
    · exact h.wqClear
    · exact h.setWq

theorem keepsMem_readAnswer {u : Use} {t j : Nat} : KeepsMem (readAnswer s u t j) :=
  keepsMem_ioRead.bind fun _ => KeepsMem.pure

theorem keepsMem_sumToken {u : Use} {t : Nat} : KeepsMem (sumToken s u t) :=
  KeepsMem.foldlM fun _ _ => (keepsMem_readAnswer.bind fun _ => keepsMem_num)

theorem keepsMem_combineRow {u : Use} {t : Nat} : KeepsMem (combineRow s u t) :=
  keepsMem_sumToken.bind fun _ => keepsMem_ioWrite

theorem Canon.freeToken {u : Use} {t : Nat} (h : Canon s) : Canon (freeToken s u t) := by
  unfold Machine.freeToken
  split
  · exact h
  · exact (h.foldl fun _ _ hu => hu.freeTicket).reclaim

theorem Canon.combineToken {slot t : Nat} (h : Canon s) : Canon (combineToken s slot t) := by
  unfold Machine.combineToken
  dsimp only
  split
  · exact h
  · split
    · rename_i he
      refine (Canon.putUse ?_).freeToken.countC.ctxCount.pmcEvent
      split
      · exact ((h.ioClose (keepsMem_combineRow.of_eq h.mem he)).setMem (wf_wrFree _ _ (h.ioClose
          (keepsMem_combineRow.of_eq h.mem he)).mem)).mpFault
      · exact h.ioClose (keepsMem_combineRow.of_eq h.mem he)

theorem Canon.settleTokens {slot : Nat} (h : Canon s) : Canon (settleTokens s slot) := by
  unfold Machine.settleTokens
  split
  · exact h
  · split
    · exact h.foldl fun _ _ hu => Canon.ite hu.combineToken hu
    · exact h

theorem keepsMem_freeCodes {n : Nat} : KeepsMem (freeCodes n) := fun _ h => wf_draws _ h

theorem keepsMem_combineRows {c : Cmd} {u : Use} {d0 : Desc} : KeepsMem (combineRows s c u d0) :=
  KeepsMem.forM (fun _ => (keepsMem_ioRead.bind fun _ => (keepsMem_num.bind fun _ => (KeepsMem.ite
    (keepsMem_freeCodes.bind fun _ => keepsMem_Desc_writeRow) (KeepsMem.pure.bind fun _ =>
    keepsMem_Desc_writeRow)))))

theorem keepsMem_gateArea {u : Use} {t : Nat} : KeepsMem (gateArea s u t) := by
  unfold Machine.gateArea
  dsimp only
  split
  · exact keepsMem_ioRead.bind fun _ => KeepsMem.pure
  · exact KeepsMem.pure

theorem keepsMem_combineGates {c : Cmd} {u : Use} : KeepsMem (combineGates s c u) := by
  unfold Machine.combineGates
  split
  · exact KeepsMem.pure
  · exact (KeepsMem.mapM fun _ => keepsMem_gateArea).bind fun _ => KeepsMem.get_bind fun _ h =>
      KeepsMem.ite (KeepsMem.set (wf_wrFree _ _ h)) keepsMem_ioWrite

theorem Canon.combineEnd {slot : Nat} {c : Cmd} (h : Canon s) : Canon (combineEnd s slot c) := by
  unfold Machine.combineEnd
  split
  · exact h
  · split
    · exact h
    · split
      · exact h
      · exact h.endUse

theorem Canon.combineGo {u : Use} {c : Cmd} (h : Canon s) : Canon (combineGo s u c) := by
  unfold Machine.combineGo
  dsimp only
  split
  · exact h.finish
  · split
    · exact h.putUse.finish.combineEnd
    · split
      · rename_i he
        split
        · split
          · rename_i he1
            exact ((h.ioClose ((keepsMem_combineRows.bind fun _ => keepsMem_combineGates).of_eq h.mem
              he)).stopWork.of_work he1).report.combineEnd
          · rename_i he1
            exact (h.ioClose ((keepsMem_combineRows.bind fun _ => keepsMem_combineGates).of_eq h.mem
              he)).stopWork.of_work he1
        · exact (Canon.ite (h.ioClose ((keepsMem_combineRows.bind fun _ => keepsMem_combineGates).of_eq h.mem he))
            (h.ioClose ((keepsMem_combineRows.bind fun _ => keepsMem_combineGates).of_eq h.mem
            he)).putUse).finish.combineEnd

theorem Canon.combineReady {slot : Nat} (h : Canon s) : Canon (combineReady s slot) := by
  unfold Machine.combineReady
  split
  · exact h
  · split
    · refine h.foldl fun _ _ hu => ?_
      split
      · exact hu
      · split
        · exact hu.combineGo
        · exact hu
    · exact h

theorem Canon.combineWork {c : Cmd} (h : Canon s) : Canon (combineWork c s).st := by
  unfold Machine.combineWork
  dsimp only
  split
  · exact h.doneWith
  · split
    · exact h.doneWith
    · split
      · exact h.doneWith
      · refine h.withSlots (fun _ => ?_)
        split
        · rename_i he
          split
          · exact (h.ioClose (keepsMem_readStruct.of_eq h.mem he)).mpFault.doneWith
          · split
            · exact (h.ioClose (keepsMem_readStruct.of_eq h.mem he)).setCmd.combineGo
            · exact (h.ioClose (keepsMem_readStruct.of_eq h.mem he)).setCmd

theorem Canon.settleAll (h : Canon s) : Canon (settleAll s) :=
  h.foldl fun _ _ hu => Canon.ite hu.settleTokens.combineReady hu

end

end Sys2Proof.Machine
end

section
/-! The yard, SORT, SEND and RETURN keep every table canonical (chapter 07). -/

namespace Sys2Proof.Machine

-- One proof at a time: hundreds of short ones side by side take more threads than the check has memory for.
set_option Elab.async false

section
variable {s : State}

theorem keepsMem_readIndex {b : Desc} {i : Nat} : KeepsMem (readIndex b i) :=
  KeepsMem.get.bind fun _ => (keepsMem_Desc_readSeg.bind fun _ => (KeepsMem.bind (KeepsMem.modify fun _ hio => hio)
    fun _ => KeepsMem.pure))

theorem keepsMem_movedRow {k : Cvt} {a c : Desc} {t : Bool} {src : Option Nat} {n : Nat} :
    KeepsMem (movedRow k a c t src n) := by
  unfold Machine.movedRow
  dsimp only
  split
  · exact keepsMem_Desc_readRow.bind fun _ =>
      (keepsMem_ioStopped.bind fun _ => (KeepsMem.ite KeepsMem.pure keepsMem_num))
  · exact KeepsMem.pure.bind fun _ => (keepsMem_ioStopped.bind fun _ => (KeepsMem.ite KeepsMem.pure keepsMem_num))

theorem keepsMem_moveRow {k : Cvt} {a c : Desc} {ta tc : Bool} {x y : Option Nat} {n : RowCount} :
    KeepsMem (moveRow k a c ta tc x y n) := by
  unfold Machine.moveRow
  dsimp only
  refine keepsMem_movedRow.bind fun _ => ?_
  refine keepsMem_ioStopped.bind fun _ => ?_
  split
  · exact KeepsMem.pure
  · split
    · exact KeepsMem.pure
    · exact keepsMem_Desc_writeRow.bind fun _ => (keepsMem_ioStopped.bind fun _ => KeepsMem.pure)

theorem keepsMem_overIndex {b : Desc} {f : Nat → ℤ → RowCount → Mio RowCount} (hf : ∀ a0 a1 a2, KeepsMem (f a0 a1 a2)) :
    KeepsMem (overIndex b f) :=
  keepsMem_ioStage.bind fun _ => (KeepsMem.foldlM fun _ _ => (keepsMem_readIndex.bind fun _ =>
    (keepsMem_ioStopped.bind fun _ => (KeepsMem.ite KeepsMem.pure (hf _ _ _)))))

theorem keepsMem_gatherRows {k : Cvt} {a b c0 : Desc} : KeepsMem (gatherRows k a b c0) :=
  keepsMem_overIndex (fun _ _ _ => keepsMem_moveRow)

theorem keepsMem_scatterRows {k : Cvt} {a b c0 : Desc} : KeepsMem (scatterRows k a b c0) :=
  keepsMem_overIndex (fun _ _ _ => keepsMem_moveRow)

theorem Canon.yardCounts {c : Cmd} {io : Io} (h : Canon s) (hio : Memory.wf io.mem = true) :
    Canon (yardCounts s c io) :=
  (h.ioClose hio).yardRace.countC.countC.pmcEvent.pmcEvent

theorem Canon.stagingCe {ecc : SramEcc} (h : Canon s) : Canon (stagingCe ecc s) := h.countC.ceMany

theorem Canon.yardEnd {c : Cmd} {io : Io} {result : Nat} (h : Canon s) : Canon (yardEnd c s io result).st := by
  unfold Machine.yardEnd
  split
  · exact h.stopWork
  · exact h.doneWith

theorem Canon.gatherWork {ecc : SramEcc} {c : Cmd} (h : Canon s) : Canon (gatherWork ecc c s).st := by
  unfold Machine.gatherWork
  dsimp only
  refine h.withSlots (fun _ => ?_)
  split
  · rename_i he
    exact (h.stagingCe.yardCounts ((keepsMem_readDesc.bind fun _ => (keepsMem_readDesc.bind fun _ =>
      (keepsMem_readDesc.bind fun _ => keepsMem_gatherRows))).of_eq h.stagingCe.mem
      he)).countC.countC.countC.yardEnd

theorem Canon.scatterWork {ecc : SramEcc} {c : Cmd} (h : Canon s) : Canon (scatterWork ecc c s).st := by
  unfold Machine.scatterWork
  dsimp only
  refine h.withSlots (fun _ => ?_)
  split
  · rename_i he
    exact (h.stagingCe.yardCounts ((keepsMem_readDesc.bind fun _ => (keepsMem_readDesc.bind fun _ =>
      (keepsMem_readDesc.bind fun _ => keepsMem_scatterRows))).of_eq h.stagingCe.mem
      he)).countC.countC.countC.yardEnd

theorem keepsMem_readTile {d : Desc} {o : List Nat} {r0 nr c0 nc : Nat} : KeepsMem (readTile d o r0 nr c0 nc) :=
  KeepsMem.mapM (fun _ => keepsMem_Desc_readSeg)

theorem keepsMem_writeTile {d : Desc} {o : List Nat} {r0 c0 : Nat} {m : List (List Nat)} :
    KeepsMem (writeTile d o r0 c0 m) :=
  KeepsMem.forM (fun _ => keepsMem_Desc_writeSeg)

theorem keepsMem_copyTile {k : Cvt} {t : Bool} {src dst : Desc} {o : List Nat} {a b : Nat} :
    KeepsMem (copyTile k t src dst o a b) := by
  unfold Machine.copyTile
  dsimp only
  split
  · exact keepsMem_readTile.bind fun _ => (KeepsMem.pure.bind fun _ => (keepsMem_ioStopped.bind fun _ =>
      (KeepsMem.ite KeepsMem.pure (keepsMem_num.bind fun _ => keepsMem_writeTile))))
  · exact keepsMem_readTile.bind fun _ => (keepsMem_ioStopped.bind fun _ => (KeepsMem.ite KeepsMem.pure
      (keepsMem_num.bind fun _ => keepsMem_writeTile)))

theorem keepsMem_copyTiles {k : Cvt} {t : Bool} {src dst : Desc} : KeepsMem (copyTiles k t src dst) :=
  KeepsMem.foldlM fun _ _ => (keepsMem_ioStopped.bind fun _ => (KeepsMem.ite KeepsMem.pure (keepsMem_copyTile.bind
    fun _ => KeepsMem.pure)))

theorem keepsMem_swapTiles {d : Desc} {o : List Nat} {a b : Nat} : KeepsMem (swapTiles d o a b) :=
  keepsMem_readTile.bind fun _ => (KeepsMem.ite (keepsMem_writeTile.bind fun _ => KeepsMem.pure)
    (keepsMem_readTile.bind fun _ => (keepsMem_writeTile.bind fun _ => (keepsMem_writeTile.bind fun _ =>
    KeepsMem.pure))))

theorem keepsMem_swapAll {d : Desc} : KeepsMem (swapAll d) :=
  KeepsMem.foldlM fun _ _ => (keepsMem_ioStopped.bind fun _ => (KeepsMem.ite KeepsMem.pure (keepsMem_swapTiles.bind
    fun _ => KeepsMem.pure)))

theorem Canon.layoutWork {x : Bool} {ecc : SramEcc} {c : Cmd} (h : Canon s) : Canon (layoutWork x ecc c s).st := by
  unfold Machine.layoutWork
  dsimp only
  refine h.withSlots (fun _ => ?_)
  split
  · rename_i he
    exact (h.stagingCe.yardCounts ((keepsMem_readDesc.bind fun _ => (keepsMem_readDesc.bind fun _ =>
      (keepsMem_ioStage.bind fun _ => (KeepsMem.ite (keepsMem_swapAll.bind fun _ => KeepsMem.pure)
      (keepsMem_copyTiles.bind fun _ => KeepsMem.pure))))).of_eq h.stagingCe.mem he)).countC.countC.yardEnd

theorem Canon.pushAll {w slot w0 src : Nat} {l : List (Nat × Nat)} (h : Canon s) :
    Canon (pushAll w slot w0 src l s).2 := by
  induction l generalizing s with
  | nil => exact h
  | cons p l ih =>
    unfold Machine.pushAll
    dsimp only
    split
    · exact ih h.wqPush
    · exact h

theorem Canon.backTickets {u : Use} {base : Nat} {recs : List Nat} {slots : List (Option Nat)} (h : Canon s) :
    Canon (backTickets s u base recs slots) :=
  h.foldl fun _ _ hu => hu.setTicket

theorem Canon.sortNone {detail epoch : Nat} (h : Canon s) : Canon (sortNone s detail epoch).st := h.countC.doneWith

theorem Canon.sortPump {c : Cmd} (h : Canon s) : Canon (sortPump s c) := by
  unfold Machine.sortPump
  dsimp only
  split
  · exact h
  · split
    · exact h.pushAll.countC.finish
    · split
      · exact h.pushAll.countC
      · split
        · exact h.pushAll.countC
        · exact h.pushAll.countC.setCmd

theorem Canon.sortInput {u : Use} {p : Plan} {recs pos : List Nat} (h : Canon s) :
    Canon (sortInput s u p recs pos).2.2 := by
  unfold Machine.sortInput
  dsimp only
  split
  · exact h
  · exact h.of_tables

theorem Canon.sortGo {ecc : SramEcc} {c : Cmd} {u : Use} {p : Plan} (h : Canon s) :
    Canon (sortGo ecc c s u p).st := by
  unfold Machine.sortGo
  extract_lets s0
  have h0 : Canon s0 := h.stagingCe
  split
  next recs pos io he =>
    have hio := (keepsMem_readRecords.bind fun _ => keepsMem_ioRead.bind fun _ => KeepsMem.pure).of_eq h0.mem he
    extract_lets s1
    have h1 : Canon s1 := h0.ioClose hio
    split
    · exact h1.stopWork
    · split
      next slots words s2 he1 =>
        extract_lets keys go
        have h2 : Canon s2 := h1.sortInput.snd2 he1
        have hgo : ∀ t base, Canon t → Canon (go t base).st := fun _ _ ht => ht.setCmd.sortPump
        split
        · exact hgo _ _ h2
        · split
          · exact hgo _ _ h2
          · exact hgo _ _ h2.takeRange.putUse.backTickets.pmcEvent.reclaim.settleTokens.combineReady

theorem Canon.sortWork {ecc : SramEcc} {c : Cmd} (h : Canon s) : Canon (sortWork ecc c s).st := by
  unfold Machine.sortWork
  dsimp only
  split
  · exact h.sortNone
  · split
    · exact h.sortNone
    · split
      · exact h.sortNone
      · split
        · split
          · exact h.setCmd
          · exact h.withSlots (fun _ => h.sortGo)
        · split
          · exact h.setCmd
          · exact h.withSlots (fun _ => h.sortGo)

theorem Canon.grantGo {c : Cmd} (h : Canon s) : Canon (grantGo s c) := by
  unfold Machine.grantGo
  dsimp only
  split
  · exact h.setCmd.sortWork.settle
  · split
    · exact h
    · exact h.setCmd.selReserve.settle

theorem Canon.grantFirst (h : Canon s) : Canon (grantFirst s) := by
  unfold Machine.grantFirst
  split
  · exact h
  · split
    · exact h.grantGo
    · exact h

theorem Canon.ticketGrant (h : Canon s) : Canon (ticketGrant s) := by
  unfold Machine.ticketGrant
  dsimp only
  split
  · split
    · exact h.setCmd.selOpen.settle
    · exact h.grantFirst
  · exact h.grantFirst

theorem Canon.sendOver {c : Cmd} {status detail result epoch : Nat} (h : Canon s) :
    Canon (sendOver s c status detail result epoch) :=
  h.sentOnce.finish

theorem Canon.sendCheck {slot : Nat} (h : Canon s) : Canon (sendCheck s slot) := by
  unfold Machine.sendCheck
  split
  · exact h
  · split
    · exact h.foldl fun _ _ hu => hu.sendOver
    · exact h

theorem Canon.takeCbufs {c : Cmd} {fuel slot : Nat} {at_ : Option Nat} (h : Canon s) :
    Canon (takeCbufs c fuel at_ s slot).1 := by
  induction fuel generalizing s at_ with
  | zero => exact h
  | succ fuel ih =>
    unfold Machine.takeCbufs
    split
    · exact h
    · split
      · exact h
      · split
        · rename_i he
          exact ih (h.allocBuf.fst he).putUse
        · exact h.allocBuf

theorem Canon.sendFailed {slot status detail : Nat} {c : Cmd} (h : Canon s) :
    Canon (sendFailed s slot c status detail) := by
  unfold Machine.sendFailed
  split
  · exact h
  · split
    · rename_i he
      exact (h.giveBack.fst he).putUse.sendOver

theorem Canon.sendRuns {slot : Nat} {c : Cmd} (h : Canon s) : Canon (sendRuns s slot c) := by
  unfold Machine.sendRuns
  dsimp only
  split
  · exact h
  · exact h.putUse.setCmd.settleTokens.combineReady.sendCheck

theorem Canon.sendGo {c : Cmd} (h : Canon s) : Canon (sendGo c s).st := by
  unfold Machine.sendGo
  split
  · exact h.doneWith
  · split
    · exact h.sendOver
    · exact h
    · exact h.sendOver
    · split
      · split
        · exact h.sendRuns
        · exact h
      · split
        · rename_i he
          exact h.putUse.takeCbufs.fst he
        · rename_i he
          exact (h.putUse.takeCbufs.fst he).sendFailed
        · rename_i he
          split
          · exact (h.putUse.takeCbufs.fst he).sendRuns
          · exact (h.putUse.takeCbufs.fst he).sendFailed
        · rename_i he
          exact (h.putUse.takeCbufs.fst he).sendRuns

theorem Canon.sendWork {c : Cmd} (h : Canon s) : Canon (sendWork c s).st := by
  unfold Machine.sendWork
  dsimp only
  split
  · exact h.doneWith
  · split
    · exact h.sendOver
    · refine h.withSlots (fun _ => ?_)
      split
      · exact h.sendGo
      · split
        · rename_i he
          split
          · exact (h.ioClose (keepsMem_readStruct.of_eq h.mem he)).mpFault.sendOver
          · exact (h.ioClose (keepsMem_readStruct.of_eq h.mem he)).setCmd.sendGo

theorem Canon.holdRelease {opc q tag : Nat} {go : Cmd → State → Work} (h : Canon s)
    (hgo : ∀ a0 u, Canon u → Canon (go a0 u).st) :
    Canon (holdRelease opc go q tag s) := by
  unfold Machine.holdRelease
  dsimp only
  split
  · exact h
  · split
    · exact (hgo _ _ h.setCmd).settle
    · exact h

theorem keepsMem_payloadBytes {fmt : Nat} {codes : List Nat} : KeepsMem (payloadBytes fmt codes) := by
  unfold Machine.payloadBytes
  dsimp only
  split
  · exact (KeepsMem.mapM (fun _ => keepsMem_blockBytes)).bind fun _ => KeepsMem.pure
  · exact KeepsMem.pure

theorem keepsMem_sendConv {k : Cvt} {ety dst : Nat} {codes : List Nat} : KeepsMem (sendConv k ety dst codes) := by
  unfold Machine.sendConv
  split
  · exact keepsMem_freeCodes.bind fun _ => KeepsMem.pure
  · exact keepsMem_num

theorem keepsMem_rowRace {c : Cmd} {bytes : List Byte} : KeepsMem (rowRace s c bytes) := fun io h => by
  unfold Machine.rowRace
  split
  · exact wf_draws _ h
  · exact h

theorem keepsMem_forwardRow {c : Cmd} {u : Use} {fmt t : Nat} : KeepsMem (forwardRow c u fmt t) :=
  keepsMem_Desc_readRow.bind fun _ => (keepsMem_sendConv.bind fun _ => keepsMem_payloadBytes)

theorem keepsMem_backwardRow {c : Cmd} {u : Use} {fmt t j gate : Nat} : KeepsMem (backwardRow s c u fmt t j gate) :=
  keepsMem_Desc_readRow.bind fun _ => (keepsMem_sendConv.bind fun _ => (keepsMem_readAnswer.bind fun _ =>
    (keepsMem_num.bind fun _ => (keepsMem_ioWrite.bind fun _ => (keepsMem_num.bind fun _ =>
    keepsMem_payloadBytes)))))

theorem Canon.sendDispatch {c : Cmd} {cls kind chip w0 w1 w2 : Nat} {payload : List Byte} (h : Canon s) :
    Canon (sendDispatch s c cls kind chip w0 w1 w2 payload) :=
  h.post

theorem Canon.sendDack {it : Item} (h : Canon s) : Canon (sendDack s it) := h.send

theorem Canon.sendStop {u : Use} {c : Cmd} {e : Stop} (h : Canon s) : Canon (sendStop s u c e) := by
  unfold Machine.sendStop
  split
  · rename_i he
    exact (h.stopWork.of_work he).sendOver
  · rename_i he
    exact h.stopWork.of_work he

theorem Canon.rowLeaves {u : Use} {p : Plan} {c : Cmd} {it : Item} {payload : List Byte} (h : Canon s) :
    Canon (rowLeaves s u p c it payload) :=
  h.putUse.setCmd.sendDispatch.ctxCount.pmcEvent

theorem Canon.sendRow {tk : Ecc} {u : Use} {p : Plan} {c : Cmd} {it : Item} (h : Canon s) :
    Canon (sendRow tk s u p c it) := by
  unfold Machine.sendRow
  split
  · exact Canon.ite h.ticketUe h.ticketLost
  next e _ =>
    extract_lets s0 t j gate
    have h0 : Canon s0 := by
      simp only [s0]
      split
      · exact h.ticketCe
      · exact h
    split
    next payload io he =>
      have h1 := (KeepsMem.ite (keepsMem_backwardRow.bind fun _ => keepsMem_rowRace)
        (keepsMem_forwardRow.bind fun _ => keepsMem_rowRace)).of_eq h0.mem he
      dsimp only
      split
      · exact (h0.ioClose h1).sendStop
      · exact (h0.ioClose h1).rowLeaves

theorem Canon.readQueue {w : Nat} {ecc : Ecc} {act : State → Use → Item → Option State} {l : List Nat} (h : Canon s)
    (hact : ∀ u x it t, Canon u → act u x it = some t → Canon t) : Canon (readQueue w ecc act l s) := by
  induction l generalizing s with
  | nil => exact h
  | cons c rest ih =>
    unfold Machine.readQueue
    split
    · exact ih h
    · exact h
    · split
      · exact h.wqDrop.dropStale
      · split
        · rename_i he
          exact hact _ _ _ _ h.wqDrop he
        · exact ih h
    · split
      · exact h
      · rename_i he
        dsimp only
        split
        · exact (h.wqPop he).itemEcc
        · split
          · exact (h.wqPop he).itemEcc.dropStale
          · split
            · rename_i he1
              exact hact _ _ _ _ (h.wqPop he).itemEcc he1
            · exact (h.wqPop he).itemEcc.wqHold

theorem Canon.sendAct {tk : Ecc} {u : Use} {it : Item} {t : State} (h : Canon s) (he : sendAct tk s u it = some t) :
    Canon t := by
  unfold Machine.sendAct at he
  split at he
  · cases he
    exact h.sendRow
  · cases he

theorem Canon.feedMsgs {l : List Msg} {stuck : List (Option Nat)} (h : Canon s) : Canon (feedMsgs l stuck s).2 := by
  induction l generalizing s stuck with
  | nil => exact h
  | cons m rest ih =>
    unfold Machine.feedMsgs
    split
    · extract_lets w it
      split
      · exact ih h.wqPush
      · exact ih h
    · exact ih h

theorem Canon.feedQueues (h : Canon s) : Canon (feedQueues s) := h.feedMsgs.of_tables

theorem Canon.writeRow {u : Use} {p : Plan} {it : Item} (h : Canon s) : Canon (writeRow s u p it) := by
  unfold Machine.writeRow
  dsimp only
  split
  · exact h.dropStale
  · split
    · exact h.dropStale
    · split
      · exact h.dropStale
      · split
        · rename_i he
          split
          · exact (h.ioClose ((keepsMem_ioWrite.bind fun _ => keepsMem_ioWrite).of_eq h.mem he)).mpFault
          · exact (h.ioClose ((keepsMem_ioWrite.bind fun _ => keepsMem_ioWrite).of_eq h.mem
              he)).putUse.sendDack.sendCheck

theorem Canon.rowArrival {ecc : Ecc} {l : List Nat} (h : Canon s) : Canon (rowArrival ecc l s) := by
  induction l generalizing s with
  | nil => exact h
  | cons c rest ih =>
    unfold Machine.rowArrival
    split
    · exact ih h
    · exact h
    · exact h
    next it _ =>
      extract_lets wait
      split
      · exact ih h
      · split
        · exact h
        · rename_i he
          have hread := (h.wqPop he).itemEcc (ecc := ecc) (w := 1) (it := it)
          dsimp only
          split
          · exact hread
          · split
            · exact hread.dropStale
            · split
              · exact hread.dropStale
              · exact hread.writeRow

theorem Canon.rowTimeout {c : Nat} (h : Canon s) : Canon (rowTimeout c s) := by
  unfold Machine.rowTimeout
  split
  · split
    · split
      · split
        · rename_i he
          exact h
        · rename_i he
          exact (h.wqPop he).countC
      · exact h
    · exact h
  · exact h

theorem Canon.returnCheck {q tag epoch : Nat} (h : Canon s) : Canon (returnCheck s q tag epoch) := by
  unfold Machine.returnCheck
  split
  · exact h
  · split
    · exact h.finish
    · exact h

theorem Canon.returnPump {c : Cmd} (h : Canon s) : Canon (returnPump s c) := by
  unfold Machine.returnPump
  split
  · exact h
  · split
    · rename_i he
      split
      · exact h.pushAll.snd he
      · split
        · exact h.pushAll.snd he
        · exact (h.pushAll.snd he).setCmd.returnCheck

theorem keepsMem_returnRows {u : Use} {p : Plan} {x : Shape} {before : Nat} : KeepsMem (returnRows s u p x before) :=
  KeepsMem.foldlM fun _ _ => (keepsMem_ioRead.bind fun _ => (KeepsMem.ite KeepsMem.pure KeepsMem.pure))

theorem keepsMem_tableRead {raw : Nat} : KeepsMem (tableRead raw) := fun io h => by
  unfold Machine.tableRead
  split
  · exact h
  · split
    · exact h
    · exact h

theorem keepsMem_tableReads {raws : List Nat} {shapes : List Shape} : KeepsMem (tableReads raws shapes) :=
  KeepsMem.forM (fun _ => (KeepsMem.ite KeepsMem.pure keepsMem_tableRead))

theorem keepsMem_returnItems {u : Use} {p : Plan} {before : Nat} {shapes : List Shape} :
    KeepsMem (returnItems s u p before shapes) := by
  induction shapes generalizing before with
  | nil => exact KeepsMem.pure
  | cons x rest ih => exact keepsMem_returnRows.bind fun _ => ih.bind fun _ => KeepsMem.pure

theorem Canon.returnGo {c : Cmd} (h : Canon s) : Canon (returnGo c s).st := by
  unfold Machine.returnGo
  dsimp only
  split
  · exact h.doneWith
  · split
    · exact h.setCmd
    · split
      · exact h.doneWith
      · refine h.setCmd.withSlots (fun _ => ?_)
        split
        · rename_i he
          split
          · exact (h.ioClose ((KeepsMem.ite (keepsMem_tableReads.bind fun _ => keepsMem_returnItems)
              keepsMem_returnItems).of_eq h.mem he)).mpFault.doneWith
          · exact (h.ioClose ((KeepsMem.ite (keepsMem_tableReads.bind fun _ => keepsMem_returnItems)
              keepsMem_returnItems).of_eq h.mem he)).setCmd.returnPump

theorem Canon.returnWork {c : Cmd} (h : Canon s) : Canon (returnWork c s).st := by
  unfold Machine.returnWork
  split
  · exact h.doneWith
  · extract_lets
    split
    · exact h.doneWith
    · refine h.withSlots fun _ => ?_
      split
      · exact h.returnGo
      · split
        next io he =>
          have hio : Memory.wf io.mem = true := by
            split at he
            · cases he
              exact h.mem
            · exact keepsMem_tableReads.of_eq h.mem (Prod.mk.inj he).2
          extract_lets
          split
          · exact (h.ioClose hio).mpFault.doneWith
          · exact (h.ioClose hio).returnGo

theorem Canon.answerRow {u : Use} {p : Plan} {c : Cmd} {it : Item} (h : Canon s) : Canon (answerRow s u p c it) := by
  unfold Machine.answerRow
  dsimp only
  split
  · rename_i he
    split
    · split
      · rename_i he1
        exact ((h.ioClose ((keepsMem_Desc_readRow.bind fun _ => (keepsMem_sendConv.bind fun _ =>
          (keepsMem_payloadBytes.bind fun _ => keepsMem_rowRace))).of_eq h.mem he)).stopWork.of_work he1).report
      · rename_i he1
        exact (h.ioClose ((keepsMem_Desc_readRow.bind fun _ => (keepsMem_sendConv.bind fun _ =>
          (keepsMem_payloadBytes.bind fun _ => keepsMem_rowRace))).of_eq h.mem he)).stopWork.of_work he1
    · exact (h.ioClose ((keepsMem_Desc_readRow.bind fun _ => (keepsMem_sendConv.bind fun _ =>
        (keepsMem_payloadBytes.bind fun _ => keepsMem_rowRace))).of_eq h.mem he)).setCmd.sendDispatch.pmcEvent

theorem Canon.returnAct {u : Use} {it : Item} {t : State} (h : Canon s) (he : returnAct s u it = some t) :
    Canon t := by
  unfold Machine.returnAct at he
  split at he
  · cases he
    exact h.answerRow
  · cases he

theorem Canon.answerCvt {it : Item} (h : Canon s) : Canon (answerCvt s it).2 := by
  unfold Machine.answerCvt
  dsimp only
  split
  · exact h
  · exact h.of_tables

theorem Canon.answered {u : Use} {n t : Nat} {it : Item} (h : Canon s) : Canon (answered s u n t it) :=
  (Canon.ite h.markTicket.setTicket.ctxCount.sendDack.combineToken
    h.markTicket.setTicket.ctxCount.sendDack).combineReady

theorem Canon.writeAnswer {u : Use} {n t j : Nat} {it : Item} (h : Canon s) : Canon (writeAnswer s u n t j it) := by
  unfold Machine.writeAnswer
  extract_lets fmt
  split
  next k s0 hk =>
    have h0 : Canon s0 := by
      split at hk
      · exact h.answerCvt.snd hk
      · cases hk
        exact h
    split
    next io he =>
      have h1 := (keepsMem_num.bind fun _ => keepsMem_ioWrite).of_eq h0.mem he
      dsimp only
      split
      · exact (h0.ioClose h1).mpFault
      · exact (h0.ioClose h1).answered

theorem Canon.takeAnswer {tk : Ecc} {it : Item} (h : Canon s) : Canon (takeAnswer tk s it) := by
  unfold Machine.takeAnswer
  split
  · exact h.dropAnswer
  · extract_lets
    split
    · exact h.dropAnswer
    · split
      · exact Canon.ite h.ticketUe h.ticketLost
      next e _ =>
        extract_lets s1
        have h1 : Canon s1 := by
          simp only [s1]
          split
          · exact h.ticketCe
          · exact h
        exact Canon.ite h1.dropAnswer h1.writeAnswer

theorem Canon.answerArrival {item tk : Ecc} {l : List Nat} (h : Canon s) : Canon (answerArrival item tk l s) := by
  induction l generalizing s with
  | nil => exact h
  | cons c rest ih =>
    unfold Machine.answerArrival
    split
    · exact ih h
    · exact h
    · exact h
    · split
      · exact ih h
      · split
        · exact h
        · rename_i he
          dsimp only
          exact Canon.ite (h.wqPop he).itemEcc.takeAnswer (h.wqPop he).itemEcc

theorem Canon.rowAcked {tk : Ecc} {u : Use} {n : Nat} (h : Canon s) : Canon (rowAcked tk s u n) := by
  unfold Machine.rowAcked
  dsimp only
  split
  · split
    · exact h.ticketUe
    · exact h.ticketLost
  · refine Canon.ite ?_ ?_
    · refine (Canon.markTicket ?_).putUse.sendCheck
      split
      · exact h.ticketCe
      · exact h
    · split
      · exact h.ticketCe
      · exact h

theorem Canon.answerAcked {u : Use} (h : Canon s) : Canon (answerAcked s u) := by
  unfold Machine.answerAcked
  split
  · exact h
  · exact h.setCmd.returnCheck

theorem Canon.dackReceive {tk : Ecc} (h : Canon s) : Canon (dackReceive tk s) := by
  unfold Machine.dackReceive
  dsimp only
  split
  · rename_i he
    exact h
  · rename_i he
    split
    · exact h.takeMsg he
    · split
      · exact (h.takeMsg he).rowAcked
      · exact (h.takeMsg he).answerAcked

theorem Canon.pumpWriters (h : Canon s) : Canon (pumpWriters s) := by
  unfold Machine.pumpWriters
  refine h.foldl fun _ _ hu => ?_
  split
  · exact hu
  · split
    · exact hu.sortPump
    · split
      · exact hu.returnPump
      · exact hu

theorem Canon.afterRead (h : Canon s) : Canon (afterRead s) := h.feedQueues.pumpWriters.settleAll

theorem Canon.stallUse {c : Cmd} (h : Canon s) : Canon (stallUse s c) := by
  unfold Machine.stallUse
  dsimp only
  split
  · exact h
  · split
    · exact h.countC.sendOver
    · split
      · exact h.countC.finish
      · split
        · exact h.countC.finish
        · exact h

end

end Sys2Proof.Machine
end

section
/-! The fabric and the collectives keep every table canonical (chapters 11 and 12). -/

namespace Sys2Proof.Machine

-- One proof at a time: hundreds of short ones side by side take more threads than the check has memory for.
set_option Elab.async false

section
variable {s : State}

theorem Canon.sendMark {n g d : Nat} (h : Canon s) : Canon (sendMark s n g d) := by
  unfold Machine.sendMark
  dsimp only
  split
  · exact h.setPort.putWire
  · exact h

theorem Canon.repeatMarks {n : Nat} (h : Canon s) : Canon (repeatMarks s n) := h.foldl fun _ _ hu => hu.putWire

theorem Canon.sendLink {n sub lane : Nat} (h : Canon s) : Canon (sendLink s n sub lane) := h.putWire

theorem Canon.sendFlit {n : Nat} {x : TxMsg} (h : Canon s) : Canon (sendFlit s n x) :=
  h.setPort.putWire.bwAdd.pmcEvent.freeBufs

theorem Canon.sendFlits {n fuel : Nat} {busy : List Nat} {x : TxMsg} (h : Canon s) :
    Canon (sendFlits n busy fuel s x).1 := by
  induction fuel generalizing s x with
  | zero => exact h
  | succ fuel ih =>
    unfold Machine.sendFlits
    split
    · extract_lets s1
      split
      · exact h.sendFlit
      · exact ih h.sendFlit
    · exact h

theorem Canon.pumpMsgs {n : Nat} {all l : List TxMsg} {busy : List Nat} (h : Canon s) :
    Canon (pumpMsgs n all busy s l).1 := by
  induction l generalizing s all busy with
  | nil => exact h
  | cons x rest ih =>
    unfold Machine.pumpMsgs
    extract_lets mine
    split
    next s1 left he =>
      have h1 : Canon s1 := by
        split at he
        · cases he
          exact h
        · exact h.sendFlits.fst he
      split
      · exact ih h1
      · exact ih h1

theorem Canon.pumpOnce {n : Nat} (h : Canon s) : Canon (pumpOnce s n) := h.pumpMsgs.setPort

theorem Canon.pumpAll {n fuel : Nat} (h : Canon s) : Canon (pumpAll n fuel s) := by
  induction fuel generalizing s with
  | zero => exact h
  | succ fuel ih => exact Canon.ite h.pumpOnce (ih h.pumpOnce)

theorem Canon.portPump {n : Nat} (h : Canon s) : Canon (portPump s n) := h.pumpAll

theorem Canon.discardMsg {m : Msg} (h : Canon s) : Canon (discardMsg s m) := by
  unfold Machine.discardMsg
  dsimp only
  split
  · exact h.freeHold.countC
  · exact h.freeHold.countC.post

theorem Canon.setMarkRec {g : Nat} {r : MarkRec} (h : Canon s) : Canon (setMarkRec s g r) := h.of_tables

theorem Canon.releaseMark {m : Msg} {n : Nat} (h : Canon s) : Canon (releaseMark s m n) := by
  unfold Machine.releaseMark
  dsimp only
  split
  · refine Canon.ite ?_ ?_
    · exact h.setMarkRec
    · split
      · exact h.setMarkRec.sendMark
      · exact h.setMarkRec
  · exact h

theorem Canon.takeMark {g d : Nat} (h : Canon s) : Canon (takeMark s g d) :=
  h.setMarkRec.foldl fun _ _ hu => hu.sendMark

theorem Canon.routeMsg {m : Msg} (h : Canon s) : Canon (routeMsg s m) := by
  unfold Machine.routeMsg
  dsimp only
  split
  · exact h.countHop.of_tables
  · exact h.countHop.discardMsg
  · exact (Canon.ite h.countHop.countC h.countHop).setPort.portPump.releaseMark

theorem Canon.forwardMsg (h : Canon s) : Canon (forwardMsg s) := by
  unfold Machine.forwardMsg
  dsimp only
  split
  · exact h
  · exact h.of_tables.routeMsg

theorem Canon.requeue {n : Nat} (h : Canon s) : Canon (requeue s n) := h.setPort.of_tables

theorem Canon.detourTimeout (h : Canon s) : Canon (detourTimeout s) := by
  unfold Machine.detourTimeout
  dsimp only
  split
  · exact h
  · split
    · exact h
    · exact h.setPort.discardMsg

theorem Canon.setPhyEn {n : Nat} {on : Bool} (h : Canon s) : Canon (setPhyEn s n on) := h.of_tables

theorem Canon.startTraining {n : Nat} (h : Canon s) : Canon (startTraining s n) := h.setPort.setPhyEn

theorem Canon.portDown {n : Nat} (h : Canon s) : Canon (portDown s n) := by
  unfold Machine.portDown
  dsimp only
  split
  · exact h.setPort.setPhyEn.startTraining
  · exact h.setPort.setPhyEn

theorem Canon.linkDown {n : Nat} {code : Option Nat} (h : Canon s) : Canon (linkDown s n code) :=
  h.setPort.requeue.portDown.csrSet.raiseFault.foldl fun _ _ hu => Canon.ite hu.freeHold hu.freeHold.post

theorem Canon.collFault {g code : Nat} {o : CollOp} (h : Canon s) : Canon (collFault s g o code) :=
  h.mpFault.abortColl

theorem Canon.collIo {α : Type} {g : Nat} {o : CollOp} {act : Mio α} {k : State → α → State} (h : Canon s)
    (hact : KeepsMem act) (hk : ∀ u a1, Canon u → Canon (k u a1)) :
    Canon (collIo s g o act k) := by
  unfold Machine.collIo
  dsimp only
  split
  · rename_i he
    split
    · exact (h.ioClose (hact.of_eq h.mem he)).collFault
    · exact hk _ _ (h.ioClose (hact.of_eq h.mem he))

theorem Canon.setOp {g : Nat} {o : CollOp} (h : Canon s) : Canon (setOp s g o) := h.setGrp

theorem keepsMem_destWrite {o : CollOp} {box m a : Nat} {bs : List Byte} : KeepsMem (destWrite o box m a bs) :=
  KeepsMem.get_bind fun _ hio => (KeepsMem.ite (KeepsMem.bind (KeepsMem.set (wf_draws _ hio)) fun _ =>
    keepsMem_ioWrite) keepsMem_ioWrite)

theorem keepsMem_writeReduced {o : CollOp} {box m : Nat} {ls : List Nat} : KeepsMem (writeReduced o box m ls) :=
  KeepsMem.forM (fun _ => keepsMem_destWrite)

theorem keepsMem_writeBlock {o : CollOp} {box m k : Nat} {ls : List Nat} : KeepsMem (writeBlock o box m ls k) :=
  KeepsMem.forM (fun _ => keepsMem_destWrite)

theorem keepsMem_sourceLine {o : CollOp} {box m l : Nat} : KeepsMem (sourceLine o box m l) :=
  keepsMem_ioRead.bind fun _ => (KeepsMem.ite (KeepsMem.get_bind fun _ hio => (KeepsMem.bind (KeepsMem.set (wf_draws
    _ hio)) fun _ => KeepsMem.pure)) KeepsMem.pure)

theorem keepsMem_loadChunk {o : CollOp} {box m : Nat} : KeepsMem (loadChunk o box m) :=
  (KeepsMem.mapM (fun _ => (keepsMem_sourceLine.bind fun _ => KeepsMem.pure))).bind fun _ => KeepsMem.pure

theorem keepsMem_writeScan {o : CollOp} {box m : Nat} : KeepsMem (writeScan o box m) := keepsMem_destWrite

theorem keepsMem_writeOwn {o : CollOp} {box m : Nat} : KeepsMem (writeOwn o box m) := by
  unfold Machine.writeOwn
  split
  · split
    · exact keepsMem_writeReduced
    · exact KeepsMem.pure
  · split
    · split
      · exact keepsMem_writeScan
      · exact KeepsMem.pure
    · exact keepsMem_writeBlock

theorem Canon.sendPiece {g a step : Nat} {o : CollOp} {keys : List Nat} (h : Canon s) :
    Canon (sendPiece s g a step o keys) :=
  h.sendRing

theorem Canon.startPhase {g : Nat} {o : CollOp} (h : Canon s) : Canon (startPhase s g o) := h.sendPiece

theorem Canon.startChunk {g : Nat} {o : CollOp} (h : Canon s) : Canon (startChunk s g o) := by
  unfold Machine.startChunk
  dsimp only
  exact h.collIo (keepsMem_loadChunk.bind fun _ => (keepsMem_writeOwn.bind fun _ => KeepsMem.pure))
    (fun _ _ hu => Canon.ite hu.setOp hu.setOp.startPhase)

theorem keepsMem_endPhase {o : CollOp} {box m : Nat} : KeepsMem (endPhase o box m) := by
  unfold Machine.endPhase
  dsimp only
  split
  · exact keepsMem_writeReduced.bind fun _ => KeepsMem.pure
  · split
    · split
      · exact keepsMem_writeScan.bind fun _ => KeepsMem.pure
      · exact KeepsMem.pure
    · exact KeepsMem.pure

theorem Canon.phaseDone {g : Nat} {o : CollOp} (h : Canon s) : Canon (phaseDone s g o) := by
  unfold Machine.phaseDone
  dsimp only
  exact h.collIo keepsMem_endPhase (fun _ _ hu => Canon.ite hu.setOp hu.setOp.startPhase)

theorem Canon.residue {res : Residue} {n g : Nat} {o : CollOp} {k : State → State} (h : Canon s)
    (hk : ∀ u, Canon u → Canon (k u)) :
    Canon (residue res n s g o k) := by
  unfold Machine.residue
  dsimp only
  split
  · exact h.countC.countC.csrSet.raiseFault.abortColl
  · exact hk _ h.countC

theorem Canon.stepReduce {res : Residue} {g a i : Nat} {o : CollOp} {data : List Byte} (h : Canon s) :
    Canon (stepReduce res s g a i o data) := by
  unfold Machine.stepReduce
  dsimp only
  split
  · exact h.residue (fun _ hu => Canon.ite hu.addTally.of_tables.setOp.sendPiece
      hu.addTally.of_tables.setOp.phaseDone)

theorem Canon.stepGather {res : Residue} {g a i : Nat} {o : CollOp} {data : List Byte} (h : Canon s) :
    Canon (stepGather res s g a i o data) := by
  unfold Machine.stepGather
  dsimp only
  exact h.residue (fun _ hu => hu.of_tables.setOp.collIo (KeepsMem.ite KeepsMem.pure (KeepsMem.ite
    keepsMem_writeReduced (KeepsMem.forM (fun _ => keepsMem_writeBlock)))) (fun _ _ hu1 => Canon.ite hu1.sendPiece
    hu1.phaseDone))

theorem Canon.cairnDone {g : Nat} {o : CollOp} (h : Canon s) : Canon (cairnDone s g o) := by
  unfold Machine.cairnDone
  dsimp only
  refine Canon.endColl ?_
  split
  · exact h.setFlag
  · exact h

theorem Canon.cairnWait {g : Nat} {o : CollOp} (h : Canon s) : Canon (cairnWait s g o) := by
  unfold Machine.cairnWait
  dsimp only
  split
  · split
    · refine (Canon.countC ?_).cairnDone
      split
      · rename_i he
        exact h.takeMsg he
      · rename_i he
        exact h
    · refine Canon.setOp ?_
      split
      · rename_i he
        exact h.takeMsg he
      · rename_i he
        exact h
  · exact h

theorem Canon.cairnPoll {g : Nat} (h : Canon s) : Canon (cairnPoll s g) := by
  unfold Machine.cairnPoll
  split
  · exact h
  · split
    · exact h.cairnWait
    · exact h

theorem Canon.cairnStart {g : Nat} {o : CollOp} (h : Canon s) : Canon (cairnStart s g o) := by
  unfold Machine.cairnStart
  dsimp only
  split
  · exact (h.setMarkRec.foldl fun _ _ hu => Canon.ite hu hu.send).setOp
  · exact h.cairnWait

theorem Canon.writeProgress {g : Nat} {o : CollOp} {k : State → State} (h : Canon s) (hk : ∀ u, Canon u → Canon (k u)) :
    Canon (writeProgress s g o k) := by
  unfold Machine.writeProgress
  dsimp only
  split
  · exact hk _ h.setOp
  · split
    · exact h.collIo keepsMem_ioWrite (fun _ _ hu => hk _ hu.setOp)
    · exact h

theorem Canon.signalChunk {g : Nat} {o : CollOp} (h : Canon s) : Canon (signalChunk s g o) := h.setOp.countC.pmcEvent

theorem Canon.advance {fin : State → Nat → CollOp → State} {g fuel : Nat} (h : Canon s)
    (hfin : ∀ u a1 a2, Canon u → Canon (fin u a1 a2)) : Canon (advance fin g fuel s) := by
  induction fuel generalizing s with
  | zero => exact h
  | succ fuel ih =>
    unfold Machine.advance
    split
    · exact h
    · refine Canon.ite h (Canon.ite ?_ (Canon.ite (Canon.ite h ?_) (Canon.ite ?_ (Canon.ite (Canon.ite ?_ h)
        (Canon.ite ?_ h)))))
      · exact h.writeProgress fun _ hu => ih hu
      · exact h.cairnStart
      · exact ih h.signalChunk
      · exact ih h.startChunk
      · exact hfin _ _ _ h

theorem Canon.runColl {fin : State → Nat → CollOp → State} {g : Nat} (h : Canon s)
    (hfin : ∀ u a1 a2, Canon u → Canon (fin u a1 a2)) :
    Canon (runColl fin s g) := by
  unfold Machine.runColl
  split
  · exact h
  · exact h.advance hfin

theorem Canon.runAll {fin : State → Nat → CollOp → State} (h : Canon s)
    (hfin : ∀ u a1 a2, Canon u → Canon (fin u a1 a2)) :
    Canon (runAll fin s) :=
  h.foldl fun _ _ hu => hu.runColl hfin

theorem Canon.dropLate {m : Msg} (h : Canon s) : Canon (dropLate s m) := h.countC

theorem Canon.takeColl {res : Residue} {m : Msg} (h : Canon s) : Canon (takeColl res s m) := by
  unfold Machine.takeColl
  dsimp only
  split
  · exact h
  · split
    · exact h.stepGather
    · exact h.stepReduce

theorem Canon.collMessage {fin : State → Nat → CollOp → State} {res : Residue} (h : Canon s)
    (hfin : ∀ u a1 a2, Canon u → Canon (fin u a1 a2)) :
    Canon (collMessage fin res s) := by
  unfold Machine.collMessage
  refine Canon.runAll ?_ hfin
  split
  · rename_i he
    exact h
  · rename_i he
    split
    · exact (h.takeMsg he).dropLate
    · exact (h.takeMsg he).takeColl

theorem Canon.sendSig {g a step seq : Nat} {data : List Byte} (h : Canon s) : Canon (sendSig s g a step seq data) :=
  h.sendRing

theorem Canon.sigEnd {fin : State → Nat → CollOp → State} {g : Nat} {o : CollOp} (h : Canon s)
    (hfin : ∀ u a1 a2, Canon u → Canon (fin u a1 a2)) :
    Canon (sigEnd fin s g o) := by
  unfold Machine.sigEnd
  split
  · exact h.countC.endColl
  · exact h.setOp.runColl hfin

theorem Canon.sigRing {fin : State → Nat → CollOp → State} {g : Nat} {o : CollOp} (h : Canon s)
    (hfin : ∀ u a1 a2, Canon u → Canon (fin u a1 a2)) :
    Canon (sigRing fin s g o) := by
  unfold Machine.sigRing
  split
  · exact h.sigEnd hfin
  · exact h.setOp.sendSig

theorem Canon.takeSig {fin : State → Nat → CollOp → State} {g a : Nat} {o : CollOp} {m : Msg} (h : Canon s)
    (hfin : ∀ u a1 a2, Canon u → Canon (fin u a1 a2)) :
    Canon (takeSig fin s g a o m) := by
  unfold Machine.takeSig
  dsimp only
  split
  · exact h.sendSig.setOp
  · exact h.sigRing hfin

theorem Canon.sigMessage {fin : State → Nat → CollOp → State} (h : Canon s)
    (hfin : ∀ u a1 a2, Canon u → Canon (fin u a1 a2)) :
    Canon (sigMessage fin s) := by
  unfold Machine.sigMessage
  split
  · rename_i he
    exact h
  · rename_i he
    split
    · exact (h.takeMsg he).dropLate
    · split
      · exact h.takeMsg he
      · split
        · exact h.takeMsg he
        · exact (h.takeMsg he).takeSig hfin

theorem Canon.abortNotice (h : Canon s) : Canon (abortNotice s) := by
  unfold Machine.abortNotice
  dsimp only
  split
  · rename_i he
    exact h
  · rename_i he
    split
    · exact (h.takeMsg he).dropLate
    · exact (h.takeMsg he).abortColl

theorem Canon.dropLateReleases (h : Canon s) : Canon (dropLateReleases s) := by
  unfold Machine.dropLateReleases
  split
  · rename_i he
    exact h
  · rename_i he
    exact (h.takeMsg he).dropLate

theorem Canon.cairnMarker {n g md : Nat} (h : Canon s) : Canon (cairnMarker n g md s) := by
  unfold Machine.cairnMarker
  dsimp only
  split
  · exact h
  · split
    · exact h.dropLateReleases.takeMark
    · split
      · exact h.dropLateReleases.takeMark.setOp.cairnPoll
      · exact h.dropLateReleases.takeMark

theorem Canon.cairnRelease {g : Nat} (h : Canon s) : Canon (cairnRelease g s) := by
  unfold Machine.cairnRelease
  split
  · exact h
  · split
    · exact h.cairnDone
    · exact h

theorem Canon.startColl {fin : State → Nat → CollOp → State} {g sub ety count : Nat} {o : CollOp} (h : Canon s)
    (hfin : ∀ u a1 a2, Canon u → Canon (fin u a1 a2)) :
    Canon (startColl fin s g o sub ety count) :=
  h.setGrp.countC.sigRing hfin

theorem Canon.collDone {g : Nat} {o : CollOp} (h : Canon s) : Canon (collDone s g o) := h.endColl

theorem Canon.collWork {c : Cmd} (h : Canon s) : Canon (collWork c s).st := by
  unfold Machine.collWork
  dsimp only
  split
  · exact h.doneWith
  · exact h.startColl (fun _ _ _ hu => hu.collDone)

theorem Canon.trainFail {n code : Nat} (h : Canon s) : Canon (trainFail s n code) :=
  h.setPort.countF.setPort.setPhyEn.logEntry

theorem Canon.phyRise {n : Nat} (h : Canon s) : Canon (phyRise n s) := h.setPort

theorem Canon.phyFall {n : Nat} (h : Canon s) : Canon (phyFall n s) := by
  unfold Machine.phyFall
  dsimp only
  split
  · exact (Canon.ite h.rotaToggle h).setPort.linkDown
  · exact (Canon.ite h.rotaToggle h).setPort

theorem Canon.laneReport {n mine peer : Nat} (h : Canon s) : Canon (laneReport n mine peer s) := by
  unfold Machine.laneReport
  dsimp only
  split
  · exact h
  · split
    · exact h.trainFail
    · exact h.setPort

theorem Canon.identity {n : Nat} {w : Ident} (h : Canon s) : Canon (identity n w s) := by
  unfold Machine.identity
  dsimp only
  split
  · exact h
  · split
    · exact h.setPort
    · exact h.trainFail

theorem Canon.calComplete {n echoes rtt : Nat} (h : Canon s) : Canon (calComplete n echoes rtt s) := by
  unfold Machine.calComplete
  dsimp only
  split
  · exact h
  · split
    · exact h.trainFail
    · exact h.setPort

theorem Canon.trainTimeout {n : Nat} (h : Canon s) : Canon (trainTimeout n s) := by
  unfold Machine.trainTimeout
  split
  · exact h.trainFail
  · exact h.trainFail
  · exact h.of_tables.trainFail
  · exact h.trainFail
  · exact h

theorem Canon.train {n : Nat} (h : Canon s) : Canon (train s n) := by
  unfold Machine.train
  split
  · exact h
  · exact h.startTraining

theorem Canon.retrain {n : Nat} (h : Canon s) : Canon (retrain n s) := by
  unfold Machine.retrain
  dsimp only
  split
  · exact h.train
  · exact h

theorem Canon.portEnable {n : Nat} (h : Canon s) : Canon (portEnable n s) := by
  unfold Machine.portEnable
  dsimp only
  split
  · split
    · exact h.csrSet
    · exact h.csrSet.train
  · split
    · exact h.csrSet.setPort
    · exact h.csrSet

theorem Canon.portDisable {n : Nat} (h : Canon s) : Canon (portDisable n s) := by
  unfold Machine.portDisable
  dsimp only
  split
  · exact h.csrClr.portDown
  · split
    · exact h.csrClr.setPort.requeue
    · exact h.csrClr.setPort

theorem Canon.portDrainEnd {n : Nat} (h : Canon s) : Canon (portDrainEnd n s) := by
  unfold Machine.portDrainEnd
  split
  · exact h.sendLink.linkDown
  · exact h

theorem Canon.retireLane {n lane : Nat} (h : Canon s) : Canon (retireLane n lane s) := by
  unfold Machine.retireLane
  dsimp only
  split
  · exact h
  · split
    · exact h.setPort.countC.logEntry
    · split
      · exact h.setPort.countC.setPort.logEntry
      · split
        · exact h.setPort.countC.setPort.linkDown
        · exact h.setPort.countC.setPort.raiseFault

theorem Canon.laneFault {n lane : Nat} (h : Canon s) : Canon (laneFault n lane s) := by
  unfold Machine.laneFault
  split
  · exact h.sendLink.retireLane
  · exact h

theorem Canon.takeCtl {n ctl : Nat} (h : Canon s) : Canon (takeCtl s n ctl) := h.setPort

theorem Canon.arrived {m : Msg} (h : Canon s) : Canon (arrived s m) := by
  unfold Machine.arrived
  dsimp only
  split
  · exact h.of_tables
  · exact h.of_tables

theorem Canon.badKind {x0 : Nat} (h : Canon s) : Canon (badKind s x0) := by
  unfold Machine.badKind
  split
  · exact h.countC
  · exact h

theorem Canon.joinFlit {n vc : Nat} {m : Msg} {data : List Byte} (h : Canon s) :
    Canon (joinFlit s n m vc data).2 := by
  unfold Machine.joinFlit
  extract_lets hold
  split
  · exact h
  · dsimp only
    exact h.freeBufs

theorem Canon.takeFlit {n : Nat} {f : Flit} (h : Canon s) : Canon (takeFlit s n f) := by
  unfold Machine.takeFlit
  dsimp only
  split
  · exact h.bwAdd.pmcEvent.freeBufs.badKind
  · split
    · exact h.bwAdd.pmcEvent.joinFlit.setPort.arrived
    · exact h.bwAdd.pmcEvent.joinFlit.setPort

theorem Canon.nakFlit {n seq : Nat} (h : Canon s) : Canon (nakFlit s n seq) := by
  unfold Machine.nakFlit
  dsimp only
  split
  · exact h.countF.setPort.linkDown
  · exact h.countF.setPort.sendIdle

theorem Canon.flitReceive {n : Nat} {f : Flit} (h : Canon s) : Canon (flitReceive n f s) := by
  unfold Machine.flitReceive
  dsimp only
  split
  · exact h
  · split
    · split
      · exact h.nakFlit
      · exact h.countF
    · exact (Canon.ite (Canon.ite h.takeCtl.setPort h.takeCtl).badKind (Canon.ite (Canon.ite h.takeCtl.setPort
        h.takeCtl).setPort.takeFlit.sendIdle (Canon.ite h.takeCtl.setPort
        h.takeCtl).sendIdle)).portPump.feedQueues.foldl fun _ _ hu => hu.cairnPoll

theorem Canon.nakReplay {n ack : Nat} (h : Canon s) : Canon (nakReplay n ack s) := by
  unfold Machine.nakReplay
  dsimp only
  split
  · exact h
  · exact (h.setPort.countF.repeatMarks.foldl fun _ _ hu => hu.putWire).pmcEvent.portPump

theorem Canon.linkLost {n : Nat} (h : Canon s) : Canon (linkLost n s) := by
  unfold Machine.linkLost
  split
  · exact h.linkDown
  · exact h

theorem Canon.linkDownFlit {n : Nat} (h : Canon s) : Canon (linkDownFlit n s) := by
  unfold Machine.linkDownFlit
  split
  · exact h.linkDown
  · exact h

theorem Canon.dpAnswer {r : DpReq} {status data : Nat} (h : Canon s) : Canon (dpAnswer s r status data) :=
  (Canon.ite h.bwAdd h).of_tables

theorem Canon.dpAccess {op addr size data : Nat} (h : Canon s) : Canon (dpAccess s op addr size data).1 := by
  unfold Machine.dpAccess
  dsimp only
  split
  · split
    · exact h
    · split
      · exact h
      · split
        · exact h
        · split
          · exact (h.setMem (wf_wrTry _ _ h.mem)).mpCount.raiseFault
          · exact (h.setMem (wf_wrTry _ _ h.mem)).mpCount
  · split
    · exact h.mpCount
    · split
      · exact h.mpCount
      · split
        · exact h.mpCount
        · split
          · exact (h.mpCount.setMem (wf_wrTry _ _ h.mpCount.mem)).mpCount.raiseFault
          · exact (h.mpCount.setMem (wf_wrTry _ _ h.mpCount.mem)).mpCount

theorem Canon.dpServe {r : DpReq} (h : Canon s) : Canon (dpServe s r) := by
  unfold Machine.dpServe
  dsimp only
  split
  · exact h.dpAnswer
  · split
    · exact h.dpAnswer
    · split
      · exact h.dpAnswer
      · split
        · split
          · exact h.dpAccess.dpAnswer
          · exact h
        · exact h.of_tables.send

theorem Canon.dpPump (h : Canon s) : Canon (dpPump s) := h.foldl fun _ _ hu => Canon.ite hu.dpServe hu

theorem Canon.dpRequest {p op addr sz data tag : Nat} (h : Canon s) : Canon (dpRequest p op addr sz data tag s) := by
  unfold Machine.dpRequest
  dsimp only
  split
  · exact h
  · split
    · exact h.of_tables.pmcEvent.bwAdd.dpAnswer
    · refine Canon.ite ?_ ?_
      · exact h.of_tables.pmcEvent.bwAdd
      · exact h.of_tables.pmcEvent.bwAdd.dpServe

theorem Canon.dpFence {p : Nat} (h : Canon s) : Canon (dpFence p s) := by
  unfold Machine.dpFence
  split
  · exact h
  · split
    · exact h.dpAnswer.dpPump
    · exact h

theorem Canon.dpreqReceive (h : Canon s) : Canon (dpreqReceive s) := by
  unfold Machine.dpreqReceive
  dsimp only
  split
  · exact h
  · split
    · rename_i he
      exact h
    · rename_i he
      exact (h.takeMsg he).dpAccess.send

theorem Canon.dprspReceive (h : Canon s) : Canon (dprspReceive s) := by
  unfold Machine.dprspReceive
  dsimp only
  split
  · rename_i he
    exact h
  · rename_i he
    split
    · exact (h.takeMsg he).dpAnswer.dpPump
    · split
      · exact (h.takeMsg he).of_tables.countC
      · exact h.takeMsg he

theorem Canon.dpTimeout {id : Nat} (h : Canon s) : Canon (dpTimeout id s) := by
  unfold Machine.dpTimeout
  dsimp only
  split
  · exact h
  · exact (Canon.ite h.dpAnswer.countC.of_tables h.dpAnswer.countC).dpPump

theorem Canon.dpFlush (h : Canon s) : Canon (dpFlush s) := h.foldl fun _ _ hu => hu.dpAnswer

theorem swf_portsReset : swf (fun _ => ({} : Port)) (portsReset s) = true := swf_range 6 _ fun _ => by decide
theorem Canon.coldBase (h : Canon s) : Canon (coldBase s) where
  mem := h.mem
  csr := rfl
  queues := rfl
  ctxs := rfl
  tickets := rfl
  sheds := rfl
  quse := rfl
  grps := rfl
  ports := swf_portsReset
  pslots := rfl
  latch := rfl
  bwAcc := rfl
  bwLast := rfl
  xcnt := rfl
  log := rfl
  staging := rfl

end

end Sys2Proof.Machine
end

section
/-! Bring-up and warm reset keep every table canonical (R41 to R46). -/

namespace Sys2Proof.Machine

-- One proof at a time: hundreds of short ones side by side take more threads than the check has memory for.
set_option Elab.async false

section
variable {s : State}

theorem Canon.reboot {update : Bool} (h : Canon s) : Canon (reboot s update) := by
  have hstaging : swf (fun _ => 0#8) (if update then { (Machine.coldBase s).mgt with
      staging := s.mgt.staging, committed := s.mgt.committed } else (Machine.coldBase s).mgt).staging = true := by
    split
    · exact h.staging
    · rfl
  have hlog : swf (fun _ => (0, 0, 0, 0)) (if update then { (Machine.coldBase s).mgt with
      staging := s.mgt.staging, committed := s.mgt.committed } else (Machine.coldBase s).mgt).log = true := by
    split
    · rfl
    · rfl
  exact Canon.setBoot { h.coldBase with log := hlog, staging := hstaging }

theorem Canon.bootFail {b : BootState} {code : Nat} {logged : Bool} (h : Canon s) :
    Canon (bootFail s b code logged) :=
  (Canon.ite h.logEntry h).of_tables.setBoot

theorem Canon.pllLocked (h : Canon s) : Canon (pllLocked s) := by
  unfold Machine.pllLocked
  dsimp only
  split
  · exact h
  · split
    · exact h.bootFail
    · exact h.of_tables.setBoot

theorem Canon.fuseLoaded (h : Canon s) : Canon (fuseLoaded s) := by
  unfold Machine.fuseLoaded
  dsimp only
  split
  · exact h
  · split
    · exact h.of_tables.setBoot
    · exact h.bootFail

theorem Canon.sramDone (h : Canon s) : Canon (sramDone s) := by
  have hempty : Canon { s with mgt := { s.mgt with staging := [] } } := { h with staging := rfl }
  unfold Machine.sramDone
  split
  · exact h
  · exact (Canon.ite h hempty).setBoot

theorem Canon.toVerify {m : List (Nat × Byte)} {committed : Option Nat} (h : Canon s) :
    Canon (toVerify s m committed) :=
  h.of_tables.setBoot

theorem Canon.bootFetched (h : Canon s) : Canon (bootFetched s) := by
  unfold Machine.bootFetched
  split
  · exact h
  · split
    · exact h.toVerify
    · split
      · exact h
      · split
        · exact h.bootFail
        · exact h.toVerify

theorem Canon.bootVerified (h : Canon s) : Canon (bootVerified s) := by
  unfold Machine.bootVerified
  dsimp only
  split
  · exact h
  · split
    · exact h.of_tables.bootFail
    · exact h.of_tables.setBoot

theorem Canon.checkTables (h : Canon s) : Canon (checkTables s) := by
  unfold Machine.checkTables
  dsimp only
  split
  · exact h.csrPut
  · exact h.csrPut.raiseFault

theorem Canon.tablesChecked {crc : Nat} (h : Canon s) : Canon (tablesChecked s crc) := by
  unfold Machine.tablesChecked
  exact Canon.ite h.csrPut h.csrPut.raiseFault

theorem Canon.readied (h : Canon s) : Canon (readied s) := by
  unfold Machine.readied
  exact h.of_tables.setBoot

theorem Canon.fwInited (h : Canon s) : Canon (fwInited s) := by
  by_cases hb : s.glb.boot = .fwInit
  · rw [fwInited_eq hb]
    exact h.tablesChecked.readied
  · rw [Machine.fwInited, if_pos hb]
    exact h

theorem Canon.warmPort {n : Nat} (h : Canon s) : Canon (warmPort s n) := by
  unfold Machine.warmPort
  dsimp only
  split
  · exact h
  · exact (Canon.ite h.setPort.sendLink h.setPort).portDown

theorem Canon.undrained (h : Canon s) : Canon { s with glb := { s.glb with drained := false } } := h.of_tables
theorem Canon.warmBegin (h : Canon s) : Canon (warmBegin s) := by
  have h1 : Canon ((List.range 6).foldl Machine.warmPort s) := h.foldl fun _ _ hu => hu.warmPort
  unfold Machine.warmBegin
  generalize (List.range 6).foldl Machine.warmPort s = u at h1
  exact h1.dpFlush.undrained.setBoot

theorem Canon.warmRequest (h : Canon s) : Canon (warmRequest s) := by
  unfold Machine.warmRequest
  split
  · exact h.warmBegin
  · exact h

theorem Canon.islandsReset (h : Canon s) : Canon (islandsReset s) := { h with
  csr := swf_revalue h.csr fun p => csrWarm p.1 p.2
  queues := rfl
  ctxs := rfl
  tickets := rfl
  sheds := rfl
  quse := rfl
  grps := rfl
  ports := swf_portsReset
  pslots := rfl
  bwAcc := rfl }

theorem Canon.warmClear (h : Canon s) : Canon (warmClear s) := by
  rw [warmClear_eq]
  exact h.islandsReset.countC.setBoot

theorem Canon.warmDrained (h : Canon s) : Canon (warmDrained s) := by
  unfold Machine.warmDrained
  dsimp only
  split
  · exact h
  · split
    · exact h.of_tables
    · exact h.warmClear

theorem Canon.setWrst {low : Bool} (h : Canon s) : Canon (setWrst s low) := h.of_tables

theorem Canon.warmReleased (h : Canon s) : Canon (warmReleased s) := by
  unfold Machine.warmReleased
  split
  · exact h.warmClear
  · exact h

theorem Canon.warmInited (h : Canon s) : Canon (warmInited s) := by
  unfold Machine.warmInited
  dsimp only
  split
  · exact h
  · exact h.of_tables.setBoot

end

end Sys2Proof.Machine
end

section
/-! Work of the placement engine keeps every table canonical: the rules of its monad. -/

namespace Sys2Proof.Machine

-- One proof at a time: hundreds of short ones side by side take more threads than the check has memory for.
set_option Elab.async false

/-- Work that may stop keeps every table canonical, whether it stops or not. -/
def KeepsPm {α : Type} (x : Pm α) : Prop := ∀ s : State, Canon s → Canon (x.run s).2

section
variable {α β : Type} {s t : State}

theorem KeepsPm.snd {x : Pm α} {r : Except Nat α} (hx : KeepsPm x) (h : Canon s) (he : x.run s = (r, t)) : Canon t := by
  have h1 := hx s h
  rw [he] at h1
  exact h1

theorem KeepsPm.pure {a : α} : KeepsPm (pure a : Pm α) := fun _ h => h

theorem KeepsPm.throw {e : Nat} : KeepsPm (throw e : Pm α) := fun _ h => h

theorem KeepsPm.get : KeepsPm (MonadState.get : Pm State) := fun _ h => h

theorem KeepsPm.set (h : Canon s) : KeepsPm (MonadStateOf.set s : Pm PUnit) := fun _ _ => h

theorem KeepsPm.bind {x : Pm α} {f : α → Pm β} (hx : KeepsPm x) (hf : ∀ a, KeepsPm (f a)) : KeepsPm (x >>= f) :=
  fun s h => by
    have h1 := hx s h
    show Canon (ExceptT.run (x >>= f) s).2
    rw [ExceptT.run_bind]
    show Canon (StateT.bind x.run _ s).2
    unfold StateT.bind
    generalize x.run s = p at h1
    obtain ⟨r, u⟩ := p
    cases r with
    | error e => exact h1
    | ok a => exact hf a u h1

/-- A state that is read and put back later, changed, is canonical from the start. -/
theorem KeepsPm.get_bind {f : State → Pm β} (hf : ∀ s, Canon s → KeepsPm (f s)) :
    KeepsPm ((MonadState.get : Pm State) >>= f) := fun s h => hf s h s h

theorem KeepsPm.ite {p : Prop} [Decidable p] {x y : Pm α} (hx : KeepsPm x) (hy : KeepsPm y) :
    KeepsPm (if p then x else y) := by
  split
  · exact hx
  · exact hy

theorem KeepsPm.forM {l : List α} {f : α → Pm PUnit} (hf : ∀ a, KeepsPm (f a)) : KeepsPm (l.forM f) := by
  induction l with
  | nil => exact KeepsPm.pure
  | cons a l ih => exact (hf a).bind fun _ => ih

theorem KeepsPm.foldlM {l : List α} {f : β → α → Pm β} {b : β} (hf : ∀ b a, KeepsPm (f b a)) :
    KeepsPm (l.foldlM f b) := by
  induction l generalizing b with
  | nil => exact KeepsPm.pure
  | cons a l ih =>
    rw [List.foldlM_cons]
    exact (hf b a).bind fun _ => ih

theorem KeepsPm.mapM {l : List α} {f : α → Pm β} (hf : ∀ a, KeepsPm (f a)) : KeepsPm (l.mapM f) := by
  induction l with
  | nil => exact KeepsPm.pure
  | cons a l ih =>
    rw [List.mapM_cons]
    exact (hf a).bind fun _ => ih.bind fun _ => KeepsPm.pure

end

end Sys2Proof.Machine
end

section
/-! The placement engine keeps every table canonical (chapter 13). -/

namespace Sys2Proof.Machine

-- One proof at a time: hundreds of short ones side by side take more threads than the check has memory for.
set_option Elab.async false

section
variable {s : State}

theorem keepsPm_pmDo {f : State → State} (hf : ∀ u, Canon u → Canon (f u)) : KeepsPm (pmDo f) :=
  KeepsPm.get_bind fun _ hu => (KeepsPm.set (hf _ hu))

theorem keepsPm_pmRead {a n : Nat} : KeepsPm (pmRead a n) :=
  KeepsPm.get_bind fun _ hu => (KeepsPm.bind (KeepsPm.set hu.mpCount) fun _ => (KeepsPm.ite KeepsPm.pure
    KeepsPm.throw))

theorem keepsPm_pmWrite {a : Nat} {bs : List Byte} : KeepsPm (pmWrite a bs) := by
  unfold Machine.pmWrite
  refine KeepsPm.get_bind fun _ hu => ?_
  split
  · rename_i he
    exact KeepsPm.bind (KeepsPm.set (hu.setMem (wf_of_fst (wf_wrTry _ _ hu.mem) he)).mpCount) fun _ =>
      (KeepsPm.ite KeepsPm.throw KeepsPm.pure)

theorem keepsPm_pmBlock {b : Nat} : KeepsPm (pmBlock b) := by
  unfold Machine.pmBlock
  refine KeepsPm.get_bind fun _ hu => ?_
  split
  · rename_i he
    refine KeepsPm.bind (KeepsPm.set (hu.blockReplicas.fst he)) fun _ => ?_
    split
    · exact KeepsPm.pure
    · exact KeepsPm.throw
    · exact KeepsPm.throw

theorem Canon.pmStop {cx q code : Nat} (h : Canon s) : Canon (pmStop s cx q code).1 := by
  unfold Machine.pmStop
  split
  · exact h
  · exact h.mpFault

theorem Canon.takeRun {i n b : Nat} {t : State} (h : Canon s) (he : takeRun s i n = some (b, t)) : Canon t := by
  unfold Machine.takeRun at he
  split at he
  · cases he
  · cases he
    exact h.setPslot

theorem Canon.dropRun {i b : Nat} (h : Canon s) : Canon (dropRun s i b) := h.setPslot

theorem Canon.retireRun {i b epoch : Nat} (h : Canon s) : Canon (retireRun s i b epoch) := by
  unfold Machine.retireRun
  dsimp only
  split
  · exact h
  · exact h.dropRun.setPslot

theorem Canon.freeRetired {i : Nat} (h : Canon s) : Canon (freeRetired s i) := h.setPslot

theorem keepsPm_journal {k : JKind} {cx : Nat} {j : JRec} : KeepsPm (journal k cx j) :=
  KeepsPm.get_bind fun _ hu => (KeepsPm.ite KeepsPm.pure (KeepsPm.bind (KeepsPm.set (Canon.ite hu.of_tables.csrSet
    hu.of_tables)) fun _ => keepsPm_pmWrite))

theorem keepsPm_writeBlockEntry {p : PSlot} {E c e i epoch : Nat} {l : List (Nat × Nat)} :
    KeepsPm (writeBlockEntry p E c e i epoch l) :=
  KeepsPm.get_bind fun _ _ => (KeepsPm.ite keepsPm_pmWrite (keepsPm_pmWrite.bind fun _ => keepsPm_pmWrite))

theorem keepsPm_rewriteExpert {p : PSlot} {E e epoch : Nat} {f : Nat → List (Nat × Nat) → List (Nat × Nat)} :
    KeepsPm (rewriteExpert p E e epoch f) := by
  unfold Machine.rewriteExpert
  refine KeepsPm.forM (fun _ => ?_)
  split
  · exact keepsPm_pmBlock.bind fun _ => keepsPm_writeBlockEntry

theorem Canon.bumpGen (h : Canon s) : Canon (bumpGen s) := h.csrPut.of_tables

theorem Canon.sendMigr {cx dst : Nat} {x2 : MigrHdr} {data : List Byte} (h : Canon s) :
    Canon (sendMigr s cx dst x2 data) :=
  h.countC.send.pmcEvent

theorem Canon.staleMigr (h : Canon s) : Canon (staleMigr s) := h.countC

theorem keepsPm_readRecs {p : PSlot} {P E : Nat} : KeepsPm (readRecs p P E) :=
  KeepsPm.mapM (fun _ => (keepsPm_pmRead.bind fun _ => KeepsPm.pure))

theorem keepsPm_mapMembers {p : PSlot} {g E : Nat} : KeepsPm (mapMembers p g E) := by
  unfold Machine.mapMembers
  refine KeepsPm.mapM (fun _ => ?_)
  refine keepsPm_pmBlock.bind fun _ => ?_
  refine KeepsPm.mapM (fun _ => ?_)
  refine KeepsPm.get_bind fun _ hu => ?_
  split
  · rename_i he
    exact KeepsPm.bind (KeepsPm.set (hu.memberOf.fst he)) fun _ => KeepsPm.pure

theorem Canon.putDec {i : Nat} {d : Decision} (h : Canon s) : Canon (putDec s i d) := h.setPslot

theorem keepsPm_readPiece {p : PSlot} {e k : Nat} : KeepsPm (readPiece p e k) := by
  unfold Machine.readPiece
  dsimp only
  refine keepsPm_pmBlock.bind fun _ => ?_
  refine KeepsPm.get_bind fun _ hu => ?_
  split
  · exact KeepsPm.throw
  · exact keepsPm_pmRead.bind fun _ => KeepsPm.pure

theorem Canon.pushPieces {i fuel : Nat} {d : Decision} (h : Canon s) : Canon (pushPieces i fuel s d) := by
  induction fuel generalizing s d with
  | zero => exact h.putDec
  | succ fuel ih =>
    unfold Machine.pushPieces
    split
    · exact h.putDec
    · extract_lets p
      split
      · rename_i he
        have h1 := keepsPm_readPiece.snd h he
        exact (Canon.ite h1 h1.mpFault).putDec
      · rename_i he
        exact ih (keepsPm_readPiece.snd h he).sendMigr

theorem Canon.migrPump {i : Nat} (h : Canon s) : Canon (migrPump s i) := by
  unfold Machine.migrPump
  dsimp only
  refine h.foldl fun _ _ hu => ?_
  split
  · exact hu
  · exact hu.pushPieces

theorem keepsPm_switchOne {i E digest : Nat} {strict : Bool} {recs : List PRec} {d : Decision} :
    KeepsPm (switchOne i E digest strict recs d) := by
  unfold Machine.switchOne
  dsimp only
  refine KeepsPm.get_bind fun _ hu => ?_
  refine keepsPm_pmBlock.bind fun _ => ?_
  refine keepsPm_rewriteExpert.bind fun _ => ?_
  refine (keepsPm_pmDo (fun _ hu1 => ?_)).bind fun _ => keepsPm_journal
  refine (Canon.setPslot ?_).bumpGen
  split
  · split
    · split
      · exact hu1.csrSet.countC.tdcCount.retireRun
      · exact hu1.csrSet.countC.tdcCount
    · split
      · exact hu1.csrSet.countC.retireRun
      · exact hu1.csrSet.countC
  · split
    · exact hu1.csrSet.countC.tdcCount
    · exact hu1.csrSet.countC

theorem Canon.dropDec {i : Nat} {d : Decision} (h : Canon s) : Canon (dropDec s i d) := by
  unfold Machine.dropDec
  dsimp only
  refine Canon.countC ?_
  split
  · exact h.setPslot.dropRun
  · exact h.setPslot

theorem keepsPm_journalAll {cx : Nat} {l : List (JKind × JRec)} : KeepsPm (journalAll cx l) :=
  KeepsPm.forM (fun _ => keepsPm_journal)

theorem keepsPm_abandonAll {i : Nat} : KeepsPm (abandonAll i) :=
  KeepsPm.get_bind fun _ _ => ((keepsPm_pmDo (fun _ hu1 => hu1.foldl fun _ _ hu2 => hu2.dropDec)).bind fun _ =>
    keepsPm_journalAll)

theorem Canon.addDec {i : Nat} {d : Decision} (h : Canon s) : Canon (addDec s i d) := by
  unfold Machine.addDec
  dsimp only
  refine (Canon.countC ?_).setPslot
  split
  · split
    · rename_i he
      exact h
    · rename_i he
      exact h.takeRun he
  · exact h

theorem keepsPm_replayScan {p : PSlot} {g digest fuel k : Nat} : KeepsPm (replayScan p g digest fuel k) := by
  induction fuel generalizing k with
  | zero => exact KeepsPm.pure
  | succ fuel ih =>
    exact keepsPm_pmRead.bind fun _ => KeepsPm.ite ih (KeepsPm.ite KeepsPm.pure
      (KeepsPm.get.bind fun _ => ih.bind fun _ => KeepsPm.pure))

theorem keepsPm_replay {i g digest : Nat} {recs : List PRec} : KeepsPm (replay i g digest recs) :=
  KeepsPm.get_bind fun _ _ => (keepsPm_pmRead.bind fun _ => (keepsPm_replayScan.bind fun _ => ((keepsPm_pmDo (fun _
    hu1 => (Canon.ite hu1.countC hu1).setPslot)).bind fun _ => KeepsPm.pure)))

theorem keepsPm_decide_ {i g E digest : Nat} {recs : List PRec} : KeepsPm (decide_ i g E digest recs) :=
  KeepsPm.get_bind fun _ _ => (KeepsPm.ite keepsPm_replay (keepsPm_mapMembers.bind fun _ => KeepsPm.pure))

theorem keepsPm_stepWork {run : PlaceRun} {g E digest : Nat} {recs : List PRec} :
    KeepsPm (stepWork run g E digest recs) :=
  KeepsPm.get_bind fun _ _ => ((KeepsPm.forM (fun _ => keepsPm_switchOne)).bind fun _ => (KeepsPm.ite
    ((keepsPm_pmDo (fun _ hu1 => hu1.foldl fun _ _ hu2 => hu2.csrSet.dropDec)).bind fun _ => (keepsPm_decide_.bind
    fun _ => (KeepsPm.get_bind fun _ _ => ((keepsPm_pmDo (fun _ hu2 => (hu2.foldl fun _ _ hu3 =>
    hu3.csrSet.countC).foldl fun _ _ hu3 => hu3.addDec)).bind fun _ => (keepsPm_journalAll.bind fun _ =>
    (KeepsPm.get_bind fun _ _ => (keepsPm_journal.bind fun _ => ((keepsPm_pmDo (fun _ hu3 => hu3.setPslot)).bind
    fun _ => KeepsPm.pure)))))))) ((keepsPm_pmDo (fun _ hu1 => hu1.setPslot)).bind fun _ => ((keepsPm_pmDo (fun _
    hu1 => hu1.foldl fun _ _ hu2 => hu2.csrSet.dropDec)).bind fun _ => (keepsPm_decide_.bind fun _ =>
    (KeepsPm.get_bind fun _ _ => ((keepsPm_pmDo (fun _ hu2 => (hu2.foldl fun _ _ hu3 => hu3.csrSet.countC).foldl
    fun _ _ hu3 => hu3.addDec)).bind fun _ => (keepsPm_journalAll.bind fun _ => (KeepsPm.get_bind fun _ _ =>
    (keepsPm_journal.bind fun _ => ((keepsPm_pmDo (fun _ hu3 => hu3.setPslot)).bind fun _ =>
    KeepsPm.pure)))))))))))

theorem keepsPm_placeBody {run : PlaceRun} {g : Nat} : KeepsPm (placeBody run g) :=
  KeepsPm.get_bind fun _ _ => (keepsPm_readRecs.bind fun _ => (keepsPm_pmRead.bind fun _ => (KeepsPm.ite
    KeepsPm.pure (KeepsPm.ite ((keepsPm_pmDo (fun _ hu1 => hu1.setPslot)).bind fun _ => (keepsPm_journal.bind fun
    _ => KeepsPm.pure)) (keepsPm_stepWork.bind fun _ => KeepsPm.pure)))))

theorem Canon.dropPlace {q tag : Nat} (h : Canon s) : Canon (dropPlace s q tag) := by
  unfold Machine.dropPlace
  dsimp only
  split
  · exact h.of_tables
  · split
    · exact h.of_tables.setPslot
    · exact h.of_tables

theorem Canon.placeFin {g : Nat} {o : CollOp} (h : Canon s) : Canon (placeFin s g o) := by
  unfold Machine.placeFin
  split
  · exact h.endColl
  · split
    · rename_i he
      exact (keepsPm_placeBody.snd h he).dropPlace.endColl.migrPump
    · rename_i he
      split
      · rename_i he1
        exact ((keepsPm_placeBody.snd h he).pmStop.fst he1).dropPlace.endColl

theorem Canon.placeQuit {run : PlaceRun} {status detail : Nat} (h : Canon s) :
    Canon (placeQuit s run status detail) :=
  h.dropPlace.finish

theorem Canon.putPlace {r : PlaceRun} (h : Canon s) : Canon (putPlace s r) := h.of_tables

theorem Canon.placeExchange {run : PlaceRun} (h : Canon s) : Canon (placeExchange s run) := by
  unfold Machine.placeExchange
  dsimp only
  split
  · rename_i he
    exact (keepsPm_pmWrite.snd h he).pmStop.placeQuit
  · rename_i he
    exact (keepsPm_pmWrite.snd h he).putPlace.startColl (fun _ _ _ hu => hu.placeFin)

theorem Canon.placeGo {run : PlaceRun} (h : Canon s) : Canon (placeGo s run) := by
  unfold Machine.placeGo
  dsimp only
  split
  · exact h.putPlace
  · exact h.putPlace.placeExchange

theorem Canon.placeResume {i : Nat} (h : Canon s) : Canon (placeResume s i) := h.foldl fun _ _ hu => hu.placeGo

theorem keepsPm_loadPolicy {i a : Nat} : KeepsPm (loadPolicy i a) :=
  keepsPm_pmRead.bind fun _ => keepsPm_pmDo (fun _ hu => hu.setPslot)

theorem Canon.sampleSteps {i E : Nat} (h : Canon s) : Canon (sampleSteps s i E) := h.setPslot

theorem Canon.placeStepWork {c : Cmd} (h : Canon s) : Canon (placeStepWork c s).st := by
  unfold Machine.placeStepWork
  dsimp only
  split
  · exact h.doneWith
  · split
    · exact h.doneWith
    · split
      · exact h.doneWith
      · refine (Canon.ite h.freeRetired.sampleSteps.setCmd h).withSlots (fun _ => ?_)
        split
        · rename_i he
          exact ((KeepsPm.ite KeepsPm.pure keepsPm_loadPolicy).snd (Canon.ite h.freeRetired.sampleSteps.setCmd h)
            he).pmStop.doneWith
        · rename_i he
          exact ((KeepsPm.ite KeepsPm.pure keepsPm_loadPolicy).snd (Canon.ite h.freeRetired.sampleSteps.setCmd h)
            he).placeGo

theorem Canon.placeEnrolWork {c : Cmd} (h : Canon s) : Canon (placeEnrolWork c s).st := by
  unfold Machine.placeEnrolWork
  split
  · exact h.doneWith
  · exact h.doneWith
  · exact h.doneWith
  · refine h.withSlots (fun _ => ?_)
    split
    · rename_i he
      split
      · rename_i he1
        exact ((keepsPm_loadPolicy.snd h.setPslot he).setPslot.pmStop.fst he1).doneWith
    · rename_i he
      exact (keepsPm_loadPolicy.snd h.setPslot he).placeGo

theorem keepsPm_leaveSlot {i : Nat} : KeepsPm (leaveSlot i) :=
  keepsPm_abandonAll.bind fun _ => keepsPm_pmDo (fun _ hu => hu.setPslot)

theorem Canon.placeLeaveWork {c : Cmd} (h : Canon s) : Canon (placeLeaveWork c s).st := by
  unfold Machine.placeLeaveWork
  dsimp only
  split
  · exact h.doneWith
  · split
    · exact h.doneWith
    · refine h.withSlots (fun _ => ?_)
      split
      · rename_i he
        exact (keepsPm_leaveSlot.snd h he).doneWith
      · rename_i he
        exact (keepsPm_leaveSlot.snd h he).pmStop.doneWith

theorem Canon.migrateStop {cx q tag code result : Nat} (h : Canon s) :
    Canon (migrateStop s cx q tag code result) := by
  unfold Machine.migrateStop
  split
  · rename_i he
    exact (h.pmStop.fst he).finish

theorem Canon.setGsum {x : Option Gsum} (h : Canon s) : Canon (setGsum s x) := h.of_tables

theorem Canon.gsumEnd {x : Gsum} {status detail : Nat} (h : Canon s) : Canon (gsumEnd s x status detail) :=
  h.setGsum.finish

theorem Canon.gsumLess (h : Canon s) : Canon (gsumLess s) := by
  unfold Machine.gsumLess
  dsimp only
  split
  · exact h
  · split
    · exact h.gsumEnd
    · exact h.setGsum

theorem Canon.sendGsum {x : Gsum} {op chip b k r : Nat} {data : List Byte} (h : Canon s) :
    Canon (sendGsum s x op chip b k r data) := by
  unfold Machine.sendGsum
  dsimp only
  refine Canon.sendMigr ?_
  split
  · exact h.setGsum
  · exact h

theorem keepsPm_gsumNext : KeepsPm (gsumNext ) := by
  unfold Machine.gsumNext
  dsimp only
  refine KeepsPm.get_bind fun _ hu => ?_
  split
  · exact KeepsPm.pure
  · split
    · exact KeepsPm.pure
    · refine keepsPm_pmBlock.bind fun _ => ?_
      refine KeepsPm.get_bind fun _ hu1 => ?_
      split
      · exact KeepsPm.throw
      · exact keepsPm_pmRead.bind fun _ => keepsPm_pmDo (fun _ hu2 => hu2.setGsum.sendGsum)

theorem keepsPm_gsumParts {p : PSlot} {E : Nat} : KeepsPm (gsumParts p E) := by
  unfold Machine.gsumParts
  dsimp only
  refine KeepsPm.foldlM fun _ _ => ?_
  refine keepsPm_pmBlock.bind fun _ => ?_
  refine KeepsPm.get_bind fun _ hu => ?_
  split
  · exact KeepsPm.pure
  · split
    · exact KeepsPm.pure
    · exact KeepsPm.pure

theorem Canon.gsumWork {c : Cmd} (h : Canon s) : Canon (gsumWork c s).st := by
  unfold Machine.gsumWork
  dsimp only
  split
  · exact h.doneWith
  · exact h.doneWith
  · split
    · exact h.doneWith
    · refine h.withSlots (fun _ => ?_)
      split
      · rename_i he
        exact (keepsPm_gsumParts.snd h he).pmStop.doneWith
      · rename_i he
        exact (keepsPm_gsumParts.snd h he).doneWith
      · rename_i he
        split
        · rename_i he1
          exact (keepsPm_gsumNext.snd (keepsPm_gsumParts.snd h he).setGsum he1).setGsum.pmStop.doneWith
        · rename_i he1
          exact keepsPm_gsumNext.snd (keepsPm_gsumParts.snd h he).setGsum he1

theorem keepsPm_gsumRed {x : Gsum} {x1 : MigrHdr} {data : List Byte} : KeepsPm (gsumRed x x1 data) := by
  unfold Machine.gsumRed
  dsimp only
  refine KeepsPm.get_bind fun _ hu => ?_
  refine keepsPm_pmBlock.bind fun _ => ?_
  refine KeepsPm.get_bind fun _ hu1 => ?_
  split
  · exact KeepsPm.throw
  · refine keepsPm_pmRead.bind fun _ => ?_
    split
    · exact (keepsPm_pmDo (fun _ hu2 => hu2.addTally)).bind fun _ => (KeepsPm.ite (keepsPm_pmDo (fun _ hu2 =>
        hu2.sendGsum)) (keepsPm_pmWrite.bind fun _ => keepsPm_pmDo (fun _ hu2 => (hu2.foldl fun _ _ hu3 =>
        hu3.sendGsum).gsumLess)))

theorem keepsPm_gsumBc {x0 : MigrHdr} {data : List Byte} : KeepsPm (gsumBc x0 data) := by
  unfold Machine.gsumBc
  refine keepsPm_pmBlock.bind fun _ => ?_
  refine KeepsPm.get_bind fun _ hu => ?_
  split
  · exact KeepsPm.throw
  · exact keepsPm_pmWrite.bind fun _ => ((keepsPm_pmDo (fun _ hu1 => hu1.gsumLess)).bind fun _ => (KeepsPm.ite
      keepsPm_gsumNext KeepsPm.pure))

theorem Canon.gsumMessage {res : Residue} (h : Canon s) : Canon (gsumMessage res s) := by
  unfold Machine.gsumMessage
  dsimp only
  split
  · rename_i he
    exact h
  · rename_i he
    split
    · exact (h.takeMsg he).staleMigr
    · split
      · exact (h.takeMsg he).staleMigr
      · refine Canon.ite ?_ ?_
        · exact (h.takeMsg he).countC.countC.csrSet.raiseFault.gsumEnd
        · split
          · rename_i he1
            exact (KeepsPm.ite keepsPm_gsumRed keepsPm_gsumBc).snd (h.takeMsg he).countC he1
          · rename_i he1
            exact ((KeepsPm.ite keepsPm_gsumRed keepsPm_gsumBc).snd (h.takeMsg he).countC he1).setGsum.migrateStop

theorem Canon.setList {x : Option ListRun} (h : Canon s) : Canon (setList s x) := h.of_tables

theorem Canon.listEnd {x : ListRun} {status detail : Nat} (h : Canon s) : Canon (listEnd s x status detail) :=
  h.setList.finish

theorem Canon.listPump {fuel : Nat} (h : Canon s) : Canon (listPump fuel s) := by
  induction fuel generalizing s with
  | zero => exact h
  | succ fuel ih =>
    unfold Machine.listPump
    split
    · exact h
    · split
      · exact Canon.ite h.listEnd h
      · split
        · exact h
        · split
          · rename_i he
            exact (keepsPm_pmRead.snd h he).setList.migrateStop
          · rename_i he
            exact ih (keepsPm_pmRead.snd h he).setList.sendMigr

theorem keepsPm_readList {a : Nat} : KeepsPm (readList a) :=
  keepsPm_pmRead.bind fun _ => ((KeepsPm.mapM (fun _ => (keepsPm_pmRead.bind fun _ => (KeepsPm.get_bind fun _ _ =>
    (KeepsPm.ite KeepsPm.pure KeepsPm.pure))))).bind fun _ => KeepsPm.pure)

theorem Canon.listWork {c : Cmd} (h : Canon s) : Canon (listWork c s).st := by
  unfold Machine.listWork
  split
  · exact h.doneWith
  · refine h.withSlots (fun _ => ?_)
    split
    · rename_i he
      split
      · rename_i he1
        exact ((keepsPm_readList.snd h he).pmStop.fst he1).doneWith
    · rename_i he
      split
      · exact (keepsPm_readList.snd h he).doneWith
      · exact (keepsPm_readList.snd h he).setList.listPump

theorem Canon.listMessage (h : Canon s) : Canon (listMessage s) := by
  unfold Machine.listMessage
  dsimp only
  split
  · rename_i he
    exact h
  · rename_i he
    split
    · rename_i he1
      exact (keepsPm_pmWrite.snd (h.takeMsg he) he1).send
    · rename_i he1
      split
      · split
        · exact (keepsPm_pmWrite.snd (h.takeMsg he) he1).setList.migrateStop
        · exact (keepsPm_pmWrite.snd (h.takeMsg he) he1).mpFault
      · exact (keepsPm_pmWrite.snd (h.takeMsg he) he1).mpFault

theorem Canon.listAck {data : List Byte} (h : Canon s) : Canon (listAck s data) := by
  unfold Machine.listAck
  split
  · exact h.staleMigr
  · exact h.setList.listPump

theorem Canon.setMembers {x : Option MembersSt} (h : Canon s) : Canon (setMembers s x) := h.of_tables

theorem keepsPm_membersStart {g : Nat} : KeepsPm (membersStart g) := by
  unfold Machine.membersStart
  refine KeepsPm.get_bind fun _ hu => ?_
  refine (keepsPm_pmDo (fun _ hu1 => hu1.foldl fun _ _ hu2 => hu2.foldl fun _ _ hu3 => hu3.endUse)).bind fun _ => ?_
  refine KeepsPm.forM (fun _ => ?_)
  split
  · exact KeepsPm.pure
  · exact keepsPm_abandonAll

theorem keepsPm_drainCtx {x : MembersSt} {i : Nat} : KeepsPm (drainCtx x i) := by
  unfold Machine.drainCtx
  dsimp only
  refine KeepsPm.get_bind fun _ hu => ?_
  refine keepsPm_readRecs.bind fun _ => ?_
  refine keepsPm_mapMembers.bind fun _ => ?_
  refine (KeepsPm.foldlM fun _ _ => ?_).bind fun _ => KeepsPm.pure
  split
  · exact KeepsPm.pure
  · split
    · exact KeepsPm.throw
    · exact KeepsPm.pure

theorem keepsPm_drainRuns {l : List Drain} : KeepsPm (drainRuns l) := by
  induction l with
  | nil => exact KeepsPm.pure
  | cons d rest ih =>
    refine KeepsPm.get_bind fun u hu => ?_
    split
    · exact KeepsPm.throw
    · split
      · split
        · exact KeepsPm.throw
        · rename_i he
          exact KeepsPm.bind (KeepsPm.set (hu.takeRun he)) fun _ => ih.bind fun _ => KeepsPm.pure
      · exact ih.bind fun _ => KeepsPm.pure

theorem keepsPm_drainPlan {x : MembersSt} : KeepsPm (drainPlan x) := by
  unfold Machine.drainPlan
  dsimp only
  refine KeepsPm.get_bind fun _ hu => ?_
  split
  · exact KeepsPm.pure
  · refine (KeepsPm.mapM (fun _ => ?_)).bind fun _ =>
      (keepsPm_drainRuns.bind fun _ => (KeepsPm.get_bind fun _ hu1 => KeepsPm.pure))
    split
    · exact KeepsPm.pure
    · exact keepsPm_drainCtx

theorem Canon.bumpEpochs {g : Nat} (h : Canon s) : Canon (bumpEpochs s g) := h.foldl fun _ _ hu => hu.setCtx

theorem Canon.suspendSlots {g : Nat} (h : Canon s) : Canon (suspendSlots s g) := by
  unfold Machine.suspendSlots
  dsimp only
  refine h.foldl fun _ _ hu => ?_
  split
  · exact hu
  · exact hu.setPslot

theorem keepsPm_membersRecords {cs : List Nat} : KeepsPm (membersRecords cs) := by
  unfold Machine.membersRecords
  refine KeepsPm.forM (fun _ => ?_)
  refine KeepsPm.get_bind fun _ hu => ?_
  split
  · exact KeepsPm.pure
  · exact keepsPm_journal

theorem Canon.membersDone {x : MembersSt} (h : Canon s) : Canon (membersDone s x) := h.setMembers.csrSet.finish

theorem Canon.membersQuit {x : MembersSt} {code : Nat} (h : Canon s) : Canon (membersQuit s x code) := by
  unfold Machine.membersQuit
  split
  · rename_i he
    exact (h.pmStop.fst he).setMembers.finish

theorem keepsPm_blockState {b : Nat} : KeepsPm (blockState b) :=
  KeepsPm.get_bind fun _ _ => (keepsPm_pmRead.bind fun _ => (KeepsPm.ite (KeepsPm.pure.bind fun _ => KeepsPm.pure)
    (keepsPm_pmRead.bind fun _ => KeepsPm.pure)))

theorem keepsPm_stateData {c total : Nat} : KeepsPm (stateData c total) := by
  unfold Machine.stateData
  dsimp only
  refine KeepsPm.get_bind fun _ hu => ?_
  split
  · exact KeepsPm.pure
  · exact (KeepsPm.mapM (fun _ => keepsPm_blockState)).bind fun _ => KeepsPm.pure

theorem keepsPm_sendStates {x : MembersSt} : KeepsPm (sendStates x) :=
  KeepsPm.get_bind fun _ _ => (KeepsPm.ite KeepsPm.pure (KeepsPm.ite (KeepsPm.pure.bind fun _ => (KeepsPm.forM (fun
    _ => (KeepsPm.forM (fun _ => keepsPm_pmDo (fun _ hu1 => hu1.sendMigr)))))) ((KeepsPm.mapM (fun _ =>
    keepsPm_stateData)).bind fun _ => (KeepsPm.forM (fun _ => (KeepsPm.forM (fun _ => keepsPm_pmDo (fun _ hu1 =>
    hu1.sendMigr))))))))

theorem keepsPm_loadBlocks {p : PSlot} {E : Nat} {l : List (Nat × Nat × Nat)} {b : List Byte} :
    KeepsPm (loadBlocks p E l b) := by
  induction l generalizing b with
  | nil => exact KeepsPm.pure
  | cons x rest ih =>
    exact KeepsPm.get.bind fun _ => keepsPm_pmWrite.bind fun _ =>
      KeepsPm.ite (KeepsPm.pure.bind fun _ => ih) (keepsPm_pmWrite.bind fun _ => ih)

theorem keepsPm_loadState {d : List Byte} : KeepsPm (loadState d) := by
  unfold Machine.loadState
  dsimp only
  refine KeepsPm.get_bind fun _ hu => ?_
  split
  · exact KeepsPm.pure
  · split
    · exact KeepsPm.pure
    · exact keepsPm_loadBlocks.bind fun _ => keepsPm_pmDo (fun _ hu1 => hu1.setPslot.bumpGen)

theorem Canon.regroup {x : MembersSt} (h : Canon s) : Canon (regroup s x) := h.disableGroup.csrPut.enableGroup

theorem keepsPm_entriesCrc {p : PSlot} {E : Nat} : KeepsPm (entriesCrc p E) := by
  unfold Machine.entriesCrc
  refine (KeepsPm.mapM (fun _ => ?_)).bind fun _ => KeepsPm.pure
  split
  · exact KeepsPm.get_bind fun _ hu => keepsPm_pmRead

theorem keepsPm_mbrHead {c : Nat} : KeepsPm (mbrHead c) :=
  KeepsPm.get_bind fun _ _ => (KeepsPm.ite (keepsPm_entriesCrc.bind fun _ => KeepsPm.pure) (KeepsPm.pure.bind fun _
    => KeepsPm.pure))

theorem keepsPm_mbrRecord {x : MembersSt} {c : Nat} : KeepsPm (mbrRecord x c) :=
  keepsPm_mbrHead.bind fun _ => (KeepsPm.get_bind fun _ _ => KeepsPm.pure)

theorem keepsPm_restoreOne {c i e : Nat} {dst : Nat × Nat} : KeepsPm (restoreOne c i e dst) :=
  (keepsPm_pmDo (fun _ hu => Canon.ite (hu.csrSet.countC.setMem (wf_wrFree _ _ hu.csrSet.countC.mem))
    hu.csrSet.countC)).bind fun _ => (KeepsPm.get_bind fun _ _ => keepsPm_journal)

theorem keepsPm_applyDrain {x : MembersSt} {c i : Nat} {recs : List (List Nat)} :
    KeepsPm (applyDrain x c i recs) := by
  unfold Machine.applyDrain
  dsimp only
  refine KeepsPm.get_bind fun _ hu => ?_
  refine (KeepsPm.foldlM fun _ _ => ?_).bind fun _ =>
    ((keepsPm_pmDo (fun _ hu1 => hu1.setPslot)).bind fun _ => KeepsPm.pure)
  refine keepsPm_pmBlock.bind fun _ => ?_
  split
  · exact KeepsPm.pure
  · refine keepsPm_rewriteExpert.bind fun _ => ?_
    refine (keepsPm_pmDo (fun _ hu1 => hu1.bumpGen.csrSet)).bind fun _ => ?_
    split
    · exact keepsPm_restoreOne.bind fun _ => KeepsPm.pure
    · exact KeepsPm.pure

theorem keepsPm_membersBody {x : MembersSt} {c : Nat} : KeepsPm (membersBody x c) := by
  unfold Machine.membersBody
  dsimp only
  refine KeepsPm.get_bind fun _ hu => ?_
  refine (KeepsPm.mapM (fun _ => keepsPm_pmRead)).bind fun _ => ?_
  split
  · exact KeepsPm.pure
  · split
    · exact KeepsPm.pure
    · exact keepsPm_applyDrain.bind fun _ => (keepsPm_membersRecords.bind fun _ => KeepsPm.pure)

theorem Canon.closeColl {g : Nat} {o : CollOp} (h : Canon s) : Canon (closeColl s g o) := h.setGrp

theorem Canon.membersExchange {fin : State → Nat → CollOp → State} {x : MembersSt} (h : Canon s)
    (hfin : ∀ u a1 a2, Canon u → Canon (fin u a1 a2)) :
    Canon (membersExchange fin s x) := by
  unfold Machine.membersExchange
  dsimp only
  split
  · exact h
  · split
    · rename_i he
      exact ((keepsPm_mbrRecord.bind fun _ => (keepsPm_pmWrite.bind fun _ => KeepsPm.pure)).snd h he).membersQuit
    · rename_i he
      exact ((keepsPm_mbrRecord.bind fun _ => (keepsPm_pmWrite.bind fun _ => KeepsPm.pure)).snd h
        he).setMembers.startColl hfin

theorem Canon.membersFin {fuel g : Nat} {o : CollOp} (h : Canon s) : Canon (membersFin fuel s g o) := by
  induction fuel generalizing s g o with
  | zero => exact h
  | succ fuel ih =>
    unfold Machine.membersFin
    split
    · exact h.endColl
    · split
      · exact h.endColl
      · split
        · rename_i he
          split
          next he1 => exact ((keepsPm_membersBody.snd h he).pmStop.fst he1).setMembers.endColl
        · rename_i he
          exact (keepsPm_membersBody.snd h he).suspendSlots.setMembers.endColl
        · rename_i he
          have h1 := keepsPm_membersBody.snd h he
          extract_lets
          split
          · exact h1.bumpEpochs.setMembers.csrSet.endColl
          · exact h1.closeColl.setMembers.membersExchange fun _ _ _ hu => ih hu

theorem Canon.membersEnd {g : Nat} {o : CollOp} (h : Canon s) : Canon (membersEnd s g o) := h.membersFin

theorem Canon.drainPush {fuel : Nat} {x : MembersSt} (h : Canon s) : Canon (drainPush fuel s x).2 := by
  induction fuel generalizing s x with
  | zero => exact h
  | succ fuel ih =>
    unfold Machine.drainPush
    split
    · exact h
    · split
      · exact h
      · have hread : ∀ (o : Option (Nat × Nat)) (j : Nat), KeepsPm (match o with
            | none => throw pmUnmapped
            | some (_, a) => pmRead (a + j * pieceBytes) pieceBytes : Pm (List Byte)) := by
          intro o j
          split
          · exact KeepsPm.throw
          · exact keepsPm_pmRead
        split
        · rename_i he
          exact (keepsPm_pmBlock.bind fun _ => KeepsPm.get.bind fun _ => hread _ _).snd h he
        · rename_i he
          exact ih ((keepsPm_pmBlock.bind fun _ => KeepsPm.get.bind fun _ => hread _ _).snd h he).sendMigr

theorem Canon.departNow {x : MembersSt} (h : Canon s) : Canon (departNow s x) := by
  unfold Machine.departNow
  split
  · rename_i he
    exact (keepsPm_membersRecords.snd h he).membersQuit
  · rename_i he
    exact (keepsPm_membersRecords.snd h he).disableGroup.bumpEpochs.suspendSlots.membersDone

theorem Canon.membersRegroup {x : MembersSt} (h : Canon s) : Canon (membersRegroup s x) :=
  (Canon.ite h.regroup h).setMembers.membersExchange (fun _ _ _ hu => hu.membersEnd)

theorem Canon.membersGo {x : MembersSt} (h : Canon s) : Canon (membersGo s x) := by
  unfold Machine.membersGo
  split
  · exact h.setMembers
  · split
    · split
      · rename_i he
        exact (h.drainPush.snd he).membersQuit
      · rename_i he
        split
        · exact (h.drainPush.snd he).departNow
        · exact (h.drainPush.snd he).setMembers
    · split
      · exact h.setMembers
      · split
        · split
          · rename_i he
            exact (keepsPm_sendStates.snd h he).membersQuit
          · rename_i he
            exact (keepsPm_sendStates.snd h he).membersRegroup
        · exact h.membersRegroup
    · split
      · exact h.setMembers
      · exact h.membersRegroup

theorem Canon.membersWork {c : Cmd} (h : Canon s) : Canon (membersWork c s).st := by
  unfold Machine.membersWork
  dsimp only
  refine h.withSlots (fun _ => ?_)
  split
  · rename_i he
    exact (keepsPm_pmRead.snd h he).pmStop.doneWith
  · rename_i he
    split
    · exact (keepsPm_pmRead.snd h he).doneWith
    · split
      · exact (keepsPm_pmRead.snd h he).membersGo
      · split
        · exact (keepsPm_pmRead.snd h he).doneWith
        · split
          · rename_i he1
            exact ((keepsPm_membersStart.bind fun _ => keepsPm_drainPlan).snd (keepsPm_pmRead.snd h he)
              he1).membersGo
          · rename_i he1
            split
            · exact (keepsPm_pmRead.snd h he).doneWith
            · exact ((keepsPm_membersStart.bind fun _ => keepsPm_drainPlan).snd (keepsPm_pmRead.snd h he)
                he1).pmStop.doneWith

theorem Canon.ackPiece {m : Msg} (h : Canon s) : Canon (ackPiece s m) := h.send

theorem Canon.copyForDec {m : Msg} {d : Decision} (h : Canon s) : Canon (copyForDec s m d) := by
  unfold Machine.copyForDec
  dsimp only
  split
  · split
    · rename_i he
      exact (keepsPm_pmWrite.snd h he).mpFault.putDec.placeResume
    · rename_i he
      split
      · exact (keepsPm_pmWrite.snd h he).putDec.ackPiece.placeResume
      · exact (keepsPm_pmWrite.snd h he).putDec.ackPiece
  · exact h.staleMigr

theorem Canon.copyForDrain {m : Msg} (h : Canon s) : Canon (copyForDrain s m) := by
  unfold Machine.copyForDrain
  dsimp only
  split
  · exact h.staleMigr
  · split
    · exact h.staleMigr
    · split
      · split
        · exact h.staleMigr
        · split
          · rename_i he
            exact (keepsPm_pmWrite.snd h he).membersQuit
          · rename_i he
            exact (keepsPm_pmWrite.snd h he).ackPiece.membersGo
      · exact h.staleMigr

theorem Canon.copyPiece (h : Canon s) : Canon (copyPiece s) := by
  unfold Machine.copyPiece
  split
  · rename_i he
    exact h
  · rename_i he
    split
    · exact (h.takeMsg he).copyForDec
    · exact (h.takeMsg he).copyForDrain

theorem Canon.migrAck (h : Canon s) : Canon (migrAck s) := by
  unfold Machine.migrAck
  dsimp only
  split
  · rename_i he
    exact h
  · rename_i he
    split
    · exact (h.takeMsg he).listAck
    · split
      · split
        · exact (h.takeMsg he).putDec.setPslot.migrPump.placeResume
        · exact (h.takeMsg he).putDec.setPslot.migrPump
      · split
        · split
          · exact (h.takeMsg he).membersGo
          · exact (h.takeMsg he).staleMigr
        · exact (h.takeMsg he).staleMigr

theorem Canon.migrState (h : Canon s) : Canon (migrState s) := by
  unfold Machine.migrState
  dsimp only
  split
  · exact h
  · split
    · exact h
    · split
      · rename_i he
        exact h
      · rename_i he
        split
        · rename_i he1
          exact (keepsPm_loadState.snd (h.takeMsg he) he1).membersQuit
        · rename_i he1
          exact (keepsPm_loadState.snd (h.takeMsg he) he1).membersGo

theorem Canon.unreachKind {kind dst w : Nat} (h : Canon s) : Canon (unreachKind s kind dst w) := by
  unfold Machine.unreachKind
  dsimp only
  split
  · split
    · exact h
    · exact h.dpAnswer.dpPump
  · split
    · split
      · split
        · exact h
        · exact h.putDec.placeResume
      · split
        · split
          · exact h
          · exact h.listEnd
        · exact h
    · exact h

theorem Canon.unreachReceive (h : Canon s) : Canon (unreachReceive s) := by
  unfold Machine.unreachReceive
  dsimp only
  split
  · rename_i he
    exact h
  · rename_i he
    exact (h.takeMsg he).unreachKind.reportUnreach

theorem Canon.finAll {g : Nat} {o : CollOp} (h : Canon s) : Canon (finAll s g o) := by
  unfold Machine.finAll
  split
  · exact h.placeFin
  · split
    · exact h.membersEnd
    · exact h.collDone

end

end Sys2Proof.Machine
end

section
/-! The management firmware keeps every table canonical (chapter 14). -/

namespace Sys2Proof.Machine

-- One proof at a time: hundreds of short ones side by side take more threads than the check has memory for.
set_option Elab.async false

section
variable {s : State}

theorem Canon.flushOne (h : Canon s) : Canon (flushOne s) := by
  unfold Machine.flushOne
  dsimp only
  split
  · exact h
  · split
    · exact (h.of_tables.setMem (wf_wrTry _ _ h.mem)).mpCount.countC.raiseFault
    · exact (h.of_tables.setMem (wf_wrTry _ _ h.mem)).mpCount

theorem Canon.flushMany {k : Nat} (h : Canon s) : Canon (flushMany k s) := by
  induction k generalizing s with
  | zero => exact h
  | succ k ih => exact ih h.flushOne

theorem Canon.flushAll (h : Canon s) : Canon (flushAll s) := by
  unfold Machine.flushAll
  split
  · exact h.flushMany
  · exact h

theorem Canon.aclkFall (h : Canon s) : Canon (aclkFall s) := by
  unfold Machine.aclkFall
  dsimp only
  split
  · exact h.of_tables.countF
  · exact h

theorem Canon.aclkRise (h : Canon s) : Canon (aclkRise s) := by
  unfold Machine.aclkRise
  dsimp only
  split
  · exact h.of_tables
  · exact h

theorem Canon.targetDown (h : Canon s) : Canon (targetDown s) := h.of_tables.aclkFall

theorem Canon.takeOffsets (h : Canon s) : Canon (takeOffsets s) := h.of_tables

theorem Canon.takeReadings {temps volts : List ℤ} (h : Canon s) : Canon (takeReadings temps volts s) := h.of_tables

theorem Canon.thermalTest (h : Canon s) : Canon (thermalTest s) := by
  unfold Machine.thermalTest
  dsimp only
  split
  · split
    · exact h.of_tables.logEntry
    · exact h.faultBit
  · split
    · exact h.of_tables.raiseFault.targetDown
    · exact h

theorem Canon.tripTest (h : Canon s) : Canon (tripTest s) := by
  unfold Machine.tripTest
  dsimp only
  split
  · exact (Canon.ite h h.logEntry.flushAll).faultBit.faultBit.of_tables
  · exact h.of_tables

theorem Canon.sramTest (h : Canon s) : Canon (sramTest s) := by
  unfold Machine.sramTest
  dsimp only
  split
  · exact h.of_tables
  · exact (Canon.ite h h.logEntry).faultBit.of_tables

theorem Canon.sensorSample {temps volts : List ℤ} (h : Canon s) : Canon (sensorSample temps volts s) :=
  h.takeOffsets.takeReadings.thermalTest.tripTest.sramTest

theorem Canon.thermalDown (h : Canon s) : Canon (thermalDown s) := by
  unfold Machine.thermalDown
  split
  · exact h.targetDown
  · exact h

theorem Canon.thermalUp (h : Canon s) : Canon (thermalUp s) := by
  unfold Machine.thermalUp
  dsimp only
  split
  · exact h.of_tables
  · exact h

theorem Canon.droopAlarm {sensor : Nat} (h : Canon s) : Canon (droopAlarm sensor s) := by
  unfold Machine.droopAlarm
  dsimp only
  split
  · exact h.of_tables.raiseFault.aclkFall
  · exact h

theorem Canon.droopClear (h : Canon s) : Canon (droopClear s) := by
  unfold Machine.droopClear
  dsimp only
  split
  · exact h.of_tables.logEntry
  · exact h

theorem Canon.ceWindow (h : Canon s) : Canon (ceWindow s) := by
  unfold Machine.ceWindow
  dsimp only
  split
  · exact h.of_tables.raiseFault.countC
  · exact h.of_tables

theorem Canon.restarting (h : Canon s) :
    Canon { s with mgt := { s.mgt with restarting := true, tTarget := min 4 s.mgt.tTarget } } := h.of_tables

theorem Canon.watchdog (h : Canon s) : Canon (watchdog s) := by
  unfold Machine.watchdog
  exact h.of_tables.countC.raiseFault.restarting.aclkFall

theorem Canon.failedFatal (h : Canon s) : Canon
    { s with mgt := { s.mgt with alertFatal := true }, glb := { s.glb with bootCode := 0x01 } } := h.of_tables

theorem Canon.restartDone (h : Canon s) : Canon (restartDone s) := by
  unfold Machine.restartDone
  dsimp only
  split
  · exact h
  · split
    · exact h.of_tables
    · exact h.of_tables.logEntry.flushAll.faultBit.failedFatal.setBoot

theorem Canon.setUpd {x : Nat} (h : Canon s) : Canon (setUpd s x) := by
  unfold Machine.setUpd
  dsimp only
  split
  · exact h
  · exact h.of_tables.csrSet

theorem Canon.updFail {code : Nat} (h : Canon s) : Canon (updFail s code) := h.of_tables.setUpd

theorem Canon.updLoad (h : Canon s) : Canon (updLoad s) := by
  unfold Machine.updLoad
  dsimp only
  split
  · exact h.csrSet
  · exact h.of_tables.setUpd

theorem swf_append {α : Type} [DecidableEq α] {d : Nat → α} {l r : List (Nat × α)} (hl : swf d l = true)
    (hr : swf d r = true) (h : ∀ p ∈ l, ∀ q ∈ r, p.1 < q.1) : swf d (l ++ r) = true := by
  obtain ⟨hl1, hl2⟩ := swf_iff.mp hl
  obtain ⟨hr1, hr2⟩ := swf_iff.mp hr
  exact swf_iff.mpr ⟨List.pairwise_append.mpr ⟨hl1, hr1, h⟩, fun p hp => (List.mem_append.mp hp).elim (hl2 p) (hr2 p)⟩

theorem swf_sparseOf (l : List Byte) : swf (fun _ => 0#8) (sparseOf l) = true := by
  have hkeys : ((List.range l.length).zip l).Pairwise fun p q => p.1 < q.1 := by
    rw [← List.pairwise_map (f := Prod.fst), List.map_fst_zip (by simp)]
    exact List.pairwise_lt_range
  exact swf_iff.mpr ⟨hkeys.filter _, fun p hp => by simpa using (List.mem_filter.mp hp).2⟩

theorem key_lt_of_mem_sparseOf {l : List Byte} {p : Nat × Byte} (h : p ∈ sparseOf l) : p.1 < l.length :=
  List.mem_range.mp (List.of_mem_zip (List.mem_of_mem_filter h)).1

theorem length_rdBytes (m : HostMem) (a n : Nat) : (rdBytes m a n).length = n := by
  induction n generalizing a with
  | zero => rfl
  | succ n ih => rw [rdBytes, List.length_cons, ih]

theorem Canon.staged (h : Canon s) {l : List Byte} :
    Canon { s with mgt := { s.mgt with
      staging := sparseOf l ++ s.mgt.staging.filter (fun p => Decidable.decide (l.length ≤ p.1)), committed := none } } := by
  refine { h with staging := swf_append (swf_sparseOf l) (swf_filter _ h.staging) fun p hp q hq => ?_ }
  exact lt_of_lt_of_le (key_lt_of_mem_sparseOf hp) (of_decide_eq_true (List.mem_filter.mp hq).2)

theorem eq_sparseOf_of_fetchImage {a : Nat} {m : List (Nat × Byte)} (h : fetchImage s a = some m) :
    m = sparseOf (rdBytes s.mem a (max 256 (min stagingSize (leNat (rdBytes s.mem (a + 4) 4))))) := by
  unfold fetchImage at h
  rw [Option.ite_none_left_eq_some] at h
  obtain ⟨-, h⟩ := h
  rw [Option.ite_none_left_eq_some] at h
  exact (Option.some.inj h.2).symm

theorem Canon.updLoaded (h : Canon s) : Canon (updLoaded s) := by
  unfold Machine.updLoaded
  dsimp only
  split
  · exact h
  · split
    · exact h.updFail
    next m hm =>
      have hst := h.staged (l := rdBytes s.mem (csrField s 0xD0008 6 36 * 64) (max 256
        (min stagingSize (leNat (rdBytes s.mem (csrField s 0xD0008 6 36 * 64 + 4) 4)))))
      rw [length_rdBytes, ← eq_sparseOf_of_fetchImage hm] at hst
      exact hst.setUpd

theorem Canon.updReset (h : Canon s) : Canon (updReset s) := h.flushAll.reboot

theorem Canon.updVerified (h : Canon s) : Canon (updVerified s) := by
  unfold Machine.updVerified
  dsimp only
  split
  · exact h
  · split
    · exact h.updFail
    · split
      · exact h.of_tables.setUpd.updReset
      · exact h.of_tables.setUpd

theorem Canon.updGo (h : Canon s) : Canon (updGo s) := by
  unfold Machine.updGo
  split
  · exact h.updReset
  · exact h.csrSet

theorem Canon.mgDrive {l : List Byte} (h : Canon s) : Canon (mgDrive s l) := h.of_tables

theorem Canon.readStatus {n : Nat} (h : Canon s) : Canon (readStatus n s) := by
  unfold Machine.readStatus
  dsimp only
  split
  · exact h.of_tables.mgDrive
  · exact h.mgDrive

theorem Canon.readLog {off n : Nat} (h : Canon s) : Canon (readLog off n s) := by
  unfold Machine.readLog
  split
  · exact h.mgDrive
  · exact h.mgDrive

theorem Canon.writeImage {off : Nat} {data : List Byte} (h : Canon s) : Canon (writeImage off data s) := by
  have hw : Canon (stagingWritten s off data) := { h with staging := swf_putStaging h.staging off data }
  unfold Machine.writeImage
  dsimp only
  split
  · exact Canon.ite (Canon.setUpd (hw.of_tables)) hw
  · exact h

theorem Canon.commitImage {word : Nat} (h : Canon s) : Canon (commitImage word s) := by
  unfold Machine.commitImage
  dsimp only
  split
  · split
    · exact h.of_tables.setUpd
    · exact h.of_tables.toVerify
  · exact h

theorem Canon.goLine {line : Nat} (h : Canon s) : Canon (goLine line s) := by
  unfold Machine.goLine
  dsimp only
  split
  · exact h.setFlag
  · exact h

theorem Canon.scanEnd {ir dr : Nat} {out : List Bool} (h : Canon s) : Canon (scanEnd s ir dr out) := h.of_tables

end

end Sys2Proof.Machine
end

section
/-! Register accesses keep every table canonical (chapter 04). -/

namespace Sys2Proof.Machine

-- One proof at a time: hundreds of short ones side by side take more threads than the check has memory for.
set_option Elab.async false

section
variable {s : State}

theorem Canon.csrOut {v : Nat} {err : Bool} (h : Canon s) : Canon (csrOut s v err) := h.of_tables

theorem Canon.plainWrite {off v hw : Nat} (h : Canon s) : Canon (plainWrite s off v hw) := by
  unfold Machine.plainWrite
  split
  · exact h
  · exact h.csrPut

theorem Canon.writeRota {i b j v : Nat} (h : Canon s) : Canon (writeRota s i b j v) := by
  unfold Machine.writeRota
  split
  · exact h.csrSet
  · exact h.csrPut

theorem Canon.refuseCommit {i : Nat} (h : Canon s) : Canon (refuseCommit s i) := h.csrPut

theorem Canon.rotaPump {i : Nat} (h : Canon s) : Canon (rotaPump s i) := by
  unfold Machine.rotaPump
  split
  · exact h.fetchPumpAll
  · split
    · exact h.portPump
    · exact h

theorem Canon.commitOne {i : Nat} (h : Canon s) : Canon (commitOne s i) := by
  unfold Machine.commitOne
  split
  · exact h
  · split
    · exact h.refuseCommit
    · split
      · exact h.rotaToggle.rotaPump
      · exact h.of_tables

theorem Canon.writeCommit {v : Nat} (h : Canon s) : Canon (writeCommit s v) :=
  h.foldl fun _ _ hu => Canon.ite hu.commitOne hu

theorem Canon.rotaSwitch {i : Nat} (h : Canon s) : Canon (rotaSwitch i s) := by
  unfold Machine.rotaSwitch
  split
  · exact h.rotaToggle.rotaPump
  · exact h

theorem Canon.writeQueue {q r off v hw : Nat} (h : Canon s) : Canon (writeQueue s q r off v hw) := by
  unfold Machine.writeQueue
  split
  · exact h.writeCqCtl
  · exact h.writeCqSbase
  · split
    · exact h
    · exact h.plainWrite
  · split
    · exact h
    · exact h.plainWrite
  · exact h.plainWrite

theorem Canon.writeReset {v : Nat} (h : Canon s) : Canon (writeReset s v) := by
  unfold Machine.writeReset
  split
  · exact h.reboot
  · split
    · exact h.warmRequest
    · exact h

theorem Canon.writeGrant {v : Nat} (h : Canon s) : Canon (writeGrant s v) := h.setCtx

theorem Canon.writeFront {off v hw : Nat} (h : Canon s) : Canon (writeFront s off v hw) := by
  unfold Machine.writeFront
  split
  · exact h.writeQueue
  · split
    · exact h.writeRota
    · split
      · split
        · exact h
        · exact h.plainWrite
      · exact h.writeReset
      · split
        · exact h.clearFlag
        · exact h.setFlag
      · exact h.writeGrant
      · exact h.writeCommit
      · exact h.plainWrite

theorem Canon.writeShed {i r off v hw : Nat} (h : Canon s) : Canon (writeShed s i r off v hw) := by
  unfold Machine.writeShed
  split
  · split
    · exact h
    · exact h.plainWrite
  · split
    · exact h
    · exact h.plainWrite
  · exact h.writeShdCtl
  · exact h.plainWrite

theorem Canon.writeBuffers {off v hw : Nat} (h : Canon s) : Canon (writeBuffers s off v hw) := by
  unfold Machine.writeBuffers
  split
  · exact h.writeShed
  · split
    · split
      · exact h
      · exact h.plainWrite
    · split
      · split
        · exact h
        · exact h.plainWrite
      · split
        · exact h.writeWqReset
        · exact h.plainWrite

theorem Canon.writeGroup {g v : Nat} (h : Canon s) : Canon (writeGroup s g v) := by
  unfold Machine.writeGroup
  dsimp only
  split
  · split
    · split
      · exact h.setGrp
      · exact h
    · split
      · exact h.setGrp
      · exact h.disableGroup
  · split
    · exact h.plainWrite.enableGroup
    · exact h.plainWrite

theorem Canon.writeFabId {v : Nat} (h : Canon s) : Canon (writeFabId s v) := by
  unfold Machine.writeFabId
  split
  · exact h.plainWrite.foldl fun _ _ hu => Canon.ite hu.placeGroup hu
  · exact h

theorem Canon.takeSnapshot (h : Canon s) : Canon (takeSnapshot s) := h.of_tables

theorem Canon.writeOwnCtl {v : Nat} (h : Canon s) : Canon (writeOwnCtl s v) := by
  unfold Machine.writeOwnCtl
  dsimp only
  split
  · exact h.plainWrite
  · exact h.plainWrite.of_tables

theorem Canon.writeDomain {off v hw : Nat} (h : Canon s) : Canon (writeDomain s off v hw) := by
  unfold Machine.writeDomain
  dsimp only
  split
  · exact h.writeGroup
  · split
    · split
      · exact h.portEnable
      · exact h.portDisable
    · split
      · exact h.writeFabId
      · split
        · exact h.takeSnapshot
        · exact h
      · exact h.writeOwnCtl
      · split
        · exact h.plainWrite
        · exact h
      · split
        · exact h.plainWrite
        · exact h
      · exact h.plainWrite

theorem Canon.latched (h : Canon s) {i v : Nat} :
    Canon { s with pmc := { s.pmc with latch := sput (fun _ => 0) s.pmc.latch i v } } := { h with latch := swf_sput h.latch }

theorem Canon.writePmcCfg {i v : Nat} (h : Canon s) : Canon (writePmcCfg s i v) :=
  Canon.ite h.plainWrite.latched h.plainWrite

theorem Canon.bwCleared (h : Canon s) : Canon { s with pmc := { s.pmc with bwAcc := [] } } := { h with bwAcc := rfl }
theorem Canon.writeBwCtl {v : Nat} (h : Canon s) : Canon (writeBwCtl s v) := Canon.ite h.plainWrite h.plainWrite.bwCleared

theorem Canon.xcntCleared (h : Canon s) : Canon { s with pmc := { s.pmc with xcnt := [] } } := { h with xcnt := rfl }
theorem Canon.writeXsel {v : Nat} (h : Canon s) : Canon (writeXsel s v) := h.plainWrite.xcntCleared

theorem Canon.writePmcCtl {v : Nat} (h : Canon s) : Canon (writePmcCtl s v) := h.csrPut

theorem Canon.writePmc {off v hw : Nat} (h : Canon s) : Canon (writePmc s off v hw) := by
  unfold Machine.writePmc
  split
  · exact h.writePmcCfg
  · split
    · exact h.writePmcCtl
    · exact h.writeBwCtl
    · exact h.writeXsel
    · exact h.plainWrite

theorem Canon.writeFwupd {v hw : Nat} (h : Canon s) : Canon (writeFwupd s v hw) := by
  unfold Machine.writeFwupd
  dsimp only
  split
  · exact (Canon.ite h.plainWrite.updLoad h.plainWrite).updGo
  · split
    · exact h.plainWrite.updLoad
    · exact h.plainWrite

theorem Canon.writeFault {v hw : Nat} (h : Canon s) : Canon (writeFault s v hw) := by
  unfold Machine.writeFault
  dsimp only
  refine Canon.ite ?_ ?_
  · exact (Canon.ite h.plainWrite.faultBit h.plainWrite).faultBit
  · split
    · exact h.plainWrite.faultBit
    · exact h.plainWrite

theorem Canon.writeMgt {off v hw : Nat} (h : Canon s) : Canon (writeMgt s off v hw) := by
  unfold Machine.writeMgt
  split
  · exact h.writeFwupd
  · exact h.plainWrite.aclkFall
  · exact h.writeFault
  · exact h.plainWrite

theorem Canon.writeReg {off v hw : Nat} (h : Canon s) : Canon (writeReg s off v hw) := by
  unfold Machine.writeReg
  split
  · exact h.writeFront
  · split
    · exact h.plainWrite
    · split
      · exact h.writeBuffers
      · split
        · exact h.writeDomain
        · split
          · exact h.writePmc
          · exact h.writeMgt

theorem Canon.csrWriteAt {off v hw : Nat} {priv : Bool} (h : Canon s) : Canon (csrWriteAt off priv v hw s) := by
  unfold Machine.csrWriteAt
  split
  · exact h
  · exact h.bwAdd.csrOut
  · exact h.bwAdd.writeReg.csrOut
  · exact h.bwAdd.csrOut
  · exact h.bwAdd.csrOut

theorem Canon.tdcMany {n : Nat} (h : Canon s) : Canon (tdcMany n s) := by
  induction n generalizing s with
  | zero => exact h
  | succ n ih => exact ih (Canon.tdcCount h.of_tables)

theorem Canon.readEffect {off same : Nat} (h : Canon s) : Canon (readEffect s off same) := by
  unfold Machine.readEffect
  dsimp only
  split
  · exact h.csrPut.csrPut.tdcMany
  · split
    · exact Canon.ite h.latched h
    · split
      · exact h
      · exact Canon.ite h h.csrPut

theorem Canon.csrReadAt {off same : Nat} {priv : Bool} (h : Canon s) : Canon (csrReadAt off priv same s) := by
  unfold Machine.csrReadAt
  split
  · exact h.csrOut
  · exact h.bwAdd.csrOut
  · exact h.bwAdd.readEffect.csrOut
  · exact h.bwAdd.csrOut
  · exact h.bwAdd.csrOut

end

end Sys2Proof.Machine
end

section
/-! Memory answers, timeouts, the router gradient and the samples keep every table canonical. -/

namespace Sys2Proof.Machine

-- One proof at a time: hundreds of short ones side by side take more threads than the check has memory for.
set_option Elab.async false

section
variable {s : State}

theorem Canon.drainPlaced {k q : Nat} (h : Canon s) : Canon (drainPlaced s k q) := by
  unfold Machine.drainPlaced
  split
  · exact h
  · split
    · rename_i he
      exact keepsPm_leaveSlot.snd h he
    · rename_i he
      exact (keepsPm_leaveSlot.snd h he).pmStop.setPslot

theorem Canon.drainSlots {k : Nat} (h : Canon s) : Canon (drainSlots s k) := h.of_tables

theorem Canon.drainRelease {k q : Nat} (h : Canon s) : Canon (drainRelease s k q) :=
  h.dropUses.drainBufs.drainSlots.drainPlaced

theorem Canon.closeCtx {k : Nat} (h : Canon s) : Canon (closeCtx s k) := h.setCtx

theorem Canon.writeBack {k : Nat} (h : Canon s) : Canon (writeBack s k).1 := by
  have hfree : Memory.wf (wrFree s.mem (ctx s k).ext 4096) = true := wf_wrFree _ _ h.mem
  unfold Machine.writeBack
  refine (h.setMem ?_).mpCount
  split
  · exact hfree
  · exact wf_wrBytes _ _ hfree

theorem Canon.drainEnd {k : Nat} (h : Canon s) : Canon (drainEnd k s) := by
  unfold Machine.drainEnd
  dsimp only
  split
  · exact h
  · split
    · exact (Canon.ite h.drainRelease.writeBack.closeCtx.mpFault.finish
        h.drainRelease.writeBack.closeCtx.finish).drainFollow
    · exact h

theorem Canon.dropRead {port tag : Nat} (h : Canon s) : Canon (dropRead s port tag) := h.of_tables

theorem Canon.dropWrite {port tag : Nat} (h : Canon s) : Canon (dropWrite s port tag) := h.of_tables

theorem Canon.readDone {r : MpRead} (h : Canon s) : Canon (readDone s r) := by
  unfold Machine.readDone
  split
  · exact h
  · exact h.fetchArrived
  · exact h.ctxParamArrived

theorem Canon.readBeat {r : MpRead} {poison : BitVec 2} {err last : Bool} (h : Canon s) :
    Canon (readBeat r poison err last s) := by
  unfold Machine.readBeat
  dsimp only
  split
  · exact h.pmcEvent.bwAdd.dropRead.readDone
  · exact h.pmcEvent.bwAdd.of_tables

theorem Canon.writeDone {w : MpWrite} {err : Bool} (h : Canon s) : Canon (writeDone s w err) := by
  unfold Machine.writeDone
  split
  · exact h.recordAcked
  · exact h.ctxZeroAcked
  · exact h

/-- Memory after the acknowledgement of a write, refused or not. -/
theorem Canon.wf_acked (h : Canon s) {w : MpWrite} {err : Bool} :
    Memory.wf (if err then wrFree s.mem w.addr w.data.length else wrBytes s.mem w.addr w.data) = true := by
  split
  · exact wf_wrFree _ _ h.mem
  · exact wf_wrBytes _ _ h.mem

theorem Canon.writeAck {w : MpWrite} {err : Bool} (h : Canon s) : Canon (writeAck w err s) := by
  unfold Machine.writeAck
  exact (h.dropWrite.setMem h.wf_acked).pmcEvent.bwAdd.writeDone

theorem Canon.dropOld {wr : Bool} {port tag : Nat} (h : Canon s) : Canon (dropOld s wr port tag) := h.of_tables

theorem Canon.restoreCells {t : State} (hs : Canon s) (ht : Canon t) :
    Canon (Machine.setMem t { t.mem with cells := s.mem.cells }) := by
  have hcells := hs.mem
  have hmarks := ht.mem
  unfold Memory.wf at hcells hmarks
  rw [Bool.and_eq_true] at hcells hmarks
  refine ht.setMem ?_
  unfold Memory.wf
  exact Bool.and_eq_true_iff.mpr ⟨hcells.1, hmarks.2⟩

theorem Canon.lateBeat {r : MpRead} {poison : BitVec 2} {err last : Bool} (h : Canon s) :
    Canon (lateBeat r poison err last s) :=
  h.restoreCells (h.setMem (wf_wrFree _ _ h.mem)).readBeat

theorem Canon.lateAck {w : MpWrite} {err : Bool} (h : Canon s) : Canon (lateAck w err s) :=
  (h.dropWrite.setMem (wf_wrFree _ _ h.mem)).writeDone

theorem Canon.quietBeat {port tag : Nat} {last : Bool} (h : Canon s) : Canon (quietBeat s port tag last) := by
  unfold Machine.quietBeat
  split
  · exact h.dropRead
  · exact h

theorem Canon.quietAck {w : MpWrite} {err : Bool} (h : Canon s) : Canon (quietAck s w err) := by
  have h1 := h.dropWrite (port := w.port) (tag := w.tag) |>.setMem (h.wf_acked (w := w) (err := err))
  unfold Machine.quietAck
  dsimp only
  split
  · exact h1
  · split
    · exact h1.fetchFault
    · exact h1.mpFault
    · exact h1.mpFault

theorem keepsMem_Rg_row {r : Rg} {m t : Nat} : KeepsMem (Rg.row r m t) :=
  keepsMem_edgeCodes.bind fun _ => keepsMem_num

theorem keepsMem_unlessStopped {x : Mio Unit} (hx : KeepsMem x) : KeepsMem (unlessStopped x) :=
  keepsMem_ioStopped.bind fun _ => (KeepsMem.ite KeepsMem.pure hx)

theorem keepsMem_dlogitTimes {α : Type} {m : Nat} {x : Mio α} (hx : KeepsMem x) : KeepsMem (dlogitTimes m x) :=
  KeepsMem.get.bind fun _ => hx.bind fun _ => KeepsMem.bind
    (KeepsMem.modify fun io h => by
      dsimp only
      split
      · exact h
      · exact h)
    fun _ => KeepsMem.pure

theorem keepsMem_Rg_pgrad {r : Rg} : KeepsMem (Rg.pgrad r) := by
  unfold Machine.Rg.pgrad
  split
  · exact KeepsMem.pure
  · exact keepsMem_ioRead.bind fun _ => KeepsMem.pure

theorem keepsMem_Rg_tokenR {r : Rg} {st : WStream} {pg : List FVal} {t : Nat} : KeepsMem (Rg.tokenR r st pg t) := by
  unfold Machine.Rg.tokenR
  dsimp only
  split
  · exact keepsMem_takeStream.bind fun _ => (keepsMem_Rg_row.bind fun _ => (keepsMem_num.bind fun _ =>
      (keepsMem_ioRead.bind fun _ => (keepsMem_sourceRow.bind fun _ => (keepsMem_num.bind fun _ =>
      (keepsMem_num.bind fun _ => (keepsMem_ioWrite.bind fun _ => keepsMem_coreMark)))))))
  · exact keepsMem_Rg_row.bind fun _ => (keepsMem_num.bind fun _ => (keepsMem_ioRead.bind fun _ =>
      (keepsMem_sourceRow.bind fun _ => (keepsMem_num.bind fun _ => (keepsMem_num.bind fun _ =>
      (keepsMem_ioWrite.bind fun _ => keepsMem_coreMark))))))

theorem keepsMem_Rg_phaseR {r : Rg} {st : WStream} : KeepsMem (Rg.phaseR r st) :=
  keepsMem_Rg_pgrad.bind fun _ => ((KeepsMem.forM (fun _ => keepsMem_unlessStopped keepsMem_Rg_tokenR)).bind fun _
    => keepsMem_num)

theorem keepsMem_Rg_dlogit {r : Rg} : KeepsMem (Rg.dlogit r) :=
  KeepsMem.mapM (fun _ => (keepsMem_ioRead.bind fun _ => KeepsMem.pure))

theorem keepsMem_Rg_putDw {r : Rg} {e f : Nat} {acc : List Pair} : KeepsMem (Rg.putDw r e f acc) := by
  unfold Machine.Rg.putDw
  dsimp only
  split
  · exact keepsMem_ioRead.bind fun _ => (keepsMem_num.bind fun _ => (keepsMem_num.bind fun _ => keepsMem_ioWrite))
  · exact KeepsMem.pure.bind fun _ => (keepsMem_num.bind fun _ => keepsMem_ioWrite)

theorem keepsMem_Rg_unitW {r : Rg} {G X : List (List FVal)} {p ch : Nat} : KeepsMem (Rg.unitW r G X p ch) :=
  (KeepsMem.forM (fun _ => keepsMem_unlessStopped (keepsMem_num.bind fun _ => keepsMem_Rg_putDw))).bind fun _ =>
    keepsMem_coreMark

theorem keepsMem_Rg_phaseW {r : Rg} : KeepsMem (Rg.phaseW r) := by
  unfold Machine.Rg.phaseW
  dsimp only
  split
  · exact KeepsMem.pure
  · exact (keepsMem_dlogitTimes keepsMem_Rg_dlogit).bind fun _ => ((KeepsMem.mapM (fun _ => keepsMem_Rg_row)).bind
      fun _ => ((KeepsMem.forM (fun _ => (KeepsMem.forM (fun _ => keepsMem_unlessStopped
      keepsMem_Rg_unitW)))).bind fun _ => keepsMem_num))

theorem keepsMem_Rg_dxCodes {r : Rg} {d : Desc} {t f : Nat} {vals : List FVal} :
    KeepsMem (Rg.dxCodes r d t f vals) := by
  unfold Machine.Rg.dxCodes
  dsimp only
  split
  · exact keepsMem_Desc_readSeg.bind fun _ => keepsMem_num
  · exact keepsMem_num

theorem keepsMem_Rg_rowX {r : Rg} {d : Desc} {G W : List (List FVal)} {ch t : Nat} :
    KeepsMem (Rg.rowX r d G W ch t) :=
  keepsMem_num.bind fun _ => (keepsMem_Rg_dxCodes.bind fun _ => keepsMem_Desc_writeSeg)

theorem keepsMem_Rg_tileX {r : Rg} {d : Desc} {G : List (List FVal)} {st : WStream} {i : Nat} :
    KeepsMem (Rg.tileX r d G st i) := by
  unfold Machine.Rg.tileX
  dsimp only
  split
  · exact keepsMem_takeStream.bind fun _ => ((KeepsMem.forM (fun _ => (KeepsMem.forM (fun _ =>
      keepsMem_unlessStopped keepsMem_Rg_rowX)))).bind fun _ => keepsMem_coreMark)
  · exact (KeepsMem.forM (fun _ => (KeepsMem.forM (fun _ => keepsMem_unlessStopped keepsMem_Rg_rowX)))).bind fun _
      => keepsMem_coreMark

theorem keepsMem_Rg_phaseX {r : Rg} {st : WStream} : KeepsMem (Rg.phaseX r st) := by
  unfold Machine.Rg.phaseX
  dsimp only
  split
  · exact KeepsMem.pure
  · exact (keepsMem_dlogitTimes keepsMem_Rg_dlogit).bind fun _ => ((KeepsMem.forM (fun _ => keepsMem_unlessStopped
      keepsMem_Rg_tileX)).bind fun _ => keepsMem_num)

theorem keepsMem_rgradRun {c : Cmd} : KeepsMem (rgradRun s c) :=
  keepsMem_readStruct.bind fun _ => (keepsMem_readDesc.bind fun _ => (keepsMem_readDesc.bind fun _ => (KeepsMem.ite
    (KeepsMem.pure.bind fun _ => (keepsMem_ioStopped.bind fun _ => (KeepsMem.ite KeepsMem.pure (KeepsMem.ite
    (KeepsMem.pure.bind fun _ => (KeepsMem.ite (KeepsMem.pure.bind fun _ => ((keepsMem_unlessStopped
    keepsMem_Rg_phaseR).bind fun _ => ((keepsMem_unlessStopped keepsMem_Rg_phaseW).bind fun _ =>
    ((keepsMem_unlessStopped keepsMem_Rg_phaseX).bind fun _ => KeepsMem.pure)))) (keepsMem_readStream.bind fun _
    => ((keepsMem_unlessStopped keepsMem_Rg_phaseR).bind fun _ => ((keepsMem_unlessStopped
    keepsMem_Rg_phaseW).bind fun _ => ((keepsMem_unlessStopped keepsMem_Rg_phaseX).bind fun _ =>
    KeepsMem.pure)))))) (keepsMem_ioRead.bind fun _ => (KeepsMem.pure.bind fun _ => (KeepsMem.ite
    (KeepsMem.pure.bind fun _ => ((keepsMem_unlessStopped keepsMem_Rg_phaseR).bind fun _ =>
    ((keepsMem_unlessStopped keepsMem_Rg_phaseW).bind fun _ => ((keepsMem_unlessStopped keepsMem_Rg_phaseX).bind
    fun _ => KeepsMem.pure)))) (keepsMem_readStream.bind fun _ => ((keepsMem_unlessStopped
    keepsMem_Rg_phaseR).bind fun _ => ((keepsMem_unlessStopped keepsMem_Rg_phaseW).bind fun _ =>
    ((keepsMem_unlessStopped keepsMem_Rg_phaseX).bind fun _ => KeepsMem.pure))))))))))) (keepsMem_readDesc.bind
    fun _ => (keepsMem_ioStopped.bind fun _ => (KeepsMem.ite KeepsMem.pure (KeepsMem.ite (KeepsMem.pure.bind fun _
    => (KeepsMem.ite (KeepsMem.pure.bind fun _ => ((keepsMem_unlessStopped keepsMem_Rg_phaseR).bind fun _ =>
    ((keepsMem_unlessStopped keepsMem_Rg_phaseW).bind fun _ => ((keepsMem_unlessStopped keepsMem_Rg_phaseX).bind
    fun _ => KeepsMem.pure)))) (keepsMem_readStream.bind fun _ => ((keepsMem_unlessStopped
    keepsMem_Rg_phaseR).bind fun _ => ((keepsMem_unlessStopped keepsMem_Rg_phaseW).bind fun _ =>
    ((keepsMem_unlessStopped keepsMem_Rg_phaseX).bind fun _ => KeepsMem.pure)))))) (keepsMem_ioRead.bind fun _ =>
    (KeepsMem.pure.bind fun _ => (KeepsMem.ite (KeepsMem.pure.bind fun _ => ((keepsMem_unlessStopped
    keepsMem_Rg_phaseR).bind fun _ => ((keepsMem_unlessStopped keepsMem_Rg_phaseW).bind fun _ =>
    ((keepsMem_unlessStopped keepsMem_Rg_phaseX).bind fun _ => KeepsMem.pure)))) (keepsMem_readStream.bind fun _
    => ((keepsMem_unlessStopped keepsMem_Rg_phaseR).bind fun _ => ((keepsMem_unlessStopped
    keepsMem_Rg_phaseW).bind fun _ => ((keepsMem_unlessStopped keepsMem_Rg_phaseX).bind fun _ =>
    KeepsMem.pure))))))))))))))

theorem Canon.rgradCounts {c : Cmd} {T blk : Nat} (h : Canon s) : Canon (rgradCounts s c T blk) := by
  unfold Machine.rgradCounts
  dsimp only
  split
  · exact h.fillCounts
  · exact h.fillCounts.countC.countC.foldl fun _ _ hu => hu.pmcEvent.pmcEvent

theorem wf_wrFrees {α : Type} (addr : α → Nat) (n : Nat) {l : List α} {m : HostMem} (h : Memory.wf m = true) :
    Memory.wf (l.foldl (fun m a => wrFree m (addr a) n) m) = true := by
  induction l generalizing m with
  | nil => exact h
  | cons a l ih => exact ih (wf_wrFree _ _ h)

theorem keepsMem_rgradBad {c : Cmd} : KeepsMem (rgradBad s c) := by
  refine keepsMem_readStruct.bind fun blk => keepsMem_readDesc.bind fun a => ?_
  have hend : ∀ d : Desc, KeepsMem (do
      modify fun io =>
        if io.stop.isSome then io else
        let m1 := wrFree io.mem (bits blk (64 * 1 + 6) 36 * 64) (roundUp (2 * pbE (ctx s c.ctx)) 64 * a.rows)
        let m2 := if bits blk (64 * 2 + 6) 36 * 64 = 0 then m1
          else wrFree m1 (bits blk (64 * 2 + 6) 36 * 64)
            (roundUp ((if bit blk (320 + 1) then 4 else 8) * pbD (ctx s c.ctx)) 64 * pbE (ctx s c.ctx))
        let m3 := if bits blk (64 * 3 + 6) 36 * 64 = 0 then m2
          else (List.range d.rows).foldl
            (fun m r => wrFree m (d.rowAddr (d.coords r) % 2 ^ 42) (rowBytes d.ety (d.size 0))) m2
        { io with mem := m3 }
      pure a.rows : Mio Nat) := fun d => KeepsMem.bind (KeepsMem.modify fun io h => by
    dsimp only
    have h1 := wf_wrFree (bits blk (64 * 1 + 6) 36 * 64) (roundUp (2 * pbE (ctx s c.ctx)) 64 * a.rows) h
    split
    · exact h
    · dsimp only
      split
      · split
        · exact h1
        · exact wf_wrFree _ _ h1
      · refine wf_wrFrees _ _ ?_
        split
        · exact h1
        · exact wf_wrFree _ _ h1) fun _ => KeepsMem.pure
  exact KeepsMem.ite (KeepsMem.pure.bind fun _ => hend _) (keepsMem_readDesc.bind fun _ => hend _)

theorem Canon.rgradWork {ecc : SramEcc} {c : Cmd} (h : Canon s) : Canon (rgradWork ecc c s).st := by
  unfold Machine.rgradWork
  dsimp only
  split
  · exact h.doneWith
  · split
    · exact h.doneWith
    · refine h.withSlots (fun _ => ?_)
      split
      · rename_i he
        split
        · exact (h.coreCe.coresClose ((KeepsMem.ite keepsMem_rgradBad keepsMem_rgradRun).of_eq h.coreCe.mem
            he)).spoilBy.countC.coreStop
        · exact (Canon.ite (h.coreCe.coresClose ((KeepsMem.ite keepsMem_rgradBad keepsMem_rgradRun).of_eq
            h.coreCe.mem he)).spoilBy.countC (h.coreCe.coresClose ((KeepsMem.ite keepsMem_rgradBad
            keepsMem_rgradRun).of_eq h.coreCe.mem he)).spoilBy.countC.rgradCounts).doneWith

theorem Canon.smpWrite {a : Nat} {bs : List Byte} (h : Canon s) : Canon (smpWrite s a bs).1 := by
  unfold Machine.smpWrite
  split
  · rename_i he
    exact (h.setMem (wf_of_fst (wf_wrTry _ _ h.mem) he)).mpCount

theorem Canon.smpWrites {l : List (Nat × List Byte)} (h : Canon s) : Canon (smpWrites s l).1 := by
  induction l generalizing s with
  | nil => exact h
  | cons p rest ih =>
    unfold Machine.smpWrites
    dsimp only
    split
    · exact h.smpWrite
    · exact ih h.smpWrite

theorem Canon.smpFail {c : Cmd} {code : Nat} (h : Canon s) : Canon (smpFail s c code).st := h.mpFault.doneWith

theorem Canon.smpRefuse (h : Canon s) : Canon (smpRefuse s).st := h.doneWith

theorem Canon.smpArm {c : Cmd} {w : List Nat} (h : Canon s) : Canon (smpArm c s w).st := h.of_tables.doneWith

theorem Canon.armWork {c : Cmd} (h : Canon s) : Canon (armWork c s).st := by
  unfold Machine.armWork
  dsimp only
  split
  · exact h.smpArm
  · refine h.withSlots (fun _ => ?_)
    split
    · exact h.mpCount.smpFail
    · exact h.mpCount.smpArm

theorem Canon.stopSampling {c : Cmd} (h : Canon s) : Canon (stopSampling c s).st := by
  unfold Machine.stopSampling
  dsimp only
  split
  · exact h.smpRefuse
  · exact h.of_tables.doneWith

theorem Canon.drainSamples {c : Cmd} (h : Canon s) : Canon (drainSamples c s).st := by
  unfold Machine.drainSamples
  dsimp only
  split
  · exact h.smpRefuse
  · refine h.withSlots (fun _ => ?_)
    split
    · exact h.mpCount.smpFail
    · split
      · exact h.mpCount.of_tables.smpWrites.countC.smpFail
      · split
        · exact h.mpCount.of_tables.smpWrites.smpWrite.countC.smpFail
        · exact h.mpCount.of_tables.smpWrites.smpWrite.csrPut.doneWith

theorem Canon.xdumpWork {c : Cmd} (h : Canon s) : Canon (xdumpWork c s).st := by
  unfold Machine.xdumpWork
  dsimp only
  split
  · exact h.smpRefuse
  · split
    · exact h.doneWith
    · refine h.withSlots fun _ => ?_
      split
      · exact h.smpWrites.smpFail
      · exact Canon.ite h.smpWrites.xcntCleared h.smpWrites

theorem Canon.windowEnd (h : Canon s) : Canon (windowEnd s) :=
  Canon.ite { h with bwAcc := rfl, bwLast := swf_revalue h.bwAcc fun p => p.2 % 2 ^ 48 } h

theorem Canon.stallColl {q tag : Nat} (h : Canon s) : Canon (stallColl s q tag) := by
  unfold Machine.stallColl
  split
  · exact h
  · exact h.countC.abortColl

theorem Canon.stallGsum {q tag : Nat} (h : Canon s) : Canon (stallGsum s q tag) := by
  unfold Machine.stallGsum
  split
  · exact h
  · split
    · exact h.countC.gsumEnd
    · exact h

theorem Canon.stallTimeout {q tag : Nat} (h : Canon s) : Canon (stallTimeout q tag s) := by
  unfold Machine.stallTimeout
  split
  · exact h
  · split
    · exact h
    · split
      · exact h.stallUse
      · split
        · exact h.stallGsum
        · split
          · exact h.stallColl
          · exact h

theorem Canon.shedWaitEnd {c : Cmd} {sh : Nat} (h : Canon s) : Canon (shedWaitEnd s c sh) := by
  unfold Machine.shedWaitEnd
  dsimp only
  split
  · exact h.failExhaust.finish
  · split
    · exact h.failExhaust
    · split
      · exact h.failExhaust.planFailed.settle
      · exact h.failExhaust.sendFailed

theorem Canon.shedTimeout {q tag : Nat} (h : Canon s) : Canon (shedTimeout q tag s) := by
  unfold Machine.shedTimeout
  split
  · exact h
  · split
    · split
      · exact h
      · exact h.shedWaitEnd
    · exact h

theorem Canon.stallMembers {q tag : Nat} (h : Canon s) : Canon (stallMembers s q tag) := by
  unfold Machine.stallMembers
  split
  · exact h
  · split
    · exact h.finish
    · exact h

theorem Canon.stallList {q tag : Nat} (h : Canon s) : Canon (stallList s q tag) := by
  unfold Machine.stallList
  split
  · exact h
  · split
    · exact h.listEnd
    · exact h

theorem Canon.stallPlace {q tag : Nat} (h : Canon s) : Canon (stallPlace s q tag) := by
  unfold Machine.stallPlace
  split
  · exact h
  · split
    · exact h.placeQuit
    · exact h

theorem Canon.placementTimeout {q tag : Nat} (h : Canon s) : Canon (placementTimeout q tag s) := by
  unfold Machine.placementTimeout
  dsimp only
  split
  · exact h
  · split
    · exact h
    · split
      · split
        · split
          · exact h.stallColl.dropPlace
          · exact h.stallColl
        · split
          · exact h.stallPlace
          · exact h.stallMembers
      · split
        · exact h.stallList
        · exact h

theorem Canon.tick (h : Canon s) : Canon (tick s) := by
  unfold Machine.tick
  dsimp only
  split
  · exact h.of_tables.pmcEvent
  · exact h

theorem Canon.State.withFront {i : Instr} (h : Canon s) : Canon (State.withFront s i) := h.of_tables

end

end Sys2Proof.Machine
end

section
/-! Every step keeps host memory canonical, and every table of the engine where the clock has not stopped (R21). -/

namespace Sys2Proof.Machine

-- One proof at a time: hundreds of short ones side by side take more threads than the check has memory for.
set_option Elab.async false

section
variable {s t : State}

/-! ## The invariant through the gates of service -/

theorem Inv.canon (h : Inv s) (hi : s.glb.indeterminate = false) : Canon s := (canonical_iff s).mp (h.2 hi)

theorem Canon.inv (h : Canon s) : Inv s := ⟨h.mem, fun _ => (canonical_iff s).mpr h⟩

theorem Inv.ite {p : Prop} [Decidable p] (hs : Inv s) (ht : Inv t) : Inv (if p then s else t) := by
  split
  · exact hs
  · exact ht

/-- What writes no table and does not make the state determinate keeps the invariant. -/
theorem Inv.of_tables (h : Inv s) (hi : t.glb.indeterminate = false → s.glb.indeterminate = false)
    (ht : t.tables = s.tables := by rfl) : Inv t := by
  refine ⟨?_, fun hn => ((h.canon (hi hn)).of_tables ht).inv.2 hn⟩
  simp only [Prod.mk.injEq] at ht
  obtain ⟨⟨hcells, hmarks, -⟩, -⟩ := ht
  rw [Memory.wf, hcells, hmarks]
  exact h.1

/-- A stopped clock leaves host memory as it is. -/
theorem Inv.loseState (h : Inv s) : Inv (loseState s) := ⟨h.1, fun hn => by cases hn⟩

theorem Inv.served {f : State → State} (h : Inv s) (hf : ∀ u, Canon u → Canon (f u)) : Inv (served f s) := by
  unfold Machine.served
  split
  · exact h
  · split
    · exact h.loseState
    next hi => exact (hf s (h.canon (by simpa using hi))).inv

theorem Inv.working {f : State → State} (h : Inv s) (hf : ∀ u, Canon u → Canon (f u)) : Inv (working f s) :=
  h.served fun _ hu => Canon.ite (hf _ hu) hu

theorem Inv.byFirmware {f : State → State} (h : Inv s) (hf : ∀ u, Canon u → Canon (f u)) : Inv (byFirmware f s) :=
  h.served fun _ hu => Canon.ite (hf _ hu) hu

/-! ## The resets and the stopped clock -/

theorem Inv.coldBase (h : Inv s) : Inv (coldBase s) := Canon.inv
  { mem := h.1, csr := rfl, queues := rfl, ctxs := rfl, tickets := rfl, sheds := rfl, quse := rfl, grps := rfl,
    ports := swf_portsReset, pslots := rfl, latch := rfl, bwAcc := rfl, bwLast := rfl, xcnt := rfl, log := rfl,
    staging := rfl }

theorem Inv.setBoot {b : BootState} (h : Inv s) : Inv (setBoot s b) := by
  refine ⟨?_, fun hn => ?_⟩
  · rw [setBoot_mem]
    exact h.1
  · rw [setBoot_glb] at hn
    exact (h.canon hn).setBoot.inv.2 (by rw [setBoot_glb]; exact hn)

theorem Inv.coldResetRelease {straps : Straps} (h : Inv s) : Inv (if s.glb.boot = .coldReset then
    Machine.setBoot { s with glb := { s.glb with straps := straps }, pins := { s.pins with ready := true } } .pllLock
    else s) :=
  Inv.ite (Inv.setBoot (h.of_tables id)) h

theorem Inv.setWrst {low : Bool} (h : Inv s) : Inv (setWrst s low) := h.of_tables id

theorem Inv.clockStop (h : Inv s) : Inv (if s.glb.boot = .coldReset then s
    else { s with glb := { s.glb with indeterminate := true } }) :=
  Inv.ite h (h.of_tables fun hn => by cases hn)

/-! ## The test port -/

theorem Inv.scanEnd {ir dr : Nat} {out : List Bool} (h : Inv s) : Inv (scanEnd s ir dr out) := h.of_tables id

theorem Inv.setWir {x : Nat} (h : Inv s) : Inv (setWir s x) := h.of_tables id

theorem Inv.endService (h : Inv s) : Inv (endService s) := by
  unfold Machine.endService
  split
  · exact Inv.loseState (h.of_tables id)
  · exact h

theorem Inv.extest {drive : List Bool} (h : Inv s) : Inv (extest drive s) := Inv.ite (h.of_tables id) h.setWir

theorem Inv.mbist (h : Inv s) : Inv (mbist s) := by
  have h1 : Inv (Machine.endService (Machine.setWir s 3)) := h.setWir.endService
  unfold Machine.mbist
  generalize Machine.endService (Machine.setWir s 3) = u at h1
  exact Inv.ite (h1.of_tables id) h1

end

/-! ## Commands -/

/-- An outcome that goes on goes on in a state with the invariant. -/
def KeepsInv (o : Host.Outcome State Fault Refusal) : Prop := ∀ t, o = .next t → Inv t

section
variable {s t : State}

theorem KeepsInv.next (h : Inv t) : KeepsInv (.next t) := fun _ he => by
  cases he
  exact h

theorem KeepsInv.fault {e : Fault} : KeepsInv (.fault e) := fun _ he => by cases he

theorem KeepsInv.ite {p : Prop} [Decidable p] {x y : Host.Outcome State Fault Refusal} (hx : KeepsInv x)
    (hy : KeepsInv y) : KeepsInv (if p then x else y) := by
  split
  · exact hx
  · exact hy

theorem keepsInv_doWrite {off v hw : Nat} {priv : Bool} (h : Inv s) : KeepsInv (doWrite off priv v hw s) :=
  .next (h.served fun _ hu => hu.csrWriteAt)

theorem keepsInv_doRead {off same : Nat} {priv : Bool} (h : Inv s) : KeepsInv (doRead off priv same s) :=
  .next (h.served fun _ hu => hu.csrReadAt)

theorem keepsInv_mpReadBeat {port tag : Nat} {poison : BitVec 2} {err last : Bool} (h : Inv s) :
    KeepsInv (execMpReadBeat port tag poison err last s) := by
  unfold execMpReadBeat
  split
  · exact .next (h.served fun _ hu => hu)
  next hs =>
    have hc : Canon s := h.canon (by simp_all)
    have h1 : Canon (if oldTag s false port tag && last then dropOld s false port tag else s) := Canon.ite hc.dropOld hc
    dsimp only
    split
    · exact KeepsInv.ite (.next h1.inv) .fault
    · exact KeepsInv.ite (.next h1.quietBeat.inv) (KeepsInv.ite (.next h1.lateBeat.inv) (.next hc.readBeat.inv))

theorem keepsInv_mpWriteAck {port tag : Nat} {err : Bool} (h : Inv s) : KeepsInv (execMpWriteAck port tag err s) := by
  unfold execMpWriteAck
  split
  · exact .next (h.served fun _ hu => hu)
  next hs =>
    have hc : Canon s := h.canon (by simp_all)
    have h1 : Canon (if oldTag s true port tag then dropOld s true port tag else s) := Canon.ite hc.dropOld hc
    dsimp only
    split
    · exact KeepsInv.ite (.next h1.inv) .fault
    · exact KeepsInv.ite (.next h1.quietAck.inv) (KeepsInv.ite (.next h1.lateAck.inv) (.next hc.writeAck.inv))

/-- Every command keeps the invariant, each for what its own work keeps. -/
theorem keepsInv_exec (i : Instr) (h : Inv s) : KeepsInv (exec i s) := by
  cases i with
  | powerOkFall => exact .next h.coldBase
  | coldResetAssert => exact .next h.coldBase
  | coldResetRelease => exact .next h.coldResetRelease
  | pllLock => exact .next (h.served fun _ hu => hu.pllLocked)
  | fuseLoad => exact .next (h.served fun _ hu => hu.fuseLoaded)
  | sramInit => exact .next (h.served fun _ hu => hu.sramDone)
  | bootFetch => exact .next (h.served fun _ hu => hu.bootFetched)
  | bootVerify => exact .next (h.served fun _ hu => hu.bootVerified)
  | fwInit => exact .next (h.served fun _ hu => hu.fwInited)
  | warmResetPin => exact .next (h.setWrst.served fun _ hu => hu.warmRequest)
  | glbResetWarm => exact keepsInv_doWrite h
  | glbResetReboot => exact keepsInv_doWrite h
  | warmDrainEnd => exact .next (h.served fun _ hu => hu.warmDrained)
  | warmInitEnd => exact .next (h.served fun _ hu => hu.warmInited)
  | doorbellLine => exact .next (h.served fun _ hu => hu.doorbell)
  | csrWrite => exact keepsInv_doWrite h
  | clearingRead => exact keepsInv_doRead h
  | glbIfaceSelWrite => exact keepsInv_doWrite h
  | queueEnable => exact keepsInv_doWrite h
  | queueDisable => exact keepsInv_doWrite h
  | queueAbort => exact keepsInv_doWrite h
  | cqSbaseWrite => exact keepsInv_doWrite h
  | cqFlagsetSet => exact keepsInv_doWrite h
  | cqFlagsetClear => exact keepsInv_doWrite h
  | ctxGrant => exact keepsInv_doWrite h
  | rotaEntryWrite => exact keepsInv_doWrite h
  | rotaCommit => exact keepsInv_doWrite h
  | rotaSwitch => exact .next (h.working fun _ hu => hu.rotaSwitch)
  | shedInit => exact keepsInv_doWrite h
  | shedInitDone => exact .next (h.working fun _ hu => Canon.ite hu.shdInitEnd hu)
  | wqReset => exact keepsInv_doWrite h
  | wqResetDone => exact .next (h.working fun _ hu => hu.wqResetDone.afterRead)
  | groupEnable => exact keepsInv_doWrite h
  | groupDisable => exact keepsInv_doWrite h
  | fabIdWrite => exact keepsInv_doWrite h
  | routeSnapshot => exact keepsInv_doWrite h
  | ownerTableGenChange => exact keepsInv_doWrite h
  | portEnable => exact keepsInv_doWrite h
  | portDisable => exact keepsInv_doWrite h
  | portDrainEnd => exact .next (h.working fun _ hu => hu.portDrainEnd)
  | pmcXselWrite => exact keepsInv_doWrite h
  | pmcChainRead => exact keepsInv_doRead h
  | detTdcCountRead => exact keepsInv_doRead h
  | bwWindowEnd => exact .next (h.working fun _ hu => hu.windowEnd)
  | fwUpdateLoad => exact keepsInv_doWrite h
  | fwUpdateLoadDone => exact .next (h.byFirmware fun _ hu => hu.updLoaded)
  | fwUpdateVerifyDone => exact .next (h.byFirmware fun _ hu => hu.updVerified)
  | fwUpdateGo => exact keepsInv_doWrite h
  | aclkStepUp => exact .next (h.served fun _ hu => Canon.ite hu.aclkRise hu)
  | commandAdmit => exact .next (h.working fun _ hu => hu.admitNext)
  | completionRecordWrite => exact .next (h.working fun _ hu => hu.writeRecord)
  | mpReadBeat => exact keepsInv_mpReadBeat h
  | mpWriteAck => exact keepsInv_mpWriteAck h
  | nop => exact .next (h.working fun _ hu => hu.issueRow fun _ _ hu1 => hu1.nopWork)
  | waitConsume => exact .next (h.working fun _ hu => hu.issueRow fun _ _ hu1 => hu1.waitWork)
  | waitObserve => exact .next (h.working fun _ hu => hu.issueRow fun _ _ hu1 => hu1.waitWork)
  | signalSet => exact .next (h.working fun _ hu => hu.issueRow fun _ _ hu1 => hu1.signalWork)
  | signalClear => exact .next (h.working fun _ hu => hu.issueRow fun _ _ hu1 => hu1.signalWork)
  | ctxopen => exact .next (h.working fun _ hu => hu.issueRow fun _ _ hu1 => hu1.ctxopenWork)
  | ctxclose => exact .next (h.working fun _ hu => hu.issueRow fun _ _ hu1 => hu1.ctxcloseWork)
  | contextDrainEnd => exact .next (h.working fun _ hu => hu.drainEnd)
  | ctxloadLoad =>
    exact .next (h.working fun _ hu => hu.issueRow fun _ _ hu1 => hu1.ctxloadWork (fun _ _ hu2 => hu2.loadWeights))
  | ctxloadSwap =>
    exact .next (h.working fun _ hu => hu.issueRow fun _ _ hu1 => hu1.ctxloadWork (fun _ _ hu2 => hu2.swapWeights))
  | ctxloadRelease =>
    exact .next (h.working fun _ hu => hu.issueRow fun _ _ hu1 => hu1.ctxloadWork (fun _ _ hu2 => hu2.releaseWeights))
  | score => exact .next (h.working fun _ hu => hu.issueRow fun _ _ hu1 => hu1.selWork)
  | scorev => exact .next (h.working fun _ hu => hu.issueRow fun _ _ hu1 => hu1.selWork)
  | hashsel => exact .next (h.working fun _ hu => hu.issueRow fun _ _ hu1 => hu1.selWork)
  | rgrad => exact .next (h.working fun _ hu => hu.issueRow fun _ _ hu1 => hu1.rgradWork)
  | ticketGrant => exact .next (h.working fun _ hu => hu.ticketGrant)
  | count => exact .next (h.working fun _ hu => hu.issueRow fun _ _ hu1 => hu1.countWork)
  | plan => exact .next (h.working fun _ hu => hu.issueRow fun _ _ hu1 => hu1.planWork)
  | sort => exact .next (h.working fun _ hu => hu.issueRow fun _ _ hu1 => hu1.sortWork)
  | wqRefill => exact .next (h.working fun _ hu => hu.wqRefill.afterRead)
  | gather => exact .next (h.working fun _ hu => hu.issueRow fun _ _ hu1 => hu1.gatherWork)
  | scatter => exact .next (h.working fun _ hu => hu.issueRow fun _ _ hu1 => hu1.scatterWork)
  | copy => exact .next (h.working fun _ hu => hu.issueRow fun _ _ hu1 => hu1.layoutWork)
  | xpose => exact .next (h.working fun _ hu => hu.issueRow fun _ _ hu1 => hu1.layoutWork)
  | sendForward => exact .next (h.working fun _ hu => hu.issueRow fun _ _ hu1 => hu1.sendWork)
  | sendBackward => exact .next (h.working fun _ hu => hu.issueRow fun _ _ hu1 => hu1.sendWork)
  | sendHoldRelease => exact .next (h.working fun _ hu => hu.holdRelease fun _ _ hu1 => hu1.sendGo)
  | sendItem => exact .next (h.working fun _ hu => (hu.readQueue fun _ _ _ _ hv he => hv.sendAct he).afterRead)
  | rowArrival => exact .next (h.working fun _ hu => hu.feedQueues.rowArrival.afterRead)
  | rowPlanTimeout => exact .next (h.working fun _ hu => hu.feedQueues.rowTimeout.afterRead)
  | dackReceive => exact .next (h.working fun _ hu => hu.dackReceive)
  | ret => exact .next (h.working fun _ hu => hu.issueRow fun _ _ hu1 => hu1.returnWork)
  | returnHoldRelease => exact .next (h.working fun _ hu => hu.holdRelease fun _ _ hu1 => hu1.returnGo)
  | returnItem =>
    exact .next (h.working fun _ hu => (hu.readQueue fun _ _ _ _ hv he => hv.returnAct he).afterRead)
  | answerArrival => exact .next (h.working fun _ hu => hu.feedQueues.answerArrival.afterRead)
  | combineForward => exact .next (h.working fun _ hu => hu.issueRow fun _ _ hu1 => hu1.combineWork)
  | combineBackward => exact .next (h.working fun _ hu => hu.issueRow fun _ _ hu1 => hu1.combineWork)
  | cancel => exact .next (h.working fun _ hu => hu.issueRow fun _ _ hu1 => hu1.cancelWork)
  | useRelease => exact .next (h.working fun _ hu => hu.releaseOldest)
  | stallTimeout => exact .next (h.working fun _ hu => hu.stallTimeout)
  | act => exact .next (h.working fun _ hu => hu.issueRow fun _ _ hu1 => hu1.sfuWork (fun _ _ => keepsMem_actRows))
  | norm => exact .next (h.working fun _ hu => hu.issueRow fun _ _ hu1 => hu1.sfuWork (fun _ _ => keepsMem_normRows))
  | softmax =>
    exact .next (h.working fun _ hu => hu.issueRow fun _ _ hu1 => hu1.sfuWork (fun _ _ => keepsMem_softmaxRows))
  | alloc => exact .next (h.working fun _ hu => hu.issueRow fun _ _ hu1 => hu1.allocWork)
  | free => exact .next (h.working fun _ hu => hu.issueRow fun _ _ hu1 => hu1.freeWork)
  | shedWaitTimeout => exact .next (h.working fun _ hu => hu.shedTimeout)
  | shedCacheRefill => exact .next (h.working fun _ hu => Canon.ite hu.shdRefill hu)
  | shedCacheWriteback => exact .next (h.working fun _ hu => Canon.ite hu.shdWriteback hu)
  | allreduce => exact .next (h.working fun _ hu => hu.issueRow fun _ _ hu1 => hu1.collWork)
  | redscat => exact .next (h.working fun _ hu => hu.issueRow fun _ _ hu1 => hu1.collWork)
  | allgather => exact .next (h.working fun _ hu => hu.issueRow fun _ _ hu1 => hu1.collWork)
  | xscan => exact .next (h.working fun _ hu => hu.issueRow fun _ _ hu1 => hu1.collWork)
  | cairn => exact .next (h.working fun _ hu => hu.issueRow fun _ _ hu1 => hu1.collWork)
  | collMessage => exact .next (h.working fun _ hu => hu.collMessage fun _ _ _ hu1 => hu1.finAll)
  | signatureMessage => exact .next (h.working fun _ hu => hu.sigMessage fun _ _ _ hu1 => hu1.finAll)
  | abortNotice => exact .next (h.working fun _ hu => hu.abortNotice)
  | cairnMarker => exact .next (h.working fun _ hu => hu.cairnMarker)
  | cairnRelease => exact .next (h.working fun _ hu => hu.cairnRelease)
  | phyRdyRise => exact .next (h.served fun _ hu => hu.phyRise)
  | phyRdyFall => exact .next (h.served fun _ hu => hu.phyFall)
  | laneReport => exact .next (h.working fun _ hu => hu.laneReport)
  | identityExchange => exact .next (h.working fun _ hu => hu.identity)
  | calComplete => exact .next (h.working fun _ hu => hu.calComplete)
  | trainingTimeout => exact .next (h.working fun _ hu => hu.trainTimeout)
  | portRetrain => exact .next (h.working fun _ hu => hu.retrain)
  | flitReceive => exact .next (h.working fun _ hu => hu.flitReceive)
  | nakReplay => exact .next (h.working fun _ hu => hu.nakReplay)
  | linkLossTimeout => exact .next (h.working fun _ hu => hu.linkLost)
  | linkDownFlit => exact .next (h.working fun _ hu => hu.linkDownFlit)
  | laneOkFall => exact .next (h.working fun _ hu => hu.laneFault)
  | laneErrorLimit => exact .next (h.working fun _ hu => hu.laneFault)
  | laneRetireFlit => exact .next (h.working fun _ hu => hu.retireLane)
  | messageForward => exact .next (h.working fun _ hu => hu.forwardMsg)
  | detourTimeout => exact .next (h.working fun _ hu => hu.detourTimeout)
  | unreachReceive => exact .next (h.working fun _ hu => hu.unreachReceive)
  | dpRequest => exact .next (h.served fun _ hu => hu.dpRequest)
  | dpFence => exact .next (h.working fun _ hu => hu.dpFence)
  | dpreqReceive => exact .next (h.working fun _ hu => hu.dpreqReceive)
  | dprspReceive => exact .next (h.working fun _ hu => hu.dprspReceive)
  | dpTimeout => exact .next (h.working fun _ hu => hu.dpTimeout)
  | placeStep => exact .next (h.working fun _ hu => hu.issueRow fun _ _ hu1 => hu1.placeStepWork)
  | placeEnrol => exact .next (h.working fun _ hu => hu.issueRow fun _ _ hu1 => hu1.placeEnrolWork)
  | placeLeave => exact .next (h.working fun _ hu => hu.issueRow fun _ _ hu1 => hu1.placeLeaveWork)
  | migrateList => exact .next (h.working fun _ hu => hu.issueRow fun _ _ hu1 => hu1.listWork)
  | migrateGsum => exact .next (h.working fun _ hu => hu.issueRow fun _ _ hu1 => hu1.gsumWork)
  | migrCopyPiece => exact .next (h.working fun _ hu => hu.copyPiece)
  | migrAck => exact .next (h.working fun _ hu => hu.migrAck)
  | migrGsumMessage => exact .next (h.working fun _ hu => hu.gsumMessage)
  | migrState => exact .next (h.working fun _ hu => hu.migrState)
  | migrListMessage => exact .next (h.working fun _ hu => hu.listMessage)
  | members => exact .next (h.working fun _ hu => hu.issueRow fun _ _ hu1 => hu1.membersWork)
  | placementTimeout => exact .next (h.working fun _ hu => hu.placementTimeout)
  | sampleArm => exact .next (h.working fun _ hu => hu.issueRow fun _ _ hu1 => hu1.armWork)
  | sampleDrain => exact .next (h.working fun _ hu => hu.issueRow fun _ _ hu1 => hu1.drainSamples)
  | sampleStop => exact .next (h.working fun _ hu => hu.issueRow fun _ _ hu1 => hu1.stopSampling)
  | sampleXdump => exact .next (h.working fun _ hu => hu.issueRow fun _ _ hu1 => hu1.xdumpWork)
  | goLine => exact .next (h.working fun _ hu => hu.goLine)
  | sensorSample => exact .next (h.byFirmware fun _ hu => hu.sensorSample)
  | thermalStepDown => exact .next (h.byFirmware fun _ hu => hu.thermalDown)
  | thermalStepUp => exact .next (h.byFirmware fun _ hu => hu.thermalUp)
  | droopAlarm => exact .next (h.served fun _ hu => hu.droopAlarm)
  | droopClear => exact .next (h.served fun _ hu => hu.droopClear)
  | logFlush => exact .next (h.byFirmware fun _ hu => Canon.ite hu.flushOne hu)
  | ceWindowCheck => exact .next (h.byFirmware fun _ hu => hu.ceWindow)
  | watchdogExpiry => exact .next (h.byFirmware fun _ hu => hu.watchdog)
  | readStatus => exact .next (h.served fun _ hu => hu.readStatus)
  | readLog => exact .next (h.served fun _ hu => hu.readLog)
  | writeImage => exact .next (h.served fun _ hu => hu.writeImage)
  | commitImage => exact .next (h.served fun _ hu => hu.commitImage)
  | idcode => exact .next h.scanEnd
  | bypass => exact .next (Inv.ite h h.scanEnd)
  | wsExtest => exact .next h.extest
  | wsIntestScan => exact .next h.setWir.endService
  | wsMbist => exact .next h.mbist
  | wsBypass => exact .next h.setWir
  | warmResetRelease => exact .next (h.setWrst.served fun _ hu => hu.warmReleased)
  | clockStop => exact .next h.clockStop
  | firmwareRestartDone => exact .next (h.served fun _ hu => hu.restartDone)
  | tapReset => exact .next (h.of_tables id)
  | illegalOpcode => exact .next (h.working fun _ hu => hu.issueRow fun _ _ hu1 => hu1.nopWork)

end

/-- Settles O5: each command's work keeps every table canonical, and the gates of service keep the rest. -/
theorem stepKeepsInv : Obligations.StepKeepsInv := by
  intro s t h
  unfold step
  split
  · exact KeepsInv.next (h.served fun _ hu => hu.tick) t
  next i rest _ =>
    have h1 : Inv { s with pending := rest } := h.of_tables id
    exact keepsInv_exec i h1 t

end Sys2Proof.Machine
end

section
/-! Completion records (R94 to R96, R33). -/

namespace Sys2Proof.Machine

section
variable {s t u : State} {q : Nat} {c : Cmd} {r : Report}

/-! ## What counts and samples leave -/

/-- Between `s` and `t` at most counts and samples of commands have been made. -/
def SamplesOnly (s t : State) : Prop :=
  { t with csr := s.csr, pmc := s.pmc } = s ∧ ∀ o, countsIn o = false → csrGet t o = csrGet s o

theorem SamplesOnly.trans (h : SamplesOnly s t) (k : SamplesOnly t u) : SamplesOnly s u := by
  obtain ⟨h1, h2⟩ := h
  obtain ⟨k1, k2⟩ := k
  exact ⟨by rw [← h1, ← k1], fun o ho => (k2 o ho).trans (h2 o ho)⟩

theorem CountsOnly.samplesOnly (h : CountsOnly s t) : SamplesOnly s t := ⟨h.1, h.2.1⟩

theorem SamplesOnly.front (h : SamplesOnly s t) : t.front = s.front := by
  have h' := congrArg State.front h.1
  exact h'

theorem SamplesOnly.mem (h : SamplesOnly s t) : t.mem = s.mem := by
  have h' := congrArg State.mem h.1
  exact h'

theorem SamplesOnly.queue (h : SamplesOnly s t) (k : Nat) : queue t k = queue s k := by
  unfold Machine.queue
  rw [h.front]

theorem SamplesOnly.findCmd (h : SamplesOnly s t) (k g : Nat) : findCmd t k g = findCmd s k g := by
  unfold Machine.findCmd
  rw [h.front]

theorem samplesOnly_sampleDone : SamplesOnly s (sampleDone s c r) := by
  unfold sampleDone
  split
  · exact (CountsOnly.refl s).samplesOnly
  · split
    · split
      · exact ⟨rfl, fun _ _ => rfl⟩
      · exact ((CountsOnly.refl s).countC (by decide)).samplesOnly
    · exact ⟨rfl, fun _ _ => rfl⟩

/-! ## The record written -/

theorem nextRecord_eq_of_front (h : t.front = s.front) : nextRecord t q = nextRecord s q := by
  unfold nextRecord queue findCmd
  rw [h]

/-- The record at CTAIL is written where a write tag is free. -/
theorem writeRecord_eq {p tg : Nat} (hr : isReady s = true) (hw : (queue s q).writing = false) (hf : ringFull s q = false)
    (hn : nextRecord s q = some (c, r)) (hp : mpPortFor s 0x08 = some p) (ht : freeWriteTag s p = some tg) :
    writeRecord q s = setQueue { s with front := { s.front with writes := s.front.writes ++ [{
      port := p, tag := tg, use := .record q, data := leBytes 32 (recordOf s c r),
      addr := csrField s (oCqCbase q) 6 36 * 64 + 32 * ((queue s q).ctail % 2 ^ qClog2 s q) }] } }
      q { queue s q with writing := true } := by
  unfold writeRecord
  rw [hw, hf, hr, hn]
  simp only [Bool.or_false, Bool.not_true, Bool.false_eq_true, if_false, startWrite, hp, ht, List.length_append,
    List.length_singleton, Nat.add_eq_left, Nat.one_ne_zero]
  rfl

/-! ## The record acknowledged -/

/-- The command of the record leaves flight, and CTAIL and CQ_EVIDX move (R94, R96). -/
def recordTaken (s : State) (q : Nat) (c : Cmd) (r : Report) : State :=
  setQueue { s with front := { s.front with
      inflight := s.front.inflight.filter (fun y => !(y.q == q && y.tag == c.tag)) } } q
    { queue s q with
      ctail := ((queue s q).ctail + 1) % 2 ^ 32, done := (queue s q).done.drop 1, writing := false,
      evidx := if c.event || decide (0x10 ≤ r.status) then ((queue s q).ctail + 1) % 2 ^ 32 else (queue s q).evidx }

theorem Canon.recordTaken (h : Canon s) : Canon (recordTaken s q c r) := Canon.setQueue h.of_tables

/-- The counts and the sample of a record that is taken. -/
def recordCounted (s : State) (q : Nat) (c : Cmd) (r : Report) : State :=
  let s3 := pmcEvent s 0x011 (some q) (some c.ctx) (some c.cls) 1
  sampleDone (if 0x10 ≤ r.status then pmcEvent s3 0x012 (some q) (some c.ctx) (some c.cls) 1 else s3) c r

theorem samplesOnly_recordCounted : SamplesOnly s (recordCounted s q c r) := by
  have h3 : CountsOnly s (pmcEvent s 0x011 (some q) (some c.ctx) (some c.cls) 1) := (CountsOnly.refl s).pmcEvent
  refine SamplesOnly.trans ?_ samplesOnly_sampleDone
  split
  · exact h3.pmcEvent.samplesOnly
  · exact h3.samplesOnly

theorem Canon.recordCounted (h : Canon s) : Canon (recordCounted s q c r) := by
  unfold Machine.recordCounted
  exact (Canon.ite h.pmcEvent.pmcEvent h.pmcEvent).sampleDone

theorem recordAcked_eq (hn : nextRecord s q = some (c, r)) (err : Bool) : recordAcked s q err =
    if err then fetchFault (dropPrefetch (recordCounted (recordTaken s q c r) q c r) q) q
    else recordCounted (recordTaken s q c r) q c r := by
  unfold recordAcked
  rw [hn]
  rfl

theorem findCmd_recordTaken_same : findCmd (recordTaken s q c r) q c.tag = none := by
  show (s.front.inflight.filter _).find? _ = none
  rw [List.find?_filter]
  refine List.find?_eq_none.mpr fun y _ => ?_
  cases hy : y.q == q && y.tag == c.tag <;> simp

theorem findCmd_recordTaken_other {k g : Nat} (h : (k, g) ≠ (q, c.tag)) :
    findCmd (recordTaken s q c r) k g = findCmd s k g := by
  show (s.front.inflight.filter _).find? _ = s.front.inflight.find? _
  rw [List.find?_filter]
  congr 1
  funext y
  by_cases hy : y.q = k ∧ y.tag = g
  · obtain ⟨rfl, rfl⟩ := hy
    have hne : ¬ (y.q = q ∧ y.tag = c.tag) := fun ⟨h1, h2⟩ => h (by rw [h1, h2])
    have hno : (y.q == q && y.tag == c.tag) = false := by simpa using hne
    simp [hno]
  · have hno : (y.q == k && y.tag == g) = false := by simpa using hy
    simp [hno]

theorem queue_recordTaken (h : Canon s) : queue (recordTaken s q c r) q =
    { queue s q with
      ctail := ((queue s q).ctail + 1) % 2 ^ 32, done := (queue s q).done.drop 1, writing := false,
      evidx := if c.event || decide (0x10 ≤ r.status) then ((queue s q).ctail + 1) % 2 ^ 32 else (queue s q).evidx } :=
  slook_sput h.queues

theorem queue_recordTaken_other {k : Nat} (h : k ≠ q) : queue (recordTaken s q c r) k = queue s k :=
  queue_setQueue_other h

/-! ## A refused record -/

theorem rdByte_wrFree_ne {m : HostMem} {a b n : Nat} (h : ∀ i, i < n → b % 2 ^ 42 ≠ (a + i) % 2 ^ 42) :
    rdByte (wrFree m a n) b = rdByte m b := by
  induction n generalizing m a with
  | zero => rfl
  | succ n ih =>
    rw [wrFree, ih fun i hi => by rw [Nat.add_right_comm]; exact h (i + 1) (by omega)]
    exact rdByte_wrByte_ne (h 0 (by omega))

theorem oCqCtl_ne {o : Nat} (hq : q < 64) (h : 0x14000 ≤ o) : oCqCtl q ≠ o := by unfold oCqCtl; omega

theorem oCqStatus_ne {o : Nat} (hq : q < 64) (h : 0x14000 ≤ o) : oCqStatus q ≠ o := by unfold oCqStatus; omega

/-- A refused fetch or record disables the queue. -/
theorem qEn_fetchFault (h : Canon s) (hq : q < 64) : qEn (fetchFault s q) q = false := by
  have hne : oCqCtl q ≠ oCqStatus q := by unfold oCqCtl oCqStatus; omega
  unfold qEn fetchFault
  rw [csrGet_raiseFault (oCqCtl_ne hq (by decide)) (oCqCtl_ne hq (by decide))]
  show bit (csrGet (csrPut _ _ _) _) 0 = false
  rw [csrGet_csrPut_ne hne]
  show bit (csrGet (csrPut _ _ _) _) 0 = false
  rw [csrGet_csrPut h.csr, bit_eq_testBit, Nat.testBit_and, show (span 63 0 ^^^ 1).testBit 0 = false by decide +kernel,
    Bool.and_false]

theorem ferr_fetchFault (h : Canon s) (hq : q < 64) : bit (csrGet (fetchFault s q) (oCqStatus q)) 17 = true := by
  unfold fetchFault
  rw [csrGet_raiseFault (oCqStatus_ne hq (by decide)) (oCqStatus_ne hq (by decide))]
  show bit (csrGet (csrPut _ _ _) _) 17 = true
  rw [csrGet_csrPut h.csrClr.csr, bit_or, bit_eq_testBit (2 ^ 17), Nat.testBit_two_pow_self, Bool.or_true]

theorem logsOnly_fetchFault : LogsOnly s (fetchFault s q) :=
  LogsOnly.trans (t := csrSet (csrClr s (oCqCtl q) 1) (oCqStatus q) (2 ^ 17)) rfl (logsOnly_raiseFault ..)

theorem prefetch_dropPrefetch (h : Canon s) : (queue (dropPrefetch s q) q).prefetch = [] := by
  have hset : queue (setQueue s q { queue s q with prefetch := [], fetching := 0 }) q =
      { queue s q with prefetch := [], fetching := 0 } := slook_sput h.queues
  exact congrArg Queue.prefetch hset

/-! ## The acknowledgement -/

/-- What a write's acknowledgement does before its use is served: the bytes, and the counts of the port. -/
def writeLanded (s : State) (w : MpWrite) (err : Bool) : State :=
  bwAdd (pmcEvent (setMem (dropWrite s w.port w.tag)
    (if err then wrFree s.mem w.addr w.data.length else wrBytes s.mem w.addr w.data)) 0x051 (some w.port) none none
    w.data.length) w.port 1 w.data.length

theorem writeAck_record {w : MpWrite} (hu : w.use = .record q) (err : Bool) :
    writeAck w err s = recordAcked (writeLanded s w err) q err := by
  unfold writeAck writeLanded writeDone
  rw [hu]

theorem countsOnly_writeLanded (w : MpWrite) (err : Bool) : CountsOnly (setMem (dropWrite s w.port w.tag)
    (if err then wrFree s.mem w.addr w.data.length else wrBytes s.mem w.addr w.data)) (writeLanded s w err) :=
  (CountsOnly.refl _).pmcEvent.bwAdd

theorem Canon.writeLanded (h : Canon s) (w : MpWrite) (err : Bool) : Canon (writeLanded s w err) :=
  (h.dropWrite.setMem h.wf_acked).pmcEvent.bwAdd

theorem exec_mpWriteAck {port tag : Nat} {w : MpWrite} (hs : Working s) (hold : oldTag s true port tag = false)
    (hw : writeOf s port tag = some w) (err : Bool) : exec (.mpWriteAck port tag err) s = .next (writeAck w err s) := by
  obtain ⟨⟨hn, hi⟩, hr⟩ := hs
  show execMpWriteAck port tag err s = _
  simp only [execMpWriteAck, hn, hi, hold, hw, hr, Bool.or_self, Bool.false_eq_true, if_false, Bool.not_true]

section
variable {w : MpWrite} {err : Bool}

theorem queue_writeLanded (k : Nat) : queue (writeLanded s w err) k = queue s k :=
  (countsOnly_writeLanded w err).samplesOnly.queue k

theorem findCmd_writeLanded (k g : Nat) : findCmd (writeLanded s w err) k g = findCmd s k g :=
  (countsOnly_writeLanded w err).samplesOnly.findCmd k g

theorem mem_writeLanded : (writeLanded s w err).mem =
    if err then wrFree s.mem w.addr w.data.length else wrBytes s.mem w.addr w.data :=
  (countsOnly_writeLanded w err).samplesOnly.mem

theorem nextRecord_writeLanded : nextRecord (writeLanded s w err) q = nextRecord s q := by
  unfold nextRecord
  simp only [queue_writeLanded, findCmd_writeLanded]

/-- Taking a record and counting it change the front end, memory, registers and counters alone. -/
theorem recordCounted_frame : { recordCounted (recordTaken (writeLanded s w err) q c r) q c r with
    csr := s.csr, pmc := s.pmc, front := s.front, mem := s.mem } = s := by
  have hcount := congrArg (fun v : State => { v with csr := s.csr, pmc := s.pmc, front := s.front, mem := s.mem })
    (samplesOnly_recordCounted (s := recordTaken (writeLanded s w err) q c r) (q := q) (c := c) (r := r)).1
  have hland := congrArg (fun v : State => { v with csr := s.csr, pmc := s.pmc, front := s.front, mem := s.mem })
    (countsOnly_writeLanded (s := s) w err).1
  exact hcount.trans hland

end

end

/-- Settles O24: a record is written, held, and taken by its acknowledgement, refused or not. -/
theorem completionRecords : Obligations.CompletionRecords := by
  refine ⟨?_, ?_, ?_, ?_⟩
  · intro s q p tg c r hs hw hf hn hp ht
    refine ⟨_, congrArg Host.Outcome.next (working_eq hs _), ?_⟩
    rw [writeRecord_eq hs.2 hw hf hn hp ht]
    refine ⟨?_, rfl, rfl, rfl, rfl⟩
    rw [queue_setQueue (fun h => by cases congrArg Queue.writing h)]
  · intro s q hs hf
    refine congrArg Host.Outcome.next ((working_eq hs _).trans ?_)
    unfold writeRecord
    rw [hf, Bool.or_true, Bool.true_or, if_pos rfl]
  · intro s q port tag w c r hs hinv _ hold hw hu hn
    have hcan : Canon (writeLanded s w false) := (hinv.canon hs.1.2).writeLanded w false
    have hack : writeAck w false s = recordCounted (recordTaken (writeLanded s w false) q c r) q c r :=
      (writeAck_record hu false).trans (recordAcked_eq (nextRecord_writeLanded.trans hn) false)
    have hc : SamplesOnly (recordTaken (writeLanded s w false) q c r) _ := samplesOnly_recordCounted (q := q) (c := c) (r := r)
    have hq := (hc.queue q).trans (queue_recordTaken hcan)
    rw [queue_writeLanded] at hq
    refine ⟨_, (exec_mpWriteAck hs hold hw false).trans (congrArg _ hack), hc.mem.trans mem_writeLanded,
      (hc.findCmd _ _).trans findCmd_recordTaken_same, fun k g hk => ?_, congrArg Queue.ctail hq, congrArg Queue.done hq,
      congrArg Queue.writing hq, congrArg Queue.evidx hq, fun k hk => ?_, fun o ho => ?_, recordCounted_frame⟩
    · exact (hc.findCmd k g).trans ((findCmd_recordTaken_other hk).trans (findCmd_writeLanded k g))
    · exact (hc.queue k).trans ((queue_recordTaken_other hk).trans (queue_writeLanded k))
    · exact (hc.2 o ho).trans ((countsOnly_writeLanded w false).2.1 o ho)
  · intro s q port tag w c r hs hinv hq hold hw hu hn
    have hcan : Canon (writeLanded s w true) := (hinv.canon hs.1.2).writeLanded w true
    have hack : writeAck w true s =
        fetchFault (dropPrefetch (recordCounted (recordTaken (writeLanded s w true) q c r) q c r) q) q :=
      (writeAck_record hu true).trans (recordAcked_eq (nextRecord_writeLanded.trans hn) true)
    have hc : SamplesOnly (recordTaken (writeLanded s w true) q c r) _ := samplesOnly_recordCounted (q := q) (c := c) (r := r)
    have hcan2 := (hcan.recordTaken (q := q) (c := c) (r := r)).recordCounted (q := q) (c := c) (r := r)
    have hlog := logsOnly_fetchFault (q := q)
      (s := dropPrefetch (recordCounted (recordTaken (writeLanded s w true) q c r) q c r) q)
    refine ⟨_, (exec_mpWriteAck hs hold hw true).trans (congrArg _ hack), qEn_fetchFault hcan2.dropPrefetch hq,
      ferr_fetchFault hcan2.dropPrefetch hq, ?_, ?_, fun a ha => ?_⟩
    · unfold queue
      rw [hlog.front]
      exact prefetch_dropPrefetch hcan2
    · unfold findCmd
      rw [hlog.front]
      exact (hc.findCmd _ _).trans findCmd_recordTaken_same
    · rw [hlog.mem]
      show rdByte (recordCounted _ q c r).mem a = rdByte s.mem a
      rw [hc.mem]
      show rdByte (writeLanded s w true).mem a = rdByte s.mem a
      rw [mem_writeLanded, if_pos rfl]
      exact rdByte_wrFree_ne ha

end Sys2Proof.Machine
end

section
/-! The ports of the fabric: what each operation makes of a port (R297 to R302, R308, R324, R325). -/

namespace Sys2Proof.Machine

-- One proof at a time: hundreds of short ones side by side take more threads than the check has memory for.
set_option Elab.async false

/-! ## Fields and masks -/

/-- A field written reads as what was written, cut to its width. -/
theorem bits_setBits (x lo w v : Nat) : bits (setBits x lo w v) lo w = v % 2 ^ w := by
  have hpos : 0 < 2 ^ lo := Nat.two_pow_pos lo
  have hx := Nat.div_add_mod x (2 ^ lo)
  have hq := Nat.div_add_mod (x / 2 ^ lo) (2 ^ w)
  have hle : x / 2 ^ lo % 2 ^ w * 2 ^ lo ≤ x := (Nat.mul_le_mul_right _ (Nat.mod_le ..)).trans (Nat.div_mul_le_self ..)
  have hsum : setBits x lo w v =
      x % 2 ^ lo + 2 ^ lo * (v % 2 ^ w + 2 ^ w * (x / 2 ^ lo / 2 ^ w)) := by
    have hexp : 2 ^ lo * (x / 2 ^ lo) =
        2 ^ lo * (2 ^ w * (x / 2 ^ lo / 2 ^ w)) + x / 2 ^ lo % 2 ^ w * 2 ^ lo := by
      rw [Nat.mul_comm (_ % _), ← Nat.mul_add, hq]
    unfold setBits bits
    rw [Nat.shiftRight_eq_div_pow, Nat.mul_add, Nat.mul_comm (v % 2 ^ w)]
    omega
  unfold bits
  rw [hsum, Nat.shiftRight_eq_div_pow, Nat.add_mul_div_left _ _ hpos, Nat.div_eq_of_lt (Nat.mod_lt _ hpos), Nat.zero_add,
    Nat.add_mul_mod_self_left, Nat.mod_mod]

theorem bit_setBits_zero (x i : Nat) : bit (setBits x i 1 0) i = false := by
  have h := bits_setBits x i 1 0
  unfold bits at h
  unfold bit
  rw [show (2 : Nat) = 2 ^ 1 from rfl, h]
  rfl

theorem bit_laneMask (l : List Nat) (g : Nat) : bit (laneMask l) g = decide (g ∈ l) := by
  have hfold : ∀ (l : List Nat) (m : Nat), bit (l.foldl (fun m j => m ||| 2 ^ j) m) g = (bit m g || decide (g ∈ l)) := by
    intro l
    induction l with
    | nil => simp
    | cons j l ih =>
      intro m
      rw [List.foldl_cons, ih, bit_or, bit_eq_testBit (2 ^ j), Nat.testBit_two_pow, Bool.or_assoc]
      congr 1
      simp [eq_comm]
  rw [laneMask, hfold, bit_zero_left, Bool.false_or]

section
variable {s t u : State} {n k : Nat} {x : Port}

/-! ## One port -/

theorem port_setPort (h : Canon s) : port (setPort s n x) n = x := slook_sput h.ports

theorem port_setPort_other (h : k ≠ n) : port (setPort s n x) k = port s k := slook_sput_ne h

theorem port_setPhyEn (on : Bool) : port (setPhyEn s n on) k = port s k := rfl

theorem LogsOnly.port (h : LogsOnly s t) (k : Nat) : port t k = port s k := by
  unfold Machine.port
  rw [h.fab]

theorem port_requeue (h : Canon s) :
    port (requeue s n) n = { port s n with txq := (port s n).txq.filter (·.started) } := port_setPort h

theorem port_requeue_other (h : k ≠ n) : port (requeue s n) k = port s k := port_setPort_other h

theorem port_startTraining (h : Canon s) : port (startTraining s n) n =
    { port s n with st := if (port s n).phyRdy then 2 else 1, retrain := false, pend := false, retired := 0 } :=
  port_setPort h

theorem port_startTraining_other (h : k ≠ n) : port (startTraining s n) k = port s k := port_setPort_other h

/-- A port that reaches DOWN as it stands there, before an enable that is pending trains it anew. -/
def downPort (s : State) (n : Nat) : Port :=
  { port s n with
    st := 0, retrain := portEn s n && !(port s n).pend, ver := 0, groups := 0, active := 0, retry := [], rx := [], txq := [],
    fails := [], marks := [] }

theorem portDown_eq (s : State) (n : Nat) : portDown s n =
    if (port s n).pend then startTraining (setPhyEn (setPort s n (downPort s n)) n false) n
    else setPhyEn (setPort s n (downPort s n)) n false := rfl

theorem csr_portDown : (portDown s n).csr = s.csr := by
  rw [portDown_eq]
  split <;> rfl

theorem wire_portDown : (portDown s n).fab.wire = s.fab.wire := by
  rw [portDown_eq]
  split <;> rfl

theorem port_portDown (h : Canon s) : port (portDown s n) n =
    if (port s n).pend then
      { downPort s n with st := if (port s n).phyRdy then 2 else 1, retrain := false, pend := false, retired := 0 }
    else downPort s n := by
  have hset : port (setPhyEn (setPort s n (downPort s n)) n false) n = downPort s n := port_setPort h
  rw [portDown_eq]
  split
  · rw [port_startTraining h.setPort.setPhyEn, hset]
    rfl
  · exact hset

theorem port_portDown_other (h : k ≠ n) : port (portDown s n) k = port s k := by
  rw [portDown_eq]
  split
  · rw [port_startTraining_other h]
    exact port_setPort_other h
  · exact port_setPort_other h

theorem portEn_csrSet (h : Canon s) : portEn (csrSet s (oFabPctl n) 1) n = true := by
  unfold portEn csrSet
  rw [csrGet_csrPut h.csr, bit_or]
  simp [bit]

theorem portEn_csrClr (h : Canon s) : portEn (csrClr s (oFabPctl n) 1) n = false := by
  unfold portEn csrClr
  rw [csrGet_csrPut h.csr, bit_eq_testBit, Nat.testBit_and,
    show (span 63 0 ^^^ 1).testBit 0 = false by decide +kernel, Bool.and_false]

theorem portEn_of_csr (h : t.csr = s.csr) : portEn t n = portEn s n := by
  unfold portEn csrGet
  rw [h]

/-! ## Training -/

theorem oFabPerr_ne (hn : n < 6) : oFabPerr n ≠ 0xD0E00 := by unfold oFabPerr; omega

theorem fabricOnly_trainFail (s : State) (n code : Nat) : FabricOnly s (trainFail s n code) :=
  ((fabricOnly_setPort s n _).trans ((logsOnly_countF ..).fabricOnly)).trans
    (((fabricOnly_setPort _ n _).trans (fabricOnly_setPhyEn _ n false)).trans (logsOnly_logEntry ..).fabricOnly)

theorem trainingFails_trainFail (h : Canon s) (hn : n < 6) (code : Nat) : TrainingFails s (trainFail s n code) n code := by
  obtain ⟨s1, hs1⟩ := exists_eq (a' := countF (setPort s n { port s n with failcode := code }) (oFabPerr n) 48 16 1)
  have hcan : Canon s1 := hs1 ▸ h.setPort.countF
  have hp1 : (port s1 n).failcode = code := by
    rw [hs1, (logsOnly_countF ..).port, port_setPort h]
  have hput : ∀ o, csrGet s1 o = csrGet (csrPut s (oFabPerr n) (setBits (csrGet s (oFabPerr n)) 48 16
      (min (csrField s (oFabPerr n) 48 16 + 1) (2 ^ 16 - 1)))) o := by
    rw [hs1]
    exact fun _ => rfl
  have hen : portEn s1 n = portEn s n := by
    unfold portEn
    rw [hput, csrGet_csrPut_ne (by unfold oFabPctl oFabPerr; omega)]
  have hport : port (trainFail s n code) n =
      { port s1 n with st := 0, retrain := portEn s1 n, groups := 0, active := 0, ver := 0 } := by
    unfold trainFail
    rw [← hs1]
    exact ((logsOnly_logEntry ..).port n).trans (port_setPort hcan)
  have hcsr : csrGet (trainFail s n code) (oFabPerr n) = csrGet s1 (oFabPerr n) := by
    unfold trainFail
    rw [← hs1]
    exact csrGet_logEntry (oFabPerr_ne hn)
  refine ⟨by rw [hport], by rw [hport]; exact hp1, by rw [hport]; exact hen, ?_⟩
  rw [show csrField (trainFail s n code) (oFabPerr n) 48 16 = bits (csrGet (trainFail s n code) (oFabPerr n)) 48 16 from rfl,
    hcsr, hput, csrGet_csrPut h.csr, bits_setBits]
  omega

/-! ## Link loss (R308) -/

/-- A message cut short by a link that goes down: its buffers fall free, and its source hears of it. -/
def answerCut (s : State) (m : Msg) : State :=
  let v := freeHold s m.hold
  if m.kind = 9 then v else post v (unreachOf v m)

/-- The state in which a link has gone down, before the messages cut short are answered. -/
def linkFell (s : State) (n : Nat) (code : Option Nat) : State :=
  raiseFault (csrSet (portDown (requeue (setPort s n { port s n with failcode := code.getD (port s n).failcode }) n) n)
    (oFabPstat n) (2 ^ 11)) 0x0401 1 8 0 (code.getD 0) n

/-- The messages that a link that goes down cuts short. -/
def linkCut (s : State) (n : Nat) (code : Option Nat) : List Msg :=
  let p := port (requeue (setPort s n { port s n with failcode := code.getD (port s n).failcode }) n) n
  p.txq.map (·.orig) ++ halfCrossed p

theorem linkDown_eq (s : State) (n : Nat) (code : Option Nat) :
    linkDown s n code = (linkCut s n code).foldl answerCut (linkFell s n code) := rfl

theorem Canon.answerCut (h : Canon s) (m : Msg) : Canon (answerCut s m) := Canon.ite h.freeHold h.freeHold.post

theorem Canon.linkFell (h : Canon s) (code : Option Nat) : Canon (linkFell s n code) :=
  h.setPort.requeue.portDown.csrSet.raiseFault

/-- Between `s` and `t` buffers have fallen free and messages have been put on their way. -/
structure FreesOnly (s t : State) : Prop where
  port : ∀ k, { port t k with freedVc := (port s k).freedVc } = port s k
  wire : ∃ more, t.fab.wire = more ++ s.fab.wire
  fabric : { t with fab := s.fab } = s

theorem FreesOnly.refl (s : State) : FreesOnly s s := ⟨fun _ => rfl, ⟨[], rfl⟩, rfl⟩

theorem FreesOnly.trans (h : FreesOnly s t) (k : FreesOnly t u) : FreesOnly s u := by
  obtain ⟨hport, ⟨m1, hw1⟩, hfab⟩ := h
  obtain ⟨kport, ⟨m2, hw2⟩, kfab⟩ := k
  refine ⟨fun i => ?_, ⟨m2 ++ m1, by rw [hw2, hw1, List.append_assoc]⟩, by rw [← hfab, ← kfab]⟩
  rw [← hport i, ← kport i]

theorem FreesOnly.csr (h : FreesOnly s t) : t.csr = s.csr := by have h' := congrArg State.csr h.fabric; exact h'

theorem FreesOnly.fabricOnly (h : FreesOnly s t) : FabricOnly s t := by
  have h' := congrArg (fun x : State => { x with pins := s.pins, csr := s.csr, pmc := s.pmc, mgt := s.mgt }) h.fabric
  exact h'

theorem freesOnly_putWire (f : Flit) : FreesOnly s (putWire s n f) := ⟨fun _ => rfl, ⟨[(n, f)], rfl⟩, rfl⟩

theorem freesOnly_setFreed (h : Canon s) (l : List Nat) : FreesOnly s (setPort s n { port s n with freedVc := l }) := by
  refine ⟨fun k => ?_, ⟨[], rfl⟩, rfl⟩
  by_cases hk : k = n
  · rw [hk, port_setPort h]
  · rw [port_setPort_other hk]

theorem freesOnly_freeHold (h : Canon s) (x : Hold) : FreesOnly s (freeHold s x) := by
  unfold freeHold freeBufs
  split
  · exact FreesOnly.refl s
  · dsimp only
    split
    · exact FreesOnly.refl s
    · split
      · exact (freesOnly_setFreed h _).trans (freesOnly_putWire _)
      · exact freesOnly_setFreed h _

theorem freesOnly_post (m : Msg) : FreesOnly s (post s m) := by
  unfold post
  split
  · exact ⟨fun _ => rfl, ⟨[], rfl⟩, rfl⟩
  · split
    · exact ⟨fun _ => rfl, ⟨[], rfl⟩, rfl⟩
    · exact ⟨fun _ => rfl, ⟨[], rfl⟩, rfl⟩

theorem freesOnly_answerCut (h : Canon s) (m : Msg) : FreesOnly s (answerCut s m) := by
  unfold answerCut
  dsimp only
  split
  · exact freesOnly_freeHold h _
  · exact (freesOnly_freeHold h _).trans (freesOnly_post _)

theorem freesOnly_answerCuts (l : List Msg) (h : Canon s) : FreesOnly s (l.foldl answerCut s) := by
  induction l generalizing s with
  | nil => exact FreesOnly.refl s
  | cons m l ih => exact (freesOnly_answerCut h m).trans (ih (h.answerCut m))

theorem oFabPstat_ne {o : Nat} (hn : n < 6) (h : 0xA0300 ≤ o) : oFabPstat n ≠ o := by unfold oFabPstat; omega

theorem port_linkFell (h : Canon s) (code : Option Nat) :
    (port (linkFell s n code) n).st = (if (port s n).pend then (if (port s n).phyRdy then 2 else 1) else 0) ∧
    (port (linkFell s n code) n).failcode = code.getD (port s n).failcode ∧
    (port (linkFell s n code) n).phyRdy = (port s n).phyRdy := by
  obtain ⟨p, hp⟩ := exists_eq (a' := port (linkFell s n code) n)
  have hport := hp.trans (((logsOnly_raiseFault ..).port n).trans
    (port_portDown (n := n) (h.setPort (n := n) (x := { port s n with failcode := code.getD (port s n).failcode })).requeue))
  unfold downPort at hport
  rw [port_requeue h.setPort, port_setPort h] at hport
  rw [← hp, hport]
  cases (port s n).pend
  · exact ⟨rfl, rfl, rfl⟩
  · exact ⟨rfl, rfl, rfl⟩

theorem linkdn_linkFell (h : Canon s) (hn : n < 6) (code : Option Nat) :
    bit (csrGet (linkFell s n code) (oFabPstat n)) 11 = true := by
  unfold linkFell
  rw [csrGet_raiseFault (oFabPstat_ne hn (by decide)) (oFabPstat_ne hn (by decide))]
  unfold csrSet
  rw [csrGet_csrPut h.setPort.requeue.portDown.csr, bit_or, bit_eq_testBit (2 ^ 11), Nat.testBit_two_pow_self, Bool.or_true]

theorem wire_linkFell (code : Option Nat) : (linkFell s n code).fab.wire = s.fab.wire := by
  unfold linkFell
  rw [(logsOnly_raiseFault ..).fab]
  exact wire_portDown

theorem fabricOnly_requeue (s : State) (n : Nat) : FabricOnly s (requeue s n) := rfl

theorem fabricOnly_linkFell (code : Option Nat) : FabricOnly s (linkFell s n code) :=
  (fabricOnly_setPort s n _).trans ((fabricOnly_requeue ..).trans
    ((fabricOnly_portDown _ n).trans ((logsOnly_csrSet ..).fabricOnly.trans (logsOnly_raiseFault ..).fabricOnly)))

theorem freesOnly_linkDown (h : Canon s) (code : Option Nat) : FreesOnly (linkFell s n code) (linkDown s n code) :=
  freesOnly_answerCuts _ (h.linkFell code)

theorem fabricOnly_linkDown (h : Canon s) (code : Option Nat) : FabricOnly s (linkDown s n code) :=
  (fabricOnly_linkFell code).trans (freesOnly_linkDown h code).fabricOnly

theorem phyRdy_linkDown (h : Canon s) (code : Option Nat) : (port (linkDown s n code) n).phyRdy = (port s n).phyRdy :=
  (congrArg Port.phyRdy ((freesOnly_linkDown h code).port n)).trans (port_linkFell h code).2.2

theorem linkLost_linkDown (h : Canon s) (hn : n < 6) (code : Option Nat) :
    LinkLost s (linkDown s n code) n (code.getD (port s n).failcode) := by
  have hfrees := freesOnly_linkDown (n := n) h code
  obtain ⟨hst, hfail, -⟩ := port_linkFell (n := n) h code
  refine ⟨?_, (congrArg Port.failcode (hfrees.port n)).trans hfail, ?_⟩
  · rw [phyRdy_linkDown h]
    exact (congrArg Port.st (hfrees.port n)).trans hst
  · unfold csrGet
    rw [hfrees.csr]
    exact linkdn_linkFell h hn code

theorem wire_linkDown (h : Canon s) (code : Option Nat) : ∃ more, (linkDown s n code).fab.wire = more ++ s.fab.wire := by
  obtain ⟨more, hw⟩ := (freesOnly_linkDown (n := n) h code).wire
  exact ⟨more, by rw [hw, wire_linkFell]⟩

end

end Sys2Proof.Machine
end

section
/-! Port states and training (R297 to R302, R308, R324, R325, Table 12.1). -/

namespace Sys2Proof.Machine

-- One proof at a time: hundreds of short ones side by side take more threads than the check has memory for.
set_option Elab.async false

section
variable {s : State} {n : Nat}

/-! ## Writes of FAB_PCTL -/

theorem access_fabPctl (hr : isReady s = true) (hn : n < 6) : access s (oFabPctl n) true true = .taken := by
  have hreg : ∀ n, n < 6 → (regInfo (oFabPctl n)).isSome = true := by decide
  obtain ⟨r, hreg⟩ := Option.isSome_iff_exists.mp (hreg n hn)
  have hb : s.glb.boot ≠ .coldReset := fun h => by simp [isReady, h] at hr
  have hmirror : ¬ (0xC8000 ≤ oFabPctl n ∧ oFabPctl n ≤ 0xC93A8) := by unfold oFabPctl; omega
  simp [access, rangeOpen, hb, hr, hmirror, hreg]

theorem writeReg_fabPctl (hn : n < 6) (v : Nat) :
    writeReg s (oFabPctl n) v 0 = if bit v 0 then portEnable n s else portDisable n s := by
  interval_cases n <;> rfl

/-- The state in which a write of a register takes effect: its transfer is counted. -/
def writeCounted (s : State) : State := bwAdd s 26 0 8

theorem countsOnly_writeCounted : CountsOnly s (writeCounted s) := (CountsOnly.refl s).bwAdd

theorem Canon.writeCounted (h : Canon s) : Canon (writeCounted s) := h.bwAdd

theorem port_writeCounted (k : Nat) : port (writeCounted s) k = port s k := by
  have hfab := congrArg State.fab (countsOnly_writeCounted (s := s)).1
  unfold port
  exact congrArg (fun f : Fab => slook (fun _ => {}) f.ports k) hfab

theorem portEn_writeCounted (hn : n < 6) : portEn (writeCounted s) n = portEn s n := by
  have hcount : ∀ n, n < 6 → countsIn (oFabPctl n) = false := by decide
  unfold portEn
  rw [countsOnly_writeCounted.2.1 _ (hcount n hn)]

theorem exec_portEnable (hs : Working s) (hn : n < 6) :
    exec (.portEnable n true) s = .next (csrOut (portEnable n (writeCounted s)) 0 false) := by
  show doWrite (oFabPctl n) true 1 0 s = _
  rw [doWrite_served hs.1, csrWriteAt_taken (access_fabPctl hs.2 hn), writeReg_fabPctl hn]
  rfl

theorem exec_portDisable (hs : Working s) (hn : n < 6) :
    exec (.portDisable n true) s = .next (csrOut (portDisable n (writeCounted s)) 0 false) := by
  show doWrite (oFabPctl n) true 0 0 s = _
  rw [doWrite_served hs.1, csrWriteAt_taken (access_fabPctl hs.2 hn), writeReg_fabPctl hn]
  rfl

/-! ## Enables (R324, R325) -/

theorem portEnable_of_down (h0 : (port s n).st = 0) : portEnable n s =
    if portEn s n = false ∧ portFused s n = false then startTraining (csrSet s (oFabPctl n) 1) n
    else csrSet s (oFabPctl n) 1 := by
  unfold portEnable train
  dsimp only
  rw [if_pos h0, show portFused (csrSet s (oFabPctl n) 1) n = portFused s n from rfl]
  cases portEn s n <;> cases portFused s n <;> rfl

theorem portEnable_of_drain (h6 : (port s n).st = 6) :
    portEnable n s = setPort (csrSet s (oFabPctl n) 1) n { port s n with pend := true } := by
  unfold portEnable
  dsimp only
  rw [if_neg (by omega), if_pos h6]

theorem portEnable_of_used (h0 : (port s n).st ≠ 0) (h6 : (port s n).st ≠ 6) :
    portEnable n s = csrSet s (oFabPctl n) 1 := by
  unfold portEnable
  dsimp only
  rw [if_neg h0, if_neg h6]

/-- EN is set; a port that is DOWN trains unless EN was set or it is fused off, and one in DRAIN notes the enable. -/
theorem portEnable_spec (h : Canon s) :
    portEn (portEnable n s) n = true ∧ (∀ k, k ≠ n → port (portEnable n s) k = port s k) ∧ FabricOnly s (portEnable n s) ∧
    (port (portEnable n s) n).st = (if (port s n).st = 0 ∧ portEn s n = false ∧ portFused s n = false then
      (if (port s n).phyRdy then 2 else 1) else (port s n).st) ∧
    ((port s n).st = 6 → (port (portEnable n s) n).pend = true) := by
  have hset : FabricOnly s (csrSet s (oFabPctl n) 1) := (logsOnly_csrSet ..).fabricOnly
  by_cases h0 : (port s n).st = 0
  · rw [portEnable_of_down h0]
    by_cases ht : portEn s n = false ∧ portFused s n = false
    · rw [if_pos ht, if_pos ⟨h0, ht⟩, port_startTraining h.csrSet]
      exact ⟨portEn_csrSet h, fun k hk => port_startTraining_other hk, hset.trans (fabricOnly_startTraining _ n), rfl,
        fun h6 => by omega⟩
    · rw [if_neg ht, if_neg fun hc => ht hc.2]
      exact ⟨portEn_csrSet h, fun _ _ => rfl, hset, rfl, fun h6 => by omega⟩
  · rw [if_neg fun hc => h0 hc.1]
    by_cases h6 : (port s n).st = 6
    · rw [portEnable_of_drain h6, port_setPort h.csrSet]
      exact ⟨portEn_csrSet h, fun k hk => port_setPort_other hk, hset.trans (fabricOnly_setPort _ n _), rfl, fun _ => rfl⟩
    · rw [portEnable_of_used h0 h6]
      exact ⟨portEn_csrSet h, fun _ _ => rfl, hset, rfl, fun hc => absurd hc h6⟩

theorem portDisable_of_training (h1 : 1 ≤ (port s n).st ∧ (port s n).st ≤ 4) :
    portDisable n s = portDown (csrClr s (oFabPctl n) 1) n := if_pos h1

theorem portDisable_of_up (h5 : (port s n).st = 5) : portDisable n s =
    requeue (setPort (csrClr s (oFabPctl n) 1) n { port s n with st := 6 }) n := by
  unfold portDisable
  dsimp only
  rw [if_neg (by omega), if_pos h5]

theorem portDisable_of_rest (h1 : ¬(1 ≤ (port s n).st ∧ (port s n).st ≤ 4)) (h5 : (port s n).st ≠ 5) : portDisable n s =
    setPort (csrClr s (oFabPctl n) 1) n { port s n with retrain := false, pend := false } := by
  unfold portDisable
  dsimp only
  rw [if_neg h1, if_neg h5]

/-- EN is cleared; a port in training goes DOWN, and one that is UP drains with the messages that have begun. -/
theorem portDisable_spec (h : Canon s) (hp : (port s n).st = 0 ∨ 5 ≤ (port s n).st ∨ (port s n).pend = false) :
    portEn (portDisable n s) n = false ∧ (∀ k, k ≠ n → port (portDisable n s) k = port s k) ∧
    FabricOnly s (portDisable n s) ∧
    (port (portDisable n s) n).st = (if 1 ≤ (port s n).st ∧ (port s n).st ≤ 4 then 0 else if (port s n).st = 5 then 6
      else (port s n).st) ∧
    ((port s n).st = 5 → (port (portDisable n s) n).txq = (port s n).txq.filter (·.started)) := by
  have hclr : FabricOnly s (csrClr s (oFabPctl n) 1) := (logsOnly_csrPut ..).fabricOnly
  by_cases h1 : 1 ≤ (port s n).st ∧ (port s n).st ≤ 4
  · have hpend : (port (csrClr s (oFabPctl n) 1) n).pend ≠ true := by
      rw [port_csrClr, hp.resolve_left (by omega) |>.resolve_left (by omega)]
      exact Bool.false_ne_true
    rw [portDisable_of_training h1, if_pos h1, port_portDown h.csrClr, if_neg hpend]
    exact ⟨(portEn_of_csr csr_portDown).trans (portEn_csrClr h), fun k hk => port_portDown_other hk,
      hclr.trans (fabricOnly_portDown _ n), rfl, fun h5 => by omega⟩
  · rw [if_neg h1]
    by_cases h5 : (port s n).st = 5
    · rw [portDisable_of_up h5, if_pos h5, port_requeue h.csrClr.setPort, port_setPort h.csrClr]
      exact ⟨portEn_csrClr h, fun k hk => (port_requeue_other hk).trans (port_setPort_other hk),
        hclr.trans ((fabricOnly_setPort _ n _).trans (fabricOnly_requeue ..)), rfl, fun _ => rfl⟩
    · rw [portDisable_of_rest h1 h5, if_neg h5, port_setPort h.csrClr]
      exact ⟨portEn_csrClr h, fun k hk => port_setPort_other hk, hclr.trans (fabricOnly_setPort _ n _), rfl,
        fun hc => absurd hc h5⟩

/-! ## The PHY (R35) -/

/-- The pending rota switch of a port whose island is reset takes effect (R110). -/
def phyFallBase (s : State) (n : Nat) : State := if bit s.rotaPend (32 + n) then rotaToggle s (32 + n) else s

theorem phyFall_eq (s : State) (n : Nat) : phyFall n s =
    if 2 ≤ (port s n).st then linkDown (setPort (phyFallBase s n) n { port s n with phyRdy := false }) n (some 0x09)
    else setPort (phyFallBase s n) n { port s n with phyRdy := false } := rfl

theorem rotaPend_phyFallBase : bit (phyFallBase s n).rotaPend (32 + n) = false := by
  unfold phyFallBase
  split
  · exact bit_setBits_zero ..
  · next h => exact Bool.eq_false_iff.mpr h

theorem Canon.phyFallBase (h : Canon s) : Canon (phyFallBase s n) := Canon.ite h.rotaToggle h

theorem phyFallBase_frame : { phyFallBase s n with rotaActive := s.rotaActive, rotaPend := s.rotaPend } = s := by
  unfold phyFallBase
  split <;> rfl

theorem phyFallBase_mem : (phyFallBase s n).mem = s.mem := by
  have h := congrArg State.mem (phyFallBase_frame (s := s) (n := n)); exact h

theorem phyFallBase_csr : (phyFallBase s n).csr = s.csr := by
  have h := congrArg State.csr (phyFallBase_frame (s := s) (n := n)); exact h

/-! ## The stages of training (R297, R299) -/

/-- The lane groups that can be used: six of their lanes are good (R297). -/
def usableGroups (good : Nat) : List Nat := (List.range 4).filter (fun g => decide (6 ≤ (groupLanes good g).length))

theorem mem_usableGroups {good g : Nat} : g ∈ usableGroups good ↔ g < 4 ∧ 6 ≤ (groupLanes good g).length := by
  simp [usableGroups]

/-- The lanes that both ends report and that are not fused bad. -/
def goodLanes (s : State) (n mine peer : Nat) : Nat :=
  mine &&& peer &&& (span 31 0 ^^^ (nth s.glb.fuses.lanes n &&& span 31 0))

theorem laneReport_of_none {mine peer : Nat} (h2 : (port s n).st = 2)
    (hg : ∀ g, g < 4 → (groupLanes (goodLanes s n mine peer) g).length < 6) :
    laneReport n mine peer s = trainFail s n 0x02 := by
  have hempty : (usableGroups (goodLanes s n mine peer)).isEmpty = true := by
    rw [List.isEmpty_iff, List.eq_nil_iff_forall_not_mem]
    intro g hmem
    obtain ⟨hlt, hle⟩ := mem_usableGroups.mp hmem
    exact absurd (hg g hlt) (by omega)
  exact (if_neg fun hne => hne h2).trans (if_pos hempty)

theorem laneReport_of_some {mine peer : Nat} (h2 : (port s n).st = 2)
    (hg : ∃ g, g < 4 ∧ 6 ≤ (groupLanes (goodLanes s n mine peer) g).length) :
    laneReport n mine peer s = setPort s n { port s n with
      st := 3, good := goodLanes s n mine peer, groups := laneMask (usableGroups (goodLanes s n mine peer)),
      active := laneMask ((usableGroups (goodLanes s n mine peer)).flatMap
        (fun g => (groupLanes (goodLanes s n mine peer) g).take 6)) } := by
  obtain ⟨g, hlt, hle⟩ := hg
  have hempty : ¬ (usableGroups (goodLanes s n mine peer)).isEmpty = true := fun he =>
    List.not_mem_nil (List.isEmpty_iff.mp he ▸ mem_usableGroups.mpr ⟨hlt, hle⟩)
  exact (if_neg fun hne => hne h2).trans (if_neg hempty)

theorem identity_of_good {w : Ident} (h3 : (port s n).st = 3) (hw : identCheck s n w = 0) :
    identity n w s = setPort s n { port s n with st := 4, ver := min 2 (max 1 w.ver) } := by
  unfold identity
  rw [if_neg fun hne => hne h3, hw]
  rfl

theorem identity_of_bad {w : Ident} (h3 : (port s n).st = 3) (hw : identCheck s n w ≠ 0) :
    identity n w s = trainFail s n (identCheck s n w) := by
  unfold identity
  rw [if_neg fun hne => hne h3]
  split
  · next h => exact absurd h hw
  · rfl

theorem trainTimeout_of_rest (h : (port s n).st = 0 ∨ 5 ≤ (port s n).st) : trainTimeout n s = s := by
  unfold trainTimeout
  split
  · omega
  · omega
  · omega
  · omega
  · rfl

/-- The stage that takes too long fails with its code (R299); IDENT with one of its four. -/
theorem trainTimeout_of_stage (h1 : 1 ≤ (port s n).st) (h4 : (port s n).st ≤ 4) : ∃ d code,
    trainTimeout n s = trainFail { s with draws := d } n code ∧ ((port s n).st = 1 → code = 1) ∧
    ((port s n).st = 2 → code = 2) ∧ ((port s n).st = 3 → 3 ≤ code ∧ code ≤ 6) ∧ ((port s n).st = 4 → code = 7) := by
  unfold trainTimeout
  split
  · exact ⟨s.draws, 1, rfl, by omega, by omega, by omega, by omega⟩
  · exact ⟨s.draws, 2, rfl, by omega, by omega, by omega, by omega⟩
  · exact ⟨s.draws + 1, 3 + (Config.freeWord s.draws).toNat % 4, rfl, by omega, by omega, by omega, by omega⟩
  · exact ⟨s.draws, 7, rfl, by omega, by omega, by omega, by omega⟩
  · next hn1 hn2 hn3 hn4 =>
    have hstages : ∀ x, 1 ≤ x → x ≤ 4 → x ≠ 1 → x ≠ 2 → x ≠ 3 → x ≠ 4 → False := by omega
    exact (hstages _ h1 h4 hn1 hn2 hn3 hn4).elim

theorem retrain_starts (h0 : (port s n).st = 0) (hr : (port s n).retrain = true) (he : portEn s n = true)
    (hf : portFused s n = false) : retrain n s = startTraining s n := by
  unfold retrain train
  dsimp only
  rw [if_pos ⟨h0, hr, he⟩, hf, if_neg Bool.false_ne_true]

theorem retrain_rests (h : (port s n).st ≠ 0 ∨ (port s n).retrain = false ∨ portEn s n = false ∨ portFused s n = true) :
    retrain n s = s := by
  unfold retrain train
  dsimp only
  split
  · next hc =>
    obtain ⟨h0, hr, he⟩ := hc
    rw [if_pos (((h.resolve_left fun hne => hne h0).resolve_left (by simp [hr])).resolve_left (by simp [he]))]
  · rfl

/-! ## The LINK flit -/

/-- The LINK flit that the end of a drain sends (Table 12.4). -/
def downFlit (s : State) (n : Nat) : Flit :=
  mkFlit (ctlBase (port s n) 0) (0xA * 2 ^ 8 + if (port s n).ver = 1 then 0 else 2 ^ 64) []

theorem sendLink_down (s : State) (n : Nat) : sendLink s n 1 0 = putWire s n (downFlit s n) := by
  unfold sendLink downFlit
  rw [Nat.one_mul, Nat.zero_mul, Nat.add_zero]

theorem kind_downFlit : bits (downFlit s n).hdr.toNat 8 4 = 0xA := by
  show bits (BitVec.ofNat 160 (0xA * 2 ^ 8 + if (port s n).ver = 1 then 0 else 2 ^ 64)).toNat 8 4 = 0xA
  split <;> decide +kernel

theorem sub_downFlit (hv : (port s n).ver ≠ 1) : bits (downFlit s n).hdr.toNat 64 4 = 1 := by
  show bits (BitVec.ofNat 160 (0xA * 2 ^ 8 + if (port s n).ver = 1 then 0 else 2 ^ 64)).toNat 64 4 = 1
  rw [if_neg hv]
  decide +kernel

end

/-- What the units of a working engine do is what the command does. -/
theorem next_working {s : State} (hs : Working s) {f : State → State} {t : State} (h : f s = t) :
    (Host.Outcome.next (working f s) : Host.Outcome State Fault Refusal) = .next t :=
  congrArg Host.Outcome.next ((working_eq hs f).trans h)

/-- Settles O54: each row's command ends with the port in the state that the chapters give. -/
theorem portStates : Obligations.PortStates := by
  refine ⟨?_, ?_, ?_, ?_, ?_, ?_, ?_, ?_, ?_⟩
  · intro s n hs hi hn
    have hcan := (hi.canon hs.1.2).writeCounted
    have hmem : (writeCounted s).mem = s.mem := countsOnly_writeCounted.fabricOnly.mem
    have hfused : portFused (writeCounted s) n = portFused s n := by
      unfold portFused
      rw [countsOnly_writeCounted.fabricOnly.glb]
    refine ⟨⟨_, exec_portEnable hs hn, ?_⟩, fun hp => ⟨_, exec_portDisable hs hn, ?_⟩⟩
    · obtain ⟨hen, hother, hfab, hst, hpend⟩ := portEnable_spec (n := n) hcan
      rw [port_writeCounted, portEn_writeCounted hn, hfused] at hst
      rw [port_writeCounted] at hpend
      exact ⟨hen, fun k hk => (hother k hk).trans (port_writeCounted k), hfab.mem.trans hmem, hst, hpend⟩
    · rw [← port_writeCounted (s := s)] at hp
      obtain ⟨hen, hother, hfab, hst, htxq⟩ := portDisable_spec hcan hp
      rw [port_writeCounted] at hst htxq
      exact ⟨hen, fun k hk => (hother k hk).trans (port_writeCounted k), hfab.mem.trans hmem, hst, htxq⟩
  · intro s n hs
    have hne : ({ port s n with phyRdy := true, st := if (port s n).st = 1 then 2 else (port s n).st } : Port) ≠ {} :=
      fun h => Bool.noConfusion (congrArg Port.phyRdy h)
    exact ⟨phyRise n s, congrArg Host.Outcome.next (served_eq hs _), rfl, slook_sput_of_ne_default hne,
      fun k hk => port_setPort_other hk⟩
  · intro s n hs hi hn
    refine ⟨_, congrArg Host.Outcome.next ((served_eq hs _).trans (phyFall_eq s n)), ?_⟩
    have hcan : Canon (phyFallBase s n) := (hi.canon hs.2).phyFallBase
    obtain ⟨u, hu⟩ := exists_eq (a' := setPort (phyFallBase s n) n { port s n with phyRdy := false })
    have hpu : port u n = { port s n with phyRdy := false } := by rw [hu, port_setPort hcan]
    have hcu : Canon u := hu ▸ hcan.setPort
    have hmu : u.mem = s.mem := by rw [hu]; exact phyFallBase_mem
    have hru : bit u.rotaPend (32 + n) = false := by rw [hu]; exact rotaPend_phyFallBase
    rw [← hu]
    by_cases h2 : 2 ≤ (port s n).st
    · rw [if_pos h2, if_pos h2]
      have hfab := fabricOnly_linkDown (n := n) hcu (some 0x09)
      have hlost := linkLost_linkDown hcu hn (some 0x09)
      unfold LinkLost at hlost
      rw [hpu] at hlost
      exact ⟨(phyRdy_linkDown hcu _).trans (by rw [hpu]), hfab.mem.trans hmu, by rw [hfab.rotaPend]; exact hru, hlost⟩
    · rw [if_neg h2, if_neg h2]
      exact ⟨by rw [hpu], hmu, hru, by rw [hpu], by rw [hu]; exact phyFallBase_csr⟩
  · intro s n mine peer hs hi hn
    have hcan := hi.canon hs.1.2
    refine ⟨fun h2 => next_working hs (if_pos h2), fun h2 hg => ?_, fun h2 hg => ?_⟩
    · exact ⟨_, next_working hs (laneReport_of_none h2 hg), trainingFails_trainFail hcan hn _,
        (fabricOnly_trainFail s n _).mem⟩
    · refine ⟨_, next_working hs (laneReport_of_some h2 hg), ?_, rfl, fun g hlt => ?_⟩
      · rw [port_setPort hcan]
      · rw [port_setPort hcan]
        show bit (laneMask (usableGroups (goodLanes s n mine.toNat peer.toNat))) g = _
        rw [bit_laneMask]
        exact decide_eq_decide.mpr (mem_usableGroups.trans (and_iff_right hlt))
  · intro s n w hs hi hn
    have hcan := hi.canon hs.1.2
    refine ⟨fun h3 => next_working hs (if_pos h3), fun h3 hw => ?_, fun h3 hw => ?_⟩
    · exact ⟨_, next_working hs (identity_of_good h3 hw), rfl, port_setPort hcan⟩
    · exact ⟨_, next_working hs (identity_of_bad h3 hw), trainingFails_trainFail hcan hn _⟩
  · intro s n echoes rtt hs hi hn
    have hcan := hi.canon hs.1.2
    refine ⟨fun h4 => next_working hs (if_pos h4), fun h4 he => ?_, fun h4 he => ?_⟩
    · exact ⟨_, next_working hs ((if_neg fun hne => hne h4).trans (if_pos he)), trainingFails_trainFail hcan hn _⟩
    · refine ⟨_, next_working hs ((if_neg fun hne => hne h4).trans (if_neg (by omega))), rfl, ?_⟩
      rw [port_setPort hcan]
      exact ⟨rfl, rfl, rfl, rfl, rfl⟩
  · intro s n hs hi hn
    have hcan := hi.canon hs.1.2
    refine ⟨fun h => next_working hs (trainTimeout_of_rest h), fun h1 h4 => ?_⟩
    obtain ⟨d, code, htrain, hcode⟩ := trainTimeout_of_stage h1 h4
    have hfails := trainingFails_trainFail (s := { s with draws := d }) hcan.of_tables hn code
    exact ⟨_, code, next_working hs htrain, hfails, hcode⟩
  · intro s n hs hi
    have hcan := hi.canon hs.1.2
    refine ⟨fun h0 hr he hf => ?_, fun h => next_working hs (retrain_rests h)⟩
    refine ⟨_, next_working hs (retrain_starts h0 hr he hf), ?_, ?_, rfl, rfl⟩
    · rw [port_startTraining hcan]
    · rw [port_startTraining hcan]
  · intro s n hs hi hn
    have hcan := hi.canon hs.1.2
    refine ⟨fun h6 => next_working hs (if_neg h6), fun h6 => ?_⟩
    have hsend : portDrainEnd n s = linkDown (putWire s n (downFlit s n)) n none :=
      (if_pos h6).trans (by rw [sendLink_down])
    obtain ⟨more, hwire⟩ := wire_linkDown (s := putWire s n (downFlit s n)) (n := n) hcan.putWire none
    exact ⟨_, downFlit s n, more, next_working hs hsend,
      linkLost_linkDown (s := putWire s n (downFlit s n)) hcan.putWire hn none, hwire, kind_downFlit, sub_downFlit⟩

end Sys2Proof.Machine
end

section
/-! Exact values and their rounding: order of magnitudes, rounding to E4M3, and the codes of a BX8 block (R57, R70). -/

namespace Sys2Proof.Machine

/-! ## Magnitudes as rational numbers -/

/-- The rational number `m × 2^e` that a finite value has as its magnitude. -/
def mag (m : Nat) (e : Int) : ℚ := m * 2 ^ e

theorem mag_nonneg (m : Nat) (e : Int) : 0 ≤ mag m e := by unfold mag; positivity

@[simp] theorem mag_zero (e : Int) : mag 0 e = 0 := by simp [mag]

theorem mag_sub (m : Nat) (e s : Int) : mag m (e - s) = mag m e * 2 ^ (-s) := by
  rw [mag, mag, mul_assoc, ← zpow_add₀ two_ne_zero, ← sub_eq_add_neg]

theorem zpow_toNat {d : Int} (h : 0 ≤ d) : (2 : ℚ) ^ d.toNat = 2 ^ d := by
  rw [← zpow_natCast, Int.toNat_of_nonneg h]

theorem scaleTo_mul (m : Nat) {e q : Int} (h : q ≤ e) : (scaleTo m e q : ℚ) * 2 ^ q = mag m e := by
  rw [scaleTo, Nat.cast_mul, Nat.cast_pow, Nat.cast_ofNat, zpow_toNat (by omega), mul_assoc, ← zpow_add₀ two_ne_zero,
    sub_add_cancel, mag]

/-- The order of finite values of sign 0 is that of their magnitudes. -/
theorem leF_fin_iff {a b : Nat} {ea eb : Int} :
    leF (.fin false a ea) (.fin false b eb) = true ↔ mag a ea ≤ mag b eb := by
  have hpos : (0 : ℚ) < 2 ^ min ea eb := by positivity
  rw [← scaleTo_mul a (min_le_left ea eb), ← scaleTo_mul b (min_le_right ea eb), mul_le_mul_iff_of_pos_right hpos,
    Nat.cast_le]
  simp only [leF, FVal.isNan, cmpF, signedAt, Bool.not_false, Bool.true_and, decide_eq_true_eq, Bool.false_eq_true,
    if_false, Int.ofNat_eq_natCast, Nat.cast_lt, Nat.cast_inj]
  split_ifs <;> omega

theorem bitLen_le_iff {m n : Nat} : bitLen m ≤ n ↔ m < 2 ^ n := by
  unfold bitLen
  split
  · next h => simp [h]
  · next h => rw [Nat.succ_le_iff, Nat.log2_lt h]

theorem lt_two_pow_bitLen (m : Nat) : m < 2 ^ bitLen m := bitLen_le_iff.mp le_rfl

theorem two_pow_le_of_bitLen {m n : Nat} (h : n < bitLen m) : 2 ^ n ≤ m := by
  have := mt bitLen_le_iff.mpr (Nat.not_le.mpr h)
  omega

theorem bitLen_pos {m : Nat} (h : m ≠ 0) : 0 < bitLen m := by simp [bitLen, h]

/-- A magnitude is below the power of two above its highest bit. -/
theorem mag_lt (m : Nat) (e : Int) : mag m e < 2 ^ (e + bitLen m) := by
  have hm : (m : ℚ) < 2 ^ bitLen m := by exact_mod_cast lt_two_pow_bitLen m
  rw [mag, add_comm, zpow_add₀ two_ne_zero, zpow_natCast]
  gcongr

/-- The highest bit of a magnitude. -/
theorem floorLog2_le_mag {m : Nat} (h : m ≠ 0) (e : Int) : (2 : ℚ) ^ floorLog2 m e ≤ mag m e := by
  have hpos := bitLen_pos h
  have hm : (2 : ℚ) ^ (bitLen m - 1) ≤ m := by exact_mod_cast two_pow_le_of_bitLen (by omega)
  have hl : floorLog2 m e = ((bitLen m - 1 : Nat) : Int) + e := by
    simp only [floorLog2, Int.ofNat_eq_natCast]; omega
  rw [mag, hl, zpow_add₀ two_ne_zero, zpow_natCast]
  gcongr

theorem bitLen_add_le_of_mag_lt {m : Nat} {e k : Int} (h0 : m ≠ 0) (h : mag m e < 2 ^ k) : e + bitLen m ≤ k := by
  have := (zpow_lt_zpow_iff_right₀ (by norm_num : (1 : ℚ) < 2)).mp ((floorLog2_le_mag h0 e).trans_lt h)
  simp only [floorLog2, Int.ofNat_eq_natCast] at this
  omega

/-! ## Rounding -/

/-- The whole units of `2^q` in a magnitude. -/
def unitsAt (m : Nat) (e q : Int) : Nat := if q ≤ e then scaleTo m e q else m / 2 ^ (q - e).toNat

theorem unitsAt_mul_le (m : Nat) (e q : Int) : (unitsAt m e q : ℚ) * 2 ^ q ≤ mag m e := by
  unfold unitsAt
  split
  · next h => exact (scaleTo_mul m h).le
  · next h =>
    have hd : ((m / 2 ^ (q - e).toNat : Nat) : ℚ) * 2 ^ (q - e).toNat ≤ m := by
      exact_mod_cast Nat.div_mul_le_self m _
    rw [zpow_toNat (by omega)] at hd
    calc ((m / 2 ^ (q - e).toNat : Nat) : ℚ) * 2 ^ q
        = (m / 2 ^ (q - e).toNat : Nat) * 2 ^ (q - e) * 2 ^ e := by
          rw [mul_assoc, ← zpow_add₀ two_ne_zero, sub_add_cancel]
      _ ≤ mag m e := by unfold mag; gcongr

theorem unitsAt_lt {m n : Nat} {e q : Int} (h : mag m e < n * 2 ^ q) : unitsAt m e q < n := by
  have := lt_of_mul_lt_mul_right ((unitsAt_mul_le m e q).trans_lt h) (by positivity)
  exact_mod_cast this

/-- Setting the lowest bit adds at most 1. -/
theorem or_one_le (n : Nat) : n ||| 1 ≤ n + 1 := by
  have hhalf : (n ||| 1) / 2 = n / 2 := by simp [Nat.or_div_two]
  omega

/-- Rounding goes to one of the two nearest multiples (R57). -/
theorem roundAt_le (mode m : Nat) (e q : Int) :
    (roundAt mode m e q).1 ≤ unitsAt m e q + 1 ∧ (roundAt mode m e q).2 = q := by
  unfold roundAt unitsAt
  split
  · exact ⟨Nat.le_succ _, rfl⟩
  · have hor := or_one_le (m / 2 ^ (q - e).toNat)
    dsimp only
    split_ifs
    all_goals exact ⟨by omega, rfl⟩

@[simp] theorem roundAt_zero (mode : Nat) (e q : Int) : roundAt mode 0 e q = (0, q) := by
  simp [roundAt, scaleTo]

/-! ## E4M3 -/

/-- Below 480 nothing rounds to 512 in E4M3: between 256 and 512 its values are 32 apart. -/
theorem mag_roundTo_e4m3_lt {mode m : Nat} {e : Int} (h : mag m e < 480) :
    mag (roundTo .e4m3 mode m e).1 (roundTo .e4m3 mode m e).2 < 512 := by
  by_cases h0 : m = 0
  · simp [roundTo, roundFrac, h0]
  have hlen := bitLen_add_le_of_mag_lt (k := 9) h0 (h.trans (by norm_num))
  obtain ⟨q, hq, hround⟩ : ∃ q, (e + bitLen m - 4 ≤ q ∧ q ≤ 5) ∧ roundTo .e4m3 mode m e = roundAt mode m e q :=
    ⟨_, by simp only [Flt.fb, Flt.bias, Int.ofNat_eq_natCast]; omega, rfl⟩
  obtain ⟨hle, hexp⟩ := roundAt_le mode m e q
  rw [hround, hexp]
  obtain rfl | h4 : q = 5 ∨ q ≤ 4 := by omega
  · have hu : unitsAt m e 5 < 15 := unitsAt_lt (h.trans_eq (by norm_num))
    have hk : ((roundAt mode m e 5).1 : ℚ) ≤ 15 := by exact_mod_cast hle.trans hu
    calc mag (roundAt mode m e 5).1 5 ≤ 15 * 2 ^ (5 : Int) := by unfold mag; gcongr
      _ < 512 := by norm_num
  · have hu : unitsAt m e q < 16 := by
      refine unitsAt_lt ((mag_lt m e).trans_le ?_)
      calc (2 : ℚ) ^ (e + bitLen m) ≤ 2 ^ (4 + q) := zpow_le_zpow_right₀ (by norm_num) (by omega)
        _ = (16 : Nat) * 2 ^ q := by rw [zpow_add₀ two_ne_zero]; norm_num
    have hk : ((roundAt mode m e q).1 : ℚ) ≤ 16 := by exact_mod_cast hle.trans hu
    have hq4 : (2 : ℚ) ^ q ≤ 2 ^ (4 : Int) := zpow_le_zpow_right₀ (by norm_num) h4
    calc mag (roundAt mode m e q).1 q ≤ 16 * 2 ^ (4 : Int) := by unfold mag; gcongr
      _ < 512 := by norm_num

/-- The code of a magnitude below 512 has eight bits. -/
theorem encodeFin_e4m3_lt (n : Bool) {m : Nat} {e : Int} (h : mag m e < 512) : encodeFin .e4m3 n m e < 256 := by
  have hsgn : b2n n * Flt.signBit .e4m3 ≤ 128 := by cases n <;> decide
  by_cases h0 : m = 0
  · subst h0
    simp only [encodeFin, scaleTo, Nat.zero_mul, Nat.zero_div, ite_self, Nat.two_pow_pos, if_true]
    omega
  have hlen := bitLen_add_le_of_mag_lt (k := 9) h0 (h.trans_eq (by norm_num))
  obtain ⟨q, hq, hcode⟩ : ∃ q : Int, (e + bitLen m - 4 ≤ q ∧ q ≤ 5) ∧ encodeFin .e4m3 n m e =
      if unitsAt m e q < 8 then b2n n * Flt.signBit .e4m3 + unitsAt m e q
      else b2n n * Flt.signBit .e4m3 + (q + 3 + 7).toNat * 8 + (unitsAt m e q - 8) :=
    ⟨max (e + Int.ofNat (bitLen m) - 1 - 3) (1 - 7 - 3), by simp only [Int.ofNat_eq_natCast]; omega, rfl⟩
  have hu : unitsAt m e q < 16 := by
    refine unitsAt_lt ((mag_lt m e).trans_le ?_)
    calc (2 : ℚ) ^ (e + bitLen m) ≤ 2 ^ (4 + q) := zpow_le_zpow_right₀ (by norm_num) (by omega)
      _ = (16 : Nat) * 2 ^ q := by rw [zpow_add₀ two_ne_zero]; norm_num
  rw [hcode]
  split <;> omega

/-! ## Blocks of BX8 (R70) -/

section
variable {σ α β : Type} {f : α → StateM σ β}

theorem mapM_cons_run (a : α) (l : List α) (t : σ) :
    (a :: l).mapM f t = ((f a t).1 :: (l.mapM f (f a t).2).1, (l.mapM f (f a t).2).2) := by
  rw [List.mapM_cons]
  rfl

theorem length_mapM (l : List α) (t : σ) : (l.mapM f t).1.length = l.length := by
  induction l generalizing t with
  | nil => rfl
  | cons a l ih => rw [mapM_cons_run, List.length_cons, ih, List.length_cons]

/-- What holds of every result of `f` holds of the results over a list. -/
theorem forall_mem_mapM {p : β → Prop} {l : List α} (h : ∀ a ∈ l, ∀ t, p (f a t).1) (t : σ) :
    ∀ b ∈ (l.mapM f t).1, p b := by
  induction l generalizing t with
  | nil => exact fun b hb => nomatch hb
  | cons a l ih =>
    rw [mapM_cons_run]
    exact List.forall_mem_cons.mpr ⟨h a List.mem_cons_self t, ih (fun x hx => h x (List.mem_cons_of_mem _ hx)) _⟩

end

/-- A finite value whose magnitude is at most `b`. -/
def FinLe (b : ℚ) (v : FVal) : Prop := ∃ n m e, v = .fin n m e ∧ mag m e ≤ b

theorem FinLe.mono {a b : ℚ} {v : FVal} (h : FinLe a v) (hab : a ≤ b) : FinLe b v := by
  obtain ⟨n, m, e, rfl, hm⟩ := h
  exact ⟨n, m, e, rfl, hm.trans hab⟩

theorem FinLe.self (n : Bool) (m : Nat) (e : Int) : FinLe (mag m e) (.fin n m e) := ⟨n, m, e, rfl, le_rfl⟩

/-- The larger magnitude of two finite values bounds both. -/
theorem maxMag_fin {m : Nat} {e : Int} {y : FVal} {b : ℚ} (hy : FinLe b y) :
    ∃ m1 e1, maxMag (.fin false m e) y = .fin false m1 e1 ∧ mag m e ≤ mag m1 e1 ∧ FinLe (mag m1 e1) y := by
  obtain ⟨n, my, ey, rfl, -⟩ := hy
  unfold maxMag
  split
  · next h => exact ⟨my, ey, rfl, leF_fin_iff.mp h, FinLe.self ..⟩
  · next h => exact ⟨m, e, rfl, le_rfl, n, my, ey, rfl, (not_le.mp (mt leF_fin_iff.mpr h)).le⟩

/-- The greatest magnitude of a list of finite values bounds them all. -/
theorem foldl_maxMag_fin {l : List FVal} (h : ∀ y ∈ l, ∃ b, FinLe b y) (m : Nat) (e : Int) :
    ∃ m1 e1, l.foldl maxMag (.fin false m e) = .fin false m1 e1 ∧ mag m e ≤ mag m1 e1 ∧
      ∀ y ∈ l, FinLe (mag m1 e1) y := by
  induction l generalizing m e with
  | nil => exact ⟨m, e, rfl, le_rfl, fun y hy => nomatch hy⟩
  | cons y l ih =>
    obtain ⟨b, hb⟩ := h y List.mem_cons_self
    obtain ⟨m1, e1, hmax, hle, hy⟩ := maxMag_fin (m := m) (e := e) hb
    obtain ⟨m2, e2, hfold, hle2, hl⟩ := ih (fun x hx => h x (List.mem_cons_of_mem _ hx)) m1 e1
    refine ⟨m2, e2, by rw [List.foldl_cons, hmax, hfold], hle.trans hle2, ?_⟩
    exact List.forall_mem_cons.mpr ⟨hy.mono hle2, hl⟩

theorem maxFin_fin (src : Flt) : ∃ n m e, maxFin src = .fin n m e := by
  cases src <;> exact ⟨_, _, _, rfl⟩

/-- An element that is no NaN enters the encoder as a finite value. -/
theorem clipInf_fin {src : Flt} {v : FVal} (h : v.isNan = false) (t : Tally) : ∃ b, FinLe b (clipInf src v t).1 := by
  cases v with
  | nan => cases h
  | fin n m e => exact ⟨_, FinLe.self n m e⟩
  | inf n =>
    obtain ⟨k, m, e, hmax⟩ := maxFin_fin src
    cases n
    · exact ⟨mag m e, k, m, e, hmax, le_rfl⟩
    · exact ⟨mag m e, !k, m, e, congrArg FVal.neg hmax, le_rfl⟩

/-- The exponent that a block's scale takes from its greatest element, before it is held at −126 (R70). -/
def scaleExp (m : Nat) (e : Int) : Int :=
  if leF (.fin false m e) (.fin false 7 (floorLog2 m e - 2)) then floorLog2 m e - 8 else floorLog2 m e - 7

/-- Under its block's scale the greatest element is below 480. -/
theorem mag_scaled_lt {m : Nat} {e sc : Int} (h : scaleExp m e ≤ sc) : mag m e * 2 ^ (-sc) < 480 := by
  have hpow : (2 : ℚ) ^ (-sc) ≤ 2 ^ (-scaleExp m e) := zpow_le_zpow_right₀ (by norm_num) (by omega)
  refine (mul_le_mul_of_nonneg_left hpow (mag_nonneg m e)).trans_lt ?_
  unfold scaleExp
  split
  · next hle =>
    calc mag m e * 2 ^ (-(floorLog2 m e - 8))
        ≤ mag 7 (floorLog2 m e - 2) * 2 ^ (-(floorLog2 m e - 8)) := by gcongr; exact leF_fin_iff.mp hle
      _ = 7 * 2 ^ (6 : Int) := by
          unfold mag; rw [mul_assoc, ← zpow_add₀ two_ne_zero]; congr 2; omega
      _ < 480 := by norm_num
  · have hlt : mag m e < 2 ^ (floorLog2 m e + 1) := (mag_lt m e).trans_eq (by congr 1; simp [floorLog2])
    calc mag m e * 2 ^ (-(floorLog2 m e - 7)) < 2 ^ (floorLog2 m e + 1) * 2 ^ (-(floorLog2 m e - 7)) := by gcongr
      _ = 2 ^ (8 : Int) := by rw [← zpow_add₀ two_ne_zero]; congr 1; omega
      _ < 480 := by norm_num

/-- A scaled element below 480 has a code of eight bits. -/
theorem bx8Elem_lt {mode : Nat} {sc : Int} {b : ℚ} {v : FVal} (hv : FinLe b v) (hb : b * 2 ^ (-sc) < 480)
    (t : Tally) : (bx8Elem mode sc v t).1 < 256 := by
  obtain ⟨n, m, e, rfl, hm⟩ := hv
  have hscaled : mag m (e - sc) < 480 := by
    rw [mag_sub]
    exact (mul_le_mul_of_nonneg_right hm (by positivity)).trans_lt hb
  have hcode := encodeFin_e4m3_lt n (mag_roundTo_e4m3_lt (mode := mode) hscaled)
  unfold bx8Elem
  dsimp only
  split
  · exact hcode
  · exact hcode

/-- A block has one code for its scale and one of eight bits for each element (R70). -/
theorem bx8Encode_codes (mode : Nat) (src : Flt) (xs : List FVal) (t : Tally) :
    ∃ sc codes, (bx8Encode mode src xs t).1 = sc :: codes ∧ codes.length = xs.length ∧ ∀ c ∈ codes, c < 256 := by
  unfold bx8Encode
  split
  · exact ⟨_, _, rfl, List.length_map .., by simp⟩
  · next hnan =>
    simp only [List.any_eq_true, not_exists, not_and, Bool.not_eq_true] at hnan
    set ys := (xs.mapM (clipInf src) t).1 with hys
    have hlen : ys.length = xs.length := length_mapM xs t
    have hfin : ∀ y ∈ ys, ∃ b, FinLe b y := forall_mem_mapM (fun a ha => clipInf_fin (hnan a ha)) t
    obtain ⟨m, e, hmax, -, hbound⟩ := foldl_maxMag_fin hfin 0 0
    show ∃ sc codes, ((match ys.foldl maxMag fzero with
      | .fin _ 0 _ => pure (0x00 :: ys.map (fun y => if y.sign then 0x80 else 0x00))
      | .fin _ m e => do
        let qs ← ys.mapM (bx8Elem mode (max (scaleExp m e) (-126)))
        pure ((max (scaleExp m e) (-126) + 127).toNat :: qs)
      | _ => pure (0xFF :: xs.map (fun _ => 0x7F)) : Num (List Nat)) _).1 = sc :: codes ∧ _
    rw [fzero, hmax]
    cases m with
    | zero =>
      refine ⟨_, _, rfl, by simp [hlen], fun c hc => ?_⟩
      obtain ⟨y, -, rfl⟩ := List.mem_map.mp hc
      split <;> omega
    | succ k =>
      exact ⟨_, _, rfl, (length_mapM ys _).trans hlen, forall_mem_mapM (fun y hy =>
        bx8Elem_lt (hbound y hy) (mag_scaled_lt (le_max_left ..))) _⟩

end Sys2Proof.Machine
end

section
/-! F32 values pass rounding unchanged, and RELU of one element (R52, R54, R57, Table 09.3). -/

namespace Sys2Proof.Machine

/-! ## Values that F32 holds -/

/-- `m × 2^e` as an F32 code spells it: a normal number has 24 bits, any other the least exponent (R52). -/
structure F32Fin (m : Nat) (e : Int) : Prop where
  lt : m < 2 ^ 24
  least : -149 ≤ e
  most : e ≤ 104
  normal : m < 2 ^ 23 → e = -149

/-- A value of F32. -/
def IsF32 : FVal → Prop
  | .fin _ m e => F32Fin m e
  | _ => True

section
variable {m : Nat} {e : Int}

/-- The last place of a value of F32 is its own exponent. -/
theorem F32Fin.lastPlace (h : F32Fin m e) : max (e + Int.ofNat (bitLen m) - 1 - 23) (-149) = e := by
  have hlen : bitLen m ≤ 24 := bitLen_le_iff.mpr h.lt
  have hnormal : 2 ^ 23 ≤ m → 24 ≤ bitLen m := fun hm => by
    by_contra hlt
    have := bitLen_le_iff.mp (Nat.lt_succ_iff.mp (not_le.mp hlt))
    omega
  have := h.normal
  have := h.least
  simp only [Int.ofNat_eq_natCast]
  omega

theorem F32Fin.roundTo (h : F32Fin m e) (mode : Nat) : Machine.roundTo .f32 mode m e = (m, e) := by
  show roundAt mode m e (max (e + Int.ofNat (bitLen m) - 1 - 23) (-149)) = (m, e)
  rw [h.lastPlace]
  simp [roundAt, scaleTo]

theorem maxFin_f32 : maxFin .f32 = .fin false (2 ^ 24 - 1) 104 := by decide

theorem F32Fin.leF_maxFin (h : F32Fin m e) : leF (.fin false m e) (maxFin .f32) = true := by
  rw [maxFin_f32, leF_fin_iff]
  have hm : (m : ℚ) ≤ (2 ^ 24 - 1 : Nat) := by exact_mod_cast Nat.le_sub_one_of_lt h.lt
  have he : (2 : ℚ) ^ e ≤ 2 ^ (104 : Int) := zpow_le_zpow_right₀ (by norm_num) h.most
  unfold mag
  gcongr

theorem F32Fin.f32 (h : F32Fin m e) (n : Bool) : Machine.f32 (.fin n m e) = .fin n m e := by
  simp [Machine.f32, h.roundTo, h.leF_maxFin]

theorem F32Fin.convert (h : F32Fin m e) (k : Cvt) (n : Bool) (t : Tally) :
    (Machine.convert k .f32 (.fin n m e) t).1 = encodeFin .f32 n m e := by
  simp only [Machine.convert, h.roundTo, h.leF_maxFin, if_true]
  rfl

theorem F32Fin.encodeFin (h : F32Fin m e) : Machine.encodeFin .f32 false m e =
    if m < 2 ^ 23 then m else (e + 150).toNat * 2 ^ 23 + (m - 2 ^ 23) := by
  show (let q := max (e + Int.ofNat (bitLen m) - 1 - 23) (-149)
    let k := if q ≤ e then scaleTo m e q else m / 2 ^ (q - e).toNat
    if k < 2 ^ 23 then 0 * 2 ^ 31 + k else 0 * 2 ^ 31 + (q + 23 + 127).toNat * 2 ^ 23 + (k - 2 ^ 23)) = _
  rw [h.lastPlace]
  simp only [le_refl, if_true, scaleTo, sub_self, Int.toNat_zero, pow_zero, mul_one, zero_mul, zero_add, add_assoc]
  norm_num

end

theorem IsF32.f32 {v : FVal} (h : IsF32 v) : Machine.f32 v = v := by
  cases v with
  | nan => rfl
  | inf n => rfl
  | fin n m e => exact F32Fin.f32 h n

theorem exactMul_fone (v : FVal) (t : Tally) : (exactMul v fone t).1 = v := by
  cases v with
  | nan => rfl
  | inf n => cases n <;> rfl
  | fin n m e =>
    show FVal.fin (n != false) (m * 1) (e + 0) = _
    rw [Bool.bne_false, mul_one, add_zero]

/-- A product with 1 is the value rounded. -/
theorem fmul_fone (v : FVal) (t : Tally) : (fmul v fone t).1 = f32 v := congrArg f32 (exactMul_fone v t)

/-- The value of an F32 code, by its exponent and fraction (R52). -/
theorem decodeF_f32 (x : Nat) : decodeF .f32 x =
    if x / 2 ^ 23 % 256 = 255 then (if x % 2 ^ 23 = 0 then .inf (bit x 31) else .nan)
    else if x / 2 ^ 23 % 256 = 0 then .fin (bit x 31) (x % 2 ^ 23) (-149)
    else .fin (bit x 31) (2 ^ 23 + x % 2 ^ 23) ((x / 2 ^ 23 % 256 : Nat) - 150) := by
  have hex : bits x 23 8 = x / 2 ^ 23 % 256 := by simp [bits, Nat.shiftRight_eq_div_pow]
  have hfr : bits x 0 23 = x % 2 ^ 23 := by simp [bits]
  show (if Flt.f32 = .e4m3 ∧ bits x 23 8 = 15 ∧ bits x 0 23 = 7 then FVal.nan
    else if Flt.f32 ≠ .e4m3 ∧ bits x 23 8 = 255 then (if bits x 0 23 = 0 then .inf (bit x 31) else .nan)
    else if bits x 23 8 = 0 then .fin (bit x 31) (bits x 0 23) (-149)
    else .fin (bit x 31) (2 ^ 23 + bits x 0 23) (Int.ofNat (bits x 23 8) - 127 - 23)) = _
  rw [hex, hfr, if_neg (by simp), sub_sub]
  simp

theorem isF32_decodeF (x : Nat) : IsF32 (decodeF .f32 x) := by
  rw [decodeF_f32]
  split_ifs with h1 h2 h3
  · trivial
  · trivial
  · exact ⟨by omega, by omega, by omega, fun _ => rfl⟩
  · exact ⟨by omega, by omega, by omega, by omega⟩

/-! ## RELU (Table 09.3) -/

/-- RELU of a value: NaN passes, and what is not above 0 gives +0. -/
def relu (v : FVal) : FVal := if v.isNan then .nan else if ltF fzero v then v else fzero

theorem fnApply_relu (dx2 : Bool) (v : FVal) : fnApply dx2 1 v = pure (relu v) := by
  cases v <;> rfl

theorem relu_fin (n : Bool) (m : Nat) (e : Int) :
    relu (.fin n m e) = if n = false ∧ m ≠ 0 then .fin n m e else fzero := by
  have hpos : 0 < 2 ^ (e - min 0 e).toNat := Nat.two_pow_pos _
  have hsigned : ∀ k : Nat, ltF fzero (.fin n k e) = true ↔ n = false ∧ k ≠ 0 := fun k => by
    simp only [ltF, FVal.isNan, fzero, cmpF, signedAt, scaleTo, Bool.not_false, Bool.true_and, decide_eq_true_eq,
      Bool.false_eq_true, if_false, Int.ofNat_eq_natCast, Nat.zero_mul]
    cases n
    · rcases Nat.eq_zero_or_pos k with rfl | hk
      · simp
      · have := Nat.mul_pos hk hpos
        simp only [Bool.false_eq_true, if_false, true_and]
        split_ifs <;> omega
    · simp only [if_true, Bool.true_eq_false, false_and, iff_false]
      split_ifs <;> omega
  simp only [relu, FVal.isNan, Bool.false_eq_true, if_false, hsigned]

/-- A function without bias and scale of a value of F32, where the function's value is one again. -/
theorem actElem_relu {v : FVal} (h : IsF32 v) (dx2 : Bool) (bias : FVal) (t : Tally) :
    (actElem dx2 1 fone fone bias v false t).1 = f32 (f32 (relu v)) := by
  have hin : ∀ t, (fmul v fone t).1 = v := fun t => (fmul_fone v t).trans h.f32
  have hover : ((f32 (relu v)).isInf && !(relu v).notFin) = false := by
    cases v with
    | nan => rfl
    | inf n => cases n <;> rfl
    | fin n m e =>
      rw [relu_fin]
      split
      · rw [IsF32.f32 (v := .fin n m e) h]; rfl
      · rfl
  obtain ⟨t2, hrun⟩ : ∃ t2, (actElem dx2 1 fone fone bias v false t).1 =
      (let y := relu (fmul v fone t).1
       let z := (fmul (f32 y) fone t2).1
       if (f32 y).isInf && !y.notFin && z.isInf then overRange z.sign else z) := by
    unfold actElem
    simp only [fnApply_relu]
    exact ⟨_, rfl⟩
  simp only [hrun, hin, hover, fmul_fone, Bool.false_and, Bool.false_eq_true, if_false]

theorem roundTo_zero (f : Flt) (mode : Nat) (e : Int) : ∃ q, roundTo f mode 0 e = (0, q) := ⟨_, roundAt_zero ..⟩

/-- A zero rounds to a zero. -/
theorem f32_zero (e : Int) : ∃ e1, f32 (.fin false 0 e) = .fin false 0 e1 := by
  obtain ⟨q, hround⟩ := roundTo_zero .f32 0 e
  exact ⟨q, by simp [f32, hround, maxFin_f32, leF_fin_iff, mag_nonneg]⟩

theorem convert_zero (k : Cvt) (e : Int) (t : Tally) : (convert k .f32 (.fin false 0 e) t).1 = 0 := by
  obtain ⟨q, hround⟩ := roundTo_zero .f32 k.rmode e
  have hcode : encodeFin .f32 false 0 q = 0 := by simp [encodeFin, scaleTo, b2n]
  simp only [convert, hround, maxFin_f32, leF_fin_iff, mag_zero, mag_nonneg, if_true]
  exact hcode

/-- What RELU does not pass becomes +0. -/
theorem convert_relu_neg {v : FVal} (h : relu v = fzero) (k : Cvt) (t : Tally) :
    (convert k .f32 (f32 (f32 (relu v))) t).1 = 0 := by
  obtain ⟨e1, hz1⟩ := f32_zero 0
  obtain ⟨e2, hz2⟩ := f32_zero e1
  rw [h, fzero, hz1, hz2, convert_zero]

/-- The code that RELU gives for a finite value. -/
theorem convert_relu_fin {m : Nat} {e : Int} (h : F32Fin m e) (k : Cvt) (n : Bool) (t : Tally) :
    (convert k .f32 (f32 (f32 (relu (.fin n m e)))) t).1 =
      if n then 0 else if m < 2 ^ 23 then m else (e + 150).toNat * 2 ^ 23 + (m - 2 ^ 23) := by
  have hrelu := relu_fin n m e
  cases n with
  | true => exact convert_relu_neg (hrelu.trans (by simp)) k t
  | false =>
    by_cases h0 : m = 0
    · rw [convert_relu_neg (hrelu.trans (by simp [h0])) k t]
      simp [h0]
    · rw [hrelu, if_pos ⟨rfl, h0⟩, h.f32, h.f32, h.convert, h.encodeFin, if_neg Bool.false_ne_true]

theorem bit_31_eq {x : Nat} (hx : x < 2 ^ 32) : bit x 31 = decide (2 ^ 31 ≤ x) := by
  rw [bit_eq_testBit, Nat.testBit_eq_decide_div_mod_eq]
  exact decide_eq_decide.mpr (by omega)

/-- The code that RELU of an F32 element gives, by the element's code (R54, Table 09.3). -/
theorem relu_code {x : Nat} (hx : x < 2 ^ 32) (dx2 : Bool) (k : Cvt) (bias : FVal) (t t1 : Tally) :
    (convert k .f32 (actElem dx2 1 fone fone bias (decodeF .f32 x) false t).1 t1).1 =
      if x ≤ 0x7F800000 then x else if x < 0x80000000 then 0x7FC00000
      else if x ≤ 0xFF800000 then 0 else 0x7FC00000 := by
  have hval := isF32_decodeF x
  rw [actElem_relu hval]
  rw [decodeF_f32] at hval ⊢
  by_cases hspecial : x / 2 ^ 23 % 256 = 255
  · rw [if_pos hspecial]
    by_cases hinf : x % 2 ^ 23 = 0
    · rw [if_pos hinf]
      obtain rfl | rfl : x = 0x7F800000 ∨ x = 0xFF800000 := by omega
      · rfl
      · exact convert_relu_neg rfl k t1
    · rw [if_neg hinf]
      refine Eq.trans (b := 0x7FC00000) rfl ?_
      split_ifs <;> omega
  rw [if_neg hspecial] at hval ⊢
  by_cases hneg : 2 ^ 31 ≤ x
  · have hsign : bit x 31 = true := (bit_31_eq hx).trans (decide_eq_true hneg)
    have hzero : ∀ m e, relu (.fin true m e) = fzero := fun m e => (relu_fin ..).trans (by simp)
    have h1 : ¬ x ≤ 0x7F800000 := by omega
    have h2 : ¬ x < 0x80000000 := by omega
    have h3 : x ≤ 0xFF800000 := by omega
    rw [if_neg h1, if_neg h2, if_pos h3, hsign]
    split
    · exact convert_relu_neg (hzero ..) k t1
    · exact convert_relu_neg (hzero ..) k t1
  · have hsign : bit x 31 = false := (bit_31_eq hx).trans (decide_eq_false hneg)
    have h1 : x ≤ 0x7F800000 := by omega
    rw [if_pos h1]
    by_cases hsub : x / 2 ^ 23 % 256 = 0
    · rw [if_pos hsub] at hval ⊢
      rw [convert_relu_fin hval, hsign, if_neg Bool.false_ne_true, if_pos (by omega)]
      omega
    · rw [if_neg hsub] at hval ⊢
      rw [convert_relu_fin hval, hsign, if_neg Bool.false_ne_true, if_neg (by omega)]
      omega

end Sys2Proof.Machine
end

section
/-! Accesses of an instruction to local memory that answers without error: what a read brings, where a write falls, and the
double-bit error that the instruction meets (R32, R33, R131, R167 to R169, R191). -/

namespace Sys2Proof.Machine

/-! ## The course of the accesses -/

/-- The instruction has stopped, or its next write meets its double-bit error. -/
def Io.due (io : Io) : Prop := io.stop.isSome = true ∨ ∃ e, io.strike = some (0, e)

/-- Between `io` and `io1` an instruction has at most read. -/
structure ReadsOnly (io io1 : Io) : Prop where
  mem : io1.mem = io.mem
  stop : io1.stop = io.stop
  strike : io1.strike = io.strike

/-- From `io` to `io1` an instruction has written in `here` alone, has met no error but its double-bit error, and nothing
where that error was due. -/
structure Proceeds (here : Nat → Prop) (io io1 : Io) : Prop where
  marks : io1.mem.marks = io.mem.marks
  only : ∀ a, ¬ here (a % 2 ^ 42) → rdByte io1.mem a = rdByte io.mem a
  ended : io1.ended = io.ended
  stopped : io.stop.isSome = true → io1.stop.isSome = true
  due : io.due → io1.mem = io.mem ∧ io1.due

section
variable {here : Nat → Prop} {io io1 io2 : Io}

theorem ReadsOnly.refl (io : Io) : ReadsOnly io io := ⟨rfl, rfl, rfl⟩

theorem ReadsOnly.trans (h : ReadsOnly io io1) (k : ReadsOnly io1 io2) : ReadsOnly io io2 :=
  ⟨k.mem.trans h.mem, k.stop.trans h.stop, k.strike.trans h.strike⟩

theorem ReadsOnly.marks (h : ReadsOnly io io1) : io1.mem.marks = io.mem.marks := congrArg HostMem.marks h.mem

theorem ReadsOnly.proceeds (h : ReadsOnly io io1) : Proceeds here io io1 where
  marks := h.marks
  only a _ := by rw [h.mem]
  ended := by rw [Io.ended, Io.ended, h.stop, h.strike]
  stopped hs := by rwa [h.stop]
  due hd := ⟨h.mem, by rwa [Io.due, h.stop, h.strike]⟩

theorem Proceeds.refl (io : Io) : Proceeds here io io := (ReadsOnly.refl io).proceeds

theorem Proceeds.trans (h : Proceeds here io io1) (k : Proceeds here io1 io2) : Proceeds here io io2 where
  marks := k.marks.trans h.marks
  only a ha := (k.only a ha).trans (h.only a ha)
  ended := k.ended.trans h.ended
  stopped hs := k.stopped (h.stopped hs)
  due hd := by
    obtain ⟨hmem, hdue⟩ := h.due hd
    obtain ⟨hmem1, hdue1⟩ := k.due hdue
    exact ⟨hmem1.trans hmem, hdue1⟩

theorem Proceeds.quiet (h : Proceeds here io io1) (hq : io.mem.marks = []) : io1.mem.marks = [] := h.marks.trans hq

/-- What has not stopped had not stopped before. -/
theorem Proceeds.stop_eq_none (h : Proceeds here io io1) (hs : io1.stop = none) : io.stop = none := by
  by_contra hne
  have := h.stopped (Option.isSome_iff_ne_none.mpr hne)
  rw [hs] at this
  cases this

end

/-! ## Reads -/

theorem rdByte_mod (m : HostMem) (a : Nat) : rdByte m (a % 2 ^ 42) = rdByte m a := by
  unfold rdByte
  rw [Nat.mod_mod]

theorem rdBytes_congr (m : HostMem) {a b : Nat} (h : a % 2 ^ 42 = b % 2 ^ 42) (n : Nat) :
    rdBytes m a n = rdBytes m b n := by
  induction n generalizing a b with
  | zero => rfl
  | succ n ih =>
    have hbyte : rdByte m a = rdByte m b := by rw [← rdByte_mod, h, rdByte_mod]
    rw [rdBytes, rdBytes, hbyte, ih (a := a + 1) (b := b + 1) (by omega)]

section
variable {io : Io}

/-- A local read of memory that answers every access. -/
theorem ioRead_quiet (hq : io.mem.marks = []) (a n : Nat) :
    ReadsOnly io (ioRead false a n io).2 ∧ (io.stop = none → (ioRead false a n io).1 = rdBytes io.mem a n) := by
  show ReadsOnly io (ioReadOn false a n io).2 ∧ (io.stop = none → (ioReadOn false a n io).1 = rdBytes io.mem a n)
  unfold ioReadOn
  split
  · next h0 => exact ⟨ReadsOnly.refl io, fun _ => by rw [h0]; rfl⟩
  · split
    · next hs => exact ⟨ReadsOnly.refl io, fun hn => by rw [hn] at hs; cases hs⟩
    · have hlocal : isRemote io false a = false := rfl
      have hcode : rdCode io.lvl2 io.mem (a % 2 ^ 42) n = 0 := rdCode_quiet hq ..
      rw [hlocal, if_neg Bool.false_ne_true]
      dsimp only
      rw [if_pos hcode]
      exact ⟨⟨rfl, rfl, rfl⟩, fun _ => rdBytes_congr _ (Nat.mod_mod ..) n⟩

/-- The descriptor that an operand of the command names in memory `m`. -/
def descIn (m : HostMem) (c : Cmd) (x : Nat) : Desc := descOf c.level (rdNum m (opAddr x) 64)

/-- The structure that an operand names is read without error (R74). -/
theorem readStruct_reads (hq : io.mem.marks = []) (hs : io.stop = none) (x : Nat) :
    ReadsOnly io (readStruct x io).2 ∧ (readStruct x io).1 = rdNum io.mem (opAddr x) 64 := by
  obtain ⟨hreads, hbytes⟩ := ioRead_quiet hq (opAddr x) 64
  exact ⟨hreads, congrArg leNat (hbytes hs)⟩

/-- So is the descriptor that an operand names (R165). -/
theorem readDesc_reads (hq : io.mem.marks = []) (hs : io.stop = none) (c : Cmd) (x : Nat) :
    ReadsOnly io (readDesc c x io).2 ∧ (readDesc c x io).1 = descIn io.mem c x := by
  obtain ⟨hreads, hraw⟩ := readStruct_reads hq hs x
  exact ⟨hreads, congrArg (descOf c.level) hraw⟩

/-- An instruction that begins with its descriptors A and B goes on with them. -/
theorem readDescs_run (hq : io.mem.marks = []) (hs : io.stop = none) (c : Cmd) :
    ∃ io1, ReadsOnly io io1 ∧ ∀ {α : Type} (f : Desc → Desc → Mio α),
      (readDesc c c.a >>= fun a => readDesc c c.b >>= f a) io = f (descIn io.mem c c.a) (descIn io.mem c c.b) io1 := by
  obtain ⟨hread, ha⟩ := readDesc_reads hq hs c c.a
  obtain ⟨hread1, hb⟩ := readDesc_reads (hread.marks.trans hq) (hread.stop.trans hs) c c.b
  rw [hread.mem] at hb
  refine ⟨_, hread.trans hread1, fun f => ?_⟩
  rw [← ha, ← hb]
  rfl

theorem Desc.stored_le (d : Desc) (i0 n : Nat) : d.stored i0 n ≤ n := by
  unfold Desc.stored
  split
  · exact min_le_left ..
  · exact min_le_left ..

@[simp] theorem length_codesOf (ety : Nat) (bytes : List Byte) (o n : Nat) : (codesOf ety bytes o n).length = n := by
  simp [codesOf]

/-- A row segment of a local tensor brings as many codes as were asked for (R168). -/
theorem readSeg_quiet {d : Desc} (hd : d.dom = false) (hq : io.mem.marks = []) (cs : List Nat) (i0 n : Nat) :
    ReadsOnly io (d.readSeg cs i0 n io).2 ∧ (d.readSeg cs i0 n io).1.length = n := by
  have hk : (if d.rowIn cs then d.stored i0 n else 0) ≤ n := by
    split
    · exact d.stored_le i0 n
    · exact Nat.zero_le n
  unfold Desc.readSeg
  rw [hd]
  generalize (if d.rowIn cs then d.stored i0 n else 0) = k at hk ⊢
  dsimp only
  split
  · next h0 => exact ⟨ReadsOnly.refl io, by rw [h0]; exact List.length_replicate ..⟩
  · split
    · refine ⟨(ioRead_quiet hq ..).1, (List.length_append ..).trans ?_⟩
      simp only [List.length_map, List.length_range, List.length_replicate]
      omega
    · refine ⟨(ioRead_quiet hq ..).1, (List.length_append ..).trans ?_⟩
      simp only [length_codesOf, List.length_replicate]
      omega

theorem sourceRow_run (k : Cvt) (d : Desc) (cs : List Nat) (n : Nat) (io : Io) :
    sourceRow k d cs n io = (if (d.readSeg cs 0 n io).2.stop.isSome then pure (List.replicate n fzero)
      else num ((d.readSeg cs 0 n io).1.mapM (widen k d.ety)) : Mio (List FVal)) (d.readSeg cs 0 n io).2 := rfl

/-- A source row brings as many values as were asked for. -/
theorem sourceRow_quiet {d : Desc} (hd : d.dom = false) (hq : io.mem.marks = []) (k : Cvt) (cs : List Nat) (n : Nat) :
    ReadsOnly io (sourceRow k d cs n io).2 ∧ (sourceRow k d cs n io).1.length = n := by
  obtain ⟨hreads, hlen⟩ := readSeg_quiet hd hq cs 0 n
  rw [sourceRow_run]
  split
  · exact ⟨hreads, List.length_replicate ..⟩
  · exact ⟨hreads.trans ⟨rfl, rfl, rfl⟩, (length_mapM (f := widen k d.ety) _ _).trans hlen⟩

end

/-! ## Writes -/

/-- The granule in which a run of bytes begins takes what lies in it (R33). -/
theorem wrGranules_step {io : Io} (hq : io.mem.marks = []) (hs : io.stop = none) {bs : List Byte} (hbs : bs ≠ [])
    (fuel a : Nat) :
    wrGranules io (fuel + 1) a bs = wrGranules { io with
        mem := wrBytes io.mem a (bs.take (64 - a % 64)), wr := io.wr + (bs.take (64 - a % 64)).length } fuel
      ((a + (64 - a % 64)) % 2 ^ 42) (bs.drop (64 - a % 64)) := by
  rw [wrGranules, if_neg (by simp [hbs, hs])]
  dsimp only
  rw [wrTry_quiet hq]
  simp only [Bool.false_eq_true, if_false, hs]

/-- Granule by granule, local bytes go to memory that answers every access. -/
theorem wrGranules_quiet {io : Io} (hq : io.mem.marks = []) (hs : io.stop = none) (fuel a : Nat) (bs : List Byte) :
    ∃ m w, wrGranules io fuel a bs = { io with mem := m, wr := w } ∧ m.marks = [] ∧
      ∀ b, (∀ i, i < bs.length → b % 2 ^ 42 ≠ (a + i) % 2 ^ 42) → rdByte m b = rdByte io.mem b := by
  induction fuel generalizing io a bs with
  | zero => exact ⟨io.mem, io.wr, rfl, hq, fun _ _ => rfl⟩
  | succ fuel ih =>
    by_cases hbs : bs = []
    · exact ⟨io.mem, io.wr, by rw [wrGranules, if_pos (by simp [hbs])], hq, fun _ _ => rfl⟩
    · rw [wrGranules_step hq hs hbs]
      obtain ⟨m, w, hrun, hmarks, honly⟩ := ih
        (io := { io with mem := wrBytes io.mem a (bs.take (64 - a % 64)), wr := io.wr + (bs.take (64 - a % 64)).length })
        ((wrBytes_marks ..).trans hq) hs ((a + (64 - a % 64)) % 2 ^ 42) (bs.drop (64 - a % 64))
      refine ⟨m, w, hrun, hmarks, fun b hb => (honly b fun i hi => ?_).trans ?_⟩
      · rw [List.length_drop] at hi
        have := hb (64 - a % 64 + i) (by omega)
        rwa [Nat.mod_add_mod, Nat.add_assoc]
      · exact rdByte_wrBytes_ne fun i hi => hb i (by rw [List.length_take] at hi; omega)

section
variable {here : Nat → Prop} {io : Io} {a : Nat} {bs : List Byte}

/-- Bytes that lie in one granule are written as they stand. -/
theorem wrGranules_within (hq : io.mem.marks = []) (hs : io.stop = none) (hbs : bs ≠ [])
    (h : a % 64 + bs.length ≤ 64) (fuel : Nat) :
    wrGranules io (fuel + 1) a bs = { io with mem := wrBytes io.mem a bs, wr := io.wr + bs.length } := by
  rw [wrGranules_step hq hs hbs, List.take_of_length_le (by omega), List.drop_of_length_le (by omega)]
  cases fuel <;> rfl

/-- An instruction that has stopped writes nothing more. -/
theorem ioWrite_stopped (hs : io.stop.isSome = true) : ioWrite false a bs io = ((), io) := by
  unfold ioWrite
  rw [if_pos (by simp [hs])]

/-- The write at which the double-bit error strikes is not made. -/
theorem ioWrite_struck (hs : io.stop = none) {e : Stop} (he : io.strike = some (0, e)) (hbs : bs ≠ []) :
    ioWrite false a bs io = ((), { io with stop := some e, strike := none }) := by
  have htick : strikeTick io = { io with stop := some e, strike := none } := by unfold strikeTick; rw [he]
  unfold ioWrite
  rw [if_neg (by simp [hbs, hs]), htick]
  show ((), ioWriteOn false a bs { io with stop := some e, strike := none }) = _
  unfold ioWriteOn
  rw [if_pos (by simp)]

/-- Any other write is made. -/
theorem ioWrite_made (hs : io.stop = none) (hd : ¬ io.due) (hbs : bs ≠ []) :
    ∃ io1, io1.stop = none ∧ io1.mem = io.mem ∧ io1.strike.map (·.2) = io.strike.map (·.2) ∧
      ReadsOnly (wrGranules io1 (bs.length / 64 + 2) (a % 2 ^ 42) bs) (ioWrite false a bs io).2 := by
  have htick : (strikeTick io).stop = none ∧ (strikeTick io).strike.map (·.2) = io.strike.map (·.2) := by
    unfold strikeTick
    split
    · exact ⟨hs, rfl⟩
    · next e h => exact absurd (.inr ⟨e, h⟩) hd
    · next n e h => exact ⟨hs, by rw [h]; rfl⟩
  refine ⟨strikeTick io, htick.1, strikeTick_mem io, htick.2, ?_⟩
  unfold ioWrite
  rw [if_neg (by simp [hbs, hs])]
  show ReadsOnly _ (ioWriteOn false a bs (strikeTick io))
  unfold ioWriteOn
  rw [if_neg (by simp [hbs, htick.1]), if_neg (by simp [isRemote])]
  exact ⟨rfl, rfl, rfl⟩

/-- A local write falls where its bytes lie, unless the double-bit error stops it. -/
theorem ioWrite_proceeds (hq : io.mem.marks = []) (hin : ∀ i, i < bs.length → here ((a + i) % 2 ^ 42)) :
    Proceeds here io (ioWrite false a bs io).2 := by
  by_cases hbs : bs = []
  · have hnone : ioWrite false a bs io = ((), io) := by unfold ioWrite; rw [if_pos (by simp [hbs])]
    rw [hnone]
    exact Proceeds.refl io
  cases hs : io.stop with
  | some e =>
    rw [ioWrite_stopped (by rw [hs]; rfl)]
    exact Proceeds.refl io
  | none =>
    by_cases hd : io.due
    · obtain hsome | ⟨e, he⟩ := hd
      · rw [hs] at hsome; cases hsome
      · rw [ioWrite_struck hs he hbs]
        exact { marks := rfl, only := fun _ _ => rfl, ended := by simp [Io.ended, hs, he], stopped := fun _ => rfl,
                due := fun _ => ⟨rfl, .inl rfl⟩ }
    · obtain ⟨io1, hs1, hm1, hstrike, hmade⟩ := ioWrite_made (a := a) hs hd hbs
      obtain ⟨m, w, hgran, hmarks, honly⟩ := wrGranules_quiet (by rw [hm1]; exact hq) hs1 (bs.length / 64 + 2)
        (a % 2 ^ 42) bs
      rw [hgran] at hmade
      refine { marks := hmade.marks.trans (hmarks.trans hq.symm), only := fun b hb => ?_, ended := ?_, stopped := ?_,
               due := fun h => absurd h hd }
      · rw [hmade.mem, ← hm1]
        refine honly b fun i hi heq => hb ?_
        rw [heq, Nat.mod_add_mod]
        exact hin i hi
      · rw [Io.ended, Io.ended, hmade.stop, hmade.strike, hs]
        simpa [hs1] using hstrike
      · intro h; rw [hs] at h; cases h

end

end Sys2Proof.Machine
end

section
/-! The rows that an instruction of the function units writes: the blocks of a BX8 row, one row, and the rows of a
destination (R70, R167 to R169, R239, R248). -/

namespace Sys2Proof.Machine

/-! ## Access sequences that stay in their area -/

/-- On memory that answers every access the sequence writes in `here` alone, and its value meets `Q`. -/
def Confined {α : Type} (here : Nat → Prop) (Q : α → Prop) (x : Mio α) : Prop :=
  ∀ io : Io, io.mem.marks = [] → Proceeds here io (x io).2 ∧ Q (x io).1

section
variable {α β : Type} {here : Nat → Prop} {Q : α → Prop} {R : β → Prop}

theorem Confined.pure {a : α} (h : Q a) : Confined here Q (pure a) := fun io _ => ⟨Proceeds.refl io, h⟩

theorem Confined.bind {x : Mio α} {f : α → Mio β} (hx : Confined here Q x) (hf : ∀ a, Q a → Confined here R (f a)) :
    Confined here R (x >>= f) := fun io hq => by
  obtain ⟨hrun, hval⟩ := hx io hq
  obtain ⟨hrun1, hval1⟩ := hf _ hval _ (hrun.quiet hq)
  exact ⟨hrun.trans hrun1, hval1⟩

theorem Confined.ite {p : Prop} [Decidable p] {x y : Mio α} (hx : p → Confined here Q x) (hy : ¬ p → Confined here Q y) :
    Confined here Q (if p then x else y) := by
  split
  · next h => exact hx h
  · next h => exact hy h

theorem Confined.mapM {l : List β} {f : β → Mio α} (h : ∀ b ∈ l, Confined here Q (f b)) :
    Confined here (fun as => as.length = l.length ∧ ∀ a ∈ as, Q a) (l.mapM f) := by
  induction l with
  | nil => exact Confined.pure ⟨rfl, fun a ha => nomatch ha⟩
  | cons b l ih =>
    rw [List.mapM_cons]
    refine (h b List.mem_cons_self).bind fun a ha => (ih fun x hx => h x (List.mem_cons_of_mem _ hx)).bind
      fun as has => Confined.pure ⟨congrArg Nat.succ has.1, List.forall_mem_cons.mpr ⟨ha, has.2⟩⟩

theorem confined_num {x : Num α} (h : ∀ t, Q (x t).1) : Confined here Q (num x) :=
  fun io _ => ⟨ReadsOnly.proceeds ⟨rfl, rfl, rfl⟩, h io.tally⟩

theorem confined_ioStopped : Confined here (fun _ => True) ioStopped := fun io _ => ⟨Proceeds.refl io, trivial⟩

theorem confined_sourceRow {d : Desc} (hd : d.dom = false) (k : Cvt) (cs : List Nat) (n : Nat) :
    Confined here (fun xs => xs.length = n) (sourceRow k d cs n) := fun _ hq => by
  obtain ⟨hreads, hlen⟩ := sourceRow_quiet hd hq k cs n
  exact ⟨hreads.proceeds, hlen⟩

theorem confined_ioWrite {a : Nat} {bs : List Byte} (h : ∀ i, i < bs.length → here ((a + i) % 2 ^ 42)) :
    Confined here (fun _ => True) (ioWrite false a bs) := fun _ hq => ⟨ioWrite_proceeds hq h, trivial⟩

end

/-! ## The codes of a BX8 row -/

/-- The element codes of a block carry one scale code. -/
def SharedScale (codes : List Nat) : Prop := ∀ c ∈ codes, c / 256 = codes.headD 0 / 256

/-- A block of results, narrowed to BX8. -/
def bx8Block (k : Cvt) (b : List FVal) : Num (List Nat) := do
  let vs ← b.mapM clampForBx8
  let q ← bx8Encode k.rmode .f32 (padTo 32 fzero vs)
  pure (((q.drop 1).map (fun c => nth q 0 * 256 + c)).take b.length)

theorem narrowRow_bx8 (k : Cvt) (ys : List FVal) :
    narrowRow k 5 ys = (do
      let blocks ← (runs 32 (ceilDiv ys.length 32) ys).mapM (bx8Block k)
      pure blocks.flatten) := rfl

theorem bx8Block_run (k : Cvt) (b : List FVal) (t : Tally) : (bx8Block k b t).1 =
    let vs := b.mapM clampForBx8 t
    let q := (bx8Encode k.rmode .f32 (padTo 32 fzero vs.1) vs.2).1
    ((q.drop 1).map (fun c => nth q 0 * 256 + c)).take b.length := rfl

/-- The codes of a block carry its one scale code, for the code of an element has eight bits. -/
theorem bx8Block_codes (k : Cvt) {b : List FVal} (hb : b.length ≤ 32) (t : Tally) :
    (bx8Block k b t).1.length = b.length ∧ SharedScale (bx8Block k b t).1 := by
  have hlen : (b.mapM clampForBx8 t).1.length = b.length := length_mapM b t
  have hpad : (padTo 32 fzero (b.mapM clampForBx8 t).1).length = 32 := by
    rw [padTo, List.length_append, List.length_replicate, hlen]
    omega
  obtain ⟨sc, codes, henc, hcodes, hlt⟩ := bx8Encode_codes k.rmode .f32 (padTo 32 fzero (b.mapM clampForBx8 t).1)
    (b.mapM clampForBx8 t).2
  have hrun : (bx8Block k b t).1 = (codes.map (fun c => sc * 256 + c)).take b.length := by
    rw [bx8Block_run]
    dsimp only
    rw [henc]
    rfl
  have hscale : ∀ c ∈ (bx8Block k b t).1, c / 256 = sc := fun c hc => by
    rw [hrun] at hc
    obtain ⟨x, hx, rfl⟩ := List.mem_map.mp (List.mem_of_mem_take hc)
    have := hlt x hx
    omega
  refine ⟨by rw [hrun, List.length_take, List.length_map]; omega, fun c hc => ?_⟩
  obtain ⟨a, l, hl⟩ := List.exists_cons_of_ne_nil (List.ne_nil_of_mem hc)
  rw [hscale c hc, hl, List.headD_cons, hscale a (by rw [hl]; exact List.mem_cons_self)]

/-- Every run has at most its length. -/
theorem length_of_mem_runs {α : Type} {n k : Nat} {l r : List α} (h : r ∈ runs n k l) : r.length ≤ n := by
  induction k generalizing l with
  | zero => exact nomatch h
  | succ k ih =>
    rcases List.mem_cons.mp h with rfl | h
    · rw [List.length_take]; omega
    · exact ih h

@[simp] theorem length_runs {α : Type} (n k : Nat) (l : List α) : (runs n k l).length = k := by
  induction k generalizing l with
  | zero => rfl
  | succ k ih => exact congrArg Nat.succ (ih _)

/-- Runs narrowed one by one are the runs of the row that they make. -/
theorem mapM_bx8Block_runs (k : Cvt) (n : Nat) (ys : List FVal) (hn : ys.length ≤ 32 * n) (t : Tally) :
    (((runs 32 n ys).mapM (bx8Block k) t).1.flatten).length = ys.length ∧
      ∀ b ∈ runs 32 n (((runs 32 n ys).mapM (bx8Block k) t).1.flatten), SharedScale b := by
  induction n generalizing ys t with
  | zero =>
    have hnil : ys = [] := List.length_eq_zero_iff.mp (by omega)
    subst hnil
    exact ⟨rfl, fun b hb => nomatch hb⟩
  | succ n ih =>
    obtain ⟨hhead, hshared⟩ := bx8Block_codes k (b := ys.take 32) (by rw [List.length_take]; omega) t
    obtain ⟨hlen, hrest⟩ := ih (ys.drop 32) (by rw [List.length_drop]; omega) (bx8Block k (ys.take 32) t).2
    rw [runs, mapM_cons_run, List.flatten_cons]
    set head := (bx8Block k (ys.take 32) t).1
    set rest := ((runs 32 n (ys.drop 32)).mapM (bx8Block k) (bx8Block k (ys.take 32) t).2).1.flatten
    rw [List.length_take] at hhead
    rw [List.length_drop] at hlen
    refine ⟨by rw [List.length_append, hhead, hlen]; omega, ?_⟩
    have hcut : (head ++ rest).take 32 = head ∧ (head ++ rest).drop 32 = rest := by
      by_cases hfull : 32 ≤ ys.length
      · exact ⟨List.take_left' (by omega), List.drop_left' (by omega)⟩
      · have hnil : rest = [] := List.length_eq_zero_iff.mp (by omega)
        rw [hnil, List.append_nil]
        exact ⟨List.take_of_length_le (by omega), List.drop_of_length_le (by omega)⟩
    rw [runs, hcut.1, hcut.2]
    exact List.forall_mem_cons.mpr ⟨hshared, hrest⟩

/-- What a destination row takes: codes for every element, and one scale code for each block of BX8. -/
structure RowCodes (ety n : Nat) (codes : List Nat) : Prop where
  length : ety = 5 → codes.length = n
  scale : ety = 5 → ∀ b ∈ runs 32 (ceilDiv n 32) codes, SharedScale b

theorem le_ceilDiv_mul (n : Nat) {k : Nat} (hk : 0 < k) : n ≤ k * ceilDiv n k := by
  unfold ceilDiv
  rw [if_neg hk.ne']
  have := Nat.div_add_mod (n + k - 1) k
  have := Nat.mod_lt (n + k - 1) hk
  omega

theorem narrowRow_codes (k : Cvt) (ety : Nat) (ys : List FVal) (t : Tally) :
    RowCodes ety ys.length (narrowRow k ety ys t).1 := by
  by_cases h : ety = 5
  · subst h
    rw [narrowRow_bx8]
    obtain ⟨hlen, hscale⟩ := mapM_bx8Block_runs k (ceilDiv ys.length 32) ys (le_ceilDiv_mul _ (by omega)) t
    exact ⟨fun _ => hlen, fun _ => hscale⟩
  · exact ⟨fun h5 => absurd h5 h, fun h5 => absurd h5 h⟩

/-! ## One row -/

/-- A block whose codes share their scale draws no free value. -/
theorem blockBytes_shared {here : Nat → Prop} {codes : List Nat} (h : SharedScale codes) (hlen : codes.length ≤ 32) :
    Confined here (fun bs => bs.length = 33) (blockBytes codes) := fun io _ => by
  have hscale : blockScale codes io = (BitVec.ofNat 8 (codes.headD 0 / 256), io) := by
    unfold blockScale
    rw [if_pos (List.all_eq_true.mpr fun c hc => beq_iff_eq.mpr (h c hc))]
  have hrun : blockBytes codes io = ((blockScale codes io).1 ::
      (padTo 32 0 codes).map (fun c => BitVec.ofNat 8 (c % 256)), (blockScale codes io).2) := rfl
  rw [hrun, hscale]
  refine ⟨Proceeds.refl io, ?_⟩
  simp only [List.length_cons, List.length_map, padTo, List.length_append, List.length_replicate]
  omega

theorem length_flatten_of_forall {α : Type} {n : Nat} {l : List (List α)} (h : ∀ b ∈ l, b.length = n) :
    l.flatten.length = n * l.length := by
  rw [List.length_flatten, List.map_congr_left h]
  simp [Nat.mul_comm]

@[simp] theorem length_bytesOf (ety : Nat) (codes : List Nat) :
    (bytesOf ety codes).length = etyBits ety / 8 * codes.length := by
  unfold bytesOf
  rw [length_flatten_of_forall (n := etyBits ety / 8) (by simp)]
  simp

theorem le_roundUp (n : Nat) {k : Nat} (hk : 0 < k) : n ≤ roundUp n k := by
  rw [roundUp, Nat.mul_comm]
  exact le_ceilDiv_mul n hk

/-- Bytes from the start of a row are in the area of the rows. -/
theorem rowArea_of_lt {d : Desc} {cs : List Nat} (hin : d.rowIn cs = true) {n : Nat}
    (hn : n ≤ roundUp (rowBytes d.ety (d.size 0)) 64) : ∀ i, i < n → rowArea d ((d.rowAddr cs + i) % 2 ^ 42) :=
  fun i hi => ⟨cs, i, hin, by omega, rfl⟩

/-- A whole row is written where the row lies (R168, R169). -/
theorem confined_writeSeg {d : Desc} (hd : d.dom = false) (h6 : d.ety ≠ 6) (cs : List Nat) {codes : List Nat}
    (hc : RowCodes d.ety (d.size 0) codes) : Confined (rowArea d) (fun _ => True) (d.writeSeg cs 0 codes) := by
  unfold Desc.writeSeg
  cases hin : d.rowIn cs with
  | false => exact Confined.pure trivial
  | true =>
    simp only [if_true, hd]
    refine Confined.ite (fun _ => Confined.pure trivial) fun _ => ?_
    by_cases h5 : d.ety = 5
    · have hlen := hc.length h5
      have hscale := hc.scale h5
      have hstored : d.stored 0 codes.length = d.size 0 := by
        have := le_roundUp (d.size 0) (k := 32) (by omega)
        rw [Desc.stored, if_pos h5, hlen]
        omega
      have hwhole : wholeBlocks (d.size 0) 0 codes.length = true := by simp [wholeBlocks, hlen]
      rw [hstored, List.take_of_length_le hlen.le]
      simp only [h5, hwhole, Bool.not_true, Bool.and_false, Bool.false_eq_true, if_false, if_true, Nat.zero_div,
        Nat.mul_zero, Nat.add_zero, Nat.zero_add]
      refine (Confined.mapM (fun b hb => blockBytes_shared (hscale b hb) (length_of_mem_runs hb))).bind
        fun parts hparts => confined_ioWrite ?_
      have hbytes := length_flatten_of_forall hparts.2
      rw [hparts.1, length_runs] at hbytes
      refine rowArea_of_lt hin ?_
      have := le_roundUp (33 * ceilDiv (d.size 0) 32) (k := 64) (by omega)
      rw [List.length_append, List.length_replicate, hbytes, rowBytes, if_pos h5, Nat.mul_comm (ceilDiv _ _)]
      omega
    · simp only [h5, h6, decide_false, Bool.false_and, Bool.false_eq_true, if_false, Nat.zero_mul, Nat.zero_div,
        Nat.add_zero]
      refine confined_ioWrite (rowArea_of_lt hin ?_)
      have hstored : d.stored 0 codes.length ≤ d.size 0 := by rw [Desc.stored, if_neg h5]; omega
      refine le_trans ?_ (le_roundUp _ (by omega))
      rw [length_bytesOf, List.length_take, rowBytes, if_neg h5]
      have hceil := le_ceilDiv_mul (d.size 0 * etyBits d.ety) (k := 8) (by omega)
      have hwidth : etyBits d.ety / 8 * min (d.stored 0 codes.length) codes.length ≤ etyBits d.ety / 8 * d.size 0 :=
        Nat.mul_le_mul_left _ (by omega)
      have hbits : 8 * (etyBits d.ety / 8 * d.size 0) ≤ d.size 0 * etyBits d.ety := by
        rw [← Nat.mul_assoc, Nat.mul_comm (d.size 0)]
        exact Nat.mul_le_mul_right _ (Nat.mul_div_le ..)
      omega

theorem sfuType_ne_six (ety : Nat) : sfuType ety ≠ 6 := by
  unfold sfuType
  split_ifs <;> omega

end Sys2Proof.Machine
end

section
/-! The rows of ACT, SOFTMAX and NORM: where they are written, and how many (R239, R240, R242, R243, R248). -/

namespace Sys2Proof.Machine

/-- The destination of the function units, in the type that it is written in (R239). -/
def sfuDest (d : Desc) : Desc := { d with ety := sfuType d.ety }

/-- Rows have run from `io`: they are confined to `here`, and where nothing has stopped them `n` are the rows and the
elements written. -/
structure RowsRun (here : Nat → Prop) (io : Io) (n : Nat × Nat) (p : (Nat × Nat) × Io) : Prop where
  proceeds : Proceeds here io p.2
  count : p.2.stop = none → p.1 = n

section
variable {here : Nat → Prop} {io io1 : Io} {d : Desc} {f : Nat → List Nat → Mio (List FVal)}

theorem RowsRun.after {n : Nat × Nat} {p : (Nat × Nat) × Io} (h : Proceeds here io io1) (k : RowsRun here io1 n p) :
    RowsRun here io n p := ⟨h.trans k.proceeds, k.count⟩

theorem RowsRun.none (io : Io) (n : Nat × Nat) : RowsRun here io n (n, io) := ⟨Proceeds.refl io, fun _ => rfl⟩

/-- A destination row whose values are formed without a write elsewhere. -/
theorem confined_oneDestRow (hd : d.dom = false) (hrows : ∀ x, rowArea (sfuDest d) x → here x) (k : Cvt) (cs : List Nat)
    {g : List Nat → Mio (List FVal)} (hg : Confined here (fun ys => d.size 0 ≤ ys.length) (g cs)) :
    Confined here (fun _ => True) (oneDestRow k (sfuDest d) cs g) := by
  refine hg.bind fun ys hys => confined_ioStopped.bind fun bad _ =>
    Confined.ite (fun _ => Confined.pure trivial) fun _ => ?_
  have hlen : (ys.take (d.size 0)).length = d.size 0 := by rw [List.length_take]; omega
  refine (confined_num (Q := RowCodes (sfuType d.ety) (d.size 0)) fun t => ?_).bind fun codes hcodes io hq => ?_
  · have hcodes := narrowRow_codes k (sfuType d.ety) (ys.take (d.size 0)) t
    rwa [hlen] at hcodes
  · obtain ⟨hrun, -⟩ := confined_writeSeg (d := sfuDest d) hd (sfuType_ne_six d.ety) cs hcodes io hq
    exact ⟨{ hrun with only := fun a ha => hrun.only a fun hx => ha (hrows _ hx) }, trivial⟩

/-- One row of a destination, and the count of rows and elements written. -/
def rowStep (cores : List Nat) (k : Cvt) (d : Desc) (f : Nat → List Nat → Mio (List FVal)) (acc : Nat × Nat) (r : Nat) :
    Mio (Nat × Nat) := do
  let before ← ioStopped
  if before then pure acc
  else do
    oneDestRow k (sfuDest d) (d.coords r) (f r)
    coreMark (coreOf cores r)
    let bad ← ioStopped
    pure (if bad then acc else (acc.1 + 1, acc.2 + d.size 0))

/-- The rows of a destination, of which one without elements has none, and their elements. -/
def rowCount (d : Desc) : Nat × Nat := (if d.size 0 = 0 then 0 else d.rows, d.rows * d.size 0)

theorem overRows_eq (cores : List Nat) (k : Cvt) (d : Desc) (f : Nat → List Nat → Mio (List FVal)) :
    overRows cores k d f = if d.size 0 = 0 then pure (0, 0)
      else (List.range d.rows).foldlM (rowStep cores k d f) (0, 0) := rfl

section
variable {cores : List Nat} {k : Cvt}

theorem rowStep_stopped (hs : io.stop.isSome = true) (acc : Nat × Nat) (r : Nat) :
    rowStep cores k d f acc r io = (acc, io) := by
  show (if io.stop.isSome then pure acc else _ : Mio (Nat × Nat)) io = _
  rw [if_pos hs]
  rfl

/-- The state that the row leaves before it is counted. -/
theorem rowStep_begun (hs : io.stop = none) (acc : Nat × Nat) (r : Nat) :
    ∃ io1, ReadsOnly (oneDestRow k (sfuDest d) (d.coords r) (f r) io).2 io1 ∧ rowStep cores k d f acc r io =
      (if io1.stop.isSome then acc else (acc.1 + 1, acc.2 + d.size 0), io1) := by
  refine ⟨(coreMark (coreOf cores r) (oneDestRow k (sfuDest d) (d.coords r) (f r) io).2).2, ⟨rfl, rfl, rfl⟩, ?_⟩
  have hs' : ¬ io.stop.isSome = true := by simp [hs]
  show (if io.stop.isSome then pure acc else _ : Mio (Nat × Nat)) io = _
  rw [if_neg hs']
  rfl

variable (hd : d.dom = false) (hrows : ∀ x, rowArea (sfuDest d) x → here x)
include hd hrows

theorem rowStep_run {r : Nat} (hf : ∀ cs, Confined here (fun ys => d.size 0 ≤ ys.length) (f r cs)) (acc : Nat × Nat)
    (hq : io.mem.marks = []) : RowsRun here io (acc.1 + 1, acc.2 + d.size 0) (rowStep cores k d f acc r io) := by
  cases hs : io.stop with
  | some e =>
    rw [rowStep_stopped (by rw [hs]; rfl)]
    exact ⟨Proceeds.refl io, fun h => by rw [hs] at h; cases h⟩
  | none =>
    obtain ⟨io1, hreads, hrun⟩ := rowStep_begun (cores := cores) (k := k) (d := d) (f := f) hs acc r
    obtain ⟨hrow, -⟩ := confined_oneDestRow hd hrows k (d.coords r) (hf (d.coords r)) io hq
    rw [hrun]
    exact ⟨hrow.trans hreads.proceeds, fun h => by simp [show io1.stop = none from h]⟩

/-- The rows of a destination in ascending order. -/
theorem overRows_run (hf : ∀ r, r < d.rows → ∀ cs, Confined here (fun ys => d.size 0 ≤ ys.length) (f r cs))
    (hq : io.mem.marks = []) :
    RowsRun here io (rowCount d) (overRows cores k d f io) := by
  have hfold : ∀ (l : List Nat), (∀ r ∈ l, r < d.rows) → ∀ (acc : Nat × Nat) (io : Io), io.mem.marks = [] →
      RowsRun here io (acc.1 + l.length, acc.2 + l.length * d.size 0) (l.foldlM (rowStep cores k d f) acc io) := by
    intro l
    induction l with
    | nil =>
      intro _ acc io _
      rw [List.length_nil, Nat.zero_mul]
      exact RowsRun.none io acc
    | cons r l ih =>
      intro hl acc io hq
      obtain ⟨hr, hl⟩ := List.forall_mem_cons.mp hl
      obtain ⟨hrun, hcount⟩ := rowStep_run (cores := cores) (k := k) hd hrows (hf r hr) acc hq
      obtain ⟨hrest, hcounts⟩ := ih hl (rowStep cores k d f acc r io).1 (rowStep cores k d f acc r io).2 (hrun.quiet hq)
      rw [List.foldlM_cons]
      refine ⟨hrun.trans hrest, fun hs => (hcounts hs).trans ?_⟩
      rw [hcount (hrest.stop_eq_none hs), List.length_cons, Nat.succ_mul]
      congr 1 <;> omega
  rw [overRows_eq, rowCount]
  split
  · next h0 =>
    rw [h0, Nat.mul_zero]
    exact RowsRun.none io _
  · have hall := hfold (List.range d.rows) (fun r hr => List.mem_range.mp hr) (0, 0) io hq
    rwa [List.length_range, Nat.zero_add, Nat.zero_add] at hall

end

end

/-! ## The three instructions -/

section
variable {here : Nat → Prop} {io : Io}

/-- A row of ACT without a parameter block. -/
def actRow (dx2 : Bool) (c : Cmd) (a : Desc) (n : Nat) (cs : List Nat) : Mio (List FVal) := do
  let xs ← sourceRow c.cvt a cs n
  num ((xs.zip (List.replicate n fzero)).mapM (fun p => actElem dx2 c.subop fone fone p.2 p.1 false))

/-- ACT without a parameter block reads its descriptors and runs over the rows (R240). -/
theorem actRows_eq {c : Cmd} (hc : c.c = 0) (dx2 : Bool) (hq : io.mem.marks = []) (hs : io.stop = none) :
    ∃ io1, ReadsOnly io io1 ∧ actRows dx2 c io = overRows c.cores c.cvt (descIn io.mem c c.b)
      (fun _ cs => actRow dx2 c (descIn io.mem c c.a) ((descIn io.mem c c.b).size 0) cs) io1 := by
  obtain ⟨io1, hreads, hrun⟩ := readDescs_run hq hs c
  refine ⟨io1, hreads, ?_⟩
  unfold actRows
  rw [hrun, hc]
  rfl

theorem confined_actRow {a : Desc} (ha : a.dom = false) (dx2 : Bool) (c : Cmd) (n : Nat) (cs : List Nat) :
    Confined here (fun ys => n ≤ ys.length) (actRow dx2 c a n cs) :=
  (confined_sourceRow ha c.cvt cs n).bind fun xs hxs => confined_num fun t => by
    rw [length_mapM, List.length_zip, hxs, List.length_replicate, min_self]

/-- A row of SOFTMAX. -/
def softmaxRowOf (dx2 : Bool) (c : Cmd) (a : Desc) (n : Nat) (cs : List Nat) : Mio (List FVal) := do
  let xs ← sourceRow c.cvt a cs (max (a.size 0) n)
  num (softmaxRow dx2 c.subop (xs.take (a.size 0)) (xs.drop (a.size 0)))

/-- SOFTMAX reads its descriptors and runs over the rows (R242). -/
theorem softmaxRows_eq (c : Cmd) (dx2 : Bool) (hq : io.mem.marks = []) (hs : io.stop = none) :
    ∃ io1, ReadsOnly io io1 ∧ softmaxRows dx2 c io = overRows c.cores c.cvt (descIn io.mem c c.b)
      (fun _ cs => softmaxRowOf dx2 c (descIn io.mem c c.a) ((descIn io.mem c c.b).size 0) cs) io1 := by
  obtain ⟨io1, hreads, hrun⟩ := readDescs_run hq hs c
  exact ⟨io1, hreads, hrun _⟩

/-- SOFTMAX has a result for every element that it is given. -/
theorem length_softmaxRow (dx2 : Bool) (sub : Nat) (xs extra : List FVal) (t : Tally) :
    (softmaxRow dx2 sub xs extra t).1.length = xs.length + extra.length := by
  let term : FVal → Num (FVal × FVal) := fun x => do
    let d ← fsub x (maxVal xs)
    let e ← expF dx2 d
    pure (d, e)
  obtain ⟨t1, t2, f, hrun⟩ : ∃ t1 t2, ∃ f : FVal × FVal → Num FVal, (softmaxRow dx2 sub xs extra t).1 =
      (((xs.mapM term t).1 ++ (extra.mapM term t1).1).mapM f t2).1 := by
    unfold softmaxRow
    split
    · exact ⟨_, _, _, rfl⟩
    · exact ⟨_, _, _, rfl⟩
  rw [hrun, length_mapM, List.length_append, length_mapM, length_mapM]

theorem confined_softmaxRowOf {a : Desc} (ha : a.dom = false) (dx2 : Bool) (c : Cmd) (n : Nat) (cs : List Nat) :
    Confined here (fun ys => n ≤ ys.length) (softmaxRowOf dx2 c a n cs) :=
  (confined_sourceRow ha c.cvt cs _).bind fun xs hxs => confined_num fun t => by
    rw [length_softmaxRow, List.length_take, List.length_drop]
    omega

/-- A field of a field. -/
theorem bits_bits (x lo w : Nat) {l k : Nat} (h : l + k ≤ w) : bits (bits x lo w) l k = bits x (lo + l) k := by
  refine Nat.eq_of_testBit_eq fun i => ?_
  simp only [bits, Nat.testBit_mod_two_pow, Nat.testBit_shiftRight]
  by_cases hi : i < k
  · simp [hi, show l + i < w by omega, Nat.add_assoc]
  · simp [hi]

theorem opAddr_bits (x lo : Nat) : opAddr (bits x lo 64) = bits x (lo + 6) 36 * 64 := by
  rw [opAddr, bits_bits x lo 64 (by omega)]

/-- A row of NORM with the parameter block `blk`. -/
def normRow (dx2 : Bool) (c : Cmd) (a : Desc) (n blk : Nat) (gamma beta : List FVal) (row : Nat) (cs : List Nat) :
    Mio (List FVal) := do
  let all ← sourceRow c.cvt a cs (max (a.size 0) n)
  let (mu, r) ← num (normStats dx2 (c.subop == 1) (decodeF .f32 (bits blk 192 32)) (all.take (a.size 0)))
  let ys ← num ((all.zip (gamma.zip beta)).mapM (fun p => normElem (c.subop == 1) mu r p.2.1 p.2.2 p.1))
  if opAddr (bits blk 128 64) = 0 then pure ()
  else
    ioWrite false ((opAddr (bits blk 128 64) + 8 * row) % 2 ^ 42)
      (leBytes 4 (encodeF .f32 mu) ++ leBytes 4 (encodeF .f32 r))
  pure ys

/-- NORM once it has its descriptors and its parameter block. -/
def normRowsOf (dx2 : Bool) (c : Cmd) (a d : Desc) (blk : Nat) : Mio (Nat × Nat) := do
  let gamma ← oneRow c.cvt c (bits blk 0 64) (d.size 0) fone
  let beta ← oneRow c.cvt c (bits blk 64 64) (d.size 0) fzero
  if a.size 0 = 0 then pure (0, 0)
  else overRows c.cores c.cvt d (normRow dx2 c a (d.size 0) blk gamma beta)

/-- Without GAMMA and BETA it reads nothing else before its rows. -/
theorem normRowsOf_plain (dx2 : Bool) (c : Cmd) (a d : Desc) {blk : Nat} (hgamma : bits blk 6 36 = 0)
    (hbeta : bits blk 70 36 = 0) :
    normRowsOf dx2 c a d blk = if a.size 0 = 0 then pure (0, 0) else overRows c.cores c.cvt d
      (normRow dx2 c a (d.size 0) blk (List.replicate (d.size 0) fone) (List.replicate (d.size 0) fzero)) := by
  have hnone : ∀ field dflt n, opAddr field = 0 → oneRow c.cvt c field n dflt = pure (List.replicate n dflt) :=
    fun field dflt n h => by rw [oneRow, if_pos h]
  rw [normRowsOf, hnone _ _ _ (by rw [opAddr_bits, hgamma]), hnone _ _ _ (by rw [opAddr_bits, hbeta]), pure_bind,
    pure_bind]

/-- NORM reads its descriptors and its block (R243). -/
theorem normRows_eq (c : Cmd) (dx2 : Bool) (hq : io.mem.marks = []) (hs : io.stop = none) :
    ∃ io1, ReadsOnly io io1 ∧ normRows dx2 c io =
      normRowsOf dx2 c (descIn io.mem c c.a) (descIn io.mem c c.b) (rdNum io.mem (opAddr c.c) 64) io1 := by
  obtain ⟨io1, hreads, hrun⟩ := readDescs_run hq hs c
  obtain ⟨hblkReads, hblk⟩ := readStruct_reads (hreads.marks.trans hq) (hreads.stop.trans hs) c.c
  refine ⟨_, hreads.trans hblkReads, ?_⟩
  rw [← hreads.mem, ← hblk, hreads.mem]
  exact hrun fun a d => readStruct c.c >>= normRowsOf dx2 c a d

theorem confined_normRow {a : Desc} (ha : a.dom = false) (dx2 : Bool) (c : Cmd) {n blk : Nat} {gamma beta : List FVal}
    (hg : gamma.length = n) (hb : beta.length = n) (row : Nat) (cs : List Nat)
    (hstats : bits blk 134 36 ≠ 0 → ∀ i, i < 8 → here ((bits blk 134 36 * 64 + 8 * row + i) % 2 ^ 42)) :
    Confined here (fun ys => n ≤ ys.length) (normRow dx2 c a n blk gamma beta row cs) := by
  refine (confined_sourceRow ha c.cvt cs _).bind fun xs hxs => (confined_num (Q := fun _ => True) fun _ => trivial).bind
    fun p _ => (confined_num (Q := fun ys => n ≤ ys.length) fun t => ?_).bind fun ys hys =>
      Confined.ite (fun _ => Confined.pure hys) fun h => (confined_ioWrite fun i hi => ?_).bind fun _ _ => Confined.pure hys
  · rw [length_mapM, List.length_zip, List.length_zip, hxs, hg, hb]
    omega
  · rw [opAddr_bits] at h ⊢
    rw [Nat.mod_add_mod]
    exact hstats (fun h0 => h (congrArg (· * 64) h0)) i (by simpa using hi)

/-! ## Their rows, run -/

/-- What ACT writes, and how many elements (R240). -/
theorem actRows_run {c : Cmd} (hc : c.c = 0) (dx2 : Bool) (hq : io.mem.marks = []) (hs : io.stop = none)
    (ha : (descIn io.mem c c.a).dom = false) (hb : (descIn io.mem c c.b).dom = false) :
    RowsRun (rowArea (sfuDest (descIn io.mem c c.b))) io (rowCount (descIn io.mem c c.b)) (actRows dx2 c io) := by
  obtain ⟨io1, hreads, hrun⟩ := actRows_eq hc dx2 hq hs
  rw [hrun]
  exact RowsRun.after hreads.proceeds <|
    overRows_run hb (fun _ hx => hx) (fun _ _ cs => confined_actRow ha dx2 c _ cs) (hreads.marks.trans hq)

/-- What SOFTMAX writes, and how many rows (R242). -/
theorem softmaxRows_run (c : Cmd) (dx2 : Bool) (hq : io.mem.marks = []) (hs : io.stop = none)
    (ha : (descIn io.mem c c.a).dom = false) (hb : (descIn io.mem c c.b).dom = false) :
    RowsRun (rowArea (sfuDest (descIn io.mem c c.b))) io (rowCount (descIn io.mem c c.b)) (softmaxRows dx2 c io) := by
  obtain ⟨io1, hreads, hrun⟩ := softmaxRows_eq c dx2 hq hs
  rw [hrun]
  exact RowsRun.after hreads.proceeds <|
    overRows_run hb (fun _ hx => hx) (fun _ _ cs => confined_softmaxRowOf ha dx2 c _ cs) (hreads.marks.trans hq)

/-- What NORM without GAMMA and BETA writes, and how many rows (R243). -/
theorem normRows_run (c : Cmd) (dx2 : Bool) (hq : io.mem.marks = []) (hs : io.stop = none)
    (ha : (descIn io.mem c c.a).dom = false) (hb : (descIn io.mem c c.b).dom = false)
    (hgamma : bits (rdNum io.mem (opAddr c.c) 64) 6 36 = 0) (hbeta : bits (rdNum io.mem (opAddr c.c) 64) 70 36 = 0) :
    RowsRun (fun x => rowArea (sfuDest (descIn io.mem c c.b)) x ∨ (bits (rdNum io.mem (opAddr c.c) 64) 134 36 ≠ 0 ∧
        areaAt (bits (rdNum io.mem (opAddr c.c) 64) 134 36 * 64) (8 * (descIn io.mem c c.b).rows) x)) io
      (if (descIn io.mem c c.a).size 0 = 0 then (0, 0) else rowCount (descIn io.mem c c.b)) (normRows dx2 c io) := by
  obtain ⟨io1, hreads, hrun⟩ := normRows_eq c dx2 hq hs
  rw [hrun, normRowsOf_plain dx2 c _ _ hgamma hbeta]
  split
  · exact (RowsRun.none io1 (0, 0)).after hreads.proceeds
  · refine (overRows_run hb (fun _ => .inl) (fun row hrow cs => ?_) (hreads.marks.trans hq)).after hreads.proceeds
    exact confined_normRow ha dx2 c List.length_replicate List.length_replicate row cs fun hstats i hi =>
      .inr ⟨hstats, 8 * row + i, by omega, by rw [Nat.add_assoc]⟩

end

end Sys2Proof.Machine
end

section
/-! How an instruction of the function units ends: its report, its faults, and what it leaves of the engine (R94, R131,
R191, R247). -/

namespace Sys2Proof.Machine

/-- Between `s` and `t` nothing but registers, counts and the management subsystem has changed. -/
def CountsAndLogs (s t : State) : Prop := { t with csr := s.csr, pmc := s.pmc, mgt := s.mgt } = s

section
variable {s t u : State}

theorem CountsAndLogs.trans (h : CountsAndLogs s t) (k : CountsAndLogs t u) : CountsAndLogs s u := by
  unfold CountsAndLogs at *
  rw [← h, ← k]

theorem CountsOnly.andLogs (h : CountsOnly s t) : CountsAndLogs s t := by
  have h' := congrArg (fun u : State => { u with csr := s.csr, pmc := s.pmc, mgt := s.mgt }) h.1
  exact h'

theorem LogsOnly.andCounts (h : LogsOnly s t) : CountsAndLogs s t := by
  have h' := congrArg (fun u : State => { u with csr := s.csr, pmc := s.pmc, mgt := s.mgt }) h
  exact h'

theorem CountsAndLogs.front (h : CountsAndLogs s t) : t.front = s.front := by have h' := congrArg State.front h; exact h'
theorem CountsAndLogs.mem (h : CountsAndLogs s t) : t.mem = s.mem := by have h' := congrArg State.mem h; exact h'
theorem CountsAndLogs.ctxs (h : CountsAndLogs s t) : t.ctxs = s.ctxs := by have h' := congrArg State.ctxs h; exact h'
theorem CountsAndLogs.disp (h : CountsAndLogs s t) : t.disp = s.disp := by have h' := congrArg State.disp h; exact h'
theorem CountsAndLogs.slots (h : CountsAndLogs s t) : t.slots = s.slots := by have h' := congrArg State.slots h; exact h'

theorem CountsAndLogs.setMem (h : CountsAndLogs s t) (m : HostMem) : CountsAndLogs (setMem s m) (setMem t m) :=
  congrArg (fun u : State => Machine.setMem u m) h

end

/-! ## Corrected errors, and the parts of the work -/

theorem coreCe_counts (ecc : SramEcc) (s : State) :
    CountsAndLogs s (coreCe ecc s) ∧ (coreCe ecc s).mgt.next = s.mgt.next := by
  have hcount : CountsOnly s (countC s 0x40018 ecc.corrected) := (CountsOnly.refl s).countC (by decide)
  exact ⟨hcount.andLogs.trans rfl, congrArg (·.next) hcount.mgt⟩

theorem CountsOnly.partCredits {s t : State} (h : CountsOnly s t) (c : Cmd) (l : List (Nat × Nat × Nat × Nat))
    (rd wr ev : Nat) : CountsOnly s (partCredits c l rd wr ev t) := by
  induction l generalizing t rd wr ev with
  | nil => exact h
  | cons p l ih => exact ih h.mpCount.pmcEvent ..

/-- The end of the accesses: host memory is what they left, and otherwise only counts are made (R227). -/
theorem coresClose_counts (c : Cmd) (s : State) (io : Io) : CountsOnly (setMem s io.mem) (coresClose c s io) :=
  (CountsOnly.refl _).addTally.partCredits ..

theorem logged_next (s : State) (full : Bool) (e : Nat × Nat × Nat × Nat) :
    (logged s full e).mgt.next = (s.mgt.next + 1) % 2 ^ 32 := by
  unfold logged
  cases full with
  | false => simp only [Bool.false_eq_true, if_false]
  | true =>
    simp only [if_true]
    rw [((CountsOnly.refl _).countC (o := 0xD0E00) (n := 1) (by decide)).mgt]

theorem raiseFault_next (s : State) (code sev bitNo cx detail unit : Nat) :
    (raiseFault s code sev bitNo cx detail unit).mgt.next = (s.mgt.next + 1) % 2 ^ 32 := by
  obtain ⟨full, e, hlog⟩ := logEntry_eq_logged s code sev cx detail unit
  rw [raiseFault, faultBit, csrSet_mgt, hlog, logged_next]

/-! ## The end of the instruction -/

/-- What the reported work of a unit leaves outside the front end is what it had made before. -/
theorem settle_doneWith_frame (u : State) (q tag st dt r ep : Nat) :
    { settle (doneWith u st dt r ep) q tag with front := u.front } = u := report_front ..

section
variable {s : State} {c : Cmd} {opc : Nat} {ecc : SramEcc} {pipes elems : Bool} {rows : Bool → Cmd → Mio (Nat × Nat)}

/-- The accesses of an instruction of the function units as they begin. -/
def sfuStart (s : State) (c : Cmd) (ecc : SramEcc) : Io :=
  { ioStart (coreCe ecc (begun s c)) with strike := coreStrike (coreActive s) ecc }

theorem sfuStart_mem (s : State) (c : Cmd) (ecc : SramEcc) : (sfuStart s c ecc).mem = s.mem :=
  (coreCe_counts ecc (begun s c)).1.mem

theorem sfuStart_stop (s : State) (c : Cmd) (ecc : SramEcc) : (sfuStart s c ecc).stop = none := rfl

theorem sfuStart_ended (s : State) (c : Cmd) (ecc : SramEcc) :
    (sfuStart s c ecc).ended = ecc.double.map (fun x => .sram (strikeDetail (coreActive s) x)) := by
  show (coreStrike (coreActive s) ecc).map (·.2) = _
  rw [coreStrike, Option.map_map]
  rfl

/-- The run of the rows of an instruction of the function units. -/
def sfuRun (s : State) (c : Cmd) (ecc : SramEcc) (rows : Bool → Cmd → Mio (Nat × Nat)) : (Nat × Nat) × Io :=
  rows (stampIssue s c).dx2 (stampIssue s c) (sfuStart s c ecc)

/-- The state when its accesses are over. -/
def sfuClosed (s : State) (c : Cmd) (ecc : SramEcc) (io : Io) : State :=
  coresClose (stampIssue s c) (coreCe ecc (begun s c)) io

theorem sfuClosed_counts (s : State) (c : Cmd) (ecc : SramEcc) (io : Io) :
    CountsAndLogs (setMem (begun s c) io.mem) (sfuClosed s c ecc io) ∧ (sfuClosed s c ecc io).mgt.next = s.mgt.next := by
  obtain ⟨hce, hnext⟩ := coreCe_counts ecc (begun s c)
  have hclose := coresClose_counts (stampIssue s c) (coreCe ecc (begun s c)) io
  exact ⟨(hce.setMem io.mem).trans hclose.andLogs, (congrArg (·.next) hclose.mgt).trans hnext⟩

/-- The work of an instruction of the function units, with its slots and, where it needs them, its tables (R107, R247). -/
theorem sfuWork_runs (hslot : Slotted s c) (htab : pipes = false ∨ tablesOk s = true) :
    sfuWork pipes ecc rows elems (stampIssue s c) (begun s c) =
      match (sfuRun s c ecc rows).2.ended with
      | some x => coreStop (sfuClosed s c ecc (sfuRun s c ecc rows).2) (stampIssue s c) x
      | none => doneWith (sfuClosed s c ecc (sfuRun s c ecc rows).2) 0 0
          (if elems then (sfuRun s c ecc rows).1.2 else (sfuRun s c ecc rows).1.1) 0 := by
  have htables : (pipes && !tablesOk (begun s c)) = false := by
    obtain rfl | h := htab
    · rfl
    · have hbegun : tablesOk (begun s c) = true := h
      simp [hbegun]
  have hslots : slotsOk (begun s c) (stampIssue s c) = true := hslot
  unfold sfuWork
  rw [htables, hslots, if_neg Bool.false_ne_true]
  rfl

/-- What an instruction of the function units leaves: memory is `m`, and it has reported `result`, or the double-bit error
that it has met. -/
structure SfuEnds (s t : State) (c : Cmd) (ecc : SramEcc) (m : HostMem) (result : Nat) : Prop where
  mem : t.mem = m
  ctxs : t.ctxs = s.ctxs
  disp : t.disp = s.disp
  slots : t.slots = s.slots
  done : ecc.double = none → Reports s t c 0 0 result 0
  struck : ∀ x, ecc.double = some x → Reports s t c 0x30 (0x10 + coreOf (coreActive s) x.core * 2 ^ 8) 0 0 ∧
    t.mgt.next = (s.mgt.next + 1) % 2 ^ 32

/-- An instruction that ends in a state which differs from its beginning by memory, counts and logs leaves that memory, and
the rest as it was. -/
theorem settle_sfu {u : State} {io : Io} (hu : CountsAndLogs (setMem (begun s c) io.mem) u) (hi : Issues s c opc)
    (st dt r : Nat) :
    ∃ t, t = settle (doneWith u st dt r 0) c.q c.tag ∧ Reports s t c st dt r 0 ∧ t.mem = io.mem ∧ t.ctxs = s.ctxs ∧
      t.disp = s.disp ∧ t.slots = s.slots ∧ t.mgt = u.mgt := by
  have hframe := settle_doneWith_frame u c.q c.tag st dt r 0
  refine ⟨_, rfl, reports_of_done hi hu.front .., ?_, ?_, ?_, ?_, ?_⟩
  · exact (congrArg State.mem hframe).trans hu.mem
  · exact (congrArg State.ctxs hframe).trans hu.ctxs
  · exact (congrArg State.disp hframe).trans hu.disp
  · exact (congrArg State.slots hframe).trans hu.slots
  · have hmgt := congrArg State.mgt hframe
    exact hmgt

/-- How an instruction of the function units ends, once its rows have met no error but its double-bit error. -/
theorem sfu_ends (hi : Issues s c opc) (hslot : Slotted s c) (htab : pipes = false ∨ tablesOk s = true)
    (hended : (sfuRun s c ecc rows).2.ended = (sfuStart s c ecc).ended) :
    SfuEnds s (settle (sfuWork pipes ecc rows elems (stampIssue s c) (begun s c)) c.q c.tag) c ecc
      (sfuRun s c ecc rows).2.mem (if elems then (sfuRun s c ecc rows).1.2 else (sfuRun s c ecc rows).1.1) := by
  rw [sfuWork_runs hslot htab, hended, sfuStart_ended]
  obtain ⟨hclosed, hnext⟩ := sfuClosed_counts s c ecc (sfuRun s c ecc rows).2
  cases hd : ecc.double with
  | none =>
    obtain ⟨t, rfl, hrep, hmem, hctxs, hdisp, hslots, -⟩ := settle_sfu hclosed hi 0 0
      (if elems then (sfuRun s c ecc rows).1.2 else (sfuRun s c ecc rows).1.1)
    exact ⟨hmem, hctxs, hdisp, hslots, fun _ => hrep, fun x hx => by rw [hd] at hx; cases hx⟩
  | some x =>
    have hfault := logsOnly_raiseFault (sfuClosed s c ecc (sfuRun s c ecc rows).2) 0x0203 2 2 c.ctx
      (strikeDetail (coreActive s) x) c.q
    obtain ⟨t, rfl, hrep, hmem, hctxs, hdisp, hslots, hmgt⟩ := settle_sfu (hclosed.trans hfault.andCounts) hi 0x30
      (strikeDetail (coreActive s) x) 0
    refine ⟨hmem, hctxs, hdisp, hslots, fun hx => (by rw [hd] at hx; cases hx), fun y hy => ?_⟩
    obtain rfl : x = y := Option.some.inj (hd.symm.trans hy)
    exact ⟨hrep, (congrArg (·.next) hmgt).trans ((raiseFault_next ..).trans (by rw [hnext]))⟩

/-! ## The three rows of the opcode table -/

theorem Issues.opc_eq (h : Issues s c opc) : c.opc = opc := h.2.2.1

theorem exec_act (h : Issues s c 0x30) (ecc : SramEcc) : exec (.act c.q c.tag ecc) s =
    .next (settle (sfuWork (decide (fnPasses c.subop ≠ 0)) ecc actRows true (stampIssue s c) (begun s c)) c.q c.tag) :=
  next_working h.working (issueRow_go h (k := isOp 0x30) (beq_iff_eq.mpr h.opc_eq) _)

theorem exec_norm (h : Issues s c 0x31) (ecc : SramEcc) : exec (.norm c.q c.tag ecc) s =
    .next (settle (sfuWork true ecc normRows false (stampIssue s c) (begun s c)) c.q c.tag) :=
  next_working h.working (issueRow_go h (k := isOp 0x31) (beq_iff_eq.mpr h.opc_eq) _)

theorem exec_softmax (h : Issues s c 0x32) (ecc : SramEcc) : exec (.softmax c.q c.tag ecc) s =
    .next (settle (sfuWork true ecc softmaxRows false (stampIssue s c) (begun s c)) c.q c.tag) :=
  next_working h.working (issueRow_go h (k := isOp 0x32) (beq_iff_eq.mpr h.opc_eq) _)

/-- Without matching tables an instruction that needs the pipes does nothing and says so (R247). -/
theorem sfu_noTables (hi : Issues s c opc) (htab : tablesOk s = false) :
    Reports s (settle (sfuWork true ecc rows elems (stampIssue s c) (begun s c)) c.q c.tag) c 0x30 0x14 0 0 ∧
      { settle (sfuWork true ecc rows elems (stampIssue s c) (begun s c)) c.q c.tag with front := s.front } = s := by
  have htables : tablesOk (begun s c) = false := htab
  have hwork : sfuWork true ecc rows elems (stampIssue s c) (begun s c) = doneWith (begun s c) 0x30 0x14 0 0 := by
    unfold sfuWork
    rw [if_pos (by simp [htables])]
    rfl
  rw [hwork]
  exact ⟨reports_of_done hi rfl .., congrArg (fun u : State => { u with front := s.front })
    (settle_doneWith_frame (begun s c) c.q c.tag 0x30 0x14 0 0)⟩

end

end Sys2Proof.Machine
end

section
/-! RELU of one F32 element, from the source row to the destination row (R54, R167, R168, R240, Table 09.3). -/

namespace Sys2Proof.Machine

/-! ## A tensor of one F32 element -/

/-- A local tensor of one element of F32. -/
structure OneF32 (d : Desc) : Prop where
  dom : d.dom = false
  ety : d.ety = 1
  sizes : d.sizes = [1, 1, 1, 1, 1, 1]

theorem leNat_lt (l : List Byte) : leNat l < 256 ^ l.length := by
  induction l with
  | nil => simp [leNat]
  | cons b l ih =>
    rw [leNat, List.length_cons, Nat.pow_succ]
    have := b.isLt
    omega

theorem rdNum_lt (m : HostMem) (a n : Nat) : rdNum m a n < 256 ^ n := by
  have h := leNat_lt (rdBytes m a n)
  rwa [length_rdBytes] at h

theorem rdNum_mod (m : HostMem) (a n : Nat) : rdNum m (a % 2 ^ 42) n = rdNum m a n := by
  rw [rdNum, rdNum, rdBytes_congr m (Nat.mod_mod ..)]

section
variable {d : Desc} {io : Io}

theorem OneF32.size (h : OneF32 d) : d.size 0 = 1 := by rw [Desc.size, h.sizes]; rfl

theorem OneF32.rows (h : OneF32 d) : d.rows = 1 := by rw [Desc.rows, h.sizes]; rfl

theorem coords_zero (d : Desc) : d.coords 0 = [0, 0, 0, 0, 0] := by simp [Desc.coords]

theorem OneF32.rowIn (h : OneF32 d) : d.rowIn [0, 0, 0, 0, 0] = true := by rw [Desc.rowIn, h.sizes]; rfl

/-- The first row of a tensor lies at its base (R167). -/
theorem rowAddr_zero (hd : d.dom = false) : d.rowAddr [0, 0, 0, 0, 0] = d.base % 2 ^ 42 := by
  have hoff : ∀ (l : List Int) (zs : List Nat), (∀ z ∈ zs, z = 0) →
      (l.zip zs).foldl (fun acc p => acc + p.1 * Int.ofNat p.2) (0 : Int) = 0 := by
    intro l
    induction l with
    | nil => exact fun _ _ => rfl
    | cons x l ih =>
      intro zs hz
      cases zs with
      | nil => rfl
      | cons z zs =>
        obtain ⟨rfl, hzs⟩ := List.forall_mem_cons.mp hz
        simpa using ih zs hzs
  rw [Desc.rowAddr, hoff _ _ (by simp), hd]
  simp only [Int.mul_zero, Int.add_zero, Int.ofNat_eq_natCast, Bool.false_eq_true, if_false]
  omega

/-- What a descriptor's base can be (R166). -/
theorem descOf_base {lvl raw : Nat} (h : (descOf lvl raw).dom = false) :
    (descOf lvl raw).base < 2 ^ 42 ∧ (descOf lvl raw).base % 64 = 0 := by
  have hdom : bit raw 63 = false := h
  have hbase : (descOf lvl raw).base = bits raw 6 51 * 64 % 2 ^ 42 := by
    show (if bit raw 63 then bits raw 6 51 * 64 else bits raw 6 51 * 64 % 2 ^ 42) = _
    rw [hdom, if_neg Bool.false_ne_true]
  rw [hbase]
  omega

/-- The code of the element. -/
theorem OneF32.readSeg (h : OneF32 d) (hq : io.mem.marks = []) (hs : io.stop = none) :
    (d.readSeg [0, 0, 0, 0, 0] 0 1 io).1 = [rdNum io.mem d.base 4] := by
  obtain ⟨-, hbytes⟩ := ioRead_quiet hq (d.rowAddr [0, 0, 0, 0, 0]) 4
  have hstored : d.stored 0 1 = 1 := by rw [Desc.stored, if_neg (by rw [h.ety]; decide), h.size]; rfl
  have hrun : (d.readSeg [0, 0, 0, 0, 0] 0 1 io).1 =
      codesOf 1 (ioRead false (d.rowAddr [0, 0, 0, 0, 0]) 4 io).1 0 1 ++ List.replicate 0 d.fillCode := by
    unfold Desc.readSeg
    simp only [h.rowIn, hstored, h.dom, h.ety, if_true]
    rfl
  have hlt := rdNum_lt io.mem (d.base % 2 ^ 42) 4
  rw [hrun, hbytes hs, rowAddr_zero h.dom, ← rdNum_mod]
  simp only [codesOf, List.replicate_zero, List.append_nil, List.range_one, List.map_cons, List.map_nil]
  show [bits (rdNum io.mem (d.base % 2 ^ 42) 4) 0 32] = _
  rw [bits, Nat.shiftRight_zero, Nat.mod_eq_of_lt (hlt.trans_eq (by norm_num))]

theorem OneF32.sourceRow (h : OneF32 d) (hq : io.mem.marks = []) (hs : io.stop = none) (k : Cvt) :
    (Machine.sourceRow k d [0, 0, 0, 0, 0] 1 io).1 = [decodeF .f32 (rdNum io.mem d.base 4)] := by
  have hstop := (readSeg_quiet h.dom hq [0, 0, 0, 0, 0] 0 1).1.stop
  rw [sourceRow_run, hstop, hs, if_neg (by simp), h.readSeg hq hs, h.ety]
  rfl

/-- The element is written at the base, and nothing else (R168). -/
theorem OneF32.writeSeg (h : OneF32 d) (hbase : d.base < 2 ^ 42 ∧ d.base % 64 = 0) (hq : io.mem.marks = [])
    (hs : io.stop = none) (hk : io.strike = none) (code : Nat) :
    (d.writeSeg [0, 0, 0, 0, 0] 0 [code] io).2.mem = wrNum io.mem d.base 4 code := by
  have hstored : d.stored 0 1 = 1 := by rw [Desc.stored, if_neg (by rw [h.ety]; decide), h.size]; rfl
  have haddr : d.rowAddr [0, 0, 0, 0, 0] = d.base := by rw [rowAddr_zero h.dom, Nat.mod_eq_of_lt hbase.1]
  have hrun : d.writeSeg [0, 0, 0, 0, 0] 0 [code] io = ioWrite false d.base (leBytes 4 code) io := by
    unfold Desc.writeSeg
    simp only [h.rowIn, List.length_singleton, hstored, h.dom, h.ety, if_true, haddr]
    rfl
  have hlen : (leBytes 4 code).length = 4 := leBytes_length 4 code
  have hne : leBytes 4 code ≠ [] := List.ne_nil_of_length_pos (by omega)
  have hdue : ¬ io.due := by simp [Io.due, hs, hk]
  obtain ⟨io1, hs1, hm1, -, hmade⟩ := ioWrite_made (a := d.base) hs hdue hne
  rw [Nat.mod_eq_of_lt hbase.1, wrGranules_within (by rw [hm1]; exact hq) hs1 hne (by omega), hm1] at hmade
  rw [hrun, hmade.mem]
  rfl

end

/-! ## ACT with RELU -/

section
variable {s : State} {io : Io} {c : Cmd} {a d : Desc}

/-- The row of RELU has the element's RELU. -/
theorem actRow_relu (ha : OneF32 a) (hfn : c.subop = 1) (dx2 : Bool) (hq : io.mem.marks = []) (hs : io.stop = none) :
    ReadsOnly io (actRow dx2 c a 1 [0, 0, 0, 0, 0] io).2 ∧ ∃ t, (actRow dx2 c a 1 [0, 0, 0, 0, 0] io).1 =
      [(actElem dx2 1 fone fone fzero (decodeF .f32 (rdNum io.mem a.base 4)) false t).1] := by
  obtain ⟨hreads, -⟩ := sourceRow_quiet ha.dom hq c.cvt [0, 0, 0, 0, 0] 1
  have hval := ha.sourceRow hq hs c.cvt
  set p := sourceRow c.cvt a [0, 0, 0, 0, 0] 1 io with hp
  have hrun : actRow dx2 c a 1 [0, 0, 0, 0, 0] io = num ((p.1.zip (List.replicate 1 fzero)).mapM
      (fun x => actElem dx2 c.subop fone fone x.2 x.1 false)) p.2 := rfl
  rw [hrun]
  refine ⟨hreads.trans ⟨rfl, rfl, rfl⟩, p.2.tally, ?_⟩
  rw [hval, hfn]
  rfl

/-- A row of one F32 result is narrowed and written. -/
theorem oneDestRow_f32 (k : Cvt) (hd : OneF32 d) {cs : List Nat} {g : List Nat → Mio (List FVal)} {y : FVal}
    (hg : (g cs io).1 = [y]) (hs : (g cs io).2.stop = none) :
    ∃ t io2, ReadsOnly (g cs io).2 io2 ∧ oneDestRow k d cs g io = d.writeSeg cs 0 [(convert k .f32 y t).1] io2 := by
  have hrun : oneDestRow k d cs g io = (if (g cs io).2.stop.isSome then pure () else do
      let codes ← num (narrowRow k d.ety ((g cs io).1.take (d.size 0)))
      d.writeSeg cs 0 codes : Mio Unit) (g cs io).2 := rfl
  rw [hrun, hg, hs, if_neg (by simp), hd.size, hd.ety]
  exact ⟨(g cs io).2.tally, (num (narrowRow k 1 [y]) (g cs io).2).2, ⟨rfl, rfl, rfl⟩, rfl⟩

/-- A destination of one row ends as that row does. -/
theorem overRows_one (cores : List Nat) (k : Cvt) (hd : OneF32 d) {f : Nat → List Nat → Mio (List FVal)}
    (hs : io.stop = none) :
    (overRows cores k d f io).2.mem = (oneDestRow k (sfuDest d) [0, 0, 0, 0, 0] (f 0) io).2.mem := by
  obtain ⟨io1, hreads, hrun⟩ := rowStep_begun (cores := cores) (k := k) (d := d) (f := f) hs (0, 0) 0
  rw [coords_zero] at hreads
  have hstep : (overRows cores k d f io).2 = (rowStep cores k d f (0, 0) 0 io).2 := by
    rw [overRows_eq, if_neg (by rw [hd.size]; decide), hd.rows]
    rfl
  rw [hstep, hrun, ← hreads.mem]

/-- What RELU makes of the code of an F32 element (R54, Table 09.3). -/
def reluCode (x : Nat) : Nat :=
  if x ≤ 0x7F800000 then x else if x < 0x80000000 then 0x7FC00000 else if x ≤ 0xFF800000 then 0 else 0x7FC00000

theorem reluCode_lt {x : Nat} (hx : x < 2 ^ 32) : reluCode x < 256 ^ 4 := by
  unfold reluCode
  split_ifs <;> omega

/-- RELU of one element writes the element's code and nothing else. -/
theorem actRows_relu (hc : c.c = 0) (hfn : c.subop = 1) (dx2 : Bool) (hq : io.mem.marks = []) (hs : io.stop = none)
    (hk : io.strike = none) (ha : OneF32 (descIn io.mem c c.a)) (hb : OneF32 (descIn io.mem c c.b)) :
    (actRows dx2 c io).2.mem = wrNum io.mem (descIn io.mem c c.b).base 4
      (reluCode (rdNum io.mem (descIn io.mem c c.a).base 4)) := by
  obtain ⟨io1, hreads, hrun⟩ := actRows_eq hc dx2 hq hs
  have hdest : OneF32 (sfuDest (descIn io.mem c c.b)) :=
    ⟨hb.dom, by show sfuType (descIn io.mem c c.b).ety = 1; rw [hb.ety]; rfl, hb.sizes⟩
  have hq1 := hreads.marks.trans hq
  have hs1 := hreads.stop.trans hs
  obtain ⟨hrow, t, hval⟩ := actRow_relu ha hfn dx2 hq1 hs1
  rw [hrun, overRows_one _ _ hb hs1, hb.size]
  obtain ⟨t1, io2, hreads2, hwrite⟩ := oneDestRow_f32 (io := io1) c.cvt hdest
    (g := fun cs => actRow dx2 c (descIn io.mem c c.a) 1 cs) hval (hrow.stop.trans hs1)
  have hall := hreads.trans (hrow.trans hreads2)
  have hx := rdNum_lt io.mem (descIn io.mem c c.a).base 4
  rw [hwrite, hdest.writeSeg (descOf_base hb.dom) (hall.marks.trans hq) (hall.stop.trans hs) (hall.strike.trans hk),
    hall.mem, hreads.mem, relu_code (hx.trans_eq (by norm_num))]
  rfl

end

end Sys2Proof.Machine
end

section
/-! The claim about ACT, NORM and SOFTMAX (R131, R239, R240, R242, R243, R247, Table 09.3). -/

namespace Sys2Proof.Machine

section
variable {s : State} {c : Cmd} {i : Instr} {opc : Nat} {ecc : SramEcc} {pipes elems : Bool}
  {rows : Bool → Cmd → Mio (Nat × Nat)} {here : Nat → Prop} {n : Nat × Nat} {result : Nat}

/-- An instruction that ends without error has not stopped. -/
theorem stop_eq_none_of_ended {io : Io} (h : io.ended = none) : io.stop = none := by
  unfold Io.ended at h
  cases hs : io.stop with
  | none => rfl
  | some e => rw [hs] at h; cases h

/-- An error that an instruction meets before its first write is due from its beginning. -/
theorem sfuStart_due {x : Strike} (hd : ecc.double = some x) (h0 : x.after = 0) : (sfuStart s c ecc).due := by
  refine .inr ⟨.sram (strikeDetail (coreActive s) x), ?_⟩
  show coreStrike (coreActive s) ecc = _
  rw [coreStrike, hd, ← h0]
  rfl

/-- What an instruction of the function units does whose rows run confined to `here`. -/
theorem sfu_confined (hi : Issues s c opc) (hslot : Slotted s c) (htab : pipes = false ∨ tablesOk s = true)
    (hexec : exec i s = .next (settle (sfuWork pipes ecc rows elems (stampIssue s c) (begun s c)) c.q c.tag))
    (hrun : RowsRun here (sfuStart s c ecc) n (sfuRun s c ecc rows)) (hresult : (if elems then n.2 else n.1) = result) :
    ∃ t st dt r, exec i s = .next t ∧ Reports s t c st dt r 0 ∧ MemOnly here s t ∧ t.ctxs = s.ctxs ∧ t.disp = s.disp ∧
      t.slots = s.slots ∧
      (ecc.double = none → st = 0 ∧ dt = 0 ∧ r = result) ∧
      (∀ x, ecc.double = some x → st = 0x30 ∧ dt = 0x10 + coreOf (coreActive s) x.core * 2 ^ 8 ∧ r = 0 ∧
        t.mgt.next = (s.mgt.next + 1) % 2 ^ 32 ∧ (x.after = 0 → t.mem = s.mem)) := by
  have hstart := sfuStart_mem s c ecc
  have hend := sfu_ends (elems := elems) hi hslot htab hrun.proceeds.ended
  have honly : MemOnly here s (settle (sfuWork pipes ecc rows elems (stampIssue s c) (begun s c)) c.q c.tag) := by
    refine ⟨?_, fun a ha => ?_⟩
    · rw [hend.mem, hrun.proceeds.marks, hstart]
    · rw [hend.mem, hrun.proceeds.only a ha, hstart]
  cases hd : ecc.double with
  | none =>
    have hstop : (sfuRun s c ecc rows).2.stop = none := by
      refine stop_eq_none_of_ended (hrun.proceeds.ended.trans ?_)
      rw [sfuStart_ended, hd]
      rfl
    exact ⟨_, _, _, _, hexec, hend.done hd, honly, hend.ctxs, hend.disp, hend.slots,
      fun _ => ⟨rfl, rfl, by rw [hrun.count hstop, hresult]⟩, fun x hx => (by cases hx)⟩
  | some x =>
    obtain ⟨hrep, hnext⟩ := hend.struck x hd
    refine ⟨_, _, _, _, hexec, hrep, honly, hend.ctxs, hend.disp, hend.slots, fun hx => (by cases hx), fun y hy => ?_⟩
    obtain rfl : x = y := Option.some.inj hy
    refine ⟨rfl, rfl, rfl, hnext, fun h0 => ?_⟩
    rw [hend.mem, (hrun.proceeds.due (sfuStart_due hd h0)).1, hstart]

end

/-- ACT with RELU of one F32 element writes the element's RELU, and no other byte. -/
theorem relu_runs {s : State} {c : Cmd} (hruns : Runs s c 0x30) (hinv : Inv s) (hq : Quiet s) (hfn : c.subop = 1)
    (hc : c.c = 0) (ha : OneF32 (descAt s c c.a)) (hb : OneF32 (descAt s c c.b)) :
    ∃ t, exec (.act c.q c.tag {}) s = .next t ∧ Reports s t c 0 0 1 0 ∧
      rdNum t.mem (descAt s c c.b).base 4 = reluCode (rdNum s.mem (descAt s c c.a).base 4) ∧
      ∀ a, (∀ i, i < 4 → a % 2 ^ 42 ≠ ((descAt s c c.b).base + i) % 2 ^ 42) → rdByte t.mem a = rdByte s.mem a := by
  have hmem := sfuStart_mem s c {}
  have hrows := actRows_run (io := sfuStart s c {}) (c := stampIssue s c) hc (stampIssue s c).dx2
    (hmem ▸ hq) (sfuStart_stop ..) (hmem ▸ ha.dom) (hmem ▸ hb.dom)
  have hrelu := actRows_relu (io := sfuStart s c {}) (c := stampIssue s c) hc hfn (stampIssue s c).dx2
    (hmem ▸ hq) (sfuStart_stop ..) rfl (hmem ▸ ha) (hmem ▸ hb)
  rw [hmem] at hrows hrelu
  have hcount : (sfuRun s c {} actRows).1.2 = 1 := by
    rw [sfuRun, hrows.count (stop_eq_none_of_ended hrows.proceeds.ended)]
    exact congrArg₂ (· * ·) hb.rows hb.size
  have hpipes : decide (fnPasses c.subop ≠ 0) = false := by rw [hfn]; rfl
  have hend := sfu_ends (elems := true) (rows := actRows) hruns.1 hruns.2 (.inl hpipes) hrows.proceeds.ended
  have hwritten := hend.mem.trans hrelu
  refine ⟨_, exec_act hruns.1 {}, ?_, ?_, fun a hother => ?_⟩
  · rw [← hcount]
    exact hend.done rfl
  · rw [hwritten]
    exact (rdNum_wrNum hinv.1 (by decide)).trans (Nat.mod_eq_of_lt (reluCode_lt ((rdNum_lt ..).trans_eq (by norm_num))))
  · rw [hwritten]
    exact rdByte_wrBytes_ne fun i hi => hother i (by rwa [leBytes_length] at hi)

/-- Settles O34: each instruction's rows run confined to its destination, and RELU's one row is followed to its bytes. -/
theorem functionUnits : Obligations.FunctionUnits := by
  unfold Obligations.FunctionUnits
  refine ⟨?actSoftmax, ?norm, ?noTables, ?relu⟩
  case actSoftmax =>
    intro s c i ecc hq hslot ha hb hrow
    have hmem := sfuStart_mem s c ecc
    obtain ⟨hi, rfl, hc, htab⟩ | ⟨hi, rfl, htab⟩ := hrow
    · have hrun := actRows_run (io := sfuStart s c ecc) (c := stampIssue s c) hc (stampIssue s c).dx2
        (hmem ▸ hq) (sfuStart_stop ..) (hmem ▸ ha) (hmem ▸ hb)
      rw [hmem] at hrun
      exact sfu_confined hi hslot (htab.imp (fun h => by simp [h]) id) (exec_act hi ecc) hrun (if_pos hi.opc_eq).symm
    · have hrun := softmaxRows_run (io := sfuStart s c ecc) (stampIssue s c) (stampIssue s c).dx2
        (hmem ▸ hq) (sfuStart_stop ..) (hmem ▸ ha) (hmem ▸ hb)
      rw [hmem] at hrun
      have hopc : c.opc ≠ 0x30 := by rw [hi.opc_eq]; decide
      exact sfu_confined hi hslot (.inr htab) (exec_softmax hi ecc) hrun (if_neg hopc).symm
  case norm =>
    intro s c ecc hruns hq htab ha hb hgamma hbeta
    have hmem := sfuStart_mem s c ecc
    have hrun := normRows_run (io := sfuStart s c ecc) (stampIssue s c) (stampIssue s c).dx2
      (hmem ▸ hq) (sfuStart_stop ..) (hmem ▸ ha) (hmem ▸ hb) (hmem ▸ hgamma) (hmem ▸ hbeta)
    rw [hmem] at hrun
    refine sfu_confined hruns.1 hruns.2 (.inr htab) (exec_norm hruns.1 ecc) hrun ?_
    show (if (descAt s c c.a).size 0 = 0 then (0, 0) else rowCount (descAt s c c.b)).1 = _
    by_cases h0 : (descAt s c c.a).size 0 = 0
    · rw [if_pos h0, if_pos (.inl h0)]
    · rw [if_neg h0, rowCount]
      simp only [h0, false_or]
  case noTables =>
    rintro s c i ecc htab (⟨hi, rfl, hfn⟩ | ⟨hi, rfl⟩ | ⟨hi, rfl⟩)
    · exact ⟨_, by rw [exec_act hi, decide_eq_true hfn], sfu_noTables hi htab⟩
    · exact ⟨_, exec_norm hi ecc, sfu_noTables hi htab⟩
    · exact ⟨_, exec_softmax hi ecc, sfu_noTables hi htab⟩
  case relu =>
    intro s c x hruns hinv hq hfn hc ha hb haty hbty hasz hbsz hx
    subst hx
    exact relu_runs hruns hinv hq hfn hc ⟨ha, haty, hasz⟩ ⟨hb, hbty, hbsz⟩

end Sys2Proof.Machine
end

section
/-! Access sequences of the scoring cores that stay in their area: reads, streams of weights, and what a tensor at the array
edge brings (R116, R125, R126). -/

namespace Sys2Proof.Machine

section
variable {α β : Type} {here there : Nat → Prop} {Q R : α → Prop}

theorem Confined.weaken {x : Mio α} (h : Confined here Q x) (hin : ∀ a, here a → there a) (hval : ∀ a, Q a → R a) :
    Confined there R x := fun io hq => by
  obtain ⟨hrun, hQ⟩ := h io hq
  exact ⟨{ hrun with only := fun a ha => hrun.only a fun hx => ha (hin _ hx) }, hval _ hQ⟩

theorem Confined.forget {x : Mio α} (h : Confined here Q x) : Confined here (fun _ => True) x :=
  h.weaken (fun _ ha => ha) fun _ _ => trivial

/-- A sequence of which nothing more is asked than that it stays in its area. -/
theorem Confined.then {x : Mio α} {f : α → Mio β} {S : β → Prop} (hx : Confined here (fun _ => True) x)
    (hf : ∀ a, Confined here S (f a)) : Confined here S (x >>= f) := hx.bind fun a _ => hf a

/-- Two ways to a value with which the sequence goes on. -/
theorem Confined.iteBind {p : Prop} [Decidable p] {x y : Mio α} {f : α → Mio β} {S : β → Prop}
    (hx : p → Confined here Q x) (hy : ¬ p → Confined here Q y) (hf : ∀ a, Q a → Confined here S (f a)) :
    Confined here S (if p then x >>= f else y >>= f) :=
  Confined.ite (fun h => (hx h).bind hf) fun h => (hy h).bind hf

/-- A step that is taken in one case only, and what follows it. -/
theorem Confined.iteThen {p : Prop} [Decidable p] {x : Mio α} {y : Mio β} {S : β → Prop}
    (hx : p → Confined here (fun _ => True) x) (hy : Confined here S y) :
    Confined here S (if p then x >>= fun _ => y else y) :=
  Confined.ite (fun h => (hx h).then fun _ => hy) fun _ => hy

theorem Confined.elseThen {p : Prop} [Decidable p] {x : Mio α} {y : Mio β} {S : β → Prop}
    (hx : ¬ p → Confined here (fun _ => True) x) (hy : Confined here S y) :
    Confined here S (if p then y else x >>= fun _ => y) :=
  Confined.ite (fun _ => hy) fun h => (hx h).then fun _ => hy

theorem confined_get : Confined here (fun _ => True) (get : Mio Io) := fun io _ => ⟨Proceeds.refl io, trivial⟩

/-- A sequence that looks at its own state, from which on it at most reads. -/
theorem Confined.getBind {f : Io → Mio β} {S : β → Prop} (h : ∀ io, ReadsOnly io (f io io).2 ∧ S (f io io).1) :
    Confined here S (get >>= f) := fun io _ => ⟨(h io).1.proceeds, (h io).2⟩

theorem Confined.forM {l : List β} {f : β → Mio PUnit} (h : ∀ b ∈ l, Confined here (fun _ => True) (f b)) :
    Confined here (fun _ => True) (l.forM f) := by
  induction l with
  | nil => exact Confined.pure trivial
  | cons b l ih => exact (h b List.mem_cons_self).then fun _ => ih fun x hx => h x (List.mem_cons_of_mem _ hx)

/-- A change to the counts of the accesses alone. -/
theorem confined_modify {f : Io → Io} (h : ∀ io, ReadsOnly io (f io)) :
    Confined here (fun _ => True) (modify f : Mio PUnit) := fun io _ => ⟨(h io).proceeds, trivial⟩

theorem Confined.ofNum (x : Num α) : Confined here (fun _ => True) (num x) := confined_num fun _ => trivial

/-- A step of a phase that may be left out. -/
theorem Confined.unlessStopped {x : Mio Unit} (h : Confined here (fun _ => True) x) :
    Confined here (fun _ => True) (unlessStopped x) :=
  confined_ioStopped.then fun _ => Confined.ite (fun _ => Confined.pure trivial) fun _ => h

theorem confined_ioRead (a n : Nat) : Confined here (fun _ => True) (ioRead false a n) :=
  fun _ hq => ⟨(ioRead_quiet hq a n).1.proceeds, trivial⟩

theorem confined_coreMark (k : Nat) : Confined here (fun _ => True) (coreMark k) :=
  confined_modify fun _ => ⟨rfl, rfl, rfl⟩

theorem confined_takeStream (shares : List (Nat × Nat)) (x : WStream) :
    Confined here (fun _ => True) (takeStream shares x) := confined_modify fun _ => ⟨rfl, rfl, rfl⟩

/-- A row of a local tensor at the array edge (R116). -/
theorem confined_edgeCodes {d : Desc} (hd : d.dom = false) (cs : List Nat) (n : Nat) :
    Confined here (fun _ => True) (edgeCodes d cs n) := by
  unfold edgeCodes
  rw [hd]
  refine Confined.ite (fun _ => ?_) fun _ => ?_
  · exact Confined.ite (fun _ => Confined.pure trivial) fun _ => (confined_ioRead _ _).then fun _ => Confined.pure trivial
  · have hseg : Confined here (fun _ => True) (d.readSeg cs 0 n) :=
      fun _ hq => ⟨(readSeg_quiet hd hq cs 0 n).1.proceeds, trivial⟩
    exact hseg.then fun _ => Confined.pure trivial

theorem confined_readWeights {d : Desc} (hd : d.dom = false) (e n : Nat) :
    Confined here (fun rows => rows.length = e) (readWeights d e n) :=
  (Confined.mapM fun _ _ => confined_edgeCodes hd _ _).weaken (fun _ h => h) fun _ h => h.1.trans List.length_range

end

/-! ## Weight sources -/

/-- The weight source `src` is local, and a resident copy of it has a row for each of `E` experts. -/
def SourceLocal (slots : List Slot) (lvl E : Nat) (src : Option WSource) : Prop :=
  ∀ w, src = some w → (descOf lvl w.desc).dom = false ∧ ∀ i, w.slot = some i → ((slots[i]?).getD {}).rows.length = E

/-- The weights in force have a row for each expert (R125, R126). -/
theorem confined_readStream {here : Nat → Prop} {s : State} {lvl E : Nat} {src : Option WSource} (D : Nat)
    (h : SourceLocal s.slots lvl E src) :
    Confined here (fun st => st.w.length = E) (readStream lvl src (sourceRows s lvl src).1 (sourceRows s lvl src).2 E D) := by
  cases src with
  | none => exact Confined.pure List.length_replicate
  | some w =>
    obtain ⟨hdom, hslot⟩ := h w rfl
    have hrows : w.slot.isSome = true → (sourceRows s lvl (some w)).1.length = E := fun hsome => by
      obtain ⟨i, hi⟩ := Option.isSome_iff_exists.mp hsome
      simp only [sourceRows, hi]
      exact hslot i hi
    have hend : ∀ (before : Io) (codes : List (List Nat)), codes.length = E →
        Confined here (fun st => st.w.length = E) (do
          let after ← get
          let n := after.rd - before.rd
          let (W, t) := (codes.mapM (fun r => r.mapM (edgeVal (descOf lvl w.desc).ety w.hdr)) : Num (List (List FVal))) {}
          if after.stop.isSome then set { after with wb := after.wb + n } else set { after with rd := before.rd }
          pure ⟨W, n, t⟩ : Mio WStream) := fun before codes hlen => Confined.getBind fun io => by
      have hw : ((codes.mapM (fun r => r.mapM (edgeVal (descOf lvl w.desc).ety w.hdr)) :
          Num (List (List FVal))) {}).1.length = E := (length_mapM ..).trans hlen
      dsimp only
      split
      · exact ⟨⟨rfl, rfl, rfl⟩, hw⟩
      · exact ⟨⟨rfl, rfl, rfl⟩, hw⟩
    exact confined_get.then fun before => Confined.iteBind (fun hsome => Confined.pure (hrows hsome))
      (fun _ => confined_readWeights hdom E D) (hend before)

end Sys2Proof.Machine
end

section
/-! What SCORE and SCOREV write: selection records, statistics, logits (R133, R135, R140, R146). -/

namespace Sys2Proof.Machine

/-! ## Lengths -/

theorem length_topSlots_le (k : Nat) (l : List (FVal × Nat)) : (topSlots k l).length ≤ k := by
  have hfold : ∀ slots : List (FVal × Nat), slots.length ≤ k →
      (l.foldl (fun slots x => (insertKey x slots).take k) slots).length ≤ k := by
    induction l with
    | nil => exact fun _ h => h
    | cons x l ih => exact fun slots _ => ih _ (List.length_take_le ..)
  exact hfold [] (Nat.zero_le k)

/-- At most K experts are chosen (R140). -/
theorem length_choose_le (g : SelCfg) (keys : List FVal) : (choose g keys).1.length ≤ g.k := by
  unfold choose
  dsimp only
  split
  · exact (List.length_map ..).trans_le (length_topSlots_le ..)
  · exact (List.length_map ..).trans_le (length_topSlots_le ..)

theorem selectToken_experts (g : SelCfg) (bias : Option (List FVal)) (l : List FVal) (t : Tally) :
    ∃ keys, (selectToken g bias l t).1.experts = (choose g keys).1 := by
  cases bias with
  | none => exact ⟨_, rfl⟩
  | some b => exact ⟨_, rfl⟩

theorem length_recordBytes_le (experts gates : List Nat) : (recordBytes experts gates).length ≤ 4 * experts.length := by
  rw [recordBytes, length_flatten_of_forall (n := 4) fun b hb => ?_]
  · rw [List.length_map, List.length_zip]
    omega
  · obtain ⟨p, -, rfl⟩ := List.mem_map.mp hb
    exact leBytes_length ..

/-! ## Areas -/

/-- A piece of an area. -/
theorem areaAt_of_le {a n b m : Nat} (h : b + m ≤ n) : ∀ i, i < m → areaAt a n (((a + b) % 2 ^ 42 + i) % 2 ^ 42) :=
  fun i hi => ⟨b + i, by omega, by rw [Nat.mod_add_mod, Nat.add_assoc]⟩

/-- A row of an area of rows, `w` bytes apart. -/
theorem areaAt_row {a w T t m : Nat} (ht : t < T) (hm : m ≤ w) :
    ∀ i, i < m → areaAt a (w * T) (((a + w * t) % 2 ^ 42 + i) % 2 ^ 42) := by
  refine areaAt_of_le ?_
  have : w * (t + 1) ≤ w * T := Nat.mul_le_mul_left w ht
  rw [Nat.mul_succ] at this
  omega

section
variable {here : Nat → Prop}

/-- The statistics block of E experts (R146). -/
theorem confined_writeStats {a E : Nat} (hin : ∀ i, i < 64 + 8 * E → here ((a + i) % 2 ^ 42)) (acc : Bool) (T : Nat)
    (l : List Chosen) : Confined here (fun _ => True) (writeStats a acc T E l) := by
  have hwrite : ∀ (n : Nat) (p q : Pair) (ps : List Pair), ps.length = E → Confined here (fun _ => True)
      (ioWrite false a (leBytes 8 n ++ leBytes 8 (pairCode p) ++ leBytes 8 (pairCode q) ++ List.replicate 40 0#8 ++
        (ps.map (fun x => leBytes 8 (pairCode x))).flatten)) := fun n p q ps hps => confined_ioWrite fun i hi => by
    refine hin i (hi.trans_le ?_)
    simp only [List.length_append, leBytes_length, List.length_replicate]
    rw [length_flatten_of_forall (n := 8) (by simp), List.length_map, hps]
  unfold writeStats
  refine (Confined.ofNum _).then fun ls => (Confined.ofNum _).then fun sq =>
    (confined_num (Q := fun ps => ps.length = E) fun t => (length_mapM ..).trans List.length_range).bind fun ps hps =>
      Confined.ite (fun _ => ?_) fun _ => hwrite _ _ _ _ hps
  refine (confined_ioRead _ _).then fun old => (Confined.ofNum _).then fun ls1 => (Confined.ofNum _).then fun sq1 =>
    (confined_num (Q := fun ps1 => ps1.length = E) fun t => ?_).bind fun ps1 hps1 => hwrite _ _ _ _ hps1
  rw [length_mapM, indexed, List.length_zip, List.length_range, hps, min_self]

/-! ## Tokens -/

/-- What a run of SCORE or SCOREV needs so that token `t` stays in its areas. -/
structure ScoreRun.Ready (here : Nat → Prop) (r : ScoreRun) (T : Nat) : Prop where
  source : r.d.dom = false
  weights : 0 < T → r.st.w.length = r.E
  records : ∀ t i, t < T → i < 4 * r.g.k → here (((opAddr r.c.b + 64 + 64 * t) % 2 ^ 42 + i) % 2 ^ 42)
  logits : r.dump ≠ 0 → ∀ t i, t < T → i < 4 * r.E → here (((r.dump + roundUp (4 * r.E) 64 * t) % 2 ^ 42 + i) % 2 ^ 42)

theorem ScoreRun.Ready.token {r : ScoreRun} {T t : Nat} (h : r.Ready here T) (ht : t < T) :
    Confined here (fun _ => True) (r.token t) := by
  unfold ScoreRun.token
  dsimp only
  refine Confined.iteThen (fun _ => confined_takeStream _ _) <| (confined_edgeCodes h.source _ _).then fun codes =>
    (Confined.ofNum _).then fun x =>
      (confined_num (Q := fun l => l.length = r.E) fun _ => (length_mapM ..).trans (h.weights (by omega))).bind fun l hl =>
        (confined_num (Q := fun o => o.experts.length ≤ r.g.k) fun t => ?_).bind fun o ho =>
          (confined_ioWrite fun i hi => ?_).then fun _ => Confined.elseThen (fun hdump => confined_ioWrite fun i hi => ?_)
            ((confined_coreMark _).then fun _ => Confined.pure trivial)
  · obtain ⟨keys, hkeys⟩ := selectToken_experts r.g r.bias l t
    rw [hkeys]
    exact length_choose_le ..
  · have := length_recordBytes_le o.experts o.gates
    exact h.records t i ht (by omega)
  · refine h.logits hdump t i ht (hi.trans_eq ?_)
    rw [length_flatten_of_forall (n := 4) (by simp), List.length_map, hl]

theorem ScoreRun.Ready.tokens {r : ScoreRun} {T : Nat} (h : r.Ready here T) :
    Confined here (fun _ => True) (r.tokens T) :=
  (Confined.mapM (Q := fun _ => True) fun _ ht => confined_ioStopped.then fun _ =>
    Confined.ite (fun _ => Confined.pure trivial) fun _ => h.token (List.mem_range.mp ht)).forget

end

/-! ## The run -/

/-- The bytes that a SCORE or SCOREV of `T` tokens may write (R133, R135, R146). -/
def scoreArea (s : State) (c : Cmd) (T : Nat) (x : Nat) : Prop :=
  areaAt (opAddr c.b + 64) (64 * T) x ∨ (c.c ≠ 0 ∧ areaAt (opAddr c.c) (64 + 8 * pbE (ctx s c.ctx)) x) ∨
    (c.subop = 8 ∧ csrField s 0x40010 6 36 ≠ 0 ∧
      areaAt (csrField s 0x40010 6 36 * 64) (roundUp (4 * pbE (ctx s c.ctx)) 64 * T) x)

theorem confined_readBias {here : Nat → Prop} (h E : Nat) : Confined here (fun _ => True) (readBias h E) := by
  unfold readBias
  exact Confined.ite (fun _ => Confined.pure trivial) fun _ => (confined_ioRead _ _).then fun _ => Confined.pure trivial

/-- How a SCORE or SCOREV goes through its tokens, with its biases and its stream of weights. -/
def scoreTokens (s : State) (c : Cmd) (array : Bool) (bias : Option (List FVal)) (st : WStream) : ScoreRun :=
  { c := c, array := array, g := selCfg (ctx s c.ctx) c, d := descOf c.level (nth c.saved 0), D := pbD (ctx s c.ctx),
    E := pbE (ctx s c.ctx), st := st, bias := bias, dump := if c.subop = 8 then csrField s 0x40010 6 36 * 64 else 0 }

section
variable {s : State} {c : Cmd}

theorem scoreTokens_ready (hd : (descOf c.level (nth c.saved 0)).dom = false) (hk : pbK (ctx s c.ctx) ≤ 16) (array : Bool)
    {T : Nat} (bias : Option (List FVal)) {st : WStream} (hst : 0 < T → st.w.length = pbE (ctx s c.ctx)) :
    (scoreTokens s c array bias st).Ready (scoreArea s c T) T where
  source := hd
  weights := hst
  records t i ht hi := .inl (areaAt_row ht le_rfl i (hi.trans_le (Nat.mul_le_mul_left 4 hk)))
  logits hdump t i ht hi := by
    have hsub : c.subop = 8 := by by_contra h; exact hdump (if_neg h)
    have hbase : (scoreTokens s c array bias st).dump = csrField s 0x40010 6 36 * 64 := if_pos hsub
    rw [hbase] at hdump ⊢
    exact .inr (.inr ⟨hsub, fun h => hdump (congrArg (· * 64) h), areaAt_row ht (le_roundUp _ (by omega)) i hi⟩)

/-- SCORE and SCOREV write in their areas alone. -/
theorem confined_scoreRun (hd : (descOf c.level (nth c.saved 0)).dom = false)
    (hsrc : SourceLocal s.slots c.level (pbE (ctx s c.ctx)) (sourceOf (c.saved.drop 2))) (hk : pbK (ctx s c.ctx) ≤ 16)
    (array : Bool) (T : Nat) : Confined (scoreArea s c T) (fun _ => True) (scoreRun s c array T) := by
  have hstats : ∀ l, absent c.c = false → Confined (scoreArea s c T) (fun _ => True)
      (writeStats (opAddr c.c) (bit (nth c.saved 1) 65) T (pbE (ctx s c.ctx)) l) := fun l hc =>
    confined_writeStats (fun i hi => .inr (.inl ⟨by simpa [absent] using hc, i, hi, rfl⟩)) _ T l
  unfold scoreRun
  dsimp only
  refine Confined.iteBind (fun _ => Confined.pure trivial) (fun _ => confined_readBias _ _) fun bias _ =>
    Confined.iteBind (Q := fun st => 0 < T → st.w.length = pbE (ctx s c.ctx)) (fun h0 => Confined.pure (by omega))
      (fun _ => (confined_readStream _ hsrc).weaken (fun _ h => h) fun _ h _ => h) fun st hst =>
        (scoreTokens_ready hd hk array bias hst).tokens.then fun l => Confined.iteThen (fun _ => Confined.ofNum _) <|
          Confined.elseThen (fun hc => hstats l (by simpa using hc)) (Confined.pure trivial)

end

end Sys2Proof.Machine
end

section
/-! What RGRAD writes: dlogit in SCRATCH, and the weight gradients in DW (R127, R128, R147). -/

namespace Sys2Proof.Machine

/-! ## Lengths -/

/-- Every value of the arithmetic meets `Q`. -/
def Gives {α : Type} (Q : α → Prop) (x : Num α) : Prop := ∀ t, Q (x t).1

section
variable {α β : Type} {Q : α → Prop} {R : β → Prop}

theorem Gives.bind {x : Num α} {f : α → Num β} (hx : Gives Q x) (hf : ∀ a, Q a → Gives R (f a)) : Gives R (x >>= f) :=
  fun t => hf _ (hx t) _

theorem Gives.next {x : Num α} {f : α → Num β} (hf : ∀ a, Gives R (f a)) : Gives R (x >>= f) := fun _ => hf _ _

theorem Gives.ite {p : Prop} [Decidable p] {x y : Num α} (hx : Gives Q x) (hy : Gives Q y) :
    Gives Q (if p then x else y) := by
  split
  · exact hx
  · exact hy

end

theorem length_tokStats_p (l : List FVal) : Gives (fun st : TokStat => st.p.length = l.length) (tokStats l) := fun t => by
  obtain ⟨t1, t2, f, g, hrun⟩ : ∃ t1 t2, ∃ f g : FVal → Num FVal, (tokStats l t).1.p = (((l.mapM f t1).1).mapM g t2).1 :=
    ⟨_, _, _, _, rfl⟩
  rw [hrun, length_mapM, length_mapM]

/-- A router gradient has no more elements than the token has logits (R147). -/
theorem length_routerGrad_le (g : SelCfg) (z : FVal) (l : List FVal) (S : List Nat) (gg pg : List FVal) (t : Tally) :
    (routerGrad g z l S gg pg t).1.length ≤ l.length := by
  suffices h : Gives (fun dl : List FVal => dl.length ≤ l.length) (routerGrad g z l S gg pg) from h t
  unfold routerGrad
  refine Gives.next fun sig => (length_tokStats_p l).bind fun st hst => Gives.next fun raw => Gives.next fun gate => ?_
  extract_lets zero narrowed spread
  have hlast : ∀ dl, Gives (fun dl : List FVal => dl.length ≤ l.length) (narrowed dl) := fun dl =>
    Gives.next fun z2 => Gives.next fun zl t => by
      rw [length_mapM, List.length_zip, hst]
      exact min_le_right ..
  have hspread : ∀ gs, Gives (fun dl : List FVal => dl.length ≤ l.length) (spread gs) := fun gs =>
    Gives.ite (Gives.next fun _ => Gives.next fun _ => Gives.next fun _ => Gives.next hlast) <|
      Gives.ite (Gives.next fun _ => Gives.next fun _ => Gives.next fun _ => Gives.next fun _ => Gives.next fun _ =>
        Gives.next hlast) (Gives.next hlast)
  exact Gives.ite (Gives.next fun _ => Gives.next fun _ => Gives.next fun _ => Gives.next hspread) (Gives.next hspread)

section
variable {here : Nat → Prop}

/-- Reads that count more than once. -/
theorem Confined.dlogitTimes {α : Type} {Q : α → Prop} {x : Mio α} (h : Confined here Q x) (m : Nat) :
    Confined here Q (dlogitTimes m x) := by
  unfold Machine.dlogitTimes
  refine confined_get.then fun before => h.bind fun v hv => (confined_modify fun io => ?_).then fun _ => Confined.pure hv
  dsimp only
  split
  · exact ⟨rfl, rfl, rfl⟩
  · exact ⟨rfl, rfl, rfl⟩

/-- Bytes of an element of DW (R128). -/
def Rg.dwBytes (r : Rg) : Nat := if bit r.blk (320 + 1) then 4 else 8

/-- What a run of RGRAD needs so that it stays in its areas. -/
structure Rg.Ready (here : Nat → Prop) (r : Rg) : Prop where
  sourceA : r.a.dom = false
  sourceB : r.b.dom = false
  noDx : r.addr 3 = 0
  scratch : ∀ t i, t < r.T → i < 2 * r.E → here ((r.scratch t + i) % 2 ^ 42)
  weights : r.addr 2 ≠ 0 → ∀ e i, e < r.E → i < r.dwBytes * r.D →
    here ((r.addr 2 + roundUp (r.dwBytes * r.D) 64 * e + i) % 2 ^ 42)

namespace Rg.Ready
variable {r : Rg}

theorem confined_row (h : r.Ready here) (m t : Nat) : Confined here (fun _ => True) (r.row m t) :=
  (confined_edgeCodes h.sourceA _ _).then fun _ => Confined.ofNum _

theorem confined_pgrad (r : Rg) : Confined here (fun _ => True) r.pgrad := by
  unfold Rg.pgrad
  exact Confined.ite (fun _ => Confined.pure trivial) fun _ => (confined_ioRead _ _).then fun _ => Confined.pure trivial

theorem confined_dlogit (r : Rg) : Confined here (fun _ => True) r.dlogit :=
  (Confined.mapM (Q := fun _ => True) fun _ _ => (confined_ioRead _ _).then fun _ => Confined.pure trivial).forget

/-! ## Phase R -/

theorem confined_tokenR (h : r.Ready here) {st : WStream} (hst : st.w.length = r.E) (pg : List FVal) {t : Nat}
    (ht : t < r.T) : Confined here (fun _ => True) (r.tokenR st pg t) := by
  unfold Rg.tokenR
  dsimp only
  refine Confined.iteThen (fun _ => confined_takeStream _ _) <| (h.confined_row _ _).then fun x =>
    (confined_num (Q := fun l => l.length = r.E) fun _ => (length_mapM ..).trans hst).bind fun l hl =>
      (confined_ioRead _ _).then fun rec_ => (confined_sourceRow h.sourceB _ _ _).forget.then fun gg =>
        (confined_num (Q := fun dl => dl.length ≤ r.E) fun _ => (length_routerGrad_le ..).trans_eq hl).bind fun dl hdl =>
          (confined_num (Q := fun codes => codes.length = dl.length) fun _ => length_mapM ..).bind fun codes hcodes =>
            (confined_ioWrite fun i hi => ?_).then fun _ => confined_coreMark _
  rw [length_bytesOf, hcodes] at hi
  exact h.scratch t i ht (hi.trans_le (Nat.mul_le_mul_left 2 hdl))

theorem confined_phaseR (h : r.Ready here) {st : WStream} (hst : 0 < r.T → st.w.length = r.E) :
    Confined here (fun _ => True) (r.phaseR st) :=
  (confined_pgrad r).then fun pg => (Confined.forM fun t ht => by
    have ht := List.mem_range.mp ht
    exact (h.confined_tokenR (hst (by omega)) pg ht).unlessStopped).then fun _ => Confined.ofNum _

/-! ## Phase W -/

/-- Of the numbers from `b` on, at most those below `n` are left. -/
theorem length_filter_lt_le (m b n : Nat) :
    (((List.range m).map (· + b)).filter (· < n)).length ≤ n - b := by
  suffices h : (((List.range m).map (· + b)).filter (· < n)).length ≤ min m (n - b) from h.trans (min_le_right ..)
  induction m with
  | zero => exact Nat.zero_le _
  | succ m ih =>
    rw [List.range_succ, List.map_append, List.filter_append, List.length_append, List.map_singleton, List.filter_singleton]
    by_cases hm : m + b < n
    · simp only [hm, decide_true, cond_true, List.length_singleton]
      omega
    · simp only [hm, decide_false, cond_false, List.length_nil]
      omega

/-- A slice of DW lies in its expert's row. -/
theorem confined_putDw (h : r.Ready here) (h2 : r.addr 2 ≠ 0) {e f : Nat} {acc : List Pair} (he : e < r.E)
    (hf : ∀ j, j < acc.length → f + j < r.D) : Confined here (fun _ => True) (r.putDw e f acc) := by
  unfold Rg.putDw
  extract_lets single n write
  have hwrite : ∀ sum : List Pair, sum.length = acc.length → Confined here (fun _ => True) (write sum) := fun sum hsum =>
    (confined_num (Q := fun out => out.length = acc.length ∧ ∀ b ∈ out, b.length = n) fun t =>
      ⟨(length_mapM ..).trans hsum, forall_mem_mapM (fun p _ t => ?_) t⟩).bind fun out hout => confined_ioWrite fun i hi => ?_
  · refine Confined.ite (fun _ => ?_) fun _ => (Confined.pure (Q := fun sum => sum.length = acc.length) rfl).bind hwrite
    refine (confined_ioRead _ _).then fun old => (confined_num (Q := fun sum => sum.length = acc.length) fun t => ?_).bind hwrite
    rw [length_mapM, indexed, List.length_zip, List.length_range, min_self]
  · by_cases hs : single = true
    · simp only [n, hs, if_true]
      exact leBytes_length ..
    · simp only [n, hs]
      exact leBytes_length ..
  · rw [length_flatten_of_forall hout.2, hout.1] at hi
    have hpos : 0 < acc.length := Nat.pos_of_ne_zero fun h0 => by rw [h0] at hi; omega
    have hn : n * (f + acc.length) ≤ n * r.D := Nat.mul_le_mul_left n (by have := hf (acc.length - 1) (by omega); omega)
    rw [Nat.mul_add] at hn
    have hin := h.weights h2 e (n * f + i) he (show n * f + i < n * r.D by omega)
    rw [← Nat.add_assoc] at hin
    rw [Rg.dwAt, Nat.mod_add_mod]
    exact hin

theorem confined_unitW (h : r.Ready here) (h2 : r.addr 2 ≠ 0) (G X : List (List FVal)) (p ch : Nat) :
    Confined here (fun _ => True) (r.unitW G X p ch) := by
  unfold Rg.unitW
  extract_lets feats
  refine (Confined.forM fun e he => Confined.unlessStopped ?_).then fun _ => confined_coreMark _
  have he : e < r.E := by simpa using (List.mem_filter.mp he).2
  refine (confined_num (Q := fun acc => acc.length = feats.length) fun t => length_mapM ..).bind fun acc hacc =>
    h.confined_putDw h2 he fun j hj => ?_
  have hlen : feats.length ≤ r.D - 128 * ch := length_filter_lt_le ..
  omega

theorem confined_phaseW (h : r.Ready here) : Confined here (fun _ => True) r.phaseW := by
  unfold Rg.phaseW
  dsimp only
  exact Confined.ite (fun _ => Confined.pure trivial) fun h2 => (confined_dlogit r).dlogitTimes _ |>.then fun G =>
    (Confined.mapM fun t _ => h.confined_row _ t).forget.then fun X =>
      (Confined.forM fun p _ => Confined.forM fun ch _ =>
        (h.confined_unitW (fun h0 => h2 (.inl h0)) G X p ch).unlessStopped).then fun _ => Confined.ofNum _

/-! ## Phase X -/

/-- Without DX there is no phase X. -/
theorem confined_phaseX (h : r.Ready here) (st : WStream) : Confined here (fun _ => True) (r.phaseX st) := by
  unfold Rg.phaseX
  rw [if_pos (.inl h.noDx)]
  exact Confined.pure trivial

end Rg.Ready

end

/-! ## The run -/

/-- From memory `m`, with no error so far, the sequence writes in `here` alone. -/
def StaysFrom {α : Type} (m : HostMem) (here : Nat → Prop) (x : Mio α) : Prop :=
  ∀ io : Io, io.mem = m → io.stop = none → Proceeds here io (x io).2

section
variable {α : Type} {m : HostMem} {here : Nat → Prop}

theorem Confined.staysFrom {Q : α → Prop} {x : Mio α} (h : Confined here Q x) (hq : m.marks = []) : StaysFrom m here x :=
  fun io hm _ => (h io (hm ▸ hq)).1

/-- A structure that the sequence reads is the one in memory (R74). -/
theorem StaysFrom.struct (hq : m.marks = []) {x : Nat} {f : Nat → Mio α} (h : StaysFrom m here (f (rdNum m (opAddr x) 64))) :
    StaysFrom m here (readStruct x >>= f) := fun io hm hs => by
  obtain ⟨hreads, hval⟩ := readStruct_reads (hm ▸ hq) hs x
  refine hreads.proceeds.trans (?_ : Proceeds here _ (f (readStruct x io).1 (readStruct x io).2).2)
  rw [hval, hm]
  exact h _ (hreads.mem.trans hm) (hreads.stop.trans hs)

theorem StaysFrom.desc (hq : m.marks = []) {c : Cmd} {x : Nat} {f : Desc → Mio α} (h : StaysFrom m here (f (descIn m c x))) :
    StaysFrom m here (readDesc c x >>= f) :=
  StaysFrom.struct hq (f := fun raw => f (descOf c.level raw)) h

/-- It goes on where it would have stopped at an error. -/
theorem StaysFrom.goesOn {f : Bool → Mio α} (h : StaysFrom m here (f false)) : StaysFrom m here (ioStopped >>= f) :=
  fun io hm hs => by
    have hrun : (ioStopped >>= f) io = f io.stop.isSome io := rfl
    rw [hrun, hs]
    exact h io hm hs

end

/-- The bytes of SCRATCH, of `T` rows, and of DW that the block `blk` of an RGRAD names (R127, R128, Table 05.6). -/
def rgradArea (k : Ctx) (blk T x : Nat) : Prop :=
  areaAt (bits blk 70 36 * 64) (roundUp (2 * pbE k) 64 * T) x ∨
    (bits blk 134 36 ≠ 0 ∧
      areaAt (bits blk 134 36 * 64) (roundUp ((if bit blk 321 then 4 else 8) * pbD k) 64 * pbE k) x)

/-- What an RGRAD of command `c` without DX works on, with its structures in memory `m` and the header `idx`. -/
def rgOf (s : State) (c : Cmd) (m : HostMem) (idx : Nat) : Rg where
  c := c
  g := { route := pbRoute (ctx s c.ctx), k := pbK (ctx s c.ctx), renorm := bit idx 64, cvt := c.cvt }
  blk := rdNum m (opAddr c.c) 64
  a := descIn m c c.a
  b := descIn m c c.b
  dx := {}
  E := pbE (ctx s c.ctx)
  D := pbD (ctx s c.ctx)
  T := (descIn m c c.a).rows

section
variable {s : State} {c : Cmd} {m : HostMem} (ha : (descIn m c c.a).dom = false) (hb : (descIn m c c.b).dom = false)
  (hdx : bits (rdNum m (opAddr c.c) 64) 198 36 = 0)
include ha hb hdx

theorem rgOf_ready (idx : Nat) :
    (rgOf s c m idx).Ready (rgradArea (ctx s c.ctx) (rdNum m (opAddr c.c) 64) (descIn m c c.a).rows) where
  sourceA := ha
  sourceB := hb
  noDx := congrArg (· * 64) hdx
  scratch t i ht hi := .inl (areaAt_row ht (le_roundUp _ (by omega)) i hi)
  weights h2 e i he hi := .inr ⟨fun h0 => h2 (congrArg (· * 64) h0), by
    have hrow := areaAt_row (a := (rgOf s c m idx).addr 2) he
      (le_roundUp ((rgOf s c m idx).dwBytes * (rgOf s c m idx).D) (k := 64) (by omega)) i hi
    rwa [Nat.mod_add_mod] at hrow⟩

/-- RGRAD without DX writes in its areas alone. -/
theorem rgradRun_stays (hq : m.marks = [])
    (hsrc : SourceLocal s.slots c.level (pbE (ctx s c.ctx)) (ctx s c.ctx).cur) :
    StaysFrom m (rgradArea (ctx s c.ctx) (rdNum m (opAddr c.c) 64) (descIn m c c.a).rows) (rgradRun s c) := by
  unfold rgradRun
  refine StaysFrom.struct hq <| StaysFrom.desc hq <| StaysFrom.desc hq ?_
  extract_lets withDx
  rw [if_pos hdx, pure_bind]
  refine StaysFrom.goesOn (Confined.staysFrom (Q := fun _ => True) ?_ hq)
  rw [if_neg Bool.false_ne_true]
  extract_lets withIdx
  have hidx : ∀ idx, Confined (rgradArea (ctx s c.ctx) (rdNum m (opAddr c.c) 64) (descIn m c c.a).rows) (fun _ => True)
      (withIdx idx) := fun idx => by
    dsimp only [withIdx]
    refine Confined.iteBind (Q := fun st => 0 < (descIn m c c.a).rows → st.w.length = pbE (ctx s c.ctx))
      (fun h0 => Confined.pure (by omega)) (fun _ => (confined_readStream _ hsrc).weaken (fun _ h => h) fun _ h _ => h)
      fun st hst => ?_
    have hready := rgOf_ready (s := s) ha hb hdx idx
    exact (hready.confined_phaseR hst).unlessStopped.then fun _ => hready.confined_phaseW.unlessStopped.then fun _ =>
      (hready.confined_phaseX st).unlessStopped.then fun _ => Confined.pure trivial
  exact Confined.ite (fun _ => hidx 0) fun _ => (confined_ioRead _ _).then fun h => hidx (leNat h)

end

end Sys2Proof.Machine
end

section
/-! How RGRAD ends, and the claim about it (R127 to R129, R131, R247). -/

namespace Sys2Proof.Machine

/-! ## Counts -/

/-- The counts of array fills and masked rows count only (R119). -/
theorem CountsOnly.fillCounts {s t : State} (h : CountsOnly s t) (c : Cmd) (T D E ps : Nat) :
    CountsOnly s (fillCounts t c T D E ps) := by
  unfold Machine.fillCounts
  refine CountsOnly.foldl _ _ (fun u i _ hu => ?_) ((h.countC (by decide)).countC (by decide))
  dsimp only
  split
  · exact hu.pmcEvent.pmcEvent
  · exact hu.pmcEvent

theorem CountsOnly.rgradCounts {s t : State} (h : CountsOnly s t) (c : Cmd) (T blk : Nat) :
    CountsOnly s (rgradCounts t c T blk) := by
  unfold Machine.rgradCounts
  dsimp only
  split
  · exact h.fillCounts ..
  · exact CountsOnly.foldl _ _ (fun u i _ hu => hu.pmcEvent.pmcEvent)
      (((h.fillCounts ..).countC (by decide)).countC (by decide))

/-! ## The slot that held the word -/

section
variable {s t : State} {ecc : SramEcc} {src : Option WSource}

theorem spoilBy_of_none (h : ecc.double = none) : spoilBy ecc s src = s := by
  unfold spoilBy
  rw [h]
  rfl

theorem spoilBy_of_region {x : Strike} (h : ecc.double = some x) (hx : x.slot = false) : spoilBy ecc s src = s := by
  unfold spoilBy
  rw [h, Option.any_some, hx]
  rfl

/-- Freeing a slot touches weight slots and contexts alone. -/
theorem spoilBy_frame : { spoilBy ecc s src with ctxs := s.ctxs, slots := s.slots } = s := by
  unfold spoilBy spoilSlot
  split
  · split
    · rfl
    · rfl
  · rfl

/-- Which slot is freed does not depend on memory or on the front end. -/
theorem spoilBy_setMem_begun (s : State) (c : Cmd) (ecc : SramEcc) (m : HostMem) (src : Option WSource) :
    (spoilBy ecc (setMem (begun s c) m) src).ctxs = (spoilBy ecc s src).ctxs ∧
      (spoilBy ecc (setMem (begun s c) m) src).slots = (spoilBy ecc s src).slots := by
  unfold spoilBy spoilSlot
  split
  · split
    · exact ⟨rfl, rfl⟩
    · exact ⟨rfl, rfl⟩
  · exact ⟨rfl, rfl⟩

/-- The slot of the source that the instruction read is FREE (R131). -/
theorem spoilBy_slot {x : Strike} {w : WSource} {i : Nat} (h : ecc.double = some x) (hx : x.slot = true)
    (hsrc : src = some w) (hw : w.slot = some i) (hi : i < s.slots.length) : (spoilBy ecc s src).slots[i]? = some {} := by
  have hspoil : (spoilBy ecc s src).slots = s.slots.set i {} := by
    unfold spoilBy spoilSlot
    rw [h, Option.any_some, hx, if_pos rfl, hsrc, Option.bind_some, hw]
    rfl
  rw [hspoil, List.getElem?_set_self hi]

theorem CountsAndLogs.spoilBy (h : CountsAndLogs s t) (ecc : SramEcc) (src : Option WSource) :
    CountsAndLogs (spoilBy ecc s src) (spoilBy ecc t src) := by
  have hcomm : ∀ (u : State) r p m, { Machine.spoilBy ecc u src with csr := r, pmc := p, mgt := m } =
      Machine.spoilBy ecc { u with csr := r, pmc := p, mgt := m } src := fun u r p m => by
    unfold Machine.spoilBy spoilSlot
    split
    · split
      · rfl
      · rfl
    · rfl
  have hframe := spoilBy_frame (s := s) (ecc := ecc) (src := src)
  have hcsr : (Machine.spoilBy ecc s src).csr = s.csr := by have h' := congrArg State.csr hframe; exact h'
  have hpmc : (Machine.spoilBy ecc s src).pmc = s.pmc := by have h' := congrArg State.pmc hframe; exact h'
  have hmgt : (Machine.spoilBy ecc s src).mgt = s.mgt := by have h' := congrArg State.mgt hframe; exact h'
  unfold CountsAndLogs at h ⊢
  rw [hcsr, hpmc, hmgt, hcomm, h]

end

/-! ## The end of the instruction -/

section
variable {s u v : State} {c : Cmd} {opc : Nat} {ecc : SramEcc}

/-- What an instruction leaves that ends in `u`, which differs from `v` by counts and logs: its report, and the rest of `v`. -/
theorem settle_counted (hi : Issues s c opc) (hv : v.front = (begun s c).front) (hu : CountsAndLogs v u)
    (st dt r ep : Nat) :
    ∃ t, t = settle (doneWith u st dt r ep) c.q c.tag ∧ Reports s t c st dt r ep ∧ t.mem = v.mem ∧ t.ctxs = v.ctxs ∧
      t.disp = v.disp ∧ t.slots = v.slots ∧ t.mgt = u.mgt := by
  have hframe := settle_doneWith_frame u c.q c.tag st dt r ep
  refine ⟨_, rfl, reports_of_done hi (hu.front.trans hv) .., ?_, ?_, ?_, ?_, ?_⟩
  · exact (congrArg State.mem hframe).trans hu.mem
  · exact (congrArg State.ctxs hframe).trans hu.ctxs
  · exact (congrArg State.disp hframe).trans hu.disp
  · exact (congrArg State.slots hframe).trans hu.slots
  · have hmgt := congrArg State.mgt hframe
    exact hmgt

theorem exec_rgrad (h : Issues s c 0x13) (ecc : SramEcc) : exec (.rgrad c.q c.tag ecc) s =
    .next (settle (rgradWork ecc (stampIssue s c) (begun s c)) c.q c.tag) :=
  next_working h.working (issueRow_go h (k := isOp 0x13) (beq_iff_eq.mpr h.opc_eq) _)

/-- An RGRAD that does nothing but report. -/
theorem rgrad_reports (hi : Issues s c 0x13) {st dt : Nat}
    (hwork : rgradWork ecc (stampIssue s c) (begun s c) = doneWith (begun s c) st dt 0 0) :
    ∃ t, exec (.rgrad c.q c.tag ecc) s = .next t ∧ Reports s t c st dt 0 0 ∧ { t with front := s.front } = s := by
  rw [exec_rgrad hi, hwork]
  exact ⟨_, rfl, reports_of_done hi rfl .., congrArg (fun u : State => { u with front := s.front })
    (settle_doneWith_frame (begun s c) c.q c.tag st dt 0 0)⟩

/-- The accesses of an RGRAD that runs, as they end. -/
def rgradIo (s : State) (c : Cmd) (ecc : SramEcc) : Nat × Io :=
  rgradRun (begun s c) (stampIssue s c) (sfuStart s c ecc)

/-- The state when they are over. -/
def rgradClosed (s : State) (c : Cmd) (ecc : SramEcc) : State :=
  countC (spoilBy ecc (sfuClosed s c ecc (rgradIo s c ecc).2) (ctx s c.ctx).cur) 0x40088 (rgradIo s c ecc).2.wb

theorem rgradWork_runs (hslot : Slotted s c) (htab : tablesOk s = true) (hroute : pbRoute (ctx s c.ctx) ≠ 3)
    (hbad : pbBad (ctx s c.ctx) = false) :
    rgradWork ecc (stampIssue s c) (begun s c) = match (rgradIo s c ecc).2.ended with
      | some x => coreStop (rgradClosed s c ecc) (stampIssue s c) x
      | none => doneWith (rgradCounts (rgradClosed s c ecc) (stampIssue s c) (rgradIo s c ecc).1
          (rdNum s.mem (opAddr c.c) 64)) 0 0 0 0 := by
  have htables : tablesOk (begun s c) = true := htab
  have hslots : slotsOk (begun s c) (stampIssue s c) = true := hslot
  unfold rgradWork
  simp only [htables, hslots, stampIssue_ctx, ctx_begun, hroute, hbad, withSlots, Bool.not_true, Bool.false_eq_true, if_false, if_true]
  rfl

/-- But for the slot that a double-bit error frees, the end of the accesses counts and logs only. -/
theorem rgradClosed_counts (s : State) (c : Cmd) (ecc : SramEcc) :
    CountsAndLogs (spoilBy ecc (setMem (begun s c) (rgradIo s c ecc).2.mem) (ctx s c.ctx).cur) (rgradClosed s c ecc) ∧
      (rgradClosed s c ecc).mgt.next = s.mgt.next := by
  obtain ⟨hclosed, hnext⟩ := sfuClosed_counts s c ecc (rgradIo s c ecc).2
  have hcount : CountsOnly (spoilBy ecc (sfuClosed s c ecc (rgradIo s c ecc).2) (ctx s c.ctx).cur) (rgradClosed s c ecc) :=
    (CountsOnly.refl _).countC (by decide)
  have hmgt := congrArg State.mgt (spoilBy_frame (s := sfuClosed s c ecc (rgradIo s c ecc).2) (ecc := ecc)
    (src := (ctx s c.ctx).cur))
  exact ⟨(hclosed.spoilBy ecc _).trans hcount.andLogs, (congrArg (·.next) (hcount.mgt.trans hmgt)).trans hnext⟩

/-- What an RGRAD that runs leaves, once its accesses have met no error but its double-bit error. -/
theorem rgrad_ends (hi : Issues s c 0x13) (hslot : Slotted s c) (htab : tablesOk s = true)
    (hroute : pbRoute (ctx s c.ctx) ≠ 3) (hbad : pbBad (ctx s c.ctx) = false)
    (hended : (rgradIo s c ecc).2.ended = (sfuStart s c ecc).ended) :
    ∃ t st dt, exec (.rgrad c.q c.tag ecc) s = .next t ∧ Reports s t c st dt 0 0 ∧ t.mem = (rgradIo s c ecc).2.mem ∧
      t.disp = s.disp ∧ t.ctxs = (spoilBy ecc s (ctx s c.ctx).cur).ctxs ∧
      t.slots = (spoilBy ecc s (ctx s c.ctx).cur).slots ∧
      (ecc.double = none → st = 0 ∧ dt = 0) ∧
      (∀ x, ecc.double = some x → st = 0x30 ∧ dt = 0x10 + coreOf (coreActive s) x.core * 2 ^ 8 ∧
        t.mgt.next = (s.mgt.next + 1) % 2 ^ 32) := by
  obtain ⟨hclosed, hnext⟩ := rgradClosed_counts s c ecc
  set v := spoilBy ecc (setMem (begun s c) (rgradIo s c ecc).2.mem) (ctx s c.ctx).cur with hv
  have hframe : { v with ctxs := s.ctxs, slots := s.slots } = setMem (begun s c) (rgradIo s c ecc).2.mem := spoilBy_frame
  have hfront : v.front = (begun s c).front := by have h' := congrArg State.front hframe; exact h'
  have hmem : v.mem = (rgradIo s c ecc).2.mem := by have h' := congrArg State.mem hframe; exact h'
  have hdisp : v.disp = s.disp := by have h' := congrArg State.disp hframe; exact h'
  obtain ⟨hctxs, hslots⟩ := spoilBy_setMem_begun s c ecc (rgradIo s c ecc).2.mem (ctx s c.ctx).cur
  rw [exec_rgrad hi, rgradWork_runs hslot htab hroute hbad, hended, sfuStart_ended]
  cases hd : ecc.double with
  | none =>
    have hcounts := (CountsOnly.refl (rgradClosed s c ecc)).rgradCounts (stampIssue s c) (rgradIo s c ecc).1
      (rdNum s.mem (opAddr c.c) 64)
    obtain ⟨t, rfl, hrep, htmem, htctxs, htdisp, htslots, -⟩ :=
      settle_counted hi hfront (hclosed.trans hcounts.andLogs) 0 0 0 0
    exact ⟨_, 0, 0, rfl, hrep, htmem.trans hmem, htdisp.trans hdisp, htctxs.trans hctxs, htslots.trans hslots,
      fun _ => ⟨rfl, rfl⟩, fun x hx => (by cases hx)⟩
  | some x =>
    have hfault := logsOnly_raiseFault (rgradClosed s c ecc) 0x0203 2 2 c.ctx (strikeDetail (coreActive s) x) c.q
    obtain ⟨t, rfl, hrep, htmem, htctxs, htdisp, htslots, htmgt⟩ :=
      settle_counted hi hfront (hclosed.trans hfault.andCounts) 0x30 (strikeDetail (coreActive s) x) 0 0
    refine ⟨_, _, _, rfl, hrep, htmem.trans hmem, htdisp.trans hdisp, htctxs.trans hctxs, htslots.trans hslots,
      fun hx => (by cases hx), fun y hy => ?_⟩
    obtain rfl : x = y := Option.some.inj hy
    exact ⟨rfl, rfl, (congrArg (·.next) htmgt).trans ((raiseFault_next ..).trans (by rw [hnext]))⟩

end

/-- Settles O33: an RGRAD that runs stays in SCRATCH and DW, and ends as its double-bit error says. -/
theorem routerGradients : Obligations.RouterGradients := by
  unfold Obligations.RouterGradients
  refine ⟨fun s c ecc hi htab => ?_, fun s c ecc hi htab hroute => ?_, ?_⟩
  · exact rgrad_reports hi (by unfold rgradWork; simp [show tablesOk (begun s c) = false from htab]; rfl)
  · exact rgrad_reports hi (by
      unfold rgradWork
      simp [show tablesOk (begun s c) = true from htab, hroute])
  intro s c ecc ⟨hi, hslot⟩ hq htab hroute hbad ha hb hw hdx writes
  have hstart := sfuStart_mem s c ecc
  have hrun : Proceeds writes (sfuStart s c ecc) (rgradIo s c ecc).2 :=
    rgradRun_stays (s := begun s c) (c := stampIssue s c) ha hb hdx hq hw (sfuStart s c ecc) hstart rfl
  obtain ⟨t, st, dt, hexec, hrep, hmem, hdisp, hctxs, hslots, hdone, hstruck⟩ :=
    rgrad_ends hi hslot htab hroute hbad hrun.ended
  have honly : MemOnly writes s t := by
    refine ⟨?_, fun a ha => ?_⟩
    · rw [hmem, hrun.marks, hstart]
    · rw [hmem, hrun.only a ha, hstart]
  refine ⟨fun hd => ?_, fun x hd => ?_⟩
  · obtain ⟨rfl, rfl⟩ := hdone hd
    rw [spoilBy_of_none hd] at hctxs hslots
    exact ⟨t, hexec, hrep, honly, hctxs, hdisp, hslots⟩
  · obtain ⟨rfl, rfl, hnext⟩ := hstruck x hd
    refine ⟨t, hexec, hrep, honly, fun h0 => ?_, hnext, hdisp, fun hx => ?_, fun w i hx hcur hwi hlt => ?_⟩
    · rw [hmem, (hrun.due (sfuStart_due hd h0)).1, hstart]
    · rw [spoilBy_of_region hd hx] at hctxs hslots
      exact ⟨hslots, hctxs⟩
    · rw [hslots, spoilBy_slot hd hx hcur hwi hlt]

end Sys2Proof.Machine
end

section
/-! What lets a selection instruction run (rota slots, its reservation) does not depend on counts (R107, R196, R198). -/

namespace Sys2Proof.Machine

/-! ## The rota -/

/-- The rota's registers are not counted in (R108). -/
theorem countsIn_rota {off : Nat} (hlo : 0x30000 ≤ off) (hhi : off < 0x38000) : countsIn off = false := by
  have hall : ∀ row ∈ regsFront, row.reg.rc = 0 ∨ row.base = 0x14088 ∧ row.stride = 8 ∧ row.count = 1 := by decide
  have hrows : regRows off = regsFront := if_pos (by omega)
  have hrc : ∀ r, regInfo off = some r → r.rc = 0 := fun r hr => by
    obtain ⟨row, hfind, rfl⟩ := Option.map_eq_some_iff.mp hr
    obtain hrc | ⟨hbase, hstride, hcount⟩ := hall row (hrows ▸ List.mem_of_find?_eq_some hfind)
    · exact hrc
    · have hholds := List.find?_some hfind
      simp only [RegRow.holds, hbase, hstride, hcount, Bool.and_eq_true, decide_eq_true_eq] at hholds
      omega
  unfold countsIn
  cases hr : regInfo off with
  | none => simp; omega
  | some r => simp [hrc r hr]; omega

/-- In `t` the rota is the one of `s`: its tables, and which of them are active. -/
structure SameRota (s t : State) : Prop where
  active : t.rotaActive = s.rotaActive
  tables : ∀ off, countsIn off = false → csrGet t off = csrGet s off

section
variable {s t : State} {c d : Cmd} {n : Nat}

theorem CountsOnly.sameRota (h : CountsOnly s t) : SameRota s t :=
  { active := by have h' := congrArg State.rotaActive h.1; exact h'
    tables := h.2.1 }

theorem rotaHolds_congr (h : SameRota s t) {i : Nat} (hi : i < 64) (code : Nat) : rotaHolds t i code = rotaHolds s i code := by
  have hb : b2n (bit s.rotaActive i) ≤ 1 := by unfold b2n; split <;> omega
  have hreg : ∀ j, j < 32 → csrGet t (oRota i (b2n (bit s.rotaActive i)) j) =
      csrGet s (oRota i (b2n (bit s.rotaActive i)) j) := fun j hj =>
    h.tables _ (countsIn_rota (by unfold oRota; omega) (by unfold oRota; omega))
  unfold rotaHolds
  rw [h.active, Bool.eq_iff_iff, List.any_eq_true, List.any_eq_true]
  exact exists_congr fun j => and_congr_right fun hj => by rw [hreg j (List.mem_range.mp hj)]

theorem holdsMp_congr (h : SameRota s t) (hglb : t.glb = s.glb) (code : Nat) : holdsMp t code = holdsMp s code := by
  unfold holdsMp
  rw [hglb, Bool.eq_iff_iff, List.any_eq_true, List.any_eq_true]
  exact exists_congr fun n => and_congr_right fun hn => by
    rw [rotaHolds_congr h (by have := List.mem_range.mp hn; omega)]

theorem mem_coreActive {i : Nat} (h : i ∈ coreActive s) : i < 5 :=
  List.mem_range.mp (List.mem_of_mem_filter (List.mem_of_mem_take h))

theorem coresHoldMp_of (h : SameRota s t) (hglb : t.glb = s.glb) {l : List Nat} (hl : coresHoldMp s l = true) :
    coresHoldMp t l = true := by
  unfold coresHoldMp at hl ⊢
  simpa only [holdsMp_congr h hglb] using hl

theorem coresHoldSfu_of (h : SameRota s t) {l : List Nat} (hcores : ∀ i ∈ l, i < 5) (hl : coresHoldSfu s l = true) :
    coresHoldSfu t l = true := by
  unfold coresHoldSfu at hl ⊢
  rw [List.all_eq_true] at hl ⊢
  intro i hi
  have hone := hl i hi
  have hlt := hcores i hi
  simpa only [rotaHolds_congr h (show i < 64 by omega)] using hone

theorem coresHoldBanks_of (h : SameRota s t) {l : List Nat} {b : Nat} (hl : coresHoldBanks s l b n = true) :
    coresHoldBanks t l b n = true := by
  unfold coresHoldBanks at hl ⊢
  rw [List.all_eq_true] at hl ⊢
  intro i hi
  have hone := hl i hi
  simpa only [rotaHolds_congr h (show 48 + (b + i) % 16 < 64 by omega)] using hone

/-- A command of the scoring cores keeps the slots of its cores and of its tickets' banks. -/
theorem reserveSlots_of (h : SameRota s t) (hglb : t.glb = s.glb) (hnext : t.disp.nextTicket = s.disp.nextTicket)
    (hopc : d.opc = c.opc) (hsub : d.subop = c.subop) (hcores : d.cores = c.cores) (hunit : unitOf c.opc = .scoring)
    (hactive : ∀ i ∈ c.cores, i < 5) (hs : reserveSlots s c n = true) : reserveSlots t d n = true := by
  unfold reserveSlots slotsOk at hs ⊢
  rw [hopc, hsub, hcores, hnext]
  simp only [hunit, if_true, Bool.and_eq_true, Bool.or_eq_true] at hs ⊢
  obtain ⟨⟨hmp, hsfu⟩, hbanks⟩ := hs
  exact ⟨⟨coresHoldMp_of h hglb hmp, hsfu.imp_right (coresHoldSfu_of h hactive)⟩, coresHoldBanks_of h hbanks⟩

/-! ## The reservation -/

/-- Where no command waits for tickets, and there are enough, a reservation is granted (R198). -/
theorem reserveOk_of (hfree : n ≤ ringFree s) (hwait : ∀ x ∈ s.front.inflight, waitN x = 0) : reserveOk s c n = true := by
  have hheld : reserveHeld s c = false := by
    unfold reserveHeld
    rw [Bool.or_eq_false_iff, List.any_eq_false, List.any_eq_false]
    refine ⟨fun x hx => ?_, fun x hx => ?_⟩
    · simp [hwait x hx]
    · simp [hwait x ((List.takeWhile_sublist _).subset hx)]
  unfold reserveOk
  rw [hheld, decide_eq_true hfree]
  simp

/-- A command that waits for no ticket takes its place in flight. -/
theorem waitN_setCmd {x : Cmd} (hwait : ∀ y ∈ s.front.inflight, waitN y = 0) (hx : waitN x = 0) :
    ∀ y ∈ (setCmd s x).front.inflight, waitN y = 0 := by
  intro y hy
  obtain ⟨z, hz, rfl⟩ := List.mem_map.mp hy
  split
  · exact hx
  · exact hwait z hz

/-! ## The saved weight source -/

/-- What a selection instruction has sampled at issue reads back as the weight source then in force (R125). -/
theorem sourceOf_sourceCode (src : Option WSource) (l : List Nat) : sourceOf (sourceCode src ++ l) = src := by
  cases src with
  | none => rfl
  | some w =>
    have hdesc : (w.desc * 2 + 1) / 2 = w.desc := by omega
    have hhdr : ∀ h : Nat, (h * 2 + 1) / 2 = h := fun h => by omega
    obtain ⟨desc, _ | h, _ | i⟩ := w
    all_goals simp_all [sourceOf, sourceCode, nth]

end

end Sys2Proof.Machine
end

section
/-! The use that a selection instruction opens, and the tickets that it takes (R192, R197, R198). -/

namespace Sys2Proof.Machine

/-! ## Contexts -/

section
variable {s v : State}

theorem ctx_setCtx_other {k x : Nat} {y : Ctx} (h : x ≠ k) : ctx (setCtx s k y) x = ctx s x := slook_sput_ne h

/-- A context with parameters in range is no context at reset. -/
theorem ctx_setCtx_good {k : Nat} {y : Ctx} (h : pbBad y = false) : ctx (setCtx s k y) k = y :=
  slook_sput_of_ne_default fun hy => by
    subst hy
    cases h

theorem ctx_ctxCount_other {k x n m : Nat} (h : x ≠ k) : ctx (ctxCount s k n m) x = ctx s x := by
  unfold ctxCount
  split
  · rfl
  · exact ctx_setCtx_other h

/-- Its counters are all that is counted in a context (R367). -/
theorem bepoch_ctxCount {k n m : Nat} (h : pbBad (ctx s k) = false) : (ctx (ctxCount s k n m) k).bepoch = (ctx s k).bepoch := by
  unfold ctxCount
  split
  · rfl
  · have hread := congrArg Ctx.bepoch (ctx_setCtx_good (s := s) (k := k)
      (y := { ctx s k with cnt := (ctx s k).cnt.set n ((nth (ctx s k).cnt n + m) % 2 ^ 48) }) h)
    exact hread

/-! ## Tickets -/

/-- Ticket `n` is SELECTED, of the use in batch-table entry `slot` (R197). -/
def SelectedFor (v : State) (slot n : Nat) : Prop := (ticket v n).st = 1 ∧ (ticket v n).bentry = slot

variable {slot n m : Nat} {x : Ticket}

theorem SelectedFor.congr (h : SelectedFor v slot n) (ht : s.disp.tickets = v.disp.tickets) : SelectedFor s slot n := by
  unfold SelectedFor ticket at h ⊢
  rw [ht]
  exact h

theorem selectedFor_setTicket (v : State) (n : Nat) (hst : x.st = 1) (hentry : x.bentry = slot) :
    SelectedFor (setTicket v n x) slot n := by
  have hread : ticket (setTicket v n x) n = x := slook_sput_of_ne_default fun hx => by rw [hx] at hst; cases hst
  rw [SelectedFor, hread]
  exact ⟨hst, hentry⟩

theorem SelectedFor.setTicket (h : SelectedFor v slot m) (hst : x.st = 1) (hentry : x.bentry = slot) :
    SelectedFor (Machine.setTicket v n x) slot m := by
  by_cases hn : m = n
  · rw [hn]
    exact selectedFor_setTicket v n hst hentry
  · have hread : ticket (Machine.setTicket v n x) m = ticket v m := slook_sput_ne hn
    rw [SelectedFor, hread]
    exact h

theorem selectTickets_selected (v : State) (u : Use) :
    ∀ i, i < u.t * u.k → SelectedFor (selectTickets v u) u.slot ((u.base + i) % ringSize) := by
  unfold selectTickets
  generalize u.t * u.k = m
  induction m with
  | zero => exact fun i hi => absurd hi (by omega)
  | succ m ih =>
    intro i hi
    rw [List.range_succ, List.foldl_append]
    obtain hlt | rfl : i < m ∨ i = m := by omega
    · exact (ih i hlt).setTicket rfl rfl
    · exact selectedFor_setTicket _ _ rfl rfl

/-- The gates of a use leave its tickets SELECTED. -/
theorem gateTickets_selected {u : Use} (gates : List Nat)
    (h : ∀ i, i < u.t * u.k → SelectedFor v u.slot ((u.base + i) % ringSize)) :
    ∀ i, i < u.t * u.k → SelectedFor (gateTickets v u gates) u.slot ((u.base + i) % ringSize) := by
  unfold gateTickets
  exact List.foldlRecOn (motive := fun w => ∀ i, i < u.t * u.k → SelectedFor w u.slot ((u.base + i) % ringSize)) _ _ h
    fun w hw j hj i hi => by
      obtain ⟨hst, hentry⟩ := hw j (List.mem_range.mp hj)
      exact (hw i hi).setTicket hst hentry

/-- Between `s` and `t` at most tickets have changed. -/
def TicketsOnly (s t : State) : Prop := { t with disp := { t.disp with tickets := s.disp.tickets } } = s

theorem ticketsOnly_foldl (l : List Nat) (key : Nat → Nat) (x : State → Nat → Ticket) :
    TicketsOnly v (l.foldl (fun w i => setTicket w (key i) (x w i)) v) :=
  List.foldlRecOn (motive := TicketsOnly v) _ _ rfl fun w hw i _ => by
    unfold TicketsOnly at hw ⊢
    exact hw

theorem selectTickets_only (v : State) (u : Use) : TicketsOnly v (selectTickets v u) := ticketsOnly_foldl ..

theorem gateTickets_only (v : State) (u : Use) (gates : List Nat) :
    TicketsOnly (putUse v { u with gates := gates }) (gateTickets v u gates) := ticketsOnly_foldl ..

/-! ## Uses -/

theorem freeEntry_congr (h : v.disp = s.disp) : freeEntry v = freeEntry s := by
  unfold freeEntry
  rw [h]

theorem reuseOpen_congr (h : v.disp = s.disp) (c : Cmd) : reuseOpen c v = reuseOpen c s := by
  unfold reuseOpen
  rw [h]

theorem freeEntry_fresh {e : Nat} (h : freeEntry s = some e) : ∀ x ∈ s.disp.uses, x.slot ≠ e := by
  simpa using List.find?_some h

/-- A use in an entry of its own is replaced where it stands. -/
theorem putUse_last {l : List Use} {u w : Use} (hv : v.disp.uses = l ++ [u]) (hfresh : ∀ x ∈ l, x.slot ≠ w.slot)
    (hslot : u.slot = w.slot) : (putUse v w).disp.uses = l ++ [w] := by
  have hkeep : l.map (fun x => if x.slot == w.slot then w else x) = l :=
    List.map_congr_left (g := id) (fun x hx => by simp [hfresh x hx]) |>.trans l.map_id
  show (v.disp.uses).map _ = _
  rw [hv, List.map_append, hkeep]
  simp [hslot]

end

/-! ## Where a selection instruction stands -/

/-- A context as the opening of a use leaves it: the next use is of the next batch epoch (R194). -/
def nextBatch (k : Ctx) : Ctx := { k with bepoch := (k.bepoch + 1) % 2 ^ 16 }

/-- The state in which `u` has been opened. -/
def withUse (v : State) (c : Cmd) (u : Use) : State :=
  { setCtx v c.ctx (nextBatch (ctx v c.ctx)) with disp := { v.disp with uses := v.disp.uses ++ [u] } }

/-- `v` is `s` but for counts, the command's place in flight, where it stands as `x`, and dispatch and contexts. -/
structure SelStands (s v : State) (x : Cmd) : Prop extends StandsAs s v x, SameRota s v where
  mem : v.mem = s.mem
  slots : v.slots = s.slots
  glb : v.glb = s.glb

/-- Such a state in which the instruction's use has not been opened. -/
structure SelIssued (s v : State) (x : Cmd) : Prop extends SelStands s v x where
  disp : v.disp = s.disp
  ctxs : v.ctxs = s.ctxs

/-- Such a state in which `u` is its use, and the epoch of the next one stands in its context (R192, R194). -/
structure SelOpened (s v : State) (x : Cmd) (u : Use) : Prop extends SelStands s v x where
  uses : v.disp.uses = s.disp.uses ++ [u]
  ctxs : v.ctxs = (setCtx s x.ctx (nextBatch (ctx s x.ctx))).ctxs

section
variable {s v t : State} {x y : Cmd} {u : Use}

theorem SelStands.counts (h : SelStands s v x) (hc : CountsOnly v t) : SelStands s t x :=
  { front := (congrArg State.front hc.1).trans h.front
    active := (congrArg State.rotaActive hc.1).trans h.active
    tables := fun off hoff => (hc.2.1 off hoff).trans (h.tables off hoff)
    mem := (congrArg State.mem hc.1).trans h.mem
    slots := (congrArg State.slots hc.1).trans h.slots
    glb := (congrArg State.glb hc.1).trans h.glb }

theorem SelStands.setCmd (h : SelStands s v x) (hq : y.q = x.q) (ht : y.tag = x.tag) : SelStands s (setCmd v y) y :=
  { active := h.active, tables := h.tables, mem := h.mem, slots := h.slots, glb := h.glb
    front := by
      rw [← setCmd_setCmd (s := s) hq ht]
      unfold Machine.setCmd
      rw [h.front]
      rfl }

/-- It does not matter what stands in dispatch and in the contexts. -/
theorem SelStands.within (h : SelStands s v x) (d : Disp) (l : List (Nat × Ctx)) : SelStands s { v with disp := d, ctxs := l } x :=
  { front := h.front, active := h.active, tables := h.tables, mem := h.mem, slots := h.slots, glb := h.glb }

theorem selIssued_begun (s : State) (c : Cmd) : SelIssued s (begun s c) { stampIssue s c with st := .exec } :=
  { front := rfl, active := rfl, tables := fun _ _ => rfl, mem := rfl, slots := rfl, glb := rfl, disp := rfl, ctxs := rfl }

theorem SelIssued.counts (h : SelIssued s v x) (hc : CountsOnly v t) : SelIssued s t x :=
  { h.toSelStands.counts hc with
    disp := (congrArg State.disp hc.1).trans h.disp
    ctxs := (congrArg State.ctxs hc.1).trans h.ctxs }

theorem SelIssued.setCmd (h : SelIssued s v x) (hq : y.q = x.q) (ht : y.tag = x.tag) : SelIssued s (setCmd v y) y :=
  { h.toSelStands.setCmd hq ht with disp := h.disp, ctxs := h.ctxs }

theorem SelOpened.counts (h : SelOpened s v x u) (hc : CountsOnly v t) : SelOpened s t x u :=
  { h.toSelStands.counts hc with
    uses := (congrArg (fun w : State => w.disp.uses) hc.1).trans h.uses
    ctxs := (congrArg State.ctxs hc.1).trans h.ctxs }

theorem SelOpened.setCmd (h : SelOpened s v x u) (hq : y.q = x.q) (ht : y.tag = x.tag) (hctx : y.ctx = x.ctx) :
    SelOpened s (setCmd v y) y u :=
  { h.toSelStands.setCmd hq ht with uses := h.uses, ctxs := hctx ▸ h.ctxs }

theorem SelOpened.ctx_other (h : SelOpened s v x u) {k : Nat} (hk : k ≠ x.ctx) : ctx v k = ctx s k := by
  unfold ctx
  rw [h.ctxs]
  exact ctx_setCtx_other hk

theorem SelOpened.ctx_same (h : SelOpened s v x u) (hbad : pbBad (ctx s x.ctx) = false) :
    ctx v x.ctx = nextBatch (ctx s x.ctx) := by
  unfold ctx
  rw [h.ctxs]
  exact ctx_setCtx_good (y := nextBatch (ctx s x.ctx)) hbad

end

/-! ## The use is opened -/

section
variable {s v : State} {x : Cmd} {ecc : SramEcc}

/-- The use that a selection instruction opens in entry `e` (R192). -/
def selUse (s : State) (c : Cmd) (e : Nat) : Use :=
  { slot := e, ctx := c.ctx, batch := c.batch, epoch := (ctx s c.ctx).bepoch, cepoch := (ctx s c.ctx).epoch, cls := c.cls,
    k := pbK (ctx s c.ctx), d := pbD (ctx s c.ctx), t := selT c, tbase := bits (nth c.saved 1) 0 48 }

/-- A selection instruction that remembers that its use is open. -/
def cmdOpened (x : Cmd) : Cmd := { x with saved := x.saved.set 5 1 }

/-- A use with its tickets from number `b` on. -/
def Use.withBase (u : Use) (b : Nat) : Use := { u with base := b }

/-- With no other use of its batch ID, and a free entry, a selection instruction goes on to its reservation (R193). -/
theorem selOpen_opens (h : SelIssued s v x) (hlive : liveUse s x.ctx x.batch = none) (hreuse : reuseOpen x s = false)
    {e : Nat} (he : freeEntry s = some e) :
    ∃ w, selOpen ecc x v = selReserve ecc (cmdOpened x) w (selUse s x e) ∧ SelOpened s w (cmdOpened x) (selUse s x e) ∧
      w.disp.nextTicket = s.disp.nextTicket ∧ w.disp.ranges = s.disp.ranges := by
  have hctx : ctx v x.ctx = ctx s x.ctx := by unfold ctx; rw [h.ctxs]
  have hend : reuseEnd x v = v := by
    unfold reuseEnd
    rw [liveUse_congr h.disp, hlive]
  have hreuse' : reuseOpen x v = false := (reuseOpen_congr h.disp x).trans hreuse
  have hopen : openUse x v = (withUse v x (selUse s x e), some (selUse s x e)) := by
    have hentry : freeEntry v = some e := (freeEntry_congr h.disp).trans he
    unfold openUse selUse
    rw [hentry, ← hctx]
    rfl
  have hopened : SelOpened s (withUse v x (selUse s x e)) x (selUse s x e) :=
    { h.toSelStands.within _ _ with
      uses := congrArg (fun d : Disp => d.uses ++ [selUse s x e]) h.disp
      ctxs := by
        unfold withUse setCtx
        rw [h.ctxs, hctx] }
  refine ⟨setCmd (withUse v x (selUse s x e)) (cmdOpened x), ?_, hopened.setCmd rfl rfl rfl, ?_, ?_⟩
  case refine_2 => have hnext := congrArg Disp.nextTicket h.disp; exact hnext
  case refine_3 => have hranges := congrArg Disp.ranges h.disp; exact hranges
  unfold selOpen
  rw [hend]
  dsimp only
  rw [hreuse', if_neg Bool.false_ne_true, hopen]
  rfl

/-! ## Its tickets -/

theorem takeRange_eq (v : State) (n : Nat) :
    ∃ d : Disp, takeRange v n = (v.disp.nextTicket, { v with disp := d }) ∧ d.uses = v.disp.uses := by
  unfold takeRange
  dsimp only
  split
  · exact ⟨v.disp, rfl, rfl⟩
  · exact ⟨_, rfl, rfl⟩

/-- A selection instruction whose tickets and slots are there runs, with its tickets SELECTED from the next number on
(R197, R198). -/
theorem selReserve_runs {u : Use} (h : SelOpened s v x u) (hfresh : ∀ y ∈ s.disp.uses, y.slot ≠ u.slot)
    (hnext : v.disp.nextTicket = s.disp.nextTicket) (hranges : v.disp.ranges = s.disp.ranges)
    (hfree : u.t * u.k ≤ ringFree s) (hwait : ∀ y ∈ s.front.inflight, waitN y = 0) (hx : waitN x = 0)
    (hslots : reserveSlots v x (u.t * u.k) = true) :
    ∃ w, selReserve ecc x v u = selRun ecc x w (u.withBase s.disp.nextTicket) ∧
      SelOpened s w x (u.withBase s.disp.nextTicket) ∧
      ∀ i, i < u.t * u.k → SelectedFor w u.slot ((s.disp.nextTicket + i) % ringSize) := by
  have hok : reserveOk v x (u.t * u.k) = true := by
    refine reserveOk_of ?_ ?_
    · unfold ringFree ringHeld at hfree ⊢
      rwa [hranges]
    · rw [h.front]
      exact waitN_setCmd hwait hx
  obtain ⟨d, hrange, huses⟩ := takeRange_eq v (u.t * u.k)
  set u1 := u.withBase s.disp.nextTicket
  have honly := selectTickets_only (putUse { v with disp := d } u1) u1
  have hput : (putUse { v with disp := d } u1).disp.uses = s.disp.uses ++ [u1] :=
    putUse_last (u := u) (huses.trans h.uses) hfresh rfl
  have hselected : SelOpened s (selectTickets (putUse { v with disp := d } u1) u1) x u1 :=
    { front := (congrArg State.front honly).trans h.front
      active := (congrArg State.rotaActive honly).trans h.active
      tables := fun off hoff => (congrArg (fun w : State => csrGet w off) honly).trans (h.tables off hoff)
      mem := (congrArg State.mem honly).trans h.mem
      slots := (congrArg State.slots honly).trans h.slots
      glb := (congrArg State.glb honly).trans h.glb
      uses := (congrArg (fun w : State => w.disp.uses) honly).trans hput
      ctxs := (congrArg State.ctxs honly).trans h.ctxs }
  have hevent := (CountsOnly.refl (selectTickets (putUse { v with disp := d } u1) u1)).pmcEvent (ev := 0x038) (i := none)
    (c := some x.ctx) (k := some x.cls) (n := u.t * u.k)
  refine ⟨_, ?_, hselected.counts hevent, fun i hi => ?_⟩
  · unfold selReserve
    dsimp only
    rw [hok, hslots, hrange, hnext]
    rfl
  · have htickets := congrArg (fun w : State => w.disp.tickets) hevent.1
    exact (selectTickets_selected (putUse { v with disp := d } u1) u1 i hi).congr htickets

end

end Sys2Proof.Machine
end

section
/-! SCORE and SCOREV from their issue to their report, and the claim about them (R116, R133, R192 to R198). -/

namespace Sys2Proof.Machine

/-! ## What a selection instruction reads at issue -/

/-- A structure is read in host memory of this chip. -/
theorem readStruct_hops (x : Nat) (io : Io) : (readStruct x io).2.hops = io.hops := by
  show (ioReadOn false (opAddr x) 64 io).2.hops = io.hops
  unfold ioReadOn
  rw [if_neg (by decide)]
  split
  · rfl
  · have hlocal : isRemote io false (opAddr x) = false := rfl
    rw [hlocal, if_neg Bool.false_ne_true]
    dsimp only
    split
    · rfl
    · rfl

/-- Its descriptor and its header (R133, R165). -/
def selReads (c : Cmd) : Mio (Nat × Nat) := do
  let a ← readStruct c.a
  let b ← readStruct c.b
  pure (a, b)

theorem selReads_quiet {s : State} (hq : Quiet s) (c : Cmd) :
    ∃ io, selReads c (ioStart s) = ((rdNum s.mem (opAddr c.a) 64, rdNum s.mem (opAddr c.b) 64), io) ∧ io.stop = none ∧
      io.mem = s.mem ∧ io.hops = [] := by
  obtain ⟨hreadA, ha⟩ := readStruct_reads (io := ioStart s) hq rfl c.a
  obtain ⟨hreadB, hb⟩ := readStruct_reads (io := (readStruct c.a (ioStart s)).2) (hreadA.marks.trans hq)
    (hreadA.stop.trans rfl) c.b
  rw [hreadA.mem] at hb
  refine ⟨(readStruct c.b (readStruct c.a (ioStart s)).2).2, Prod.ext (Prod.ext ha hb) rfl, ?_, ?_, ?_⟩
  · exact hreadB.stop.trans (hreadA.stop.trans rfl)
  · exact hreadB.mem.trans (hreadA.mem.trans rfl)
  · exact (readStruct_hops ..).trans (readStruct_hops ..)

section
variable {s v : State} {c x : Cmd} {u : Use} {ecc : SramEcc} {n : Nat}

theorem Issues.admitted {opc : Nat} (h : Issues s c opc) : c.st = .admitted := h.2.2.2.1

theorem waitN_admitted (h : x.st = .admitted) : waitN x = 0 := by unfold waitN; rw [h]

theorem resumes_admitted (h : x.st = .admitted) : x.resumes = false := by unfold Cmd.resumes; rw [h]

theorem isFinished_admitted (h : x.st = .admitted) : x.isFinished = false := by unfold Cmd.isFinished; rw [h]

/-- A SCORE or SCOREV that has read its structures. -/
def selIssue (s : State) (c : Cmd) : Cmd :=
  issuedAs s c (selSaved (rdNum s.mem (opAddr c.a) 64) (rdNum s.mem (opAddr c.b) 64) (ctx s c.ctx).cur (ctx s c.ctx)) c.st

/-- A SCORE or SCOREV whose use is open. -/
def selRunning (s : State) (c : Cmd) : Cmd := cmdOpened (selIssue s c)

theorem selRunning_saved (s : State) (c : Cmd) : (selRunning s c).saved =
    [rdNum s.mem (opAddr c.a) 64, rdNum s.mem (opAddr c.b) 64] ++
      (sourceCode (ctx s c.ctx).cur ++ [1, pbRoute (ctx s c.ctx), pbSeed (ctx s c.ctx)]) := by
  unfold selRunning cmdOpened selIssue issuedAs selSaved sourceCode
  cases (ctx s c.ctx).cur with
  | none => rfl
  | some w => rfl

/-- With its slots, and no more assignments than there are tickets, it goes on to its use (R197). -/
theorem selStart_opens (hq : Quiet s) (hslots : slotsOk s (stampIssue s c) = true) (hopc : c.opc ≠ 0x12)
    (hsize : (descAt s c c.a).rows * pbK (ctx s c.ctx) ≤ ringSize) :
    ∃ v, selStart ecc (stampIssue s c) (begun s c) = selOpen ecc (selIssue s c) v ∧ SelIssued s v (selIssue s c) := by
  obtain ⟨io, hreads, hstop, hmem, hhops⟩ := selReads_quiet (s := begun s c) hq (stampIssue s c)
  have hcounts : CountsOnly (begun s c) (coreIo (stampIssue s c).cores (begun s c) io) := by
    have hclose := ioClose_counts (begun s c) (coreOf (stampIssue s c).cores 0) (coreOf (stampIssue s c).cores 0) io hhops
    rw [hmem] at hclose
    exact hclose
  refine ⟨_, ?_, ((selIssued_begun s c).counts hcounts).setCmd (y := selIssue s c) rfl rfl⟩
  have hslot : slotsOk (begun s c) (stampIssue s c) = true := hslots
  unfold selReads at hreads
  unfold selStart
  dsimp only
  rw [hslot, hreads]
  dsimp only [withSlots]
  rw [hstop, if_pos rfl]
  dsimp only
  rw [stampIssue_opc, if_neg hopc]
  exact if_neg (not_lt.mpr hsize)

/-- A SCORE or SCOREV that has what it needs opens its use, takes its tickets and runs. -/
theorem selWork_runs (hst : c.st = .admitted) (hopc : c.opc = 0x10 ∨ c.opc = 0x11) (hready : SelReady s c)
    (hroute : pbRoute (ctx s c.ctx) ≠ 3) (htab : tablesOk s = true) :
    ∃ w u e, selWork ecc (stampIssue s c) (begun s c) = selRun ecc (selRunning s c) w u ∧
      u = (selUse s (selIssue s c) e).withBase s.disp.nextTicket ∧ SelOpened s w (selRunning s c) u ∧
      (∀ y ∈ s.disp.uses, y.slot ≠ u.slot) ∧
      ∀ i, i < u.t * u.k → SelectedFor w u.slot ((s.disp.nextTicket + i) % ringSize) := by
  obtain ⟨hq, -, hlive, hreuse, hentry, hwait, hfree, hslots, -, -⟩ := hready
  obtain ⟨e, he⟩ := Option.isSome_iff_exists.mp hentry
  have hunit : unitOf c.opc = .scoring := by obtain h | h := hopc <;> rw [h] <;> rfl
  have hopc' : c.opc ≠ 0x12 := by omega
  have hslot : slotsOk s (stampIssue s c) = true := ((Bool.and_eq_true ..).mp hslots).1
  obtain ⟨v, hstart, hissued⟩ := selStart_opens (ecc := ecc) hq hslot hopc' (hfree.trans (Nat.sub_le ..))
  obtain ⟨v1, hopens, hopened, hnext, hranges⟩ := selOpen_opens (ecc := ecc) hissued hlive hreuse he
  obtain ⟨w, hreserve, hruns, htickets⟩ := selReserve_runs (ecc := ecc) hopened (freeEntry_fresh he) hnext hranges hfree
    hwait (waitN_admitted hst)
    (reserveSlots_of (c := stampIssue s c) hopened.toSameRota hopened.glb hnext rfl rfl rfl hunit
      (fun i hi => mem_coreActive hi) hslots)
  refine ⟨w, _, e, ?_, rfl, hruns, freeEntry_fresh he, htickets⟩
  have hres : (stampIssue s c).resumes = false := resumes_admitted hst
  have hhash : ((stampIssue s c).opc == 0x12) = false := beq_false_of_ne hopc'
  have htables : tablesOk (begun s c) = true := htab
  refine Eq.trans ?_ (hstart.trans (hopens.trans hreserve))
  unfold selWork
  dsimp only
  rw [hres, hhash, htables, stampIssue_ctx, ctx_begun, beq_false_of_ne hroute]
  rfl

/-! ## The run -/

/-- The accesses of a selection instruction of use `u`. -/
def selAccesses (v : State) (c : Cmd) (u : Use) : Mio SelOut :=
  if pbBad (ctx v c.ctx) then badRun (ctx v c.ctx) c (c.opc == 0x12) u.t
  else if c.opc == 0x12 then hashRun (ctx v c.ctx) c u.t else scoreRun v c (c.opc == 0x10) u.t

/-- How they end where the core SRAM has met corrected errors alone (R131). -/
def selIo (n : Nat) (v : State) (c : Cmd) (u : Use) : SelOut × Io :=
  selAccesses v c u (ioStart (coreCe { corrected := n } v))

/-- The state when they are over. -/
def selClosed (n : Nat) (v : State) (c : Cmd) (u : Use) : State :=
  countC (coresClose c (coreCe { corrected := n } v) (selIo n v c u).2) 0x40088 (selIo n v c u).2.wb

/-- The counts of a run that gave `o`, but for that of the context. -/
def selCounted (t : State) (k : Ctx) (c : Cmd) (u : Use) (o : SelOut) : State :=
  pmcEvent (countC (countC (countC
      (if (c.opc == 0x10) && !pbBad k then fillCounts t c u.t (pbD k) (pbE k) 2048 else t)
    0x400A0 (u.t * u.k)) 0x400A8 o.nanRows) 0x400B0 o.wide) 0x028 none (some c.ctx) (some c.cls) (u.t * u.k)

theorem countsOnly_selCounted (t : State) (k : Ctx) (c : Cmd) (u : Use) (o : SelOut) :
    CountsOnly t (selCounted t k c u o) := by
  have hfill : CountsOnly t (if (c.opc == 0x10) && !pbBad k then fillCounts t c u.t (pbD k) (pbE k) 2048 else t) := by
    split
    · exact (CountsOnly.refl t).fillCounts ..
    · exact CountsOnly.refl t
  exact (((hfill.countC (by decide)).countC (by decide)).countC (by decide)).pmcEvent

/-- The state of a run whose assignments its context has not counted yet. -/
def selLast (n : Nat) (v : State) (c : Cmd) (u : Use) : State :=
  selCounted (gateTickets (selClosed n v c u) u (selIo n v c u).1.gates) (ctx v c.ctx) c u (selIo n v c u).1

/-- A run that no error ends reports its assignments (R146, R197). -/
theorem selRun_done (hended : (selIo n v x u).2.ended = none) : selRun { corrected := n } x v u =
    doneWith (ctxCount (selLast n v x u) x.ctx 0 (u.t * u.k)) 0 0 (u.t * u.k) u.epoch := by
  have hrun : selRun { corrected := n } x v u = match (selIo n v x u).2.ended with
      | some e => ⟨(coreStop (selClosed n v x u) x e).st, match (coreStop (selClosed n v x u) x e).cmd with
          | .finished r => .finished { r with epoch := u.epoch } | y => y⟩
      | none => doneWith (ctxCount (selLast n v x u) x.ctx 0 (u.t * u.k)) 0 0 (u.t * u.k) u.epoch := rfl
  rw [hrun, hended]

/-- The accesses of a run leave memory as it was but for what they write, and otherwise count. -/
theorem selClosed_counts (n : Nat) (v : State) (c : Cmd) (u : Use) :
    CountsAndLogs (setMem v (selIo n v c u).2.mem) (selClosed n v c u) :=
  ((coreCe_counts { corrected := n } v).1.setMem _).trans ((coresClose_counts c _ _).countC (by decide)).andLogs

/-- Between `v` and `w` a use has received its gates, and memory has become `m`; but for them, tickets, counts and logs
nothing has changed. -/
structure SelGated (v w : State) (u : Use) (m : HostMem) (gates : List Nat) : Prop where
  front : w.front = v.front
  mem : w.mem = m
  ctxs : w.ctxs = v.ctxs
  uses : w.disp.uses = (putUse v { u with gates := gates }).disp.uses

theorem selLast_gated (n : Nat) (v : State) (c : Cmd) (u : Use) :
    SelGated v (selLast n v c u) u (selIo n v c u).2.mem (selIo n v c u).1.gates := by
  have hclosed := selClosed_counts n v c u
  have hgates := gateTickets_only (selClosed n v c u) u (selIo n v c u).1.gates
  have hcount := countsOnly_selCounted (gateTickets (selClosed n v c u) u (selIo n v c u).1.gates) (ctx v c.ctx) c u
    (selIo n v c u).1
  constructor
  · exact (congrArg State.front hcount.1).trans ((congrArg State.front hgates).trans hclosed.front)
  · exact (congrArg State.mem hcount.1).trans ((congrArg State.mem hgates).trans hclosed.mem)
  · exact (congrArg State.ctxs hcount.1).trans ((congrArg State.ctxs hgates).trans hclosed.ctxs)
  · have hput : (putUse (selClosed n v c u) { u with gates := (selIo n v c u).1.gates }).disp.uses =
        (putUse v { u with gates := (selIo n v c u).1.gates }).disp.uses := by
      unfold putUse
      rw [hclosed.disp]
      rfl
    have hlast := congrArg (fun w : State => w.disp.uses) hcount.1
    exact hlast.trans ((congrArg (fun w : State => w.disp.uses) hgates).trans hput)

theorem selLast_selected (h : ∀ i, i < u.t * u.k → SelectedFor v u.slot ((u.base + i) % ringSize)) :
    ∀ i, i < u.t * u.k → SelectedFor (selLast n v x u) u.slot ((u.base + i) % ringSize) := by
  have hclosed := selClosed_counts n v x u
  have hcount := countsOnly_selCounted (gateTickets (selClosed n v x u) u (selIo n v x u).1.gates) (ctx v x.ctx) x u
    (selIo n v x u).1
  have hlast := congrArg (fun w : State => w.disp.tickets) hcount.1
  intro i hi
  exact (gateTickets_selected _ (fun j hj => (h j hj).congr (congrArg Disp.tickets hclosed.disp)) i hi).congr hlast

/-- What a run leaves that writes in `here` alone. -/
structure SelEnds (here : Nat → Prop) (s v w : State) (x : Cmd) (u : Use) : Prop where
  front : w.front = v.front
  mem : MemOnly here s w
  epoch : (ctx w x.ctx).bepoch = (ctx v x.ctx).bepoch
  ctxs : ∀ k, k ≠ x.ctx → ctx w k = ctx v k
  uses : ∃ gates, w.disp.uses = s.disp.uses ++ [{ u with gates := gates }]
  tickets : ∀ i, i < u.t * u.k → SelectedFor w u.slot ((u.base + i) % ringSize)

/-- A run in which the core SRAM meets corrected errors alone (R131, R197). -/
theorem selRun_ends {here : Nat → Prop} (h : SelOpened s v x u) (hq : Quiet s) (hbad : pbBad (ctx s x.ctx) = false)
    (hfresh : ∀ y ∈ s.disp.uses, y.slot ≠ u.slot)
    (htickets : ∀ i, i < u.t * u.k → SelectedFor v u.slot ((u.base + i) % ringSize))
    (hrun : Confined here (fun _ => True) (selAccesses v x u)) :
    ∃ w, selRun { corrected := n } x v u = doneWith w 0 0 (u.t * u.k) u.epoch ∧ SelEnds here s v w x u := by
  have hstart : (ioStart (coreCe { corrected := n } v)).mem = s.mem := (coreCe_counts { corrected := n } v).1.mem.trans h.mem
  have hproc : Proceeds here (ioStart (coreCe { corrected := n } v)) (selIo n v x u).2 := (hrun _ (hstart ▸ hq)).1
  have hgated := selLast_gated n v x u
  set w := selLast n v x u with hw
  have hctx : ∀ k, ctx w k = ctx v k := fun k => by unfold ctx; rw [hgated.ctxs]
  have hframe : { ctxCount w x.ctx 0 (u.t * u.k) with ctxs := w.ctxs } = w := by
    unfold ctxCount
    split <;> rfl
  have hmem : (ctxCount w x.ctx 0 (u.t * u.k)).mem = (selIo n v x u).2.mem := (congrArg State.mem hframe).trans hgated.mem
  have hdisp : (ctxCount w x.ctx 0 (u.t * u.k)).disp = w.disp := by have h' := congrArg State.disp hframe; exact h'
  have hgood : pbBad (ctx w x.ctx) = false := by rw [hctx, h.ctx_same hbad]; exact hbad
  refine ⟨_, selRun_done (hproc.ended.trans rfl), ?_⟩
  exact {
    front := (congrArg State.front hframe).trans hgated.front
    mem := ⟨by rw [hmem, hproc.marks, hstart], fun a ha => by rw [hmem, hproc.only a ha, hstart]⟩
    epoch := by rw [bepoch_ctxCount hgood, hctx]
    ctxs := fun k hk => (ctx_ctxCount_other hk).trans (hctx k)
    uses := ⟨_, (congrArg Disp.uses hdisp).trans (hgated.uses.trans (putUse_last h.uses hfresh rfl))⟩
    tickets := fun i hi => (selLast_selected htickets i hi).congr (congrArg Disp.tickets hdisp) }

/-! ## The bytes of a SCORE or SCOREV -/

/-- The run of a SCORE or SCOREV that has what it needs writes records, statistics and logits alone. -/
theorem confined_selScores (h : SelOpened s v (selRunning s c) u) (hready : SelReady s c) (hopc : c.opc ≠ 0x12)
    (ht : u.t = (descAt s c c.a).rows) :
    Confined (scoreArea s c (descAt s c c.a).rows) (fun _ => True) (selAccesses v (selRunning s c) u) := by
  obtain ⟨-, hbad, -, -, -, -, -, -, hdom, hlocal⟩ := hready
  have hctx : ctx v c.ctx = nextBatch (ctx s c.ctx) := h.ctx_same hbad
  have hk : pbK (ctx s c.ctx) ≤ 16 := by
    simp only [pbBad, Bool.or_eq_false_iff, decide_eq_false_iff_not] at hbad
    omega
  have hdesc : descOf c.level (nth (selRunning s c).saved 0) = descAt s c c.a := by
    rw [selRunning_saved]
    rfl
  have hsrc : sourceOf ((selRunning s c).saved.drop 2) = (ctx s c.ctx).cur := by
    rw [selRunning_saved]
    exact sourceOf_sourceCode ..
  have hpb : pbE (ctx v c.ctx) = pbE (ctx s c.ctx) := by rw [hctx]; rfl
  have hpbK : pbK (ctx v c.ctx) = pbK (ctx s c.ctx) := by rw [hctx]; rfl
  have hdump : csrField v 0x40010 6 36 = csrField s 0x40010 6 36 := by
    unfold csrField
    rw [h.tables 0x40010 (by decide)]
  have hsource : SourceLocal v.slots c.level (pbE (ctx v c.ctx)) (sourceOf ((selRunning s c).saved.drop 2)) := by
    rw [hsrc, h.slots, hpb]
    exact hlocal
  have hscore := confined_scoreRun (s := v) (c := selRunning s c) ((congrArg Desc.dom hdesc).trans hdom) hsource
    (by rwa [← hpbK] at hk) ((selRunning s c).opc == 0x10) u.t
  have hgood : pbBad (ctx v (selRunning s c).ctx) = false := (congrArg pbBad hctx).trans hbad
  have hhash : ((selRunning s c).opc == 0x12) = false := beq_false_of_ne hopc
  unfold selAccesses
  rw [hgood, hhash, if_neg Bool.false_ne_true, if_neg Bool.false_ne_true]
  refine hscore.weaken (fun a ha => ?_) fun _ h => h
  unfold scoreArea at ha ⊢
  rw [← ht, ← hpb, ← hdump]
  exact ha

/-! ## The report -/

section
variable {here : Nat → Prop} {w : State}

/-- What a run wrote before its report. -/
theorem SelEnds.memOnly (h : SelEnds here s v w x u) (q tag st dt r ep : Nat) :
    MemOnly here s (settle (doneWith w st dt r ep) q tag) := by
  have hmem : (settle (doneWith w st dt r ep) q tag).mem = w.mem := by
    have hframe := congrArg State.mem (settle_doneWith_frame w q tag st dt r ep)
    exact hframe
  obtain ⟨hmarks, honly⟩ := h.mem
  exact ⟨by rw [hmem, hmarks], fun a ha => by rw [hmem, honly a ha]⟩

/-- What a run leaves once it is reported (R192, R194, R197). -/
theorem SelEnds.selects (h : SelEnds here s v w (selRunning s c) u) (hopened : SelOpened s v (selRunning s c) u)
    (hf : findCmd s c.q c.tag = some c) (hst : c.st = .admitted) (hbad : pbBad (ctx s c.ctx) = false) {e : Nat}
    (hu : u = (selUse s (selIssue s c) e).withBase s.disp.nextTicket) :
    Selects s (settle (doneWith w 0 0 (u.t * u.k) u.epoch) c.q c.tag) c := by
  have ht : u.t = (descAt s c c.a).rows := by rw [hu]; rfl
  have hk : u.k = pbK (ctx s c.ctx) := by rw [hu]; rfl
  have hbase : u.base = s.disp.nextTicket := by rw [hu]; rfl
  have hepoch : u.epoch = (ctx s c.ctx).bepoch := by rw [hu]; rfl
  have hstands : StandsAs s w (selRunning s c) := ⟨h.front.trans hopened.front⟩
  have hreport := hstands.reports (c := c) (st := c.st) hf (isFinished_admitted hst)
    { status := 0, detail := 0, result := u.t * u.k, epoch := u.epoch }
  have hframe := settle_doneWith_frame w c.q c.tag 0 0 (u.t * u.k) u.epoch
  set t := settle (doneWith w 0 0 (u.t * u.k) u.epoch) c.q c.tag
  have hctx : ∀ k, ctx t k = ctx w k := fun k => by
    have hctxs : t.ctxs = w.ctxs := by have h' := congrArg State.ctxs hframe; exact h'
    unfold ctx
    rw [hctxs]
  have hdisp : t.disp = w.disp := by have h' := congrArg State.disp hframe; exact h'
  obtain ⟨gates, huses⟩ := h.uses
  refine ⟨?_, ?_, ⟨_, (congrArg Disp.uses hdisp).trans huses, ?_⟩, fun k hk' => ?_⟩
  · rw [← ht, ← hk, ← hepoch]
    exact hreport
  · rw [hctx]
    exact h.epoch.trans (congrArg Ctx.bepoch (hopened.ctx_same hbad))
  · rw [← ht, ← hk, ← hbase]
    exact ⟨by rw [hu]; rfl, by rw [hu]; rfl, hepoch, rfl, rfl, rfl, by rw [hu]; rfl, fun i hi =>
      (h.tickets i hi).congr (congrArg Disp.tickets hdisp)⟩
  · exact (hctx k).trans ((h.ctxs k hk').trans (hopened.ctx_other hk'))

end

/-- A SCORE or SCOREV that has what it needs. -/
theorem scores_select (hf : findCmd s c.q c.tag = some c) (hst : c.st = .admitted) (hopc : c.opc = 0x10 ∨ c.opc = 0x11)
    (hready : SelReady s c) (hroute : pbRoute (ctx s c.ctx) ≠ 3) (htab : tablesOk s = true) :
    Selects s (settle (selWork { corrected := n } (stampIssue s c) (begun s c)) c.q c.tag) c ∧
      MemOnly (scoreArea s c (descAt s c c.a).rows) s
        (settle (selWork { corrected := n } (stampIssue s c) (begun s c)) c.q c.tag) := by
  have ⟨hq, hbad, _⟩ := hready
  obtain ⟨v, u, e, hwork, hu, hopened, hfresh, htickets⟩ :=
    selWork_runs (ecc := { corrected := n }) hst hopc hready hroute htab
  have hbase : u.base = s.disp.nextTicket := by rw [hu]; rfl
  obtain ⟨w, hrun, hends⟩ := selRun_ends (n := n) hopened hq hbad hfresh (by rwa [hbase])
    (confined_selScores hopened hready (by omega) (by rw [hu]; rfl))
  rw [hwork, hrun]
  exact ⟨hends.selects hopened hf hst hbad hu, hends.memOnly ..⟩

end

/-- Settles O31: a SCORE or SCOREV that has what it needs opens its use, runs over its tokens and reports them; what its run
writes lies in its areas. -/
theorem scoring : Obligations.Scoring := by
  unfold Obligations.Scoring
  intro s c i _ hready hroute htab hissues
  obtain ⟨n, ⟨hi, rfl⟩ | ⟨hi, rfl⟩⟩ := hissues
  · obtain ⟨hselects, hmem⟩ := scores_select (n := n) hi.found hi.admitted (.inl hi.opc_eq) hready hroute htab
    exact ⟨_, next_working hi.working (issueRow_go hi (k := isOp 0x10) (beq_iff_eq.mpr hi.opc_eq) _), hselects, hmem⟩
  · obtain ⟨hselects, hmem⟩ := scores_select (n := n) hi.found hi.admitted (.inr hi.opc_eq) hready hroute htab
    exact ⟨_, next_working hi.working (issueRow_go hi (k := isOp 0x11) (beq_iff_eq.mpr hi.opc_eq) _), hselects, hmem⟩

end Sys2Proof.Machine
end

section
/-! Work that completes at once: a report, and nothing else (R94, R97). -/

namespace Sys2Proof.Machine

section
variable {s : State} {c : Cmd} {opc st dt r ep : Nat} {k : Cmd → Bool} {work : Cmd → State → Work}

/-- An instruction whose work only reports leaves its report in the front end, and the rest of the engine as it was. -/
theorem exec_reportsAtOnce (hi : Issues s c opc) (hk : k c = true)
    (hwork : work (stampIssue s c) (begun s c) = doneWith (begun s c) st dt r ep) :
    ∃ t, (Host.Outcome.next (working (issueRow k c.q c.tag work) s) : Host.Outcome State Fault Refusal) = .next t ∧
      Reports s t c st dt r ep ∧ { t with front := s.front } = s := by
  refine ⟨_, next_working hi.working (issueRow_go hi hk work), ?_⟩
  rw [hwork]
  exact ⟨reports_of_done hi rfl .., congrArg (fun u : State => { u with front := s.front })
    (settle_doneWith_frame (begun s c) c.q c.tag st dt r ep)⟩

theorem Issues.isOp (hi : Issues s c opc) : Machine.isOp opc c = true := beq_iff_eq.mpr hi.opc_eq

theorem Issues.resumes (hi : Issues s c opc) : (stampIssue s c).resumes = false := resumes_admitted hi.admitted

end

end Sys2Proof.Machine
end

section
/-! Instructions of a use that find none, or a use that they do not fit; the conditions of their group (R163, R180, R195,
R209, R213, R218, R290, R350, R409). -/

namespace Sys2Proof.Machine

section
variable {s : State} {c : Cmd} {u : Use} {i : Instr} {ecc : Ecc}

/-! ## COUNT and PLAN -/

theorem countWork_outside (h : inCtxGroup s c.ctx = false) : countWork c s = doneWith s 0x3F 0x15 0 0 := by
  unfold countWork
  rw [h]
  rfl

theorem countWork_gone (hg : inCtxGroup s c.ctx = true) (h : liveUse s c.ctx c.batch = none) :
    countWork c s = doneWith s 0x10 0x04 0 0 := by
  unfold countWork
  rw [hg, h]
  rfl

theorem planWork_outside (hr : c.resumes = false) (h : inCtxGroup s c.ctx = false) :
    planWork ecc c s = doneWith s 0x3F 0x15 0 0 := by
  unfold planWork
  rw [hr, h]
  rfl

theorem planWork_gone (hg : inCtxGroup s c.ctx = true) (h : liveUse s c.ctx c.batch = none) :
    planWork ecc c s = doneWith s 0x10 0x04 0 0 := by
  unfold planWork
  rw [hg, h, Bool.not_true, Bool.and_false, if_neg Bool.false_ne_true]
  rfl

/-- PLAN at its issue, in the group and with its use (R163, R409). -/
theorem planWork_use (hr : c.resumes = false) (hg : inCtxGroup s c.ctx = true) (h : liveUse s c.ctx c.batch = some u) :
    planWork ecc c s = if !u.counted then doneWith s stIllegal 0x1A 0 0
      else if u.backward || u.sendIssued then doneWith s stIllegal 0x13 0 0
      else withSlots (planSlots s c u) c s fun _ => planBegin ecc c s u := by
  unfold planWork
  rw [hr, hg, h]
  rfl

/-! ## SEND, RETURN, COMBINE and SORT -/

theorem sendWork_gone (h : liveUse s c.ctx c.batch = none) : sendWork c s = doneWith s 0x10 0x04 0 0 := by
  unfold sendWork
  rw [h]
  rfl

theorem sendWork_lost (h : liveUse s c.ctx c.batch = some u) (hl : (grp s (pbGroup (ctx s c.ctx))).lost = true) :
    sendWork c s = ⟨sendOver s c stMemberLost (lostDetail s (pbGroup (ctx s c.ctx))) 0 0, .exec⟩ := by
  unfold sendWork
  rw [h]
  dsimp only
  rw [if_pos hl]

theorem returnWork_gone (h : liveUse s c.ctx c.batch = none) : returnWork c s = doneWith s 0x10 0x04 0 0 := by
  unfold returnWork
  rw [h]
  rfl

theorem returnWork_lost (h : liveUse s c.ctx c.batch = some u) (hl : (grp s (pbGroup (ctx s c.ctx))).lost = true) :
    returnWork c s = doneWith s 0x13 (lostDetail s (pbGroup (ctx s c.ctx))) 0 0 := by
  unfold returnWork
  rw [h]
  dsimp only
  rw [if_pos hl]
  rfl

theorem combineWork_gone (h : liveUse s c.ctx c.batch = none) : combineWork c s = doneWith s 0x10 0x04 0 0 := by
  unfold combineWork
  rw [h]
  rfl

/-- COMBINE in the phase that its use is not in (R218). -/
theorem combineWork_phase (hr : c.resumes = false) (h : liveUse s c.ctx c.batch = some u) (hp : bit c.subop 0 ≠ u.backward) :
    combineWork c s = doneWith s 0x3F 0x13 0 0 := by
  unfold combineWork
  rw [h]
  dsimp only
  rw [if_pos (by simp [hr, hp])]
  rfl

theorem combineWork_lost (h : liveUse s c.ctx c.batch = some u) (hp : bit c.subop 0 = u.backward)
    (hl : (grp s (pbGroup (ctx s c.ctx))).lost = true) :
    combineWork c s = doneWith s 0x13 (lostDetail s (pbGroup (ctx s c.ctx))) 0 0 := by
  unfold combineWork
  rw [h]
  dsimp only
  rw [if_neg (by simp [hp]), if_pos hl]
  rfl

/-- SORT of a use that is gone counts that it has found no plan entry (R180). -/
theorem sortWork_gone {e : SramEcc} (h : liveUse s c.ctx c.batch = none) :
    sortWork e c s = doneWith (countC s 0x60078 1) 0 1 0 0 := by
  unfold sortWork
  rw [h]
  rfl

/-- The row of COMBINE for a command's phase. -/
def combineInstr (c : Cmd) : Instr := if bit c.subop 0 then .combineBackward c.q c.tag else .combineForward c.q c.tag

/-! ## Their rows -/

/-- A SEND whose work only reports. -/
theorem send_reportsAtOnce {st dt r ep : Nat} (hi : Issues s c 0x28)
    (hwork : sendWork (stampIssue s c) (begun s c) = doneWith (begun s c) st dt r ep) :
    ∃ t, exec (sendInstr c) s = .next t ∧ Reports s t c st dt r ep ∧ { t with front := s.front } = s := by
  unfold sendInstr
  split
  · next hb => exact exec_reportsAtOnce hi (by simp [hi.opc_eq, hb]) hwork
  · next hb => exact exec_reportsAtOnce hi (by simp [hi.opc_eq, hb]) hwork

/-- A COMBINE whose work only reports. -/
theorem combine_reportsAtOnce {st dt r ep : Nat} (hi : Issues s c 0x2A)
    (hwork : combineWork (stampIssue s c) (begun s c) = doneWith (begun s c) st dt r ep) :
    ∃ t, exec (combineInstr c) s = .next t ∧ Reports s t c st dt r ep ∧ { t with front := s.front } = s := by
  unfold combineInstr
  split
  · next hb => exact exec_reportsAtOnce hi (by simp [hi.opc_eq, hb]) hwork
  · next hb => exact exec_reportsAtOnce hi (by simp [hi.opc_eq, hb]) hwork

/-- SORT of a use that is gone completes with DETAIL 1 (R180). -/
theorem sort_gone {e : SramEcc} (hi : Issues s c 0x20) (h : liveUse s c.ctx c.batch = none) :
    ∃ t, exec (.sort c.q c.tag e) s = .next t ∧ Reports s t c 0 1 0 0 ∧ t.mem = s.mem ∧ t.disp = s.disp := by
  have hcount : CountsAndLogs (begun s c) (countC (begun s c) 0x60078 1) := (logsOnly_countF ..).andCounts
  have hframe := settle_doneWith_frame (countC (begun s c) 0x60078 1) c.q c.tag 0 1 0 0
  refine ⟨_, next_working hi.working (issueRow_go hi hi.isOp _), ?_⟩
  rw [sortWork_gone (c := stampIssue s c) (s := begun s c) h]
  exact ⟨reports_of_done hi hcount.front .., (congrArg State.mem hframe).trans hcount.mem,
    (congrArg State.disp hframe).trans hcount.disp⟩

/-- A SEND of a group that has lost a member ends with MEMBER_LOST, as a SEND that is over (R213, R350). -/
theorem send_lost (hi : Issues s c 0x28) (h : liveUse s c.ctx c.batch = some u)
    (hl : (grp s (pbGroup (ctx s c.ctx))).lost = true) :
    ∃ t, exec (sendInstr c) s = .next t ∧ Reports s t c 0x13 (lostDetail s (pbGroup (ctx s c.ctx))) 0 0 ∧
      { t with front := s.front, disp := s.disp } = s := by
  have hsent : StandsAs s (sentOnce (begun s c) (stampIssue s c)) (issuedAs s c c.saved .exec) := ⟨rfl⟩
  refine ⟨_, exec_sendInstr hi, ?_⟩
  rw [sendWork_lost (c := stampIssue s c) (s := begun s c) h hl, sendOver_eq, stampIssue_q, stampIssue_tag, settle_report]
  exact ⟨hsent.reports hi.found rfl _, congrArg (fun t : State => { t with front := s.front, disp := s.disp })
    (report_front (sentOnce (begun s c) (stampIssue s c)) c.q c.tag _)⟩

theorem frame_disp {t : State} (h : { t with front := s.front } = s) :
    { t with front := s.front, disp := s.disp } = s ∧ t.disp = s.disp := by
  have hdisp : t.disp = s.disp := by have h' := congrArg State.disp h; exact h'
  exact ⟨by rw [← hdisp]; exact h, hdisp⟩

end

/-- Settles O37: each clause is the work of its instruction, which only reports; SORT counts besides, and SEND marks its use. -/
theorem useConditions : Obligations.UseConditions := by
  unfold Obligations.UseConditions
  refine ⟨?outside, ?gone, fun s c ecc hi h => sort_gone hi h, ?plan, ?phase, ?lost⟩
  case outside =>
    rintro s c i ecc h (⟨hi, rfl⟩ | ⟨hi, rfl⟩)
    · exact exec_reportsAtOnce hi hi.isOp (countWork_outside (c := stampIssue s c) (s := begun s c) h)
    · exact exec_reportsAtOnce hi hi.isOp (planWork_outside (s := begun s c) hi.resumes h)
  case gone =>
    rintro s c i ecc h (⟨hi, rfl, hg⟩ | ⟨hi, rfl, hg⟩ | ⟨hi, rfl⟩ | ⟨hi, rfl⟩ | ⟨hi, rfl⟩)
    · exact exec_reportsAtOnce hi hi.isOp (countWork_gone (c := stampIssue s c) (s := begun s c) hg h)
    · exact exec_reportsAtOnce hi hi.isOp (planWork_gone (c := stampIssue s c) (s := begun s c) hg h)
    · exact send_reportsAtOnce hi (sendWork_gone (c := stampIssue s c) (s := begun s c) h)
    · exact exec_reportsAtOnce hi hi.isOp (returnWork_gone (c := stampIssue s c) (s := begun s c) h)
    · exact combine_reportsAtOnce hi (combineWork_gone (c := stampIssue s c) (s := begun s c) h)
  case plan =>
    intro s c u ecc hi hg h
    have hwork := planWork_use (ecc := ecc) (s := begun s c) hi.resumes hg h
    refine ⟨fun hc => exec_reportsAtOnce hi hi.isOp (hwork.trans ?_),
      fun hc hphase => exec_reportsAtOnce hi hi.isOp (hwork.trans ?_)⟩
    · rw [hc]; rfl
    · rw [hc, Bool.not_true, if_neg Bool.false_ne_true, if_pos (Bool.or_eq_true_iff.mpr hphase)]
      rfl
  case phase =>
    exact fun s c u hi h hp => combine_reportsAtOnce hi (combineWork_phase (s := begun s c) hi.resumes h hp)
  case lost =>
    rintro s c u i h hl (⟨hi, rfl⟩ | ⟨hi, rfl⟩ | ⟨hi, hp, rfl⟩)
    · obtain ⟨t, hexec, hreport, hframe⟩ := send_lost hi h hl
      exact ⟨t, hexec, hreport, hframe, fun hopc => absurd hi.opc_eq hopc⟩
    · obtain ⟨t, hexec, hreport, hframe⟩ := exec_reportsAtOnce hi hi.isOp
        (returnWork_lost (c := stampIssue s c) (s := begun s c) h hl)
      exact ⟨t, hexec, hreport, (frame_disp hframe).1, fun _ => (frame_disp hframe).2⟩
    · obtain ⟨t, hexec, hreport, hframe⟩ := combine_reportsAtOnce hi
        (combineWork_lost (c := stampIssue s c) (s := begun s c) h hp hl)
      exact ⟨t, hexec, hreport, (frame_disp hframe).1, fun _ => (frame_disp hframe).2⟩

end Sys2Proof.Machine
end

section
/-! The order of keys and the choice of the K greatest (R139, R140). -/

namespace Sys2Proof.Machine

/-! ## The order of keys (R139) -/

/-- The rational number of a finite value, in units of `2^q`. -/
theorem signedAt_mul (n : Bool) (m : Nat) {e q : Int} (h : q ≤ e) :
    (signedAt n m e q : ℚ) * 2 ^ q = (FVal.fin n m e).rat := by
  have hmag := scaleTo_mul m h
  unfold mag at hmag
  cases n
  · simpa [signedAt, FVal.rat] using hmag
  · simpa [signedAt, FVal.rat] using hmag

/-- The order of finite values is that of their numbers. -/
theorem ltF_fin_iff {na nb : Bool} {a b : Nat} {ea eb : Int} :
    ltF (.fin na a ea) (.fin nb b eb) = true ↔ (FVal.fin na a ea).rat < (FVal.fin nb b eb).rat := by
  have hpos : (0 : ℚ) < 2 ^ min ea eb := by positivity
  rw [← signedAt_mul na a (min_le_left ea eb), ← signedAt_mul nb b (min_le_right ea eb), mul_lt_mul_iff_of_pos_right hpos,
    Int.cast_lt]
  have hcmp : cmpF (.fin na a ea) (.fin nb b eb) < 0 ↔
      signedAt na a ea (min ea eb) < signedAt nb b eb (min ea eb) := by
    simp only [cmpF]
    split_ifs <;> omega
  simp [ltF, FVal.isNan, hcmp]

/-- Where a key stands: NaN below every number, the numbers by their value (R139). -/
def keyRank : FVal → Nat ×ₗ ℚ
  | .nan => toLex (0, 0)
  | .inf true => toLex (1, 0)
  | .fin n m e => toLex (2, (FVal.fin n m e).rat)
  | .inf false => toLex (3, 0)

theorem ranksAbove_iff (a b : FVal) : ranksAbove a b = true ↔ keyRank b < keyRank a := by
  cases a with
  | nan => rcases b with _ | ⟨_ | _⟩ | ⟨n, m, e⟩ <;> simp [ranksAbove, keyRank, FVal.isNan, Prod.Lex.toLex_lt_toLex]
  | inf k => cases k <;> rcases b with _ | ⟨_ | _⟩ | ⟨n, m, e⟩ <;>
      simp [ranksAbove, keyRank, FVal.isNan, ltF, cmpF, Prod.Lex.toLex_lt_toLex]
  | fin na ma ea =>
    rcases b with _ | ⟨_ | _⟩ | ⟨n, m, e⟩
    · simp [ranksAbove, keyRank, FVal.isNan, Prod.Lex.toLex_lt_toLex]
    · simp [ranksAbove, keyRank, FVal.isNan, ltF, cmpF, Prod.Lex.toLex_lt_toLex]
    · simp [ranksAbove, keyRank, FVal.isNan, ltF, cmpF, Prod.Lex.toLex_lt_toLex]
    · simp [ranksAbove, keyRank, FVal.isNan, ltF_fin_iff, Prod.Lex.toLex_lt_toLex]

/-! ## The slots (R140) -/

/-- The order of the slots: by key, and of equal keys that with the lower expert index first (R139). -/
def slotRank (x : FVal × Nat) : (Nat ×ₗ ℚ)ᵒᵈ ×ₗ Nat := toLex (OrderDual.toDual (keyRank x.1), x.2)

theorem slotRank_lt_iff {x y : FVal × Nat} : slotRank x < slotRank y ↔
    ranksAbove y.1 x.1 = false ∧ (ranksAbove x.1 y.1 = false → x.2 < y.2) := by
  have hfalse : ∀ a b : FVal, ranksAbove a b = false ↔ ¬ keyRank b < keyRank a := fun a b => by
    rw [← ranksAbove_iff, Bool.not_eq_true]
  rw [hfalse, hfalse, slotRank, slotRank, Prod.Lex.toLex_lt_toLex, OrderDual.toDual_lt_toDual, OrderDual.toDual_inj, not_lt,
    not_lt, le_iff_lt_or_eq]
  constructor
  · rintro (h | ⟨h, hi⟩)
    · exact ⟨.inl h, fun h' => absurd h (not_lt.mpr h')⟩
    · exact ⟨.inr h.symm, fun _ => hi⟩
  · rintro ⟨h | h, hi⟩
    · exact .inl h
    · exact .inr ⟨h.symm, hi h.ge⟩

theorem insertKey_perm (x : FVal × Nat) (l : List (FVal × Nat)) : (insertKey x l).Perm (x :: l) := by
  induction l with
  | nil => exact List.Perm.refl _
  | cons y r ih =>
    unfold insertKey
    split
    · exact List.Perm.refl _
    · exact (ih.cons y).trans (List.Perm.swap x y r)

/-- A key of a higher index keeps the slots in their order. -/
theorem insertKey_pairwise {x : FVal × Nat} {l : List (FVal × Nat)} (hl : l.Pairwise (fun a b => slotRank a < slotRank b))
    (hx : ∀ y ∈ l, y.2 < x.2) : (insertKey x l).Pairwise (fun a b => slotRank a < slotRank b) := by
  induction l with
  | nil => exact List.pairwise_singleton ..
  | cons y r ih =>
    obtain ⟨hy, hr⟩ := List.pairwise_cons.mp hl
    obtain ⟨hyx, hrx⟩ := List.forall_mem_cons.mp hx
    unfold insertKey
    split
    · next habove =>
      have hfirst : slotRank x < slotRank y := Prod.Lex.toLex_lt_toLex.mpr (.inl ((ranksAbove_iff ..).mp habove))
      exact List.pairwise_cons.mpr ⟨List.forall_mem_cons.mpr ⟨hfirst, fun z hz => hfirst.trans (hy z hz)⟩, hl⟩
    · next habove =>
      have hfirst : slotRank y < slotRank x := slotRank_lt_iff.mpr ⟨by simpa using habove, fun _ => hyx⟩
      refine List.pairwise_cons.mpr ⟨fun z hz => ?_, ih hr hrx⟩
      obtain rfl | hz := List.mem_cons.mp ((insertKey_perm x r).subset hz)
      · exact hfirst
      · exact hy z hz

theorem take_insertKey_take (k : Nat) (x : FVal × Nat) (l : List (FVal × Nat)) :
    (insertKey x (l.take k)).take k = (insertKey x l).take k := by
  induction l generalizing k with
  | nil => rw [List.take_nil]
  | cons y r ih =>
    cases k with
    | zero => rfl
    | succ k =>
      rw [List.take_succ_cons]
      unfold insertKey
      split
      · cases k with
        | zero => rfl
        | succ k => simp [List.take_take]
      · rw [List.take_succ_cons, List.take_succ_cons, ih]

/-- Every key of a row in its order. -/
def rankedKeys (l : List (FVal × Nat)) : List (FVal × Nat) := l.foldl (fun slots x => insertKey x slots) []

/-- The slots hold the first of the keys in their order. -/
theorem topSlots_eq (k : Nat) (l : List (FVal × Nat)) : topSlots k l = (rankedKeys l).take k := by
  have hfold : ∀ full : List (FVal × Nat), l.foldl (fun slots x => (insertKey x slots).take k) (full.take k) =
      (l.foldl (fun slots x => insertKey x slots) full).take k := by
    induction l with
    | nil => exact fun _ => rfl
    | cons x l ih =>
      intro full
      rw [List.foldl_cons, List.foldl_cons, take_insertKey_take, ih]
  have hempty := hfold []
  rwa [List.take_nil] at hempty

theorem rankedKeys_concat (l : List (FVal × Nat)) (x : FVal × Nat) : rankedKeys (l ++ [x]) = insertKey x (rankedKeys l) := by
  unfold rankedKeys
  rw [List.foldl_append]
  rfl

theorem rankedKeys_perm (l : List (FVal × Nat)) : (rankedKeys l).Perm l := by
  induction l using List.reverseRecOn with
  | nil => exact List.Perm.refl _
  | append_singleton l x ih =>
    rw [rankedKeys_concat]
    exact (insertKey_perm ..).trans ((ih.cons x).trans (List.perm_append_singleton x l).symm)

theorem rankedKeys_pairwise {l : List (FVal × Nat)} (hl : l.Pairwise (fun a b => a.2 < b.2)) :
    (rankedKeys l).Pairwise (fun a b => slotRank a < slotRank b) := by
  induction l using List.reverseRecOn with
  | nil => exact List.Pairwise.nil
  | append_singleton l x ih =>
    obtain ⟨hl, -, hx⟩ := List.pairwise_append.mp hl
    rw [rankedKeys_concat]
    exact insertKey_pairwise (ih hl) fun y hy => hx y ((rankedKeys_perm l).subset hy) x List.mem_cons_self

/-! ## The choice -/

theorem indexed_snd {α : Type} (l : List α) : (indexed l).map (·.2) = List.range l.length := by
  unfold indexed
  exact List.map_snd_zip (by simp)

theorem length_indexed {α : Type} (l : List α) : (indexed l).length = l.length := by simp [indexed]

theorem indexed_pairwise {α : Type} (l : List α) : (indexed l).Pairwise (fun a b => a.2 < b.2) := by
  rw [← List.pairwise_map (f := fun p : α × Nat => p.2) (R := (· < ·)), indexed_snd]
  exact List.pairwise_lt_range

theorem mem_indexed {α : Type} {l : List α} {p : α × Nat} (h : p ∈ indexed l) : l[p.2]? = some p.1 := by
  obtain ⟨i, hi, rfl⟩ := List.getElem_of_mem h
  simp [indexed] at hi ⊢

/-- A key with its expert. -/
def keyed (keys : List FVal) (e : Nat) : FVal × Nat := ((keys[e]?).getD .nan, e)

/-- The experts of a row, in the order of their keys. -/
def rankedExperts (keys : List FVal) : List Nat := (rankedKeys (indexed keys)).map (·.2)

theorem rankedExperts_perm (keys : List FVal) : (rankedExperts keys).Perm (List.range keys.length) := by
  rw [← indexed_snd]
  exact (rankedKeys_perm _).map _

theorem rankedExperts_pairwise (keys : List FVal) :
    (rankedExperts keys).Pairwise (fun a b => slotRank (keyed keys a) < slotRank (keyed keys b)) := by
  have hkeyed : ∀ p ∈ rankedKeys (indexed keys), keyed keys p.2 = p := fun p hp => by
    rw [keyed, mem_indexed ((rankedKeys_perm _).subset hp)]
    rfl
  refine List.pairwise_map.mpr ((rankedKeys_pairwise (indexed_pairwise keys)).imp_of_mem fun ha hb hlt => ?_)
  rwa [hkeyed _ ha, hkeyed _ hb]

theorem choose_eq {g : SelCfg} (h : g.ngrp < 2) (keys : List FVal) : (choose g keys).1 = (rankedExperts keys).take g.k := by
  unfold choose
  dsimp only
  rw [if_pos (by omega), topSlots_eq, List.map_take]
  rfl

/-- The choice of a row without groups: the K greatest keys in descending order (R139, R140). -/
theorem choose_ranked {g : SelCfg} (h : g.ngrp < 2) (keys : List FVal) :
    (choose g keys).1.length = min g.k keys.length ∧ (choose g keys).1.Nodup ∧ (∀ e ∈ (choose g keys).1, e < keys.length) ∧
    (∀ e ∈ (choose g keys).1, ∀ x, x < keys.length → x ∉ (choose g keys).1 →
      slotRank (keyed keys e) < slotRank (keyed keys x)) ∧
    (choose g keys).1.Pairwise (fun a b => slotRank (keyed keys a) < slotRank (keyed keys b)) := by
  have hperm := rankedExperts_perm keys
  have hpair := rankedExperts_pairwise keys
  rw [choose_eq h]
  refine ⟨?_, ?_, fun e he => ?_, fun e he x hx hnot => ?_, ?_⟩
  · rw [List.length_take, hperm.length_eq, List.length_range]
  · exact (hperm.nodup_iff.mpr List.nodup_range).sublist (List.take_sublist ..)
  · exact List.mem_range.mp (hperm.subset (List.mem_of_mem_take he))
  · have hrest : x ∈ (rankedExperts keys).drop g.k := by
      have hall : x ∈ (rankedExperts keys).take g.k ++ (rankedExperts keys).drop g.k := by
        rw [List.take_append_drop]
        exact hperm.symm.subset (List.mem_range.mpr hx)
      exact (List.mem_append.mp hall).resolve_left hnot
    rw [← List.take_append_drop g.k (rankedExperts keys)] at hpair
    exact (List.pairwise_append.mp hpair).2.2 e he x hrest
  · exact hpair.sublist (List.take_sublist ..)

end Sys2Proof.Machine
end

section
/-! Hash selection (R148, Table 06.5): what its loop discovers, and the list of a token. -/

namespace Sys2Proof.Machine

theorem xorShift_lt {x : Nat} (h : x < 2 ^ 64) (n : Nat) : xorShift x n < 2 ^ 64 :=
  Nat.xor_lt_two_pow h ((Nat.shiftRight_le x n).trans_lt h)

/-- A result of mix64 fits 64 bits. -/
theorem mix64_lt (x : Nat) : mix64 x < 2 ^ 64 := xorShift_lt (Nat.mod_lt _ (by decide)) 33

/-- A list of distinct experts below E. -/
def DistinctBelow (E : Nat) (l : List Nat) : Prop := l.Nodup ∧ ∀ e ∈ l, e < E

/-! ## The loop -/

theorem length_hashLoop_le (E k fuel x : Nat) {acc : List Nat} (h : acc.length ≤ k) : (hashLoop E k fuel x acc).length ≤ k := by
  induction fuel generalizing x acc with
  | zero => exact h
  | succ fuel ih =>
    unfold hashLoop
    dsimp only
    split
    · exact h
    · next hlt =>
      refine ih _ ?_
      split
      · exact h
      · exact Nat.lt_of_not_le hlt

/-- The experts discovered are distinct, and experts of the context. -/
theorem hashLoop_distinct {E : Nat} (hE : 0 < E) (k fuel x : Nat) {acc : List Nat} (h : DistinctBelow E acc) :
    DistinctBelow E (hashLoop E k fuel x acc) := by
  induction fuel generalizing x acc with
  | zero => exact h
  | succ fuel ih =>
    unfold hashLoop
    dsimp only
    split
    · exact h
    · refine ih _ ?_
      split
      · exact h
      · next hnew =>
        exact ⟨List.nodup_cons.mpr ⟨by simpa using hnew, h.1⟩, List.forall_mem_cons.mpr ⟨Nat.mod_lt _ hE, h.2⟩⟩

/-! ## Free choices -/

theorem freeExperts_prefix (gidx E n : Nat) (acc : List Nat) :
    acc <+: freeExperts gidx E n acc ∧ (freeExperts gidx E n acc).length = acc.length + n := by
  induction n generalizing acc with
  | zero => exact ⟨List.prefix_rfl, rfl⟩
  | succ n ih =>
    obtain ⟨hpre, hlen⟩ := ih (acc ++ [nth ((List.range E).filter (fun e => !acc.contains e))
      ((Config.freeWord (gidx + n)).toNat % max 1 ((List.range E).filter (fun e => !acc.contains e)).length)])
    refine ⟨(List.prefix_append ..).trans hpre, hlen.trans ?_⟩
    rw [List.length_append, List.length_singleton]
    omega

/-- While experts are left, one that has not been chosen yet is. -/
theorem nth_rest_mem {E : Nat} {acc : List Nat} (hlen : acc.length < E) (w : Nat) :
    nth ((List.range E).filter (fun e => !acc.contains e)) (w % max 1 ((List.range E).filter (fun e => !acc.contains e)).length) ∈
      (List.range E).filter (fun e => !acc.contains e) := by
  have hne : (List.range E).filter (fun e => !acc.contains e) ≠ [] := fun hnil => by
    have hsub : List.range E ⊆ acc := fun e he => by
      have := List.filter_eq_nil_iff.mp hnil e he
      simpa using this
    have := (List.nodup_range.subperm hsub).length_le
    rw [List.length_range] at this
    omega
  generalize (List.range E).filter (fun e => !acc.contains e) = rest at hne ⊢
  have hpos := List.length_pos_iff.mpr hne
  have hlt : w % max 1 rest.length < rest.length := (Nat.mod_lt _ (by omega)).trans_le (by omega)
  rw [nth, List.getElem?_eq_getElem hlt]
  exact List.getElem_mem hlt

theorem freeExperts_distinct (gidx : Nat) {E n : Nat} {acc : List Nat} (h : DistinctBelow E acc) (hn : acc.length + n ≤ E) :
    DistinctBelow E (freeExperts gidx E n acc) := by
  induction n generalizing acc with
  | zero => exact h
  | succ n ih =>
    obtain ⟨hrange, hnew⟩ := List.mem_filter.mp (nth_rest_mem (acc := acc) (E := E) (by omega) (Config.freeWord (gidx + n)).toNat)
    refine ih ⟨List.nodup_append.mpr ⟨h.1, List.nodup_singleton _, fun a ha b hb hab => ?_⟩, fun e he => ?_⟩ ?_
    · rw [List.mem_singleton.mp hb] at hab
      rw [← hab] at hnew
      simp [ha] at hnew
    · obtain he | he := List.mem_append.mp he
      · exact h.2 e he
      · rw [List.mem_singleton.mp he]
        exact List.mem_range.mp hrange
    · rw [List.length_append, List.length_singleton]
      omega

/-! ## The list of a token -/

/-- The experts that the loop of R148 discovers for a token, in order of discovery. -/
def hashFound (seed g E k : Nat) : List Nat := (hashLoop E k (2 ^ 20) ((seed ^^^ g) % 2 ^ 64) []).reverse

theorem hashSelect_eq (seed g E k : Nat) :
    hashSelect seed g E k = freeExperts g E (k - (hashFound seed g E k).length) (hashFound seed g E k) := rfl

theorem length_hashFound_le (seed g E k : Nat) : (hashFound seed g E k).length ≤ k := by
  unfold hashFound
  rw [List.length_reverse]
  exact length_hashLoop_le E k (2 ^ 20) _ (Nat.zero_le k)

theorem hashFound_distinct (seed g k : Nat) {E : Nat} (hE : 0 < E) : DistinctBelow E (hashFound seed g E k) := by
  obtain ⟨hnodup, hbelow⟩ := hashLoop_distinct hE k (2 ^ 20) ((seed ^^^ g) % 2 ^ 64) (acc := [])
    ⟨List.nodup_nil, fun _ h => nomatch h⟩
  exact ⟨List.nodup_reverse.mpr hnodup, fun e he => hbelow e (List.mem_reverse.mp he)⟩

theorem length_hashSelect (seed g E k : Nat) : (hashSelect seed g E k).length = k := by
  have hle := length_hashFound_le seed g E k
  rw [hashSelect_eq, (freeExperts_prefix ..).2]
  omega

theorem hashSelect_distinct (seed g : Nat) {E k : Nat} (hE : 0 < E) (hk : k ≤ E) : DistinctBelow E (hashSelect seed g E k) := by
  have hle := length_hashFound_le seed g E k
  rw [hashSelect_eq]
  exact freeExperts_distinct g (hashFound_distinct seed g k hE) (by omega)

/-- Settles O32: the slots hold the first keys of the row in their order, and the loop of R148 keeps its list distinct. -/
theorem keysAndHashes : Obligations.KeysAndHashes := by
  unfold Obligations.KeysAndHashes
  refine ⟨fun g keys hg => ?_, mix64_lt, fun E k fuel x hE => ?_, fun seed g E k => ?_⟩
  · obtain ⟨hlen, hnodup, hlt, hgreatest, horder⟩ := choose_ranked hg keys
    exact ⟨hlen, hnodup, hlt, fun e he x hx hnot => slotRank_lt_iff.mp (hgreatest e he x hx hnot),
      horder.imp fun hab => slotRank_lt_iff.mp hab⟩
  · obtain ⟨hnodup, hbelow⟩ := hashLoop_distinct hE k fuel x (acc := []) ⟨List.nodup_nil, fun _ h => nomatch h⟩
    exact ⟨hnodup, hbelow, length_hashLoop_le E k fuel x (Nat.zero_le k)⟩
  · exact ⟨length_hashSelect seed g E k, (freeExperts_prefix ..).1, fun hE hk => hashSelect_distinct seed g hE hk⟩

end Sys2Proof.Machine
end

section
/-! Words in host memory: what a local write of an instruction leaves, and the words of an area that were written or read
(R4, R32, R33). -/

namespace Sys2Proof.Machine

/-! ## Runs of bytes -/

theorem wrBytes_append (m : HostMem) (a : Nat) (bs cs : List Byte) :
    wrBytes m a (bs ++ cs) = wrBytes (wrBytes m a bs) (a + bs.length) cs := by
  induction bs generalizing m a with
  | nil => rfl
  | cons b bs ih =>
    rw [List.cons_append, List.length_cons, wrBytes, ih, wrBytes, Nat.add_right_comm, Nat.add_assoc]

theorem wrByte_congr (m : HostMem) {a b : Nat} (h : a % 2 ^ 42 = b % 2 ^ 42) (v : Byte) : wrByte m a v = wrByte m b v := by
  unfold wrByte
  rw [h]

theorem wrBytes_congr (m : HostMem) {a b : Nat} (h : a % 2 ^ 42 = b % 2 ^ 42) (bs : List Byte) :
    wrBytes m a bs = wrBytes m b bs := by
  induction bs generalizing m a b with
  | nil => rfl
  | cons v bs ih => rw [wrBytes, wrBytes, wrByte_congr m h, ih _ (a := a + 1) (b := b + 1) (by omega)]

/-- A read that a write does not reach. -/
theorem rdNum_wrBytes_ne {m : HostMem} {a b n : Nat} {bs : List Byte}
    (h : ∀ j i, j < n → i < bs.length → (b + j) % 2 ^ 42 ≠ (a + i) % 2 ^ 42) : rdNum (wrBytes m a bs) b n = rdNum m b n := by
  have hbytes : rdBytes (wrBytes m a bs) b n = rdBytes m b n := by
    induction n generalizing b with
    | zero => rfl
    | succ n ih =>
      rw [rdBytes, rdBytes, rdByte_wrBytes_ne (b := b) fun i hi => h 0 i (by omega) hi, ih fun j i hj hi => ?_]
      rw [Nat.add_assoc]
      exact h (1 + j) i (by omega) hi
  rw [rdNum, rdNum, hbytes]

/-! ## Writes of an instruction that meets no error -/

/-- Granule by granule, the bytes stand in memory in one run (R33). -/
theorem wrGranules_bytes {io : Io} (hq : io.mem.marks = []) (hs : io.stop = none) {fuel a : Nat} {bs : List Byte}
    (hfuel : a % 64 + bs.length ≤ 64 * fuel) :
    (wrGranules io fuel a bs).mem = wrBytes io.mem a bs ∧ (wrGranules io fuel a bs).stop = none ∧
      (wrGranules io fuel a bs).strike = io.strike ∧ (wrGranules io fuel a bs).hops = io.hops := by
  induction fuel generalizing io a bs with
  | zero =>
    have hnil : bs = [] := List.length_eq_zero_iff.mp (by omega)
    subst hnil
    exact ⟨rfl, hs, rfl, rfl⟩
  | succ fuel ih =>
    by_cases hbs : bs = []
    · rw [wrGranules, if_pos (by simp [hbs]), hbs]
      exact ⟨rfl, hs, rfl, rfl⟩
    · rw [wrGranules_step hq hs hbs]
      obtain ⟨hmem, hrest⟩ := ih
        (io := { io with mem := wrBytes io.mem a (bs.take (64 - a % 64)), wr := io.wr + (bs.take (64 - a % 64)).length })
        (a := (a + (64 - a % 64)) % 2 ^ 42) (bs := bs.drop (64 - a % 64)) ((wrBytes_marks ..).trans hq) hs
        (by rw [List.length_drop]; omega)
      refine ⟨hmem.trans ?_, hrest⟩
      conv_rhs => rw [← List.take_append_drop (64 - a % 64) bs, wrBytes_append]
      by_cases hfull : 64 - a % 64 ≤ bs.length
      · rw [List.length_take, Nat.min_eq_left hfull]
        exact wrBytes_congr _ (Nat.mod_mod ..) _
      · rw [List.drop_of_length_le (by omega)]
        rfl

/-- From `io` to `io1` an instruction whose accesses meet no error has come to memory `m`. -/
structure WentOn (io io1 : Io) (m : HostMem) : Prop where
  mem : io1.mem = m
  stop : io1.stop = none
  strike : io1.strike = none
  hops : io1.hops = io.hops

section
variable {io io1 : Io} {m : HostMem}

theorem WentOn.ended (h : WentOn io io1 m) : io1.ended = none := by rw [Io.ended, h.stop, h.strike]; rfl

/-- A local write of an instruction that meets no error leaves its bytes. -/
theorem ioWrite_goesOn (hq : io.mem.marks = []) (hs : io.stop = none) (hk : io.strike = none) (a : Nat) (bs : List Byte) :
    WentOn io (ioWrite false a bs io).2 (wrBytes io.mem a bs) := by
  unfold ioWrite
  split
  · next h =>
    have hnil : bs = [] := by simpa [hs] using h
    subst hnil
    exact ⟨rfl, hs, hk, rfl⟩
  · next h =>
    have htick : strikeTick io = io := by unfold strikeTick; rw [hk]
    obtain ⟨hmem, hstop, hstrike, hhops⟩ := wrGranules_bytes hq hs (fuel := bs.length / 64 + 2) (a := a % 2 ^ 42) (bs := bs)
      (by omega)
    rw [htick]
    show WentOn io (ioWriteOn false a bs io) _
    unfold ioWriteOn
    rw [if_neg h, if_neg (by simp [isRemote])]
    exact ⟨hmem.trans (wrBytes_congr _ (Nat.mod_mod ..) bs), hstop, hstrike.trans hk, hhops⟩

/-- A local read of an instruction that meets no error. -/
theorem ioRead_goesOn (hq : io.mem.marks = []) (hs : io.stop = none) (hk : io.strike = none) (a n : Nat) :
    WentOn io (ioRead false a n io).2 io.mem ∧ (ioRead false a n io).1 = rdBytes io.mem a n := by
  obtain ⟨hreads, hbytes⟩ := ioRead_quiet hq a n
  refine ⟨⟨hreads.mem, hreads.stop.trans hs, hreads.strike.trans hk, ?_⟩, hbytes hs⟩
  show (ioReadOn false a n io).2.hops = io.hops
  unfold ioReadOn
  have hlocal : isRemote io false a = false := rfl
  have hcode : rdCode io.lvl2 io.mem (a % 2 ^ 42) n = 0 := rdCode_quiet hq ..
  split
  · rfl
  · rw [hs, hlocal, if_neg (by simp), if_neg Bool.false_ne_true]
    dsimp only
    rw [if_pos hcode]
    rfl

end

/-! ## Words of 32 bits -/

/-- The bytes of 32-bit words. -/
def wordBytes (ws : List Nat) : List Byte := (ws.map (leBytes 4)).flatten

@[simp] theorem length_wordBytes (ws : List Nat) : (wordBytes ws).length = 4 * ws.length := by
  rw [wordBytes, length_flatten_of_forall (n := 4) (by simp), List.length_map]

/-- Words written one after another are read back one by one. -/
theorem rdNum_wordBytes {m : HostMem} (hw : Memory.wf m = true) {a : Nat} {ws : List Nat} (hlen : 4 * ws.length ≤ 2 ^ 42)
    {j : Nat} (hj : j < ws.length) : rdNum (wrBytes m a (wordBytes ws)) (a + 4 * j) 4 = nth ws j % 2 ^ 32 := by
  induction ws generalizing m a j with
  | nil => cases hj
  | cons w ws ih =>
    have hcons : wordBytes (w :: ws) = leBytes 4 w ++ wordBytes ws := rfl
    rw [List.length_cons] at hlen hj
    rw [hcons, wrBytes_append, leBytes_length]
    cases j with
    | zero =>
      rw [rdNum_wrBytes_ne fun j i hj hi => ?_]
      · exact rdNum_wrNum hw (by decide)
      · rw [length_wordBytes] at hi
        omega
    | succ j =>
      rw [show a + 4 * (j + 1) = a + 4 + 4 * j by omega]
      exact ih (wf_wrBytes _ _ hw) (by omega) (by omega)

/-- Words written elsewhere. -/
theorem rdNum_wordBytes_ne {m : HostMem} {a b : Nat} {ws : List Nat}
    (h : ∀ j i, j < 4 → i < 4 * ws.length → (b + j) % 2 ^ 42 ≠ (a + i) % 2 ^ 42) :
    rdNum (wrBytes m a (wordBytes ws)) b 4 = rdNum m b 4 :=
  rdNum_wrBytes_ne fun j i hj hi => h j i hj (by rwa [length_wordBytes] at hi)

theorem bytesOf_one (ws : List Nat) : bytesOf 1 ws = wordBytes ws := rfl

/-! ## Words of an area that is read -/

theorem leNat_drop (l : List Byte) (n : Nat) : leNat l / 256 ^ n = leNat (l.drop n) := by
  induction n generalizing l with
  | zero => simp
  | succ n ih =>
    cases l with
    | nil => simp [leNat]
    | cons b l =>
      have hb := b.isLt
      rw [List.drop_succ_cons, ← ih, leNat, Nat.pow_succ', ← Nat.div_div_eq_div_mul]
      congr 1
      omega

theorem leNat_take (l : List Byte) (n : Nat) : leNat l % 256 ^ n = leNat (l.take n) := by
  induction n generalizing l with
  | zero => simp [leNat, Nat.mod_one]
  | succ n ih =>
    cases l with
    | nil => simp [leNat]
    | cons b l =>
      have hb := b.isLt
      rw [List.take_succ_cons, leNat, leNat, ← ih, Nat.pow_succ', Nat.mod_mul]
      congr 1
      · omega
      · congr 2
        omega

theorem drop_rdBytes (m : HostMem) (a n k : Nat) : (rdBytes m a n).drop k = rdBytes m (a + k) (n - k) := by
  induction k generalizing a n with
  | zero => rfl
  | succ k ih =>
    cases n with
    | zero => simp [rdBytes]
    | succ n => rw [rdBytes, List.drop_succ_cons, ih, Nat.add_right_comm, Nat.add_assoc, Nat.succ_sub_succ]

theorem take_rdBytes (m : HostMem) (a : Nat) {n k : Nat} (h : k ≤ n) : (rdBytes m a n).take k = rdBytes m a k := by
  induction k generalizing a n with
  | zero => rfl
  | succ k ih =>
    cases n with
    | zero => omega
    | succ n => rw [rdBytes, List.take_succ_cons, ih _ (by omega), rdBytes]

/-- The words of an area, one by one. -/
theorem codesOf_rdBytes (m : HostMem) (a k : Nat) :
    codesOf 1 (rdBytes m a (4 * k)) 0 k = (List.range k).map (fun j => rdNum m (a + 4 * j) 4) := by
  refine List.map_congr_left fun j hj => ?_
  have hlt := List.mem_range.mp hj
  have hbits : bits (leNat (rdBytes m a (4 * k))) (0 + 32 * j) 32 = leNat (rdBytes m a (4 * k)) / 256 ^ (4 * j) % 256 ^ 4 := by
    rw [bits, Nat.shiftRight_eq_div_pow, Nat.zero_add, show (256 : Nat) = 2 ^ 8 from rfl, ← Nat.pow_mul, ← Nat.pow_mul,
      ← Nat.mul_assoc]
  show bits (leNat (rdBytes m a (4 * k))) (0 + 32 * j) 32 = _
  rw [hbits, leNat_drop, leNat_take, drop_rdBytes, take_rdBytes _ _ (by omega)]
  rfl

end Sys2Proof.Machine
end

section
/-! Records written row by row: where HASHSEL writes, and what is read back (R135, R148). -/

namespace Sys2Proof.Machine

/-- Memory after `n` rows of 32-bit words, 64 bytes apart from address `a`. -/
def wordRows (m : HostMem) (a : Nat) (ws : Nat → List Nat) : Nat → HostMem
  | 0 => m
  | n + 1 => wrBytes (wordRows m a ws n) (a + 64 * n) (wordBytes (ws n))

section
variable {m : HostMem} {a n : Nat} {ws : Nat → List Nat}

@[simp] theorem wordRows_marks (m : HostMem) (a : Nat) (ws : Nat → List Nat) (n : Nat) :
    (wordRows m a ws n).marks = m.marks := by
  induction n with
  | zero => rfl
  | succ n ih => exact (wrBytes_marks ..).trans ih

theorem wf_wordRows (hw : Memory.wf m = true) : Memory.wf (wordRows m a ws n) = true := by
  induction n with
  | zero => exact hw
  | succ n ih => exact wf_wrBytes _ _ ih

/-- Rows that fit their 64 bytes are read back word by word. -/
theorem rdNum_wordRows (hw : Memory.wf m = true) (hn : 64 * n ≤ 2 ^ 42) (hlen : ∀ i, (ws i).length ≤ 16) {i j : Nat}
    (hi : i < n) (hj : j < (ws i).length) :
    rdNum (wordRows m a ws n) (a + 64 * i + 4 * j) 4 = nth (ws i) j % 2 ^ 32 := by
  induction n with
  | zero => omega
  | succ n ih =>
    have hrow := hlen i
    have hlast := hlen n
    obtain hlt | rfl : i < n ∨ i = n := by omega
    · exact (rdNum_wordBytes_ne fun x y hx hy => by omega).trans (ih (by omega) hlt)
    · exact rdNum_wordBytes (wf_wordRows hw) (by omega) hj

/-- An instruction that meets no error writes its rows one after another. -/
theorem forM_rows_goesOn {io : Io} (hq : io.mem.marks = []) (hs : io.stop = none) (hk : io.strike = none) (a n : Nat)
    (ws : Nat → List Nat) :
    WentOn io ((List.range n).forM (fun t => ioWrite false ((a + 64 * t) % 2 ^ 42) (wordBytes (ws t))) io).2
      (wordRows io.mem a ws n) := by
  induction n with
  | zero => exact ⟨rfl, hs, hk, rfl⟩
  | succ n ih =>
    have hrun : (List.range (n + 1)).forM (fun t => ioWrite false ((a + 64 * t) % 2 ^ 42) (wordBytes (ws t))) io =
        ioWrite false ((a + 64 * n) % 2 ^ 42) (wordBytes (ws n))
          ((List.range n).forM (fun t => ioWrite false ((a + 64 * t) % 2 ^ 42) (wordBytes (ws t))) io).2 := by
      rw [List.range_succ]
      exact congrFun (List.forM_append (m := StateM Io) (l₁ := List.range n) (l₂ := [n])) io
    obtain ⟨hmem, hstop, hstrike, hhops⟩ := ioWrite_goesOn (by rw [ih.mem, wordRows_marks]; exact hq) ih.stop ih.strike
      ((a + 64 * n) % 2 ^ 42) (wordBytes (ws n))
    rw [hrun]
    exact ⟨by rw [hmem, ih.mem, wrBytes_congr _ (Nat.mod_mod ..)]; rfl, hstop, hstrike, hhops.trans ih.hops⟩

end

end Sys2Proof.Machine
end

section
/-! HASHSEL from its issue to its report, where selection instructions do not run, and the claim about them (R135, R137,
R148, R192, R197, R247). -/

namespace Sys2Proof.Machine

/-! ## The accesses of HASHSEL -/

/-- The words of a selection record (R135). -/
def recordWords (experts gates : List Nat) : List Nat := (experts.zip gates).map (fun p => p.1 % 2 ^ 12 + p.2 % 2 ^ 16 * 2 ^ 16)

theorem recordBytes_eq (experts gates : List Nat) : recordBytes experts gates = wordBytes (recordWords experts gates) := by
  unfold recordBytes wordBytes recordWords
  rw [List.map_map]
  rfl

/-- Every gate of a hash selection: 1 / K (R148). -/
def hashGate (k : Ctx) : Nat := quiet (do convert {} .b16 (← longDiv fone (ofNatF (pbK k))))

/-- The words of the record of token `t` of a HASHSEL. -/
def hashWords (k : Ctx) (c : Cmd) (t : Nat) : List Nat :=
  recordWords (hashSelect (nth c.saved 7) (bits (nth c.saved 1) 0 48 + t) (pbE k) (pbK k)) (List.replicate (pbK k) (hashGate k))

theorem length_hashWords (k : Ctx) (c : Cmd) (t : Nat) : (hashWords k c t).length = pbK k := by
  rw [hashWords, recordWords, List.length_map, List.length_zip, length_hashSelect, List.length_replicate, min_self]

/-- EXPERT of entry j of a record is the expert that was discovered in place j (R135, R148). -/
theorem expert_hashWords (k : Ctx) (c : Cmd) (t : Nat) {j : Nat} (hj : j < pbK k) : bits (nth (hashWords k c t) j % 2 ^ 32) 0 12 =
    nth (hashSelect (nth c.saved 7) (bits (nth c.saved 1) 0 48 + t) (pbE k) (pbK k)) j % 2 ^ 12 := by
  have hlen := length_hashSelect (nth c.saved 7) (bits (nth c.saved 1) 0 48 + t) (pbE k) (pbK k)
  unfold hashWords recordWords
  generalize hashSelect (nth c.saved 7) (bits (nth c.saved 1) 0 48 + t) (pbE k) (pbK k) = l at hlen ⊢
  have hword : nth ((l.zip (List.replicate (pbK k) (hashGate k))).map (fun p => p.1 % 2 ^ 12 + p.2 % 2 ^ 16 * 2 ^ 16)) j =
      nth l j % 2 ^ 12 + hashGate k % 2 ^ 16 * 2 ^ 16 := by
    simp [nth, hlen, hj]
  rw [hword, bits, Nat.shiftRight_zero]
  omega

theorem hashRun_run (k : Ctx) (c : Cmd) (T : Nat) (io : Io) : (hashRun k c T io).2 =
    ((List.range T).forM (fun t => ioWrite false ((opAddr c.b + 64 + 64 * t) % 2 ^ 42) (wordBytes (hashWords k c t))) io).2 := by
  have hrecord : (fun t => ioWrite false ((opAddr c.b + 64 + 64 * t) % 2 ^ 42) (wordBytes (hashWords k c t))) =
      fun t => ioWrite false ((opAddr c.b + 64 + 64 * t) % 2 ^ 42)
        (recordBytes (hashSelect (nth c.saved 7) (bits (nth c.saved 1) 0 48 + t) (pbE k) (pbK k))
          (List.replicate (pbK k) (hashGate k))) :=
    funext fun t => by rw [recordBytes_eq]; rfl
  rw [hrecord]
  rfl

/-- HASHSEL writes records alone. -/
theorem confined_hashRun {k : Ctx} (hk : pbK k ≤ 16) (c : Cmd) (T : Nat) :
    Confined (areaAt (opAddr c.b + 64) (64 * T)) (fun _ => True) (hashRun k c T) := by
  unfold hashRun
  refine (Confined.forM fun t ht => confined_ioWrite fun i hi => ?_).then fun _ => Confined.pure trivial
  have hlen := length_recordBytes_le (hashSelect (nth c.saved 7) (bits (nth c.saved 1) 0 48 + t) (pbE k) (pbK k))
    (List.replicate (pbK k) (quiet (do convert {} .b16 (← longDiv fone (ofNatF (pbK k))))))
  rw [length_hashSelect] at hlen
  exact areaAt_row (List.mem_range.mp ht) le_rfl i (by omega)

/-! ## From its issue to its run -/

section
variable {s v : State} {c x : Cmd} {u : Use} {e : Nat} {l : List Nat}

/-- A HASHSEL that has read its structures. -/
def hashIssue (s : State) (c : Cmd) : Cmd :=
  issuedAs s c (selSaved (rdNum s.mem (opAddr c.a) 64) (rdNum s.mem (opAddr c.b) 64) none (ctx s c.ctx)) c.st

/-- A HASHSEL whose use is open. -/
def hashRunning (s : State) (c : Cmd) : Cmd := cmdOpened (hashIssue s c)

/-- With its slots a HASHSEL reads its structures; it goes on to its use where there are as many tickets as assignments
(R197). -/
theorem hashStart_reads (hq : Quiet s) (hslots : slotsOk s (stampIssue s c) = true) (hopc : c.opc = 0x12) :
    ∃ v, SelIssued s v { stampIssue s c with st := .exec } ∧ selStart {} (stampIssue s c) (begun s c) =
      if ringSize < (descAt s c c.a).rows * pbK (ctx s c.ctx) then doneWith v 0x3F 0x12 0 0
      else selOpen {} (hashIssue s c) (setCmd v (hashIssue s c)) := by
  obtain ⟨io, hreads, hstop, hmem, hhops⟩ := selReads_quiet (s := begun s c) hq (stampIssue s c)
  have hcounts : CountsOnly (begun s c) (coreIo (stampIssue s c).cores (begun s c) io) := by
    have hclose := ioClose_counts (begun s c) (coreOf (stampIssue s c).cores 0) (coreOf (stampIssue s c).cores 0) io hhops
    rw [hmem] at hclose
    exact hclose
  refine ⟨_, (selIssued_begun s c).counts hcounts, ?_⟩
  have hslot : slotsOk (begun s c) (stampIssue s c) = true := hslots
  unfold selReads at hreads
  unfold selStart
  dsimp only
  rw [hslot, hreads]
  dsimp only [withSlots]
  rw [hstop, if_pos rfl]
  dsimp only
  rw [stampIssue_opc, if_pos hopc]
  rfl

/-- Under its ROUTE a HASHSEL begins (R137). -/
theorem hashWork_starts (hst : c.st = .admitted) (hopc : c.opc = 0x12) (hroute : pbRoute (ctx s c.ctx) = 3) :
    selWork {} (stampIssue s c) (begun s c) = selStart {} (stampIssue s c) (begun s c) := by
  have hres : (stampIssue s c).resumes = false := resumes_admitted hst
  unfold selWork
  dsimp only
  rw [hres, stampIssue_opc, stampIssue_ctx, ctx_begun, hroute, hopc]
  rfl

/-- A HASHSEL that has what it needs opens its use, takes its tickets and runs. -/
theorem hashWork_runs (hst : c.st = .admitted) (hopc : c.opc = 0x12) (hready : SelReady s c)
    (hroute : pbRoute (ctx s c.ctx) = 3) :
    ∃ w u e, selWork {} (stampIssue s c) (begun s c) = selRun {} (hashRunning s c) w u ∧
      u = (selUse s (hashIssue s c) e).withBase s.disp.nextTicket ∧ SelOpened s w (hashRunning s c) u ∧
      (∀ y ∈ s.disp.uses, y.slot ≠ u.slot) ∧
      ∀ i, i < u.t * u.k → SelectedFor w u.slot ((s.disp.nextTicket + i) % ringSize) := by
  obtain ⟨hq, -, hlive, hreuse, hentry, hwait, hfree, hslots, -, -⟩ := hready
  obtain ⟨e, he⟩ := Option.isSome_iff_exists.mp hentry
  obtain ⟨v, hissued, hstart⟩ := hashStart_reads hq ((Bool.and_eq_true ..).mp hslots).1 hopc
  rw [if_neg (not_lt.mpr (hfree.trans (Nat.sub_le ..)))] at hstart
  obtain ⟨v1, hopens, hopened, hnext, hranges⟩ := selOpen_opens (ecc := {})
    (hissued.setCmd (y := hashIssue s c) rfl rfl) hlive hreuse he
  obtain ⟨w, hreserve, hruns, htickets⟩ := selReserve_runs (ecc := {}) hopened (freeEntry_fresh he) hnext hranges hfree
    hwait (waitN_admitted hst)
    (reserveSlots_of (c := stampIssue s c) hopened.toSameRota hopened.glb hnext rfl rfl rfl
      (by rw [stampIssue_opc, hopc]; rfl) (fun i hi => mem_coreActive hi) hslots)
  exact ⟨w, _, e, (hashWork_starts hst hopc hroute).trans (hstart.trans (hopens.trans hreserve)), rfl, hruns,
    freeEntry_fresh he, htickets⟩

/-! ## Its report -/

/-- What the run of a selection instruction leaves once it is reported, whatever the instruction has saved (R192, R194,
R197). -/
theorem SelEnds.selectsAs {here : Nat → Prop} {w : State} (h : SelEnds here s v w (issuedAs s c l c.st) u)
    (hopened : SelOpened s v (issuedAs s c l c.st) u) (hf : findCmd s c.q c.tag = some c) (hst : c.st = .admitted)
    (hbad : pbBad (ctx s c.ctx) = false) (hx : x.ctx = c.ctx ∧ x.batch = c.batch ∧ selT x = (descAt s c c.a).rows)
    (hu : u = (selUse s x e).withBase s.disp.nextTicket) :
    Selects s (settle (doneWith w 0 0 (u.t * u.k) u.epoch) c.q c.tag) c := by
  obtain ⟨hctx, hbatch, hrows⟩ := hx
  have ht : u.t = (descAt s c c.a).rows := by rw [hu]; exact hrows
  have hk : u.k = pbK (ctx s c.ctx) := by rw [hu, ← hctx]; rfl
  have hepoch : u.epoch = (ctx s c.ctx).bepoch := by rw [hu, ← hctx]; rfl
  have hbase : u.base = s.disp.nextTicket := by rw [hu]; rfl
  have hstands : StandsAs s w (issuedAs s c l c.st) := ⟨h.front.trans hopened.front⟩
  have hreport := hstands.reports (c := c) hf (isFinished_admitted hst)
    { status := 0, detail := 0, result := u.t * u.k, epoch := u.epoch }
  have hframe := settle_doneWith_frame w c.q c.tag 0 0 (u.t * u.k) u.epoch
  set t := settle (doneWith w 0 0 (u.t * u.k) u.epoch) c.q c.tag
  have hctxs : t.ctxs = w.ctxs := by have h' := congrArg State.ctxs hframe; exact h'
  have hdisp : t.disp = w.disp := by have h' := congrArg State.disp hframe; exact h'
  have hsame : ∀ k, ctx t k = ctx w k := fun k => by rw [ctx, hctxs]; rfl
  obtain ⟨gates, huses⟩ := h.uses
  refine ⟨?_, ?_, ⟨_, (congrArg Disp.uses hdisp).trans huses, ?_⟩, fun k hk' => ?_⟩
  · rw [← ht, ← hk, ← hepoch]
    exact hreport
  · exact (congrArg Ctx.bepoch (hsame _)).trans (h.epoch.trans (congrArg Ctx.bepoch (hopened.ctx_same hbad)))
  · rw [← ht, ← hk, ← hbase]
    exact ⟨by rw [hu]; exact hctx, by rw [hu]; exact hbatch, hepoch, rfl, rfl, rfl, by rw [hu]; rfl, fun i hi =>
      (h.tickets i hi).congr (congrArg Disp.tickets hdisp)⟩
  · exact (hsame k).trans ((h.ctxs k hk').trans (hopened.ctx_other hk'))

/-- The memory in which a run that no error ends leaves the engine. -/
theorem selRun_mem {n : Nat} {w : State} {r ep : Nat} (hended : (selIo n v x u).2.ended = none)
    (h : selRun { corrected := n } x v u = doneWith w 0 0 r ep) : w.mem = (selIo n v x u).2.mem := by
  have hst := congrArg Work.st ((selRun_done hended).symm.trans h)
  have hmem : ∀ t : State, (ctxCount t x.ctx 0 (u.t * u.k)).mem = t.mem := fun t => by
    unfold ctxCount
    split <;> rfl
  have hw : ctxCount (selLast n v x u) x.ctx 0 (u.t * u.k) = w := hst
  rw [← hw, hmem]
  exact (selLast_gated n v x u).mem

/-- The accesses of a HASHSEL that runs are its records. -/
theorem selAccesses_hash (h : SelOpened s v (hashRunning s c) u) (hopc : c.opc = 0x12) (hbad : pbBad (ctx s c.ctx) = false) :
    selAccesses v (hashRunning s c) u = hashRun (nextBatch (ctx s c.ctx)) (hashRunning s c) u.t := by
  have hctx : ctx v (hashRunning s c).ctx = nextBatch (ctx s c.ctx) := h.ctx_same hbad
  have hgood : pbBad (nextBatch (ctx s c.ctx)) = false := hbad
  have hhash : ((hashRunning s c).opc == 0x12) = true := beq_iff_eq.mpr hopc
  unfold selAccesses
  rw [hctx, hgood, hhash]
  rfl

/-- What a HASHSEL that ran leaves: its use, and the records of its tokens (R135, R148, R192, R197). -/
structure HashLeaves (s t : State) (c : Cmd) : Prop where
  selects : Selects s t c
  memOnly : MemOnly (areaAt (opAddr c.b + 64) (64 * (descAt s c c.a).rows)) s t
  mem : t.mem = wordRows s.mem (opAddr c.b + 64) (hashWords (nextBatch (ctx s c.ctx)) (hashRunning s c)) (descAt s c c.a).rows

/-- A HASHSEL that has what it needs. -/
theorem hashsel_runs (hf : findCmd s c.q c.tag = some c) (hst : c.st = .admitted) (hopc : c.opc = 0x12)
    (hready : SelReady s c) (hroute : pbRoute (ctx s c.ctx) = 3) :
    HashLeaves s (settle (selWork {} (stampIssue s c) (begun s c)) c.q c.tag) c := by
  have ⟨hq, hbad, _⟩ := hready
  have hk : pbK (ctx s c.ctx) ≤ 16 := by
    simp only [pbBad, Bool.or_eq_false_iff, decide_eq_false_iff_not] at hbad
    omega
  obtain ⟨v, u, e, hwork, hu, hopened, hfresh, htickets⟩ := hashWork_runs hst hopc hready hroute
  have ht : u.t = (descAt s c c.a).rows := by rw [hu]; rfl
  have hbase : u.base = s.disp.nextTicket := by rw [hu]; rfl
  have hacc := selAccesses_hash hopened hopc hbad
  have hstart : (ioStart (coreCe {} v)).mem = s.mem := (coreCe_counts {} v).1.mem.trans hopened.mem
  have hio := forM_rows_goesOn (io := ioStart (coreCe {} v)) (hstart ▸ hq) rfl rfl (opAddr c.b + 64) u.t
    (hashWords (nextBatch (ctx s c.ctx)) (hashRunning s c))
  have hrun : (selIo 0 v (hashRunning s c) u).2 = _ :=
    (congrArg (fun f : Mio SelOut => (f (ioStart (coreCe {} v))).2) hacc).trans (hashRun_run ..)
  obtain ⟨w, hdone, hends⟩ := selRun_ends (n := 0) hopened hq hbad hfresh (by rwa [hbase])
    (hacc ▸ confined_hashRun (k := nextBatch (ctx s c.ctx)) hk (hashRunning s c) u.t)
  have hmem : w.mem = wordRows s.mem (opAddr c.b + 64) (hashWords (nextBatch (ctx s c.ctx)) (hashRunning s c)) u.t := by
    rw [selRun_mem (by rw [hrun]; exact hio.ended) hdone, hrun, ← hstart]
    exact hio.mem
  have hwork' : selWork {} (stampIssue s c) (begun s c) = doneWith w 0 0 (u.t * u.k) u.epoch := hwork.trans hdone
  rw [hwork']
  have hframe := congrArg State.mem (settle_doneWith_frame w c.q c.tag 0 0 (u.t * u.k) u.epoch)
  exact {
    selects := hends.selectsAs (c := c) (x := hashIssue s c) (l := (hashRunning s c).saved) hopened hf hst hbad ⟨rfl, rfl, rfl⟩ hu
    memOnly := by
      rw [← ht]
      exact hends.memOnly ..
    mem := by
      rw [← ht]
      exact hframe.trans hmem }

/-- Entry j of the record of token i names the expert in place j of its hash selection (R135, R148). -/
theorem HashLeaves.record {t : State} (h : HashLeaves s t c) (hinv : Memory.wf s.mem = true) (hready : SelReady s c)
    {i j : Nat} (hi : i < (descAt s c c.a).rows) (hj : j < pbK (ctx s c.ctx)) :
    bits (rdNum t.mem (opAddr c.b + 64 + 64 * i + 4 * j) 4) 0 12 =
      nth (hashSelect (pbSeed (ctx s c.ctx)) (bits (rdNum s.mem (opAddr c.b) 64) 0 48 + i) (pbE (ctx s c.ctx))
        (pbK (ctx s c.ctx))) j % 2 ^ 12 := by
  obtain ⟨-, hbad, -, -, -, -, hfree, -⟩ := hready
  have hk : 0 < pbK (ctx s c.ctx) ∧ pbK (ctx s c.ctx) ≤ 16 := by
    simp only [pbBad, Bool.or_eq_false_iff, decide_eq_false_iff_not, beq_eq_false_iff_ne] at hbad
    omega
  have hrows : (descAt s c c.a).rows ≤ 2 ^ 21 :=
    (Nat.le_mul_of_pos_right _ hk.1).trans (hfree.trans (Nat.sub_le ..))
  have hlen := length_hashWords (nextBatch (ctx s c.ctx)) (hashRunning s c)
  have hK : pbK (nextBatch (ctx s c.ctx)) = pbK (ctx s c.ctx) := rfl
  rw [h.mem, rdNum_wordRows hinv (by omega) (fun i => by rw [hlen, hK]; exact hk.2) hi (by rw [hlen, hK]; exact hj)]
  exact expert_hashWords _ _ i hj

/-- A HASHSEL with more assignments than the store has tickets ends, with nothing changed in dispatch and memory (R197). -/
theorem hashsel_tooMany (hi : Issues s c 0x12) (hslots : Slotted s c) (hq : Quiet s) (hroute : pbRoute (ctx s c.ctx) = 3)
    (hmany : ringSize < (descAt s c c.a).rows * pbK (ctx s c.ctx)) :
    ∃ t, exec (.hashsel c.q c.tag) s = .next t ∧ Reports s t c 0x3F 0x12 0 0 ∧ t.disp = s.disp ∧ t.mem = s.mem := by
  obtain ⟨v, hissued, hstart⟩ := hashStart_reads hq hslots hi.opc_eq
  rw [if_pos hmany] at hstart
  refine ⟨_, next_working hi.working (issueRow_go hi hi.isOp _), ?_⟩
  rw [hashWork_starts hi.admitted hi.opc_eq hroute, hstart]
  have hframe := settle_doneWith_frame v c.q c.tag 0x3F 0x12 0 0
  exact ⟨reports_of_done hi hissued.front .., (congrArg State.disp hframe).trans hissued.disp,
    (congrArg State.mem hframe).trans hissued.mem⟩

end

/-! ## Where a selection instruction does not run -/

section
variable {s : State} {c : Cmd} {ecc : SramEcc}

/-- A selection instruction under the ROUTE of the other kind (R137). -/
theorem selWork_wrongRoute (hr : c.resumes = false) (h : (c.opc == 0x12) ≠ (pbRoute (ctx s c.ctx) == 3)) :
    selWork ecc c s = doneWith s 0x3F 0x11 0 0 := by
  unfold selWork
  dsimp only
  rw [hr, Bool.false_and, if_neg Bool.false_ne_true, if_pos (bne_iff_ne.mpr h)]
  rfl

/-- A SCORE or SCOREV without matching function tables (R247). -/
theorem selWork_noTables (hr : c.resumes = false) (hopc : c.opc ≠ 0x12) (hroute : pbRoute (ctx s c.ctx) ≠ 3)
    (htab : tablesOk s = false) : selWork ecc c s = doneWith s 0x30 0x14 0 0 := by
  unfold selWork
  dsimp only
  rw [hr, beq_false_of_ne hopc, beq_false_of_ne hroute, htab]
  rfl

end

/-- Settles O30: three checks turn a selection instruction away at its issue, and a HASHSEL that runs leaves the records of
its hash selections. -/
theorem selectionStarts : Obligations.SelectionStarts := by
  unfold Obligations.SelectionStarts
  refine ⟨fun s c ecc hi hroute => ?_, fun s c ecc hi hroute htab => ?_, fun s c hi hroute => ?_,
    fun s c hr hq hroute hmany => hashsel_tooMany hr.1 hr.2 hq hroute hmany, fun s c hi hinv hready hroute => ?_⟩
  · refine exec_reportsAtOnce hi hi.isOp (selWork_wrongRoute (s := begun s c) hi.resumes ?_)
    simp [hi.opc_eq, hroute]
  · exact exec_reportsAtOnce hi hi.isOp
      (selWork_noTables (s := begun s c) hi.resumes (by rw [stampIssue_opc, hi.opc_eq]; decide) hroute htab)
  · refine exec_reportsAtOnce hi hi.isOp (selWork_wrongRoute (s := begun s c) hi.resumes ?_)
    simp [hi.opc_eq, hroute]
  · have hleaves := hashsel_runs hi.found hi.admitted hi.opc_eq hready hroute
    exact ⟨_, next_working hi.working (issueRow_go hi hi.isOp _), hleaves.selects, hleaves.memOnly,
      fun i j hrow hj => hleaves.record hinv.1 hready hrow hj⟩

end Sys2Proof.Machine
end

section
/-! Tickets changed one by one, accesses made one after another, and lists with their indices: what COUNT and PLAN do to
every assignment of a use (R151, R160, R196, R197). -/

namespace Sys2Proof.Machine

/-! ## Tickets -/

section
variable {α : Type} {f : State → α → State} {key : α → Nat} {x : α → Ticket → Ticket} {v : State} {l : List α}

/-- The ticket store is in canonical form. -/
abbrev TicketsWf (v : State) : Prop := swf (fun _ => ({} : Ticket)) v.disp.tickets = true

theorem ticket_setTicket (h : TicketsWf v) (n : Nat) (tk : Ticket) : ticket (setTicket v n tk) n = tk := slook_sput h

theorem ticket_setTicket_ne {n m : Nat} (h : m ≠ n) (tk : Ticket) : ticket (setTicket v n tk) m = ticket v m := slook_sput_ne h

theorem ticketsWf_setTicket (h : TicketsWf v) (n : Nat) (tk : Ticket) : TicketsWf (setTicket v n tk) := swf_sput h

/-- `f` turns the ticket `key a` of its element `a` by `x a`, and no other. -/
structure Reticks (f : State → α → State) (key : α → Nat) (x : α → Ticket → Ticket) : Prop where
  wf : ∀ v a, TicketsWf v → TicketsWf (f v a)
  own : ∀ v a, TicketsWf v → ticket (f v a) (key a) = x a (ticket v (key a))
  other : ∀ v a n, n ≠ key a → ticket (f v a) n = ticket v n

theorem reticks_setTicket (key : α → Nat) (x : α → Ticket → Ticket) :
    Reticks (fun v a => setTicket v (key a) (x a (ticket v (key a)))) key x where
  wf _ _ h := ticketsWf_setTicket h ..
  own _ _ h := ticket_setTicket h ..
  other _ _ _ h := ticket_setTicket_ne h _

theorem Reticks.foldl_other (h : Reticks f key x) {n : Nat} (hn : ∀ a ∈ l, n ≠ key a) :
    ticket (l.foldl f v) n = ticket v n := by
  induction l generalizing v with
  | nil => rfl
  | cons a l ih =>
    obtain ⟨ha, hl⟩ := List.forall_mem_cons.mp hn
    exact (ih hl).trans (h.other v a n ha)

/-- Under distinct keys each ticket is turned once. -/
theorem Reticks.foldl (h : Reticks f key x) (hw : TicketsWf v) (hkeys : (l.map key).Nodup) {a : α} (ha : a ∈ l) :
    ticket (l.foldl f v) (key a) = x a (ticket v (key a)) := by
  induction l generalizing v with
  | nil => cases ha
  | cons b l ih =>
    obtain ⟨hb, hl⟩ := List.nodup_cons.mp hkeys
    have hfresh : ∀ c ∈ l, key b ≠ key c := fun c hc heq => hb (heq ▸ List.mem_map_of_mem hc)
    rw [List.foldl_cons]
    obtain rfl | ha := List.mem_cons.mp ha
    · rw [h.foldl_other hfresh, h.own v a hw]
    · rw [ih (h.wf v b hw) hl ha, h.other v b _ (hfresh a ha).symm]

end

/-- The tickets of the assignments of a use are distinct (R197). -/
theorem ticketKeys_nodup {α : Type} {l : List α} (h : l.length ≤ ringSize) (b : Nat) :
    ((indexed l).map (fun p => (b + p.2) % ringSize)).Nodup := by
  have hmap : (indexed l).map (fun p => (b + p.2) % ringSize) = (List.range l.length).map (fun i => (b + i) % ringSize) := by
    rw [← indexed_snd, List.map_map]
    rfl
  rw [hmap]
  refine List.Nodup.map_on (fun i hi j hj hij => ?_) List.nodup_range
  have hi' := List.mem_range.mp hi
  have hj' := List.mem_range.mp hj
  unfold ringSize at h hij
  omega

theorem TicketsOnly.useAt {s t : State} (h : TicketsOnly s t) (n : Nat) : useAt t n = useAt s n := by
  have huses : t.disp.uses = s.disp.uses := by have h' := congrArg (fun v : State => v.disp.uses) h; exact h'
  unfold Machine.useAt
  rw [huses]

/-! ## Lists with their indices -/

theorem mem_indexed_iff {α : Type} {l : List α} {a : α} {i : Nat} : (a, i) ∈ indexed l ↔ l[i]? = some a := by
  refine ⟨fun h => mem_indexed h, fun h => ?_⟩
  obtain ⟨hi, rfl⟩ := List.getElem?_eq_some_iff.mp h
  refine List.mem_iff_getElem.mpr ⟨i, by rwa [length_indexed], by simp [indexed]⟩

theorem indexed_fst {α : Type} (l : List α) : (indexed l).map (·.1) = l := List.map_fst_zip (by simp)

/-- As many indices are kept as elements. -/
theorem length_filterMap_indexed {α : Type} (l : List α) (f : α → Bool) :
    ((indexed l).filterMap (fun p => if f p.1 then some p.2 else none)).length = (l.filter f).length := by
  conv_rhs => rw [← indexed_fst l, List.filter_map, List.length_map]
  generalize indexed l = ps
  induction ps with
  | nil => rfl
  | cons p ps ih => cases h : f p.1 <;> simp [h, ih]

/-! ## Accesses one after another -/

section
variable {α β : Type} {m : HostMem}

/-- Reads that meet no error bring their values, and leave memory `m` as it is. -/
def ReadsFrom (m : HostMem) (x : Mio α) (a : α) : Prop :=
  ∀ io : Io, io.mem = m → io.stop = none → io.strike = none → WentOn io (x io).2 m ∧ (x io).1 = a

theorem ReadsFrom.mapM {f : β → Mio α} {g : β → α} (h : ∀ b, ReadsFrom m (f b) (g b)) (l : List β) :
    ReadsFrom m (l.mapM f) (l.map g) := by
  induction l with
  | nil => exact fun io hm hs hk => ⟨⟨hm, hs, hk, rfl⟩, rfl⟩
  | cons b l ih =>
    intro io hm hs hk
    obtain ⟨hhead, hval⟩ := h b io hm hs hk
    obtain ⟨hrest, hvals⟩ := ih _ hhead.mem hhead.stop hhead.strike
    rw [mapM_cons_run]
    exact ⟨⟨hrest.mem, hrest.stop, hrest.strike, hrest.hops.trans hhead.hops⟩, by rw [hval, hvals, List.map_cons]⟩

/-- The entries of a selection area in memory `m` (R135). -/
def areaRecords (m : HostMem) (a T k : Nat) : List Nat :=
  ((List.range T).map (fun t => (List.range k).map (fun j => rdNum m (a + 64 + 64 * t + 4 * j) 4))).flatten

theorem readRecords_reads (hq : m.marks = []) (a T k : Nat) : ReadsFrom m (readRecords a T k) (areaRecords m a T k) := by
  have hrow : ∀ t, ReadsFrom m (do
      let b ← ioRead false ((a + 64 + 64 * t) % 2 ^ 42) (4 * k)
      pure (codesOf 1 b 0 k) : Mio (List Nat)) ((List.range k).map (fun j => rdNum m (a + 64 + 64 * t + 4 * j) 4)) := by
    intro t io hm hs hk
    obtain ⟨hread, hval⟩ := ioRead_goesOn (hm ▸ hq) hs hk ((a + 64 + 64 * t) % 2 ^ 42) (4 * k)
    refine ⟨⟨hread.mem.trans hm, hread.stop, hread.strike, hread.hops⟩, ?_⟩
    show codesOf 1 (ioRead false ((a + 64 + 64 * t) % 2 ^ 42) (4 * k) io).1 0 k = _
    rw [hval, hm, rdBytes_congr m (Nat.mod_mod ..), codesOf_rdBytes]
  intro io hm hs hk
  obtain ⟨hrun, hval⟩ := ReadsFrom.mapM hrow (List.range T) io hm hs hk
  exact ⟨hrun, congrArg List.flatten hval⟩

@[simp] theorem length_areaRecords (m : HostMem) (a T k : Nat) : (areaRecords m a T k).length = T * k := by
  rw [areaRecords, length_flatten_of_forall (n := k) (by simp), List.length_map, List.length_range, Nat.mul_comm]

/-- Every entry is that of some token and choice. -/
theorem mem_areaRecords {m : HostMem} {a T k w : Nat} (h : w ∈ areaRecords m a T k) :
    ∃ i j, i < T ∧ j < k ∧ w = rdNum m (a + 64 + 64 * i + 4 * j) 4 := by
  obtain ⟨row, hrow, hw⟩ := List.mem_flatten.mp h
  obtain ⟨i, hi, rfl⟩ := List.mem_map.mp hrow
  obtain ⟨j, hj, rfl⟩ := List.mem_map.mp hw
  exact ⟨i, j, List.mem_range.mp hi, List.mem_range.mp hj, rfl⟩

end

end Sys2Proof.Machine
end

section
/-! COUNT of a context that is not placed (R149 to R151, Table 06.6): its replica slots, its histogram, its use and its
tickets. -/

namespace Sys2Proof.Machine

/-! ## Replica slots (R150) -/

theorem indexed_staticMap {E e : Nat} (P : Nat) (h : e < E) :
    ∃ p ∈ indexed (staticMap E P), (p.1.expert == e) = true := by
  refine ⟨(⟨e, 0, if E = 0 then 0 else e * P / E⟩, e), mem_indexed_iff.mpr ?_, by simp⟩
  simp [staticMap, h]

/-- An expert of the map has a replica slot (R150). -/
theorem replicaSlot_isSome {map : List RSlot} {e : Nat} (h : ∃ p ∈ indexed map, (p.1.expert == e) = true) (m g lseed : Nat) :
    (replicaSlot map m g lseed e).isSome = true := by
  obtain ⟨p, hp, he⟩ := h
  have hmem : p ∈ (indexed map).filter (fun p => p.1.expert == e) := List.mem_filter.mpr ⟨hp, he⟩
  unfold replicaSlot
  dsimp only
  generalize (indexed map).filter (fun p => p.1.expert == e) = mine at hmem ⊢
  split
  · rfl
  · have hpos := List.length_pos_of_mem hmem
    have hlt : mix64 (g ^^^ lseed) % max 1 mine.length < mine.length := (Nat.mod_lt _ (by omega)).trans_le (by omega)
    rw [List.getElem?_eq_getElem hlt]
    rfl

@[simp] theorem length_assignSlots (map : List RSlot) (m tbase lseed E k : Nat) (recs : List Nat) :
    (assignSlots map m tbase lseed E k recs).length = recs.length := by
  rw [assignSlots, List.length_map, length_indexed]

/-- Under the static map every assignment to an expert of the context has a replica slot (R150, R151). -/
theorem assignSlots_static {E k : Nat} {recs : List Nat} (P m tbase lseed : Nat) (h : ∀ w ∈ recs, w % 2 ^ 12 < E) :
    (assignSlots (staticMap E P) m tbase lseed E k recs).filter Option.isNone = [] := by
  refine List.filter_eq_nil_iff.mpr fun o ho => ?_
  obtain ⟨p, hp, rfl⟩ := List.mem_map.mp ho
  have hlt : recExpert p.1 < E := by
    have hw := h p.1 (List.mem_of_getElem? (mem_indexed hp))
    rwa [recExpert, bits, Nat.shiftRight_zero]
  have hsome := replicaSlot_isSome (indexed_staticMap P hlt) m (tbase + p.2 / max 1 k) lseed
  rw [if_neg (by omega), Option.isNone_eq_false_iff.mpr hsome]
  exact Bool.false_ne_true

/-! ## The histogram (Table 06.6) -/

@[simp] theorem length_histogram (T k E : Nat) (slots : List (Option Nat)) : (histogram T k E slots).length = 16 + k * E := by
  simp [histogram]
  omega

/-- Memory after the histogram `hist` of COUNT: with parameters out of range the words are free (log entry 29). -/
def histogramMem (k : Ctx) (c : Cmd) (hist : List Nat) (m : HostMem) : HostMem :=
  if pbBad k then wrFree m (opAddr c.b) (4 * hist.length) else wrBytes m (opAddr c.b) (wordBytes hist)

theorem histogramMem_only (k : Ctx) (c : Cmd) (hist : List Nat) (m : HostMem) :
    (histogramMem k c hist m).marks = m.marks ∧ ∀ a, ¬ areaAt (opAddr c.b) (4 * hist.length) (a % 2 ^ 42) →
      rdByte (histogramMem k c hist m) a = rdByte m a := by
  unfold histogramMem
  split
  · exact ⟨wrFree_marks .., fun a ha => rdByte_wrFree_ne fun i hi heq => ha ⟨i, hi, heq⟩⟩
  · exact ⟨wrBytes_marks .., fun a ha => rdByte_wrBytes_ne fun i hi heq => ha ⟨i, by rwa [length_wordBytes] at hi, heq⟩⟩

/-- COUNT's write of its histogram. -/
def writeHistogram (k : Ctx) (c : Cmd) (hist : List Nat) : Mio Unit :=
  if pbBad k then modify (fun io => { io with mem := wrFree io.mem (opAddr c.b) (4 * hist.length) })
  else ioWrite false (opAddr c.b) (bytesOf 1 hist)

theorem writeHistogram_goesOn {io : Io} (hq : io.mem.marks = []) (hs : io.stop = none) (hk : io.strike = none) (k : Ctx)
    (c : Cmd) (hist : List Nat) : WentOn io (writeHistogram k c hist io).2 (histogramMem k c hist io.mem) := by
  unfold writeHistogram histogramMem
  split
  · exact ⟨rfl, hs, hk, rfl⟩
  · exact ioWrite_goesOn hq hs hk ..

/-! ## Tickets -/

/-- SLOT of a ticket that COUNT reaches (Table 08.2). -/
def slotIn (u : Use) (p : Option Nat × Nat) (tk : Ticket) : Ticket :=
  match p.1 with
  | none => tk
  | some r => if tk.bentry = u.slot then { tk with slot := r } else tk

/-- COUNT's step for one assignment. -/
def slotStep (u : Use) (v : State) (p : Option Nat × Nat) : State :=
  match p.1 with
  | none => v
  | some r =>
    let n := (u.base + p.2) % ringSize
    if (ticket v n).bentry = u.slot then setTicket v n { ticket v n with slot := r } else v

theorem slotTickets_forward {u : Use} (h : u.backward = false) (v : State) (slots : List (Option Nat)) :
    slotTickets v u slots = (indexed slots).foldl (slotStep u) v := by
  unfold slotTickets
  rw [h, if_neg Bool.false_ne_true]
  rfl

/-- What a step can do to a state. -/
theorem slotStep_cases (u : Use) (v : State) (p : Option Nat × Nat) :
    (slotStep u v p = v ∧ slotIn u p (ticket v ((u.base + p.2) % ringSize)) = ticket v ((u.base + p.2) % ringSize)) ∨
      slotStep u v p = setTicket v ((u.base + p.2) % ringSize) (slotIn u p (ticket v ((u.base + p.2) % ringSize))) := by
  obtain ⟨_ | r, i⟩ := p
  · exact .inl ⟨rfl, rfl⟩
  · by_cases h : (ticket v ((u.base + i) % ringSize)).bentry = u.slot
    · exact .inr (by simp [slotStep, slotIn, h])
    · exact .inl (by simp [slotStep, slotIn, h])

theorem reticks_slotStep (u : Use) : Reticks (slotStep u) (fun p => (u.base + p.2) % ringSize) (slotIn u) where
  wf v p h := by
    obtain ⟨heq, -⟩ | heq := slotStep_cases u v p
    · rwa [heq]
    · rw [heq]; exact ticketsWf_setTicket h ..
  own v p h := by
    obtain ⟨heq, hsame⟩ | heq := slotStep_cases u v p
    · rw [heq, hsame]
    · rw [heq]; exact ticket_setTicket h ..
  other v p n hn := by
    obtain ⟨heq, -⟩ | heq := slotStep_cases u v p
    · rw [heq]
    · rw [heq]; exact ticket_setTicket_ne hn _

theorem slotTickets_only (v : State) (u : Use) (slots : List (Option Nat)) : TicketsOnly v (slotTickets v u slots) := by
  cases h : u.backward with
  | true =>
    unfold slotTickets
    rw [h]
    rfl
  | false =>
    rw [slotTickets_forward h]
    refine List.foldlRecOn (motive := TicketsOnly v) _ _ rfl fun w hw p _ => ?_
    unfold TicketsOnly at hw ⊢
    obtain ⟨heq, -⟩ | heq := slotStep_cases u w p
    · rw [heq]; exact hw
    · rw [heq]; exact hw

/-- The tickets that COUNT writes depend on the dispatch engine alone. -/
theorem slotTickets_disp {s t : State} (h : s.disp = t.disp) (u : Use) (slots : List (Option Nat)) :
    (slotTickets s u slots).disp = (slotTickets t u slots).disp := by
  cases hb : u.backward with
  | true =>
    unfold slotTickets
    rw [hb]
    exact h
  | false =>
    rw [slotTickets_forward hb, slotTickets_forward hb]
    generalize indexed slots = l
    induction l generalizing s t with
    | nil => exact h
    | cons p l ih =>
      refine ih ?_
      unfold slotStep ticket setTicket
      rw [h]
      split
      · exact h
      · dsimp only
        split
        · rfl
        · exact h

/-- COUNT writes the slot of an assignment into its ticket (R197). -/
theorem slotTickets_slot {v : State} {u : Use} {slots : List (Option Nat)} (hw : TicketsWf v) (hb : u.backward = false)
    (hlen : slots.length ≤ ringSize) {i r : Nat} (hi : slots[i]? = some (some r))
    (hentry : (ticket v ((u.base + i) % ringSize)).bentry = u.slot) :
    (ticket (slotTickets v u slots) ((u.base + i) % ringSize)).slot = r := by
  have hturn := (reticks_slotStep u).foldl hw (ticketKeys_nodup hlen u.base) (mem_indexed_iff.mpr hi)
  have hslot : slotIn u (some r, i) (ticket v ((u.base + i) % ringSize)) =
      { ticket v ((u.base + i) % ringSize) with slot := r } := if_pos hentry
  rw [slotTickets_forward hb, hturn, hslot]

/-! ## The counts of the experts (R152) -/

theorem placedSlot_congr {s t : State} (h : t.plc = s.plc) (cx : Nat) : placedSlot t cx = placedSlot s cx := by
  unfold placedSlot pslot
  rw [h]

/-- For a context that is not placed the step counters are the watched counters alone (R368). -/
theorem CountsOnly.stepAdd {s t : State} {cx which e n : Nat} (h : CountsOnly s t) (hp : placedSlot s cx = none) :
    CountsOnly s (stepAdd t cx which e n) := by
  have hcount : CountsOnly s (Machine.xcntAdd t cx e which n) := h.xcntAdd
  have hplc : (Machine.xcntAdd t cx e which n).plc = s.plc := by have h' := congrArg State.plc hcount.1; exact h'
  unfold Machine.stepAdd
  dsimp only
  rw [placedSlot_congr hplc, hp]
  exact hcount

/-! ## The result of COUNT -/

section
variable {s v w : State} {c : Cmd} {u u1 : Use} {map : List RSlot} {pe m : Nat} {recs hist : List Nat} {slots : List (Option Nat)}

/-- The replica slots that COUNT gives its assignments. -/
def countedSlots (k : Ctx) (u : Use) (map : List RSlot) (m : Nat) (recs : List Nat) : List (Option Nat) :=
  assignSlots map m u.tbase (pbLayerSeed k) (pbE k) u.k recs

/-- The assignments that it does not count (R151). -/
def uncountedOf (slots : List (Option Nat)) : List Nat :=
  (indexed slots).filterMap (fun p => if p.1.isNone then some p.2 else none)

/-- A use once COUNT has counted it (R177). -/
def countedUse (k : Ctx) (c : Cmd) (u : Use) (map : List RSlot) (pe : Nat) (slots : List (Option Nat)) : Use :=
  { u with counted := true, map := map, pepoch := pe, uncounted := uncountedOf slots, lseed := pbLayerSeed k,
           experts := pbE k, area := opAddr c.a }

/-- Between `s` and `w` COUNT has written its histogram, its use and its tickets, and has otherwise counted. -/
structure CountLeaves (s w : State) (c : Cmd) (u u1 : Use) (hist : List Nat) (slots : List (Option Nat)) : Prop where
  front : w.front = s.front
  mem : w.mem = histogramMem (ctx s c.ctx) c hist s.mem
  disp : w.disp = (slotTickets (putUse s u1) u slots).disp

theorem putUse_disp {s t : State} (h : s.disp = t.disp) (u : Use) : (putUse s u).disp = (putUse t u).disp := by
  unfold putUse
  rw [h]

theorem CountLeaves.of_counts (hc : CountsAndLogs s v) (h : CountLeaves v w c u u1 hist slots) :
    CountLeaves s w c u u1 hist slots where
  front := h.front.trans hc.front
  mem := by rw [h.mem, ctx, ctx, hc.ctxs, hc.mem]
  disp := h.disp.trans (slotTickets_disp (putUse_disp hc.disp u1) u slots)

/-- COUNT once its histogram stands in memory. -/
theorem countDone_eq (hslots : countedSlots (ctx v c.ctx) u map m recs = slots) (hhist : histogram u.t u.k map.length slots = hist)
    (hstop : (writeHistogram (ctx v c.ctx) c hist (ioStart v)).2.stop = none) :
    countDone c v u map pe m recs = doneWith ((indexed recs).foldl (fun t p =>
        if (uncountedOf slots).contains p.2 then t else stepAdd t c.ctx 0 (recExpert p.1) 1)
      (slotTickets (putUse (coreIo c.cores v (writeHistogram (ctx v c.ctx) c hist (ioStart v)).2)
        (countedUse (ctx v c.ctx) c u map pe slots)) u slots))
      0 ((uncountedOf slots).length % 2 ^ 24) (recs.length - (uncountedOf slots).length) u.epoch := by
  subst hslots hhist
  unfold countDone
  dsimp only
  split
  next io heq =>
    have hio : io = (writeHistogram (ctx v c.ctx) c (histogram u.t u.k map.length
        (countedSlots (ctx v c.ctx) u map m recs)) (ioStart v)).2 := congrArg Prod.snd heq.symm
    rw [hio, hstop]
    rfl

/-- The counts of COUNT, where its context is not placed (R152). -/
theorem countSteps (hp : placedSlot v c.ctx = none) (l : List (Nat × Nat)) (skip : List Nat) :
    CountsOnly v (l.foldl (fun t p => if skip.contains p.2 then t else stepAdd t c.ctx 0 (recExpert p.1) 1) v) :=
  CountsOnly.foldl _ _ (fun t p _ ht => by
    split
    · exact ht
    · exact ht.stepAdd hp) (CountsOnly.refl v)

/-- The result of COUNT, its area read (R151). -/
theorem countDone_leaves (hq : Quiet v) (hp : placedSlot v c.ctx = none)
    (hslots : countedSlots (ctx v c.ctx) u map m recs = slots) :
    ∃ w, countDone c v u map pe m recs =
        doneWith w 0 ((uncountedOf slots).length % 2 ^ 24) (recs.length - (uncountedOf slots).length) u.epoch ∧
      CountLeaves v w c u (countedUse (ctx v c.ctx) c u map pe slots) (histogram u.t u.k map.length slots) slots := by
  set hist := histogram u.t u.k map.length slots with hhist
  set u1 := countedUse (ctx v c.ctx) c u map pe slots with hu1
  have hwrite := writeHistogram_goesOn (io := ioStart v) hq rfl rfl (ctx v c.ctx) c hist
  have hclose := (ioClose_counts v (coreOf c.cores 0) (coreOf c.cores 0) _ hwrite.hops).andLogs
  rw [hwrite.mem] at hclose
  refine ⟨_, countDone_eq hslots hhist.symm hwrite.stop, ?_⟩
  rw [← hu1]
  set v1 := coreIo c.cores v (writeHistogram (ctx v c.ctx) c hist (ioStart v)).2
  have honly := slotTickets_only (putUse v1 u1) u slots
  have hplc : (slotTickets (putUse v1 u1) u slots).plc = v.plc :=
    (congrArg State.plc honly).trans (by have h' := congrArg State.plc hclose; exact h')
  have hcount := (countSteps ((placedSlot_congr hplc _).trans hp) (indexed recs) (uncountedOf slots)).andLogs
  exact {
    front := hcount.front.trans ((congrArg State.front honly).trans hclose.front)
    mem := hcount.mem.trans ((congrArg State.mem honly).trans hclose.mem)
    disp := hcount.disp.trans (slotTickets_disp (putUse_disp (s := v1) (t := v) hclose.disp u1) u slots) }

/-- COUNT of a context that is not placed reads the entries of its area, and counts them under the static map. -/
theorem countWork_static (hq : Quiet s) (hg : inCtxGroup s c.ctx = true) (hu : liveUse s c.ctx c.batch = some u)
    (hp : placedSlot s c.ctx = none) (hslots : countSlots s c u = true) :
    ∃ v, CountsOnly s v ∧ countWork c s =
      countDone c v u (staticMap (pbE (ctx s c.ctx)) (boxCount (grpBox s (pbGroup (ctx s c.ctx))))) 0
        (grp s (pbGroup (ctx s c.ctx))).midx (readRecords (opAddr c.a) u.t u.k (ioStart s)).1 := by
  obtain ⟨hread, -⟩ := readRecords_reads hq (opAddr c.a) u.t u.k (ioStart s) rfl rfl rfl
  have hclose := ioClose_counts s (coreOf c.cores 0) (coreOf c.cores 0) _ hread.hops
  rw [hread.mem] at hclose
  refine ⟨_, hclose, ?_⟩
  unfold countWork mapOf
  dsimp only
  rw [hg, hu, hp]
  dsimp only
  rw [hslots, Bool.not_true, if_neg Bool.false_ne_true, withSlots, if_pos rfl]
  split
  next recs io heq =>
    have hio : io = (readRecords (opAddr c.a) u.t u.k (ioStart s)).2 := congrArg Prod.snd heq.symm
    rw [hio, hread.stop, show recs = _ from congrArg Prod.fst heq.symm]
    rfl

/-- COUNT of a context that is not placed (R149 to R151). -/
theorem countWork_leaves (hq : Quiet s) (hg : inCtxGroup s c.ctx = true) (hu : liveUse s c.ctx c.batch = some u)
    (hp : placedSlot s c.ctx = none) (hready : countSlots s c u = true)
    (hmap : staticMap (pbE (ctx s c.ctx)) (boxCount (grpBox s (pbGroup (ctx s c.ctx)))) = map)
    (hslots : countedSlots (ctx s c.ctx) u map (grp s (pbGroup (ctx s c.ctx))).midx
      (readRecords (opAddr c.a) u.t u.k (ioStart s)).1 = slots) :
    ∃ w, countWork c s =
        doneWith w 0 ((uncountedOf slots).length % 2 ^ 24) (u.t * u.k - (uncountedOf slots).length) u.epoch ∧
      CountLeaves s w c u (countedUse (ctx s c.ctx) c u map 0 slots) (histogram u.t u.k map.length slots) slots := by
  obtain ⟨v, hcounts, hwork⟩ := countWork_static hq hg hu hp hready
  replace hcounts := hcounts.andLogs
  have hctx : ctx v c.ctx = ctx s c.ctx := by unfold ctx; rw [hcounts.ctxs]
  have hplaced : placedSlot v c.ctx = none :=
    (placedSlot_congr (by have h' := congrArg State.plc hcounts; exact h') _).trans hp
  have hrecs : (readRecords (opAddr c.a) u.t u.k (ioStart s)).1.length = u.t * u.k := by
    rw [(readRecords_reads hq _ _ _ (ioStart s) rfl rfl rfl).2, length_areaRecords]
  obtain ⟨w, hdone, hleaves⟩ := countDone_leaves (pe := 0) (slots := slots) (by rw [Quiet, hcounts.mem]; exact hq) hplaced
    (by rw [hctx]; exact hslots)
  rw [hctx] at hleaves
  rw [hrecs] at hdone
  exact ⟨w, by rw [hwork, hmap, hdone], hleaves.of_counts hcounts⟩

section
variable (h : CountLeaves s w c u u1 hist slots)
include h

theorem CountLeaves.useAt (hslot : u1.slot = u.slot) (hu : useAt s u.slot = some u) : Machine.useAt w u.slot = some u1 := by
  rw [useAt_congr h.disp, (slotTickets_only (putUse s u1) u slots).useAt, ← hslot]
  exact useAt_putUse (hslot ▸ hu)

theorem CountLeaves.memOnly : MemOnly (areaAt (opAddr c.b) (4 * hist.length)) s w := by
  unfold MemOnly
  rw [h.mem]
  exact histogramMem_only ..

theorem CountLeaves.entry (hw : Memory.wf s.mem = true) (hgood : pbBad (ctx s c.ctx) = false) (hlen : 4 * hist.length ≤ 2 ^ 42)
    {i : Nat} (hi : i < hist.length) : rdNum w.mem (opAddr c.b + 4 * i) 4 = nth hist i % 2 ^ 32 := by
  rw [h.mem, histogramMem, hgood, if_neg Bool.false_ne_true]
  exact rdNum_wordBytes hw hlen hi

theorem CountLeaves.slot (hw : TicketsWf s) (hb : u.backward = false) (hlen : slots.length ≤ ringSize) {i r : Nat}
    (hi : slots[i]? = some (some r)) (hentry : (ticket s ((u.base + i) % ringSize)).bentry = u.slot) :
    (ticket w ((u.base + i) % ringSize)).slot = r := by
  unfold ticket
  rw [h.disp]
  exact slotTickets_slot (v := putUse s u1) hw hb hlen hi hentry

end

end

theorem length_staticMap (E P : Nat) : (staticMap E P).length = E := by simp [staticMap]

/-- Parameters in range leave the experts of a context at most 4096 (R127). -/
theorem pbE_le {k : Ctx} (h : pbBad k = false) : pbE k ≤ 4096 := by
  simp only [pbBad, Bool.or_eq_false_iff, decide_eq_false_iff_not] at h
  omega

/-- Settles O38: the use, the memory and the tickets of COUNT are those that `CountLeaves` names. -/
theorem counting : Obligations.Counting := by
  intro s c u hi hinv hq hg hu hlive hp hready k map slots bad
  have hrecs : (readRecords (opAddr c.a) u.t u.k (ioStart s)).1 = areaRecords s.mem (opAddr c.a) u.t u.k :=
    (readRecords_reads hq _ _ _ (ioStart s) rfl rfl rfl).2
  have hbad : (uncountedOf slots).length = bad := length_filterMap_indexed slots Option.isNone
  have hlength : slots.length = u.t * u.k := by rw [length_assignSlots, hrecs, length_areaRecords]
  obtain ⟨w, hdone, hleaves⟩ := countWork_leaves (s := begun s c) (c := stampIssue s c) (map := map) (slots := slots)
    hq hg hu hp hready rfl rfl
  rw [hbad] at hdone
  have hdisp : (settle (countWork (stampIssue s c) (begun s c)) c.q c.tag).disp = w.disp := by rw [hdone]; exact report_disp ..
  have hmem : (settle (countWork (stampIssue s c) (begun s c)) c.q c.tag).mem = w.mem := by rw [hdone]; exact report_mem ..
  have hmemOnly := hleaves.memOnly
  have hentry := hleaves.entry hinv.1
  rw [length_histogram] at hmemOnly hentry
  refine ⟨_, _, next_working hi.working (issueRow_go hi hi.isOp _), ?_, (useAt_congr hdisp _).trans (hleaves.useAt rfl hlive.1),
    rfl, rfl, hbad, rfl, rfl, rfl, ?_, ?_, ?_, ?_⟩
  · rw [hdone]
    exact reports_of_done hi hleaves.front ..
  · unfold MemOnly
    rw [hmem]
    exact hmemOnly
  · intro hgood hk16 i hlt
    have hE : map.length ≤ 4096 := (length_staticMap ..).trans_le (pbE_le hgood)
    have hprod : u.k * map.length ≤ 16 * 4096 := Nat.mul_le_mul hk16 hE
    rw [hmem]
    exact hentry hgood (by omega) hlt
  · intro hb hlen i r hr hticket
    unfold ticket
    rw [hdisp]
    exact hleaves.slot (hinv.canon hi.working.1.2).tickets hb (by rwa [hlength]) hr hticket
  · intro hlt
    refine congrArg List.length (assignSlots_static _ _ _ _ fun n hn => ?_)
    rw [hrecs] at hn
    obtain ⟨i, j, hi, hj, rfl⟩ := mem_areaRecords hn
    exact hlt i j hi hj

end Sys2Proof.Machine
end

section
/-! PLAN on a member that owns no replica: fates, positions, marks and counters (R154, R155, R160, R162, R177), and the
double-bit error of a ticket record (R225). -/

namespace Sys2Proof.Machine

/-! ## A use that ends with its instructions (R179) -/

section
variable {s : State} {c x : Cmd} {u w : Use} {l : List Cmd} {st dt e : Nat}

theorem Finished.stopCmd (h : Finished s c st dt) (y : Cmd) : Finished (stopCmd st dt e s y) c st dt := by
  obtain ⟨x, r, hx, hst, hrest⟩ := h
  exact ⟨x, r, findCmd_report_finished hx (by simp [Cmd.isFinished, hst]) _, hst, hrest⟩

/-- A command among those that an end stops is finished with its status. -/
theorem finished_stopCmds (hc : c ∈ l) (hx : findCmd s c.q c.tag = some x) (hopen : x.isFinished = false) :
    Finished (l.foldl (stopCmd st dt e) s) c st dt := by
  induction l generalizing s with
  | nil => cases hc
  | cons y l ih =>
    rw [List.foldl_cons]
    by_cases hkey : (c.q, c.tag) = (y.q, y.tag)
    · obtain ⟨hq, ht⟩ := Prod.mk.inj hkey
      have hnow : Finished (stopCmd st dt e s y) c st dt := by
        rw [hq, ht] at hx
        exact ⟨_, _, by rw [hq, ht]; exact findCmd_report hx hopen _, rfl, rfl, rfl⟩
      exact List.foldlRecOn (motive := fun v => Finished v c st dt) l _ hnow fun v hv z _ => hv.stopCmd z
    · have hcl : c ∈ l := (List.mem_cons.mp hc).resolve_left (by rintro rfl; exact hkey rfl)
      exact ih hcl ((findCmd_report_other hkey _).trans hx)

theorem disp_stopCmds (s : State) : (l.foldl (stopCmd st dt e) s).disp = s.disp :=
  List.foldlRecOn (motive := fun v : State => v.disp = s.disp) l _ rfl fun _ hv _ _ => (report_disp ..).trans hv

/-- The end of a use leaves it ended. -/
theorem useAt_endUse (h : useAt s u.slot = some w) (way : EndWay) (but : Option (Nat × Nat)) :
    ∃ u1, useAt (endUse s u way but) u.slot = some u1 ∧ u1.ended = some way :=
  ⟨_, (useAt_congr (disp_stopCmds _) _).trans (useAt_putUse (u := { u with ended := some way, drafts := [], loose := _ }) h), rfl⟩

/-- The end of a use finishes its executing instructions. -/
theorem finished_endUse (hx : findCmd s x.q x.tag = some x) (huse : ofUse u x = true) (hopen : x.isFinished = false)
    (way : EndWay) : Finished (endUse s u way none) x (endStatus way).1 (endStatus way).2 :=
  finished_stopCmds (List.mem_filter.mpr ⟨mem_inflight_of_findCmd hx, by simp [huse]⟩) hx hopen

theorem settle_doneWith_finished {q tag sa da r ep : Nat} {y : Cmd} (h : findCmd s q tag = some y) (hy : y.isFinished = true) :
    settle (doneWith s sa da r ep) q tag = s := report_finished h hy _

end

/-! ## PLAN at its issue -/

section
variable {s v w : State} {c : Cmd} {u : Use} {ecc : Ecc}

/-- PLAN of a counted use that runs forward and has sent no rows, with its slots. -/
theorem planWork_begins (hr : c.resumes = false) (hg : inCtxGroup s c.ctx = true) (hu : liveUse s c.ctx c.batch = some u)
    (hcounted : u.counted = true) (hb : u.backward = false) (hsent : u.sendIssued = false) (hslots : planSlots s c u = true) :
    planWork ecc c s = planBegin ecc c s u := by
  rw [planWork_use hr hg hu, hcounted, hb, hsent, hslots]
  rfl

/-- A double-bit error in a ticket record of its use ends PLAN with the use (R225). -/
theorem plan_ticketError (hi : Issues s c 0x19) (hat : useAt s u.slot = some u) (hu : liveUse s c.ctx c.batch = some u)
    (hwork : planWork (.double true) (stampIssue s c) (begun s c) = planBegin (.double true) (stampIssue s c) (begun s c) u) :
    ∃ t u1, exec (.plan c.q c.tag (.double true)) s = .next t ∧ Finished t c 0x30 0x12 ∧ useAt t u.slot = some u1 ∧
      u1.ended = some .ticketError := by
  obtain ⟨hctx, hbatch, -⟩ := liveUse_key hu
  have hlogs := (logsOnly_raiseFault (begun s c) 0x0205 2 4 u.ctx 0x12 0).andCounts
  have hx := findCmd_begun hi.found
  have hfault : findCmd (raiseFault (begun s c) 0x0205 2 4 u.ctx 0x12 0) c.q c.tag =
      some { stampIssue s c with st := .exec } := by
    rw [findCmd, hlogs.front]
    exact hx
  have huse : ofUse u { stampIssue s c with st := .exec } = true := by
    simp [ofUse, hctx, hbatch, hi.opc_eq, useOps, Cmd.inUnit]
  obtain ⟨y, r, hy, hst, hrest⟩ := finished_endUse hfault huse rfl .ticketError
  obtain ⟨u1, hu1, hended⟩ := useAt_endUse (w := u) ((useAt_congr hlogs.disp _).trans hat) .ticketError none
  refine ⟨_, u1, next_working hi.working (issueRow_go hi hi.isOp _), ?_⟩
  rw [hwork]
  have hsettled : settle (planBegin (.double true) (stampIssue s c) (begun s c) u) c.q c.tag = ticketUe (begun s c) u :=
    settle_doneWith_finished hy (by simp [Cmd.isFinished, hst])
  rw [hsettled]
  exact ⟨⟨y, r, hy, hst, hrest⟩, hu1, hended⟩

end

/-! ## What PLAN changes beside its use, its tickets and memory -/

/-- Between `s` and `t` nothing has changed but registers, counts, the management subsystem, contexts and placement slots. -/
def Tallies (s t : State) : Prop :=
  { t with csr := s.csr, pmc := s.pmc, mgt := s.mgt, ctxs := s.ctxs, plc := s.plc, draws := s.draws } = s

section
variable {s t u : State}

theorem Tallies.trans (h : Tallies s t) (k : Tallies t u) : Tallies s u := by
  unfold Tallies at *
  rw [← h, ← k]

theorem CountsAndLogs.tallies (h : CountsAndLogs s t) : Tallies s t := by
  have h' := congrArg (fun v : State => { v with ctxs := s.ctxs, plc := s.plc, draws := s.draws }) h
  exact h'

theorem Tallies.front (h : Tallies s t) : t.front = s.front := by have h' := congrArg State.front h; exact h'
theorem Tallies.mem (h : Tallies s t) : t.mem = s.mem := by have h' := congrArg State.mem h; exact h'
theorem Tallies.disp (h : Tallies s t) : t.disp = s.disp := by have h' := congrArg State.disp h; exact h'

theorem Tallies.setMem (h : Tallies s t) (m : HostMem) : Tallies (setMem s m) (setMem t m) :=
  congrArg (fun u : State => Machine.setMem u m) h

theorem tallies_countF (s : State) (o l w n : Nat) : Tallies s (countF s o l w n) := by
  unfold countF
  split
  · rfl
  · rfl

theorem tallies_ctxCount (s : State) (c n k : Nat) : Tallies s (ctxCount s c n k) := by
  unfold ctxCount
  split
  · rfl
  · rfl

theorem tallies_stepAdd (s : State) (cx which e n : Nat) : Tallies s (stepAdd s cx which e n) := by
  have hcount : Tallies s (xcntAdd s cx e which n) := ((CountsOnly.refl s).xcntAdd).andLogs.tallies
  unfold stepAdd
  dsimp only
  split
  · exact hcount
  · exact hcount.trans rfl

theorem tallies_fateCounts (s : State) (c : Cmd) (map : List RSlot) (asg : List Asg) (fate : List (Option Nat)) :
    Tallies s (fateCounts s c map asg fate) := by
  refine List.foldlRecOn (motive := Tallies s) _ _ rfl fun v hv p _ => ?_
  split
  · exact hv
  · exact hv.trans (tallies_stepAdd ..)

theorem csrGet_ctxCount (s : State) (c n k o : Nat) : csrGet (ctxCount s c n k) o = csrGet s o := by
  unfold ctxCount
  split
  · rfl
  · rfl

end

/-! ## The end of PLAN -/

section
variable {v w : State} {c : Cmd} {u : Use} {x : PlanIn} {lowered : Bool} {asg : List Asg} {fate : List (Option Nat)} {p : Plan}

/-- A use once PLAN has entered its plan (R177). -/
def plannedUse (u : Use) (c : Cmd) (fate : List (Option Nat)) (p : Plan) : Use :=
  { u with plan := some p, drafts := otherDrafts u c, planFail := none, kept := fate.map Option.isSome }

/-- The counts that a PLAN has made when it shows its capacity (R152, R162). -/
def planCounted (v : State) (c : Cmd) (u : Use) (x : PlanIn) (asg : List Asg) (fate : List (Option Nat)) (p : Plan) : State :=
  let kept := (fate.filter Option.isSome).length
  let s1 := fateCounts (planTickets (putUse v (plannedUse u c fate p)) (plannedUse u c fate p) fate) c p.map asg fate
  let s2 := countC (countC s1 0x60100 (fate.length - kept)) 0x60108 kept
  if decide (x.low 0 ≠ u.tbase) then countC s2 0x60110 1 else s2

theorem planCounted_tallies (v : State) (c : Cmd) (u : Use) (x : PlanIn) (asg : List Asg) (fate : List (Option Nat)) (p : Plan) :
    Tallies (planTickets (putUse v (plannedUse u c fate p)) (plannedUse u c fate p) fate) (planCounted v c u x asg fate p) := by
  have hcounts := ((tallies_fateCounts (planTickets (putUse v (plannedUse u c fate p)) (plannedUse u c fate p) fate) c p.map asg
    fate).trans (tallies_countF _ 0x60100 0 48 (fate.length - (fate.filter Option.isSome).length))).trans
      (tallies_countF _ 0x60108 0 48 (fate.filter Option.isSome).length)
  unfold planCounted
  dsimp only
  split
  · exact hcounts.trans (tallies_countF _ 0x60110 0 48 1)
  · exact hcounts

theorem Canon.planCounted (h : Canon v) : Canon (planCounted v c u x asg fate p) := by
  have hcounts := (h.putUse (u := plannedUse u c fate p)).planTickets (u := plannedUse u c fate p) (fate := fate)
  have hcounted := (hcounts.fateCounts (c := c) (map := p.map) (asg := asg) (fate := fate)).countC (off := 0x60100)
    (n := fate.length - (fate.filter Option.isSome).length)
  have hkept := hcounted.countC (off := 0x60108) (n := (fate.filter Option.isSome).length)
  exact Canon.ite hkept.countC hkept

/-! ## The marks of PLAN (Table 08.2) -/

/-- Assignment `p` of a use with fates `fate` as PLAN marks its ticket. -/
def markOf (u : Use) (fate : List (Option Nat)) (p : Option Nat × Nat) (tk : Ticket) : Ticket :=
  let lead := p.2 % max 1 u.k == 0
  let tok := (fate.drop (p.2 / max 1 u.k * u.k)).take u.k
  { tk with
    bentry := u.slot, lrow := p.2 / max 1 u.k, choice := p.2 % max 1 u.k
    st := if p.1.isSome then 2 else if lead then 3 else 0
    pend := if lead then (tok.filter Option.isSome).length else 0 }

theorem planTickets_eq (v : State) (u : Use) (fate : List (Option Nat)) :
    planTickets v u fate = (indexed fate).foldl
      (fun v p => setTicket v ((u.base + p.2) % ringSize) (markOf u fate p (ticket v ((u.base + p.2) % ringSize)))) v := rfl

theorem planTickets_only (v : State) (u : Use) (fate : List (Option Nat)) : TicketsOnly v (planTickets v u fate) :=
  List.foldlRecOn (motive := TicketsOnly v) _ _ rfl fun _ hw _ _ => hw

/-- PLAN marks the ticket of an assignment by its fate (R160, R197). -/
theorem planTickets_st (hw : TicketsWf v) (hlen : fate.length ≤ ringSize) {i : Nat} {f : Option Nat} (hi : fate[i]? = some f) :
    (ticket (planTickets v u fate) ((u.base + i) % ringSize)).st =
      if f.isSome then 2 else if i % max 1 u.k = 0 then 3 else 0 := by
  have hturn := (reticks_setTicket (fun p => (u.base + p.2) % ringSize) (markOf u fate)).foldl hw
    (ticketKeys_nodup hlen u.base) (mem_indexed_iff.mpr hi)
  rw [planTickets_eq, hturn]
  simp [markOf]

/-- PLAN has left its result: its plan in the use, its marks in the tickets, and its capacity in YD_PLANLAST. -/
structure PlanLeaves (v w : State) (c : Cmd) (u : Use) (x : PlanIn) (fate : List (Option Nat)) (p : Plan) : Prop where
  front : w.front = v.front
  mem : w.mem = v.mem
  disp : w.disp = (planTickets (putUse v (plannedUse u c fate p)) (plannedUse u c fate p) fate).disp
  shown : csrGet w 0x60118 = x.tot 0 % 2 ^ 32 * 2 ^ 32 + p.cap % 2 ^ 32

/-- The end of a PLAN whose use has no plan yet (R162). -/
theorem planDone_leaves (hcan : Canon v) (hplan : u.plan = none) :
    let drops := fate.length - (fate.filter Option.isSome).length
    ∃ w, planDone c v u x lowered asg fate p = doneWith w (if drops = 0 then 0 else 1)
        (p.shapes.length % 2 ^ 16 + b2n (decide (x.low 0 ≠ u.tbase)) * 2 ^ 16 + b2n lowered * 2 ^ 17) drops u.epoch ∧
      PlanLeaves v w c u x fate p := by
  intro drops
  set kept := (fate.filter Option.isSome).length
  let s5 := planCounted v c u x asg fate p
  let s6 := csrPut s5 0x60118 (x.tot 0 % 2 ^ 32 * 2 ^ 32 + p.cap % 2 ^ 32)
  let s7 := ctxCount (ctxCount s6 c.ctx 1 kept) c.ctx 2 drops
  have hevents : CountsOnly s7 (pmcEvent (pmcEvent s7 0x029 none (some c.ctx) (some c.cls) kept) 0x02A none (some c.ctx)
    (some c.cls) drops) := ((CountsOnly.refl s7).pmcEvent).pmcEvent
  have htallies := ((((planCounted_tallies v c u x asg fate p).trans (t := s5) (u := s6) rfl).trans
    (tallies_ctxCount s6 c.ctx 1 kept)).trans (tallies_ctxCount _ c.ctx 2 drops)).trans hevents.andLogs.tallies
  have honly := planTickets_only (putUse v (plannedUse u c fate p)) (plannedUse u c fate p) fate
  refine ⟨_, ?_, htallies.front.trans ?_, htallies.mem.trans ?_,
    htallies.disp, ?_⟩
  · unfold planDone
    rw [hplan]
    rfl
  · have h' := congrArg State.front honly
    exact h'
  · have h' := congrArg State.mem honly
    exact h'
  · rw [hevents.2.1 _ (by decide), csrGet_ctxCount, csrGet_ctxCount]
    exact csrGet_csrPut hcan.planCounted.csr

end

/-! ## PLAN from its draft -/

section
variable {v : State} {c : Cmd} {u : Use} {x : PlanIn} {fate : List (Option Nat)} {p0 : Plan}

/-- Memory `m` with the position area of PLAN (R160). -/
def positionMem (c : Cmd) (fate : List (Option Nat)) (m : HostMem) : HostMem :=
  if absent c.c then m else wrBytes m (opAddr c.c) (wordBytes (posWords fate))

theorem wf_positionMem {m : HostMem} (h : Memory.wf m = true) : Memory.wf (positionMem c fate m) = true := by
  unfold positionMem
  split
  · exact h
  · exact wf_wrBytes _ _ h

/-- Without shape records PLAN writes its position area alone. -/
theorem planWrites_goesOn (hq : v.mem.marks = []) (u : Use) (map : List RSlot) (C : Nat) :
    WentOn (ioStart v) (planWrites v c u map C fate [] (ioStart v)).2 (positionMem c fate v.mem) := by
  unfold positionMem
  have hrun : planWrites v c u map C fate [] (ioStart v) =
      (if absent c.c then pure () else ioWrite false (opAddr c.c) (bytesOf 1 (posWords fate)) : Mio Unit) (ioStart v) := rfl
  rw [hrun]
  split
  · exact ⟨rfl, rfl, rfl, rfl⟩
  · exact ioWrite_goesOn hq rfl rfl ..

/-- The plan of a PLAN that takes no buffer. -/
def barePlan (c : Cmd) (p0 : Plan) (C base : Nat) (fate : List (Option Nat)) : Plan :=
  { p0 with
    cap := C, pos := if absent c.c then none else some (opAddr c.c), posw := if absent c.c then [] else posWords fate,
    shapes := [], origBase := base, origLen := 0 }

/-- PLAN on a member that owns no replica writes its positions and is done (R158, R160). -/
theorem planGo_noReplica (hq : Quiet v) (hcan : Canon v) (hown : ownSlots p0.map p0.midx = []) :
    let c0 := capOf x u.k p0.map.length v.draws
    let fate := fates (capMin x c0) (positions x u.k (asgOf u p0.slots))
    ∃ w, Tallies (setMem v (positionMem c fate v.mem)) w ∧ Canon w ∧
      planGo c v u p0 x [] = planDone c w u x (decide (x.cmax ≠ 0 ∧ x.cmax < c0)) (asgOf u p0.slots) fate
        (barePlan c p0 (capMin x c0) v.disp.nextOrig fate) := by
  intro c0 fate
  let s0 := if x.cf ≠ 0 ∧ p0.map.length = 0 then { v with draws := v.draws + 1 } else v
  have hs0 : Tallies v s0 ∧ Canon s0 := by
    show Tallies v (if _ then _ else _) ∧ Canon (if _ then _ else _)
    split
    · exact ⟨rfl, hcan.of_tables⟩
    · exact ⟨rfl, hcan⟩
  obtain ⟨hs0, hcan0⟩ := hs0
  have hwrite := planWrites_goesOn (v := s0) (c := c) (fate := fate) (by rw [hs0.mem]; exact hq) u p0.map (capMin x c0)
  have hclose := (ioClose_counts s0 (0x10 + c.cls) (0x14 + c.cls) _ hwrite.hops).andLogs.tallies
  rw [hwrite.mem, hs0.mem] at hclose
  have hwf : Memory.wf (planWrites s0 c u p0.map (capMin x c0) fate [] (ioStart s0)).2.mem = true := by
    rw [hwrite.mem]
    exact wf_positionMem hcan0.mem
  refine ⟨_, (hs0.setMem _).trans hclose, hcan0.ioClose hwf, ?_⟩
  unfold planGo
  dsimp only
  rw [hown]
  have hnone : takeOrig s0 (sumNat []) = some (s0.disp.nextOrig, s0) := rfl
  simp only [List.map_nil, List.filter_nil, List.length_nil, List.drop_nil, takeBufs, placeBufs]
  rw [hnone]
  dsimp only
  split
  next io heq =>
    have hio : io = (planWrites s0 c u p0.map (capMin x c0) fate [] (ioStart s0)).2 := congrArg Prod.snd heq.symm
    rw [hio, hwrite.stop]
    rw [hs0.disp]
    rfl

end

/-! ## PLAN at its issue, from what it samples -/

section
variable {s v : State} {c : Cmd} {u : Use} {ecc : Ecc}

/-- What PLAN samples at its issue (R154, R409). -/
def planInputs (s : State) (c : Cmd) (u : Use) : PlanIn :=
  let n := 16 + u.map.length * u.k
  { cf := pbCapFactor (ctx s c.ctx), cmax := pbCapMax (ctx s c.ctx),
    words := codesOf 8 (rdBytes s.mem (opAddr c.a) (8 * n)) 0 n }

/-- The use with the draft of PLAN `c`. -/
def draftedUse (s : State) (c : Cmd) (u : Use) : Use :=
  { u with drafts := otherDrafts u c ++ [(c.q, c.tag, planDraft c s u)] }

/-- PLAN whose scan is read goes on from its draft. -/
theorem planStart_reads (hq : Quiet s) (hcan : Canon s) : ∃ v, CountsAndLogs s v ∧ Canon v ∧
    planStart c s u = planGo c (putUse v (draftedUse s c u)) (draftedUse s c u) (planDraft c s u) (planInputs s c u) [] := by
  obtain ⟨hread, hval⟩ := ioRead_goesOn (io := ioStart s) hq rfl rfl (opAddr c.a) (8 * (16 + u.map.length * u.k))
  have hclose := (ioClose_counts s (0x10 + c.cls) (0x14 + c.cls) _ hread.hops).andLogs
  rw [hread.mem] at hclose
  refine ⟨_, hclose, hcan.ioClose (by rw [hread.mem]; exact hcan.mem), ?_⟩
  unfold planStart
  dsimp only
  split
  next raw io heq =>
    have hio : io = (ioRead false (opAddr c.a) (8 * (16 + u.map.length * u.k)) (ioStart s)).2 := congrArg Prod.snd heq.symm
    have hraw : raw = rdBytes s.mem (opAddr c.a) (8 * (16 + u.map.length * u.k)) := (congrArg Prod.fst heq.symm).trans hval
    rw [hio, hread.stop, hraw]
    rfl

/-- A ticket record without a double-bit error leaves at most counts. -/
theorem planEcc_counts (h : ∀ r, ecc ≠ .double r) (s : State) (u : Use) : CountsAndLogs s (planEcc ecc s u) := by
  cases ecc with
  | none => rfl
  | corrected => exact ((CountsOnly.refl s).countC (o := 0x80200) (n := 1) (by decide)).andLogs.trans rfl
  | double r => exact absurd rfl (h r)

theorem planBegin_starts (h : ∀ r, ecc ≠ .double r) : planBegin ecc c s u = planStart c (planEcc ecc s u) u := by
  cases ecc with
  | none => rfl
  | corrected => rfl
  | double r => exact absurd rfl (h r)

end

/-! ## The state that PLAN leaves -/

section
variable {s v w : State} {c : Cmd} {u u1 : Use} {x : PlanIn} {fate : List (Option Nat)} {p : Plan}

/-- The capacity before CAP_MAX that PLAN computes (R154). -/
def planCap (s : State) (c : Cmd) (u : Use) : Nat := capOf (planInputs s c u) u.k u.map.length s.draws

/-- The fates that PLAN gives the assignments of its use (R155). -/
def planFates (s : State) (c : Cmd) (u : Use) : List (Option Nat) :=
  fates (capMin (planInputs s c u) (planCap s c u)) (positions (planInputs s c u) u.k (asgOf u (slotsOf s u)))

/-- The assignments that PLAN drops (R162). -/
def planDrops (s : State) (c : Cmd) (u : Use) : Nat := (planFates s c u).length - ((planFates s c u).filter Option.isSome).length

/-- DETAIL of a PLAN that writes no shape record (R162). -/
def planDetail (s : State) (c : Cmd) (u : Use) : Nat :=
  b2n (decide ((planInputs s c u).low 0 ≠ u.tbase)) * 2 ^ 16 +
    b2n (decide ((planInputs s c u).cmax ≠ 0 ∧ (planInputs s c u).cmax < planCap s c u)) * 2 ^ 17

@[simp] theorem length_planFates (s : State) (c : Cmd) (u : Use) : (planFates s c u).length = u.t * u.k := by
  simp [planFates, fates, positions, asgOf, slotsOf, length_indexed]

theorem PlanLeaves.useAt (h : PlanLeaves v w c u x fate p) (hu : useAt v u.slot = some u1) :
    Machine.useAt w u.slot = some (plannedUse u c fate p) := by
  rw [useAt_congr h.disp, (planTickets_only ..).useAt]
  exact useAt_putUse (u := plannedUse u c fate p) hu

theorem PlanLeaves.mark (h : PlanLeaves v w c u x fate p) (hw : TicketsWf v) (hlen : fate.length ≤ ringSize) {i : Nat}
    (hi : i < fate.length) : (ticket w ((u.base + i) % ringSize)).st =
      if (fate.map Option.isSome).getD i false then 2 else if i % max 1 u.k = 0 then 3 else 0 := by
  have hst := planTickets_st (v := putUse v (plannedUse u c fate p)) (u := plannedUse u c fate p) hw hlen
    (List.getElem?_eq_getElem hi)
  have hkept : (fate.map Option.isSome).getD i false = fate[i].isSome := by simp [List.getD_eq_getElem?_getD, hi]
  rw [hkept]
  unfold ticket at hst ⊢
  rw [h.disp]
  exact hst

/-- What PLAN leaves, from the state that it issued in: its use with its plan, its marks, its position area, and its capacity
in YD_PLANLAST. -/
structure Planned (s w : State) (c : Cmd) (u u1 : Use) (p : Plan) : Prop where
  front : w.front = s.front
  mem : w.mem = positionMem c (planFates s c u) s.mem
  use : Machine.useAt w u.slot = some u1
  plan : u1.plan = some p
  kept : u1.kept = (planFates s c u).map Option.isSome
  cap : p.cap = capMin (planInputs s c u) (planCap s c u)
  shapes : p.shapes = []
  scan : p.scan = opAddr c.a
  map : p.map = u.map
  slots : p.slots = slotsOf s u
  pos : p.pos = if absent c.c then none else some (opAddr c.c)
  mark : u.t * u.k ≤ ringSize → ∀ i, i < u.t * u.k → (ticket w ((u.base + i) % ringSize)).st =
    if ((planFates s c u).map Option.isSome).getD i false then 2 else if i % max 1 u.k = 0 then 3 else 0
  shown : csrGet w 0x60118 = (planInputs s c u).tot 0 % 2 ^ 32 * 2 ^ 32 + p.cap % 2 ^ 32

/-- PLAN on a member that owns no replica (R154, R155, R160, R162). -/
theorem planStart_planned (hq : Quiet s) (hcan : Canon s) (hat : useAt s u.slot = some u) (hplan : u.plan = none)
    (hown : ownSlots u.map (grp s (pbGroup (ctx s c.ctx))).midx = []) :
    ∃ w u1 p, planStart c s u = doneWith w (if planDrops s c u = 0 then 0 else 1) (planDetail s c u) (planDrops s c u) u.epoch ∧
      Planned s w c u u1 p := by
  obtain ⟨v, hv, hvcan, hstart⟩ := planStart_reads (c := c) (u := u) hq hcan
  have hvq : Quiet v := by rw [Quiet, hv.mem]; exact hq
  have hdraws : v.draws = s.draws := by have h' := congrArg State.draws hv; exact h'
  obtain ⟨v2, hv2, hcan2, hgo⟩ := planGo_noReplica (v := putUse v (draftedUse s c u)) (c := c) (u := draftedUse s c u)
    (x := planInputs s c u) (p0 := planDraft c s u) hvq hvcan.putUse hown
  have hcap : capOf (planInputs s c u) (draftedUse s c u).k (planDraft c s u).map.length (putUse v (draftedUse s c u)).draws =
      planCap s c u := congrArg (capOf (planInputs s c u) u.k u.map.length) hdraws
  rw [hcap] at hv2 hgo
  obtain ⟨w, hdone, hleaves⟩ := planDone_leaves (c := c) (u := draftedUse s c u) (x := planInputs s c u)
    (lowered := decide ((planInputs s c u).cmax ≠ 0 ∧ (planInputs s c u).cmax < planCap s c u))
    (asg := asgOf (draftedUse s c u) (planDraft c s u).slots) (fate := planFates s c u)
    (p := barePlan c (planDraft c s u) (capMin (planInputs s c u) (planCap s c u)) v.disp.nextOrig (planFates s c u)) hcan2 hplan
  have hdrafted : useAt v2 u.slot = some (draftedUse s c u) := by
    rw [useAt_congr hv2.disp]
    exact useAt_putUse (u := draftedUse s c u) ((useAt_congr hv.disp _).trans hat)
  refine ⟨w, _, _, ?_, {
    front := hleaves.front.trans (hv2.front.trans hv.front)
    mem := hleaves.mem.trans (hv2.mem.trans (congrArg (positionMem c (planFates s c u)) hv.mem))
    use := hleaves.useAt hdrafted
    plan := rfl, kept := rfl, cap := rfl, shapes := rfl, scan := rfl, map := rfl, slots := rfl, pos := rfl
    mark := fun hlen i hi => hleaves.mark hcan2.tickets (by rwa [length_planFates]) (by rwa [length_planFates])
    shown := hleaves.shown }⟩
  have hdetail (A B : Nat) : 0 % 2 ^ 16 + A + B = A + B := by omega
  exact hstart.trans (hgo.trans (hdone.trans (congrArg (fun d => doneWith w _ d _ _) (hdetail _ _))))

section
variable (h : CountsAndLogs s v)
include h

theorem slotsOf_counts (u : Use) : slotsOf v u = slotsOf s u := by unfold slotsOf ticket; rw [h.disp]

theorem planInputs_counts (c : Cmd) (u : Use) : planInputs v c u = planInputs s c u := by
  unfold planInputs ctx
  rw [h.ctxs, h.mem]

theorem planCap_counts (c : Cmd) (u : Use) : planCap v c u = planCap s c u := by
  have hdraws : v.draws = s.draws := by have h' := congrArg State.draws h; exact h'
  rw [planCap, planCap, planInputs_counts h, hdraws]

theorem planFates_counts (c : Cmd) (u : Use) : planFates v c u = planFates s c u := by
  rw [planFates, planFates, planInputs_counts h, planCap_counts h, slotsOf_counts h]

theorem Planned.of_counts (hp : Planned v w c u u1 p) : Planned s w c u u1 p := by
  obtain ⟨hfront, hmem, huse, hplan, hkept, hcap, hshapes, hscan, hmap, hslots, hpos, hmark, hshown⟩ := hp
  rw [planFates_counts h] at hmem hkept hmark
  rw [planInputs_counts h, planCap_counts h] at hcap
  rw [planInputs_counts h] at hshown
  rw [h.mem] at hmem
  rw [slotsOf_counts h] at hslots
  exact ⟨hfront.trans h.front, hmem, huse, hplan, hkept, hcap, hshapes, hscan, hmap, hslots, hpos, hmark, hshown⟩

/-- PLAN on a member that owns no replica, after counts that leave what it samples (R225). -/
theorem planStart_counts (hq : Quiet s) (hcan : Canon v) (hat : useAt s u.slot = some u) (hplan : u.plan = none)
    (hown : ownSlots u.map (grp s (pbGroup (ctx s c.ctx))).midx = []) :
    ∃ w u1 p, planStart c v u = doneWith w (if planDrops s c u = 0 then 0 else 1) (planDetail s c u) (planDrops s c u) u.epoch ∧
      Planned s w c u u1 p := by
  have hgrp : grp v (pbGroup (ctx v c.ctx)) = grp s (pbGroup (ctx s c.ctx)) := by
    have hcol : v.col = s.col := by have h' := congrArg State.col h; exact h'
    unfold grp ctx
    rw [hcol, h.ctxs]
  obtain ⟨w, u1, p, hdone, hplanned⟩ := planStart_planned (s := v) (c := c) (by rw [Quiet, h.mem]; exact hq) hcan
    ((useAt_congr h.disp _).trans hat) hplan (by rw [hgrp]; exact hown)
  rw [planDetail, planDrops, planInputs_counts h, planCap_counts h, planFates_counts h] at hdone
  exact ⟨w, u1, p, hdone, hplanned.of_counts h⟩

end

/-- PLAN writes nothing but its position area (R160). -/
theorem Planned.memOnly (h : Planned s w c u u1 p) :
    MemOnly (fun a => c.c ≠ 0 ∧ areaAt (opAddr c.c) (4 * (u.t * u.k)) a) s w := by
  unfold MemOnly
  rw [h.mem, positionMem]
  split
  · exact ⟨rfl, fun _ _ => rfl⟩
  · next hc =>
    have hpresent : c.c ≠ 0 := by simpa [absent] using hc
    refine ⟨wrBytes_marks .., fun a ha => rdByte_wrBytes_ne fun i hi heq => ha ⟨hpresent, i, ?_, heq⟩⟩
    rwa [length_wordBytes, posWords, List.length_map, length_planFates] at hi

/-- The positions that PLAN writes (R160). -/
theorem Planned.position (h : Planned s w c u u1 p) (hw : Memory.wf s.mem = true) (hc : c.c ≠ 0) (hlen : u.t * u.k ≤ ringSize)
    {i : Nat} (hi : i < u.t * u.k) : rdNum w.mem (opAddr c.c + 4 * i) 4 = nth (posWords (planFates s c u)) i := by
  have hwords : (posWords (planFates s c u)).length = u.t * u.k := by rw [posWords, List.length_map, length_planFates]
  have hfits : nth (posWords (planFates s c u)) i < 2 ^ 32 := by
    rw [nth, posWords, List.getElem?_map]
    cases (planFates s c u)[i]? with
    | none => decide
    | some f => exact Nat.mod_lt _ (by decide)
  unfold ringSize at hlen
  rw [h.mem, positionMem, if_neg (by simpa [absent] using hc), rdNum_wordBytes hw (by omega) (by omega), Nat.mod_eq_of_lt hfits]

end

/-- Settles O39: the error of a ticket record ends the use with PLAN in it, and without one PLAN leaves what `Planned`
names. -/
theorem planning : Obligations.Planning := by
  intro s c u hi hinv hq hg hu hlive hcounted hb hsent hslots k n x c0 fate drops
  have hbegins (ecc : Ecc) : planWork ecc (stampIssue s c) (begun s c) = planBegin ecc (stampIssue s c) (begun s c) u :=
    planWork_begins hi.resumes hg hu hcounted hb hsent hslots
  refine ⟨plan_ticketError hi hlive.1 hu (hbegins _), fun ecc hecc hplan hown => ?_⟩
  have hcan : Canon (begun s c) := (hinv.canon hi.working.1.2).setCmd
  obtain ⟨w, u1, p, hstart, hplanned⟩ := planStart_counts (c := stampIssue s c) (planEcc_counts hecc (begun s c) u)
    hq hcan.planEcc hlive.1 hplan hown
  have hdone := (hbegins ecc).trans ((planBegin_starts hecc).trans hstart)
  set z := settle (planWork ecc (stampIssue s c) (begun s c)) c.q c.tag with hz
  have hframe : { z with front := w.front } = w := by rw [hz, hdone]; exact settle_doneWith_frame ..
  have hdisp : z.disp = w.disp := by rw [hz, hdone]; exact report_disp ..
  have hmem : z.mem = w.mem := by rw [hz, hdone]; exact report_mem ..
  have hcsr : z.csr = w.csr := by have h' := congrArg State.csr hframe; exact h'
  refine ⟨_, u1, p, next_working hi.working (issueRow_go hi hi.isOp _), ?_, (useAt_congr hdisp _).trans hplanned.use,
    hplanned.plan, hplanned.cap, hplanned.shapes, hplanned.scan, hplanned.map, hplanned.slots, ?_, hplanned.kept, ?_, ?_, ?_⟩
  · rw [hdone]
    exact reports_of_done hi hplanned.front ..
  · have hpos := hplanned.pos
    simpa [absent] using hpos
  · unfold csrGet
    rw [hcsr]
    have hshown := hplanned.shown
    rwa [hplanned.cap] at hshown
  · unfold MemOnly
    rw [hmem]
    exact hplanned.memOnly
  · refine fun hlen i hlt => ⟨fun hc => ?_, ?_⟩
    · rw [hmem]
      exact hplanned.position hinv.1 hc hlen hlt
    · unfold ticket
      rw [hdisp, hplanned.kept]
      exact hplanned.mark hlen i hlt

end Sys2Proof.Machine
end
